-- ==== Sys2Proof/Word.lean ====
section
/-! DEFINITION. The word types of the VYR-1024W (registers are 32-bit dwords, R8, R417; memory is bytes,
R301) and the plainest arithmetic on them. -/

namespace Sys2Proof

/-- A register dword. -/
abbrev W32 := BitVec 32
/-- A byte of memory or of a record. -/
abbrev Byte := BitVec 8
/-- A 64-bit quantity, held in registers as a dword pair (R8). -/
abbrev W64 := BitVec 64
/-- A BAR0 byte offset: BAR0 is 64 MiB (R368). -/
abbrev Off := BitVec 26

/-- `⌈a / b⌉`. -/
def ceilDiv (a b : Nat) : Nat := (a + (b - 1)) / b

/-- Bits `[lo + w - 1 : lo]` of a number. -/
def bitsOf (x lo w : Nat) : Nat := x / 2 ^ lo % 2 ^ w

/-- Two's complement reading of the low `w` bits of `x`. -/
def signedOf (w x : Nat) : Int :=
  if x % 2 ^ w < 2 ^ (w - 1) then (x % 2 ^ w : Nat) else ((x % 2 ^ w : Nat) : Int) - (2 ^ w : Nat)

/-- The low `w` bits of an integer, as a number. -/
def unsignedOf (w : Nat) (x : Int) : Nat := (x % (2 ^ w : Nat)).toNat

/-- The bytes of `x`, least significant first. -/
def leBytes : Nat → Nat → List Byte
  | 0, _ => []
  | n + 1, x => BitVec.ofNat 8 x :: leBytes n (x / 256)

/-- The number that bytes spell, least significant first. -/
def ofLeBytes : List Byte → Nat
  | [] => 0
  | b :: bs => b.toNat + 256 * ofLeBytes bs

/-- The number that bytes spell, most significant first. -/
def ofBeBytes (bs : List Byte) : Nat := ofLeBytes bs.reverse

/-- The bytes of `x`, most significant first. -/
def beBytes (n x : Nat) : List Byte := (leBytes n x).reverse

end Sys2Proof
end

