-- ==== Sys2Proof/Syntax.lean ====
section
/-! DEFINITION. The commands and events of the VYR-1024W: one constructor per row of spec/opcode_table.json.
Operands carry what only the outside of the device decides: addresses and data the host sends, what pins,
converters, sensors and stored codewords show, and the fine part of an instant inside the present TCLK. `read` is an engine with the number of symbols in error in
what it reads, `readings` an interpolator's fine part with its raw reading, and `sums` the sums of a completed
calibration of CH_A and of CH_B, or none where the measurement falls back. -/

namespace Sys2Proof

/-- Engines E0 to E3 (R6). -/
abbrev Eng := Fin 4
/-- Pin banks B00 to B31 (R3). -/
abbrev BankIx := Fin 32
/-- Source-measure groups G00 to G15 (R5). -/
abbrev GroupIx := Fin 16
/-- Physical pin channels: 0 to 1,023, then the spares 1,024 to 1,055 (R4). -/
abbrev PhysPin := Fin 1056
/-- Physical SMCs: 0 to 255, then the spares 256 to 271 (R5). -/
abbrev PhysSmc := Fin 272
/-- Acquisition units AQ0 to AQ7 (R7). -/
abbrev UnitIx := Fin 8
/-- TIA measurements 0 to 63 (R197). -/
abbrev Meas := Fin 64
/-- Host rings 0 to 8 (R370). -/
abbrev Ring := Fin 9
/-- Trigger lines TRIG0 to TRIG7 (R230). -/
abbrev Line := Fin 8
/-- Token pools VT FT ST AT LT DT HT (R331). -/
abbrev Pool := Fin 7
/-- DRAM pairs DP0 to DP3 (R307). -/
abbrev PairIx := Fin 4
/-- DRAM ports P0 to P8 (R313). -/
abbrev Port := Fin 9

/-- A calibration bus: of a pin bank or of an SMC group (R266). -/
inductive Bus where
  | bank (b : BankIx)
  | group (g : GroupIx)
deriving DecidableEq, Repr

/-- Where a comparator's input lies with respect to its band (R157). -/
inductive Side where
  | below
  | inside
  | above
deriving DecidableEq, Repr

/-- Which supplies left their range (the rows of R396). -/
inductive Supply where
  | powerOnReset    -- VDD_AON, VDD_CORE or VDD_SRAM below its power-on reset threshold
  | core            -- VDD_CORE out of range above that threshold
  | other           -- VDD_SRAM out of range above that threshold; VDD_IO; VPE_P, VPE_N
  | smcSupply       -- VSMC_P, VSMC_N
  | pcieAnalog
  | dramPhy
deriving DecidableEq, Repr

/-- How a completion to a device read ended (R367). -/
inductive CplStatus where
  | success
  | unsupported
  | aborted
  | poisoned
deriving DecidableEq, Repr

/-- What an event in DORMANT is, for a wake (R415). -/
inductive WakeSource where
  | comparator (ch : PhysPin) (transition : Fin 4)
  | trigger (line : Line) (rising : Bool)
  | doorbell (ring : Ring) (value : W32)
  | graveFault
deriving DecidableEq, Repr

/-- A vector-stream descriptor as fetched from the host ring (R111). -/
structure StreamDesc where
  addr : W64
  vcount : W32
  seq : W32
  flags : Byte
  reservedZero : Bool     -- bytes 17 to 23 are zero
  tag : W64
deriving DecidableEq, Repr

/-- A ring 4 descriptor as fetched from the host ring (R377). -/
structure LoadDesc where
  hostAddr : W64
  devAddr : BitVec 48
  ctrl : Byte
  count : W32
  seq : W32
  ident : W64
deriving DecidableEq, Repr

/-- The rows of spec/opcode_table.json. -/
inductive Instr where
  -- host access to registers
  | registerWrite (addr : Off) (data : List W32) (be lastBe : BitVec 4)
  | maskedWrite (addr : Off) (value : W32)
  | undecodedAccess (write : Bool) (addr : Off) (be : BitVec 4)
  | poisonedWrite (bar : Fin 6) (addr : Off)
  | snapshotRead (addr : Off)
  | entrySnapshot (n : Eng) (shadow : Bool) (t : Fin 32) (p : Fin 256)
  | poolFreeRead (p : Pool)
  | gdValueWrite (addr : Off) (value : W32)
  | gdPendingExpiry (block : Byte)
  | pinHvEn (b : BankIx) (complement : W32)
  | smcHvEn (g : GroupIx) (complement : W32)
  | gang (g : GroupIx) (complement : W32)
  | spareDis (smc : Bool) (complement : W32)
  | ldgReset (complement : W32)
  | react (complement : W32)
  | factoryEnter (complement : W32)
  | nvmSectorErase (complement : W32)
  | nvmCopyErase (complement : W32)
  | nvmRead
  | nvmProgram
  | nvmCommandDone (ok : Bool)
  | mapCommit
  | heldStart (n : Eng)
  | disciplineToStamp (block : Byte)
  -- the Plain
  | refclkWindow (edges : Nat)
  | pllLock
  | pllLoss
  | refclkStep
  | plainCorrupt
  | refWarmChange (level : Bool)
  | warmSettleExpiry
  | arm
  | disarm
  | syncEdge (fine : BitVec 12)
  | epochLoad
  | epochMark (hi : W32)
  -- engines
  | start (n : Eng)
  | pause (n : Eng)
  | pauseLand (n : Eng)
  | resume (n : Eng)
  | abort (n : Eng)
  | abortAll
  | abortLand (n : Eng)
  | vectorIssue (read : Eng × Nat)
  | decisionPoint (n : Eng)
  | vectorStart (n : Eng)
  | programEnd (n : Eng)
  | holdBegin (n : Eng)
  | holdEnd (n : Eng)
  | holdLimitExpiry (n : Eng)
  | keepalivePlay (n : Eng)
  | idleVecPlay (n : Eng)
  | configWrite (n : Eng) (value : W32)
  | programLoadEnd (n : Eng)
  | cachePart (n : Eng) (value : W32)
  | streamDescriptor (n : Eng) (d : StreamDesc)
  | streamRefill (n : Eng) (line : List Byte) (bad : Bool)
  | flush (n : Eng)
  | flushComplete (n : Eng)
  | idleCommit (n : Eng)
  | stageWrite (n : Eng) (value : W32)
  | stageWriteComplete (n : Eng)
  | periodWrite (n : Eng) (t : Fin 32) (hi : W32)
  | siteDeskewWrite (n : Eng) (k : Fin 64) (value : W32)
  | tsetCommit (n : Eng)
  | originWrite (n : Eng) (hiHalf : Bool) (value : W32)
  -- pins and fail capture
  | edgePlace (ch : PhysPin)
  | strobeClose (ch : PhysPin)
  | compareResult (ch : PhysPin)
  | failRecordStore (read : Eng × Nat)
  | withholdingEnd (n : Eng)
  | runDrainComplete (n : Eng)
  | fcapCfgWrite (n : Eng) (value : W32)
  | failPartition (n : Eng) (value : W32)
  | dump (n : Eng)
  | dumpComplete (n : Eng)
  | supplyOutOfRange (which : Supply)
  | supplyReturn
  | pinConfigWrite (ch : PhysPin) (value : W32)
  | settleEnd (ch : PhysPin) (high low : Side)
  | comparatorTransition (ch : PhysPin) (low : Bool) (value : Bool) (readings : BitVec 12 × Nat)
  | lsPulse (groups : BitVec 8)
  | stampBufferTransfer (b : BankIx)
  -- TIA
  | tiaArm (k : Meas)
  | tiaStop (k : Meas)
  | tiaSetupEnd (k : Meas) (sums : Option ((Nat × Nat) × (Nat × Nat)))
  | tiaGateOpen (k : Meas)
  | tiaTimeout (k : Meas)
  | tdrRepetition (k : Meas) (reflection : Option Nat)
  | tiaResult (k : Meas)
  | resFifoPop (be : BitVec 4)
  | resSnapshot (k : Meas)
  -- source-measure channels
  | smcLatch (c : PhysSmc) (measured : BitVec 20)
  | slewStep (c : PhysSmc) (measured : BitVec 20)
  | ddsUpdate (c : PhysSmc)
  | conversion (c : PhysSmc) (v i : BitVec 18) (charge : Int)
  | clampEngage (c : PhysSmc) (engaged : Bool)
  | clampTimeout (c : PhysSmc)
  | outEnOn (c : PhysSmc)
  | outEnOff (c : PhysSmc)
  | switchClosed (c : PhysSmc)
  | switchOpened (c : PhysSmc)
  -- trigger lines
  | swPulse (lines : BitVec 8)
  | trigPulseEnd (line : Line)
  | contendCheck (line : Line) (received : Bool)
  | trigTransition (line : Line) (level : Bool) (fine : BitVec 12)
  -- acquisition
  | acqSample (u : UnitIx)
  | triggerJudge (u : UnitIx)
  | acqArm (u : UnitIx)
  | acqTrigger (u : UnitIx)
  | acqDisarm (u : UnitIx)
  | acqConfigWrite (u : UnitIx) (off : BitVec 8) (value : W32)
  | acqPartWrite (u : UnitIx) (value : W32)
  | segmentDelivery (u : UnitIx)
  -- calibration
  | referenceCheck (vref rref : Nat)
  | calTrefEdge
  | mirrorEnd (bus : Bus)
  | handover (b : BankIx)
  | overlapEnd (b : BankIx)
  | smcHandoverClose (g : GroupIx)
  | smcHandoverOpen (g : GroupIx)
  | passEnd (bus : Bus) (values : List Int) (responsive : Bool)
  | ageOverdue (bus : Bus)
  | constantWrite (addr : Off) (value : W32)
  | bandWrite (value : W32)
  -- ledger
  | recordArrival (path : Byte)
  | mergerRelease
  | flushTExpiry
  | ldgFlush
  | blockCloseDeferred
  | signingTick
  | signaturePlaced
  | signIntervalWrite (value : W32)
  | blockToDram (errors : Nat)
  | blockToHost
  | sealClose (ok : Bool)
  -- memory
  | portRequest (port : Port) (write : Bool) (addr : BitVec 40) (data : List Byte)
  | commandSlot (pair : PairIx)
  | readDataReturn (port : Port) (errors : Nat)
  | mr4Read (pair : PairIx) (rate : Fin 4) (tooHot : Bool)
  | driftCheck (pair : PairIx) (lanes : List (Bool × Bool × Bool × Bool × Bool))
  | retirementEnd
  | initSweepRow (pair : PairIx) (bank : Fin 16)
  | dramScrub (errors : Nat)
  | sramScrubRead (errors : Nat) (overtaken : Bool)
  -- tokens
  | tokenGrant (p : Pool) (h : Byte)
  | tokenAudit (selfError : Bool)
  | reconciliation
  | reconciliationComplete
  | minClr (pools : BitVec 7)
  -- faults
  | fc0Detection (detector : BitVec 16) (block : Byte) (master : Byte) (access : BitVec 4) (addr : W64) (detail : W32)
  | safeHoldBegin
  | fc1Detection (detector : BitVec 16) (block : Byte) (master : Byte) (access : BitVec 4) (addr : W64) (detail : W32)
  | resetPhaseEnd (block : Byte)
  | quietPeriodExpiry (block : Byte)
  | shadowEnd (block : Byte) (persisting : List (Byte × BitVec 16))
  | fecClear (cls : Fin 4)
  | inject (detector : BitVec 16) (block : Byte)
  | govTick (temps : List (BitVec 16)) (power : BitVec 16)
  | thermalHoldEnd
  -- host interface
  | doorbell (offset : BitVec 20) (value : W32) (be : BitVec 4)
  | ringEnable (r : Ring)
  | ringDisable (r : Ring)
  | skip (r : Ring)
  | retry (r : Ring)
  | pointerWriteback (r : Ring)
  | program (d : LoadDesc) (words : List (BitVec 176))
  | pinned (d : LoadDesc) (bytes : List Byte)
  | dramWrite (d : LoadDesc) (bytes : List Byte) (ok : Bool)
  | dramRead (d : LoadDesc) (badLines : List Nat)
  | outboundBlock (r : Ring)
  | hdmaFlushExpiry (r : Ring)
  | completionReceived (r : Ring) (status : CplStatus)
  | completionTimeout (r : Ring)
  | msixMessage (v : Fin 64)
  | msixTableWrite (v : Fin 64) (dword : Fin 4) (value : W32)
  | pciConfigWrite (memEnable busMaster d3hot : Bool)
  | aspmL1Entry
  | hotReset (perst : Bool)
  | linkLoss
  -- start-up and power
  | powerOnResetRelease (testMode octal : Bool) (rowErr : BitVec 4) (readErrA readErrB : Bool)
  | imageApply
  | dramVerify (bins : List (BitVec 4))
  | patchLoad
  | caltabLoad
  | ready
  | dormant
  | dormantEntryDone
  | wakeEvent (source : WakeSource)
  | wakeComplete
  | tiaGateEnd (k : Meas)
  | linkUp (width speed : BitVec 4)
  | passStart (bus : Bus)
  | dramPowerDown (pair : PairIx)
  | recovWindowExpiry (block : Byte)
deriving DecidableEq, Repr

end Sys2Proof
end

