-- ==== Sys2Proof/Config.lean ====
section
/-! DEFINITION. What one part fixes and what the spec leaves open: constants without a body. Nothing can be proved
of their values, so every claim holds whatever they are. -/

namespace Sys2Proof

/-- The value the device shows where the spec leaves a value open; the argument is the count of such values
drawn so far (State's own counter), so no two draws are tied to each other. -/
opaque Config.freeValue : Nat → Nat

/-- LDG's random source: the 64-bit CHAIN_ID drawn at the start of the k-th chain (R282). -/
opaque Config.chainDraw : Nat → BitVec 64

/-- The OTP value of a register that takes its value from OTP, by its BAR0 address (R290, R422). -/
opaque Config.otp : Nat → BitVec 32

/-- The junction sensor nearest to bank `b` (R193). -/
opaque Config.bankSensor : Nat → Fin 16

/-- The fine part that an interpolator's raw reading (third argument) stands for in stream class (R193): from its factory
offset and gain at the three table temperatures (temperature, offset, gain) and the junction reading of the nearest
sensor. The spec gives neither the unit of offset and gain nor the formula. -/
opaque Config.streamFine : List (Int × Int × Int) → Int → Nat → BitVec 12

/-- OTP bit SIG_REQ (R402). -/
opaque Config.sigReq : Bool

/-- The housekeeping ROM's level, HKS.VERSION.ROM_LEVEL. -/
opaque Config.romLevel : BitVec 16

/-- AES-256-GCM decryption under the OTP family key (R409): initialisation vector, additional data, ciphertext and tag;
none where the tag does not match. -/
opaque Config.gcmOpen : List (BitVec 8) → List (BitVec 8) → List (BitVec 8) → List (BitVec 8) → Option (List (BitVec 8))

/-- The ECDSA P-384 signature r ‖ s of a message under the part's ledger key (R288, R290): 96 bytes, by index. -/
opaque Config.ledgerSign : List (BitVec 8) → Nat → BitVec 8

/-- Whether an ECDSA P-384 signature (second argument) over a message (third argument) verifies under a public key
(first argument) (R408, R409). -/
opaque Config.ecdsaVerify : List (BitVec 8) → List (BitVec 8) → List (BitVec 8) → Bool

end Sys2Proof
end

