-- ==== Sys2Proof/Machine/Tab.lean ====
section
/-! DEFINITION. Sparse tables: how memories, the register file and the instances of a block are held.
A table lists (key, value) pairs with strictly rising keys and no entry equal to what an unlisted key
reads as, so equal tables are equal data. -/

namespace Sys2Proof.Machine

/-- A sparse table by a natural key. What an unlisted key reads as is given at each use. -/
abbrev Tab (α : Type) := List (Nat × α)

/-- The value at key `k`: the listed one, or what an unlisted key reads as. -/
def Tab.get {α : Type} (dflt : Nat → α) : Tab α → Nat → α
  | [], k => dflt k
  | (j, v) :: t, k => if k = j then v else if k < j then dflt k else Tab.get dflt t k

/-- The table with no entry at `k` (keys rising). -/
def Tab.erase {α : Type} : Tab α → Nat → Tab α
  | [], _ => []
  | (j, v) :: t, k => if k = j then t else if k < j then (j, v) :: t else (j, v) :: Tab.erase t k

/-- The table with `v` listed at `k` (keys rising). -/
def Tab.insert {α : Type} : Tab α → Nat → α → Tab α
  | [], k, v => [(k, v)]
  | (j, w) :: t, k, v =>
    if k = j then (k, v) :: t else if k < j then (k, v) :: (j, w) :: t else (j, w) :: Tab.insert t k v

/-- Write `v` at `k`, keeping the canonical form: writing what an unlisted key reads as removes the entry. -/
def Tab.set {α : Type} [DecidableEq α] (dflt : Nat → α) (t : Tab α) (k : Nat) (v : α) : Tab α :=
  if v = dflt k then t.erase k else t.insert k v

/-- Keys strictly above `lo`, rising, and no entry equal to its default. -/
def Tab.wfAbove {α : Type} [DecidableEq α] (dflt : Nat → α) : Option Nat → Tab α → Bool
  | _, [] => true
  | lo, (k, v) :: t =>
    (match lo with | none => true | some l => decide (l < k)) && decide (v ≠ dflt k) &&
      Tab.wfAbove dflt (some k) t

/-- The canonical form. -/
def Tab.wf {α : Type} [DecidableEq α] (dflt : Nat → α) (t : Tab α) : Bool := Tab.wfAbove dflt none t

/-- Apply `f` at the keys of a list, first to last. -/
def foldKeys {σ : Type} (f : σ → Nat → σ) : List Nat → σ → σ
  | [], s => s
  | k :: ks, s => foldKeys f ks (f s k)

end Sys2Proof.Machine
end

