-- ==== Sys2Proof/Machine/RegMap.lean ====
section
/-! DEFINITION. The register map (R417 to R423): the BAR0 windows, every implemented register with its access
types, its kept fields and its reset value, and a name for every field. -/

namespace Sys2Proof.Machine

/-- A register field: the BAR0 address of its dword, its lowest bit and its width. A width above 32 names a
dword pair (R8). -/
structure Fld where
  addr : Nat
  lo : Nat
  w : Nat
deriving DecidableEq, Repr

/-- How a register treats a write (R9, R387). -/
inductive RegKind where
  | plain     -- every field is RW or RO
  | cmd       -- some field is W1C or W1S
  | gd        -- guarded pair
  | mw        -- masked write
  | wo        -- write-only
  | fifo      -- FIFO pop register
deriving DecidableEq, Repr

/-- The reset column: a value, or one of the resets that depend on the index. -/
inductive ResetVal where
  | val (x : Nat)
  | poolSize
  | vecMod
  | portTarget
  | pinLevel
  | pinCarrier
  | smcCarrier
  | monThr
  | sine
deriving DecidableEq, Repr

/-- A register, or a family of registers with up to two strides. -/
structure RegRow where
  off : Nat
  s1 : Nat
  n1 : Nat
  s2 : Nat
  n2 : Nat
  rw : Nat          -- bits a write replaces (RW; GD once completed; MW flags)
  w1c : Nat
  w1s : Nat
  kept : Nat        -- bits an FC1 reset of the block keeps (R11)
  fields : Nat      -- bits that are not reserved
  kind : RegKind
  reset : ResetVal
deriving DecidableEq, Repr

/-- A window of R417. -/
structure Window where
  base : Nat
  stride : Nat      -- between the instances of a per-instance window
  count : Nat
  size : Nat
  impl : Nat
  period : Nat
  block : Nat       -- block code of the first one (R277)
  blockStep : Nat
  aclk : Bool       -- registers in ACLK
deriving DecidableEq, Repr

/-- Registers of GLB, part 0. -/
def rowsGLBPart0 : List RegRow := [
  ⟨0x0, 0x0, 1, 0x0, 1, 0x0, 0x0, 0x0, 0xffffffff, 0xffffffff, .plain, .val 0x56591024⟩,
  ⟨0x4, 0x0, 1, 0x0, 1, 0x0, 0x0, 0x0, 0xff, 0xff, .plain, .val 0x0⟩,
  ⟨0x8, 0x0, 1, 0x0, 1, 0x0, 0x0, 0x0, 0xffffffff, 0xffffffff, .plain, .val 0x0⟩,
  ⟨0xc, 0x0, 1, 0x0, 1, 0x0, 0x0, 0x0, 0xffffffff, 0xffffffff, .plain, .val 0x0⟩,
  ⟨0x10, 0x0, 1, 0x0, 1, 0x0, 0x0, 0x0, 0x0, 0xf7, .plain, .val 0x10⟩,
  ⟨0x14, 0x0, 1, 0x0, 1, 0x0, 0x0, 0x1, 0x0, 0xf1, .cmd, .val 0x0⟩,
  ⟨0x18, 0x0, 1, 0x0, 1, 0xffff03, 0x0, 0x0, 0x0, 0xffff03, .plain, .val 0x1⟩,
  ⟨0x1c, 0x0, 1, 0x0, 1, 0x0, 0x0, 0x0, 0x0, 0x7ff007f, .plain, .val 0x0⟩,
  ⟨0x20, 0x0, 1, 0x0, 1, 0x0, 0x0, 0x0, 0x0, 0xffffffff, .plain, .val 0x0⟩,
  ⟨0x24, 0x0, 1, 0x0, 1, 0x0, 0x0, 0x0, 0x0, 0xffffffff, .plain, .val 0x0⟩,
  ⟨0x28, 0x0, 1, 0x0, 1, 0x0, 0x0, 0x1, 0x0, 0x1, .cmd, .val 0x0⟩,
  ⟨0x2c, 0x0, 1, 0x0, 1, 0x0, 0x0, 0x0, 0x0, 0x3, .plain, .val 0x0⟩,
  ⟨0x40, 0x4, 2, 0x0, 1, 0xffffffff, 0x0, 0x0, 0x0, 0xffffffff, .plain, .val 0x0⟩,
  ⟨0x48, 0x4, 4, 0x0, 1, 0xffffffff, 0x0, 0x0, 0x0, 0xffffffff, .plain, .val 0x0⟩,
  ⟨0x58, 0x0, 1, 0x0, 1, 0x0, 0x0, 0x1, 0x0, 0x1, .cmd, .val 0x0⟩,
  ⟨0x5c, 0x0, 1, 0x0, 1, 0x0, 0x0, 0x0, 0x0, 0x3ff00f1, .plain, .val 0x0⟩,
  ⟨0x60, 0x0, 1, 0x0, 1, 0x0, 0x0, 0xff, 0x0, 0xff, .cmd, .val 0x0⟩,
  ⟨0x100, 0x0, 1, 0x0, 1, 0x0, 0x0, 0x0, 0xffffffff, 0xffffffff, .plain, .val 0x0⟩,
  ⟨0x104, 0x0, 1, 0x0, 1, 0x0, 0x0, 0x0, 0xf03, 0xf03, .plain, .val 0x0⟩,
  ⟨0x110, 0x4, 12, 0x0, 1, 0x0, 0x0, 0x0, 0xffffffff, 0xffffffff, .plain, .val 0x0⟩]

/-- Registers of GLB, part 1. -/
def rowsGLBPart1 : List RegRow := [
  ⟨0x140, 0x4, 12, 0x0, 1, 0x0, 0x0, 0x0, 0xffffffff, 0xffffffff, .plain, .val 0x0⟩]

/-- Registers of GLB. -/
def rowsGLB : List RegRow := rowsGLBPart0 ++ rowsGLBPart1

/-- Registers of PLN. -/
def rowsPLN : List RegRow := [
  ⟨0x0, 0x0, 1, 0x0, 1, 0x0, 0x0, 0x0, 0xffffffff, 0xffffffff, .plain, .val 0x0⟩,
  ⟨0x4, 0x0, 1, 0x0, 1, 0x0, 0x0, 0x0, 0xffffffff, 0xffffffff, .plain, .val 0x0⟩,
  ⟨0x8, 0x0, 1, 0x0, 1, 0x0, 0x0, 0x0, 0x0, 0x3f33, .plain, .val 0x0⟩,
  ⟨0x10, 0x0, 1, 0x0, 1, 0x4, 0x0, 0x3, 0x0, 0xf07, .cmd, .val 0x4⟩,
  ⟨0x18, 0x0, 1, 0x0, 1, 0xffffffff, 0x0, 0x0, 0xffffffff, 0xffffffff, .plain, .val 0x0⟩,
  ⟨0x1c, 0x0, 1, 0x0, 1, 0xffffffff, 0x0, 0x0, 0xffffffff, 0xffffffff, .plain, .val 0x0⟩,
  ⟨0x20, 0x0, 1, 0x0, 1, 0xffff, 0x0, 0x0, 0xffff, 0xffff, .plain, .val 0x0⟩,
  ⟨0x24, 0x0, 1, 0x0, 1, 0xffffffff, 0x0, 0x0, 0xffffffff, 0xffffffff, .plain, .val 0x5f5e1000⟩,
  ⟨0x28, 0x0, 1, 0x0, 1, 0xfff, 0x0, 0x0, 0xfff, 0xfff, .plain, .val 0x83⟩,
  ⟨0x2c, 0x0, 1, 0x0, 1, 0x0, 0x0, 0x0, 0xfff, 0xfff, .plain, .val 0x0⟩,
  ⟨0x30, 0x0, 1, 0x0, 1, 0x0, 0x0, 0x0, 0x0, 0xffffffff, .plain, .val 0x0⟩,
  ⟨0x34, 0x0, 1, 0x0, 1, 0x0, 0x0, 0x0, 0x0, 0xffffffff, .plain, .val 0x0⟩,
  ⟨0x38, 0x0, 1, 0x0, 1, 0x0, 0x0, 0x0, 0x0, 0xfff, .plain, .val 0x0⟩,
  ⟨0x3c, 0x0, 1, 0x0, 1, 0x0, 0x0, 0x0, 0x0, 0xffffffff, .plain, .val 0x0⟩,
  ⟨0x40, 0x0, 1, 0x0, 1, 0x0, 0x0, 0x0, 0xffffffff, 0xffffffff, .plain, .val 0x0⟩,
  ⟨0x44, 0x0, 1, 0x0, 1, 0x0, 0x0, 0x0, 0xffffffff, 0xffffffff, .plain, .val 0x0⟩,
  ⟨0x48, 0x0, 1, 0x0, 1, 0xffffffff, 0x0, 0x0, 0x0, 0xffffffff, .plain, .val 0xea60⟩,
  ⟨0x50, 0x0, 1, 0x0, 1, 0xffffffff, 0x0, 0x0, 0x0, 0xffffffff, .plain, .val 0x0⟩,
  ⟨0x54, 0x0, 1, 0x0, 1, 0xffffffff, 0x0, 0x0, 0x0, 0xffffffff, .plain, .val 0x0⟩]

/-- Registers of FLT. -/
def rowsFLT : List RegRow := [
  ⟨0x0, 0x0, 1, 0x0, 1, 0x0, 0x0, 0x0, 0x0, 0xffff, .plain, .val 0x0⟩,
  ⟨0x10, 0x0, 1, 0x0, 1, 0xffffffff, 0x0, 0x0, 0x0, 0xffffffff, .plain, .val 0xfa⟩,
  ⟨0x14, 0x0, 1, 0x0, 1, 0xffffffff, 0x0, 0x0, 0x0, 0xffffffff, .plain, .val 0x3⟩,
  ⟨0x18, 0x0, 1, 0x0, 1, 0xffffffff, 0x0, 0x0, 0x0, 0xffffffff, .plain, .val 0xe10⟩,
  ⟨0x20, 0x0, 1, 0x0, 1, 0x7, 0x0, 0x0, 0x0, 0x7, .gd, .val 0x0⟩,
  ⟨0x28, 0x0, 1, 0x0, 1, 0x1, 0x0, 0x0, 0x0, 0x1, .gd, .val 0x0⟩,
  ⟨0x30, 0x0, 1, 0x0, 1, 0xffffff, 0x0, 0x80000000, 0x0, 0x80ffffff, .cmd, .val 0x0⟩,
  ⟨0x38, 0x0, 1, 0x0, 1, 0x0, 0x0, 0x0, 0x0, 0xffffffff, .plain, .val 0x0⟩,
  ⟨0x3c, 0x0, 1, 0x0, 1, 0x0, 0x0, 0x0, 0x0, 0xffffffff, .plain, .val 0x0⟩,
  ⟨0x100, 0x20, 4, 0x0, 1, 0x0, 0x0, 0x0, 0x0, 0xffffffff, .plain, .val 0xff000000⟩,
  ⟨0x104, 0x20, 4, 0x0, 1, 0x0, 0x0, 0x0, 0x0, 0xffffffff, .plain, .val 0x0⟩,
  ⟨0x108, 0x20, 4, 0x0, 1, 0x0, 0x0, 0x0, 0x0, 0xffffffff, .plain, .val 0x0⟩,
  ⟨0x10c, 0x20, 4, 0x0, 1, 0x0, 0x0, 0x0, 0x0, 0xffffffff, .plain, .val 0x0⟩,
  ⟨0x110, 0x20, 4, 0x0, 1, 0x0, 0x0, 0x0, 0x0, 0xffffffff, .plain, .val 0x0⟩,
  ⟨0x114, 0x20, 4, 0x0, 1, 0x0, 0x0, 0x0, 0x0, 0xffffffff, .plain, .val 0x0⟩,
  ⟨0x118, 0x20, 4, 0x0, 1, 0x0, 0x100, 0x0, 0x0, 0x10f, .cmd, .val 0x0⟩,
  ⟨0x400, 0x4, 84, 0x0, 1, 0x0, 0x0, 0x0, 0x0, 0xffffff03, .plain, .val 0x0⟩]

/-- Registers of GOV. -/
def rowsGOV : List RegRow := [
  ⟨0x0, 0x4, 16, 0x0, 1, 0x0, 0x0, 0x0, 0x0, 0xffff, .plain, .val 0x0⟩,
  ⟨0x40, 0x0, 1, 0x0, 1, 0xff, 0x0, 0x0, 0xff, 0xff, .plain, .val 0x64⟩,
  ⟨0x44, 0x0, 1, 0x0, 1, 0xff, 0x0, 0x0, 0xff, 0xff, .plain, .val 0x87⟩,
  ⟨0x48, 0x0, 1, 0x0, 1, 0x0, 0x0, 0x0, 0x0, 0xffff, .plain, .val 0x0⟩,
  ⟨0x4c, 0x0, 1, 0x0, 1, 0xffff, 0x0, 0x0, 0xffff, 0xffff, .plain, .val 0xa⟩,
  ⟨0x50, 0x0, 1, 0x0, 1, 0x0, 0x0, 0x0, 0x0, 0x1f, .plain, .val 0x0⟩]

/-- Registers of BOOT. -/
def rowsBOOT : List RegRow := [
  ⟨0x0, 0x0, 1, 0x0, 1, 0x0, 0x0, 0x0, 0x1000, 0x1fff, .plain, .val 0x0⟩,
  ⟨0x4, 0x0, 1, 0x0, 1, 0x0, 0x0, 0x0, 0x0, 0xffffffff, .plain, .val 0x0⟩,
  ⟨0x8, 0x0, 1, 0x0, 1, 0x0, 0x0, 0x0, 0x0, 0xffffffff, .plain, .val 0x0⟩,
  ⟨0xc, 0x0, 1, 0x0, 1, 0x0, 0x0, 0x0, 0x0, 0xffffffff, .plain, .val 0x0⟩,
  ⟨0x10, 0x0, 1, 0x0, 1, 0x3ffffff, 0x0, 0x0, 0x0, 0x3ffffff, .plain, .val 0x0⟩,
  ⟨0x14, 0x0, 1, 0x0, 1, 0x3, 0x0, 0x80000000, 0x0, 0x80000003, .cmd, .val 0x0⟩,
  ⟨0x18, 0x0, 1, 0x0, 1, 0x0, 0x0, 0x0, 0x0, 0xf1, .plain, .val 0x0⟩,
  ⟨0x20, 0x0, 1, 0x0, 1, 0x3, 0x0, 0x0, 0x0, 0x3, .gd, .val 0x0⟩,
  ⟨0x100, 0x4, 64, 0x0, 1, 0xffffffff, 0x0, 0x0, 0x0, 0xffffffff, .plain, .val 0x0⟩]

/-- Registers of LDG, part 0. -/
def rowsLDGPart0 : List RegRow := [
  ⟨0x0, 0x0, 1, 0x0, 1, 0x0, 0x0, 0x1, 0x0, 0x1, .cmd, .val 0x0⟩,
  ⟨0x4, 0x0, 1, 0x0, 1, 0xffffffff, 0x0, 0x0, 0xffffffff, 0xffffffff, .plain, .val 0x3e8⟩,
  ⟨0x8, 0x0, 1, 0x0, 1, 0xffff, 0x0, 0x0, 0xffff, 0xffff, .plain, .val 0x1f4⟩,
  ⟨0x10, 0x0, 1, 0x0, 1, 0xffffffff, 0x0, 0x0, 0xffffffff, 0xffffffff, .plain, .val 0x0⟩,
  ⟨0x14, 0x0, 1, 0x0, 1, 0xffffffff, 0x0, 0x0, 0xffffffff, 0xffffffff, .plain, .val 0x0⟩,
  ⟨0x18, 0x0, 1, 0x0, 1, 0xffff, 0x0, 0x0, 0xffff, 0xffff, .plain, .val 0x400⟩,
  ⟨0x1c, 0x0, 1, 0x0, 1, 0x0, 0x0, 0x0, 0x0, 0xffffffff, .plain, .val 0x0⟩,
  ⟨0x20, 0x0, 1, 0x0, 1, 0x0, 0x0, 0x0, 0x18, 0x3ff001f, .plain, .val 0x2000000⟩,
  ⟨0x28, 0x0, 1, 0x0, 1, 0x0, 0x0, 0x0, 0xffffffff, 0xffffffff, .plain, .val 0x0⟩,
  ⟨0x2c, 0x0, 1, 0x0, 1, 0x0, 0x0, 0x0, 0xffffffff, 0xffffffff, .plain, .val 0x0⟩,
  ⟨0x30, 0x0, 1, 0x0, 1, 0x0, 0x0, 0x0, 0xffffffff, 0xffffffff, .plain, .val 0x0⟩,
  ⟨0x34, 0x0, 1, 0x0, 1, 0x0, 0x0, 0x0, 0xffffffff, 0xffffffff, .plain, .val 0x0⟩,
  ⟨0x38, 0x0, 1, 0x0, 1, 0x0, 0x0, 0x0, 0xffffffff, 0xffffffff, .plain, .val 0x0⟩,
  ⟨0x3c, 0x0, 1, 0x0, 1, 0x0, 0x0, 0x0, 0xffffffff, 0xffffffff, .plain, .val 0x0⟩,
  ⟨0x40, 0x0, 1, 0x0, 1, 0xffffffff, 0x0, 0x0, 0xffffffff, 0xffffffff, .plain, .val 0x0⟩,
  ⟨0x44, 0x0, 1, 0x0, 1, 0xffffffff, 0x0, 0x0, 0xffffffff, 0xffffffff, .plain, .val 0x0⟩,
  ⟨0x48, 0x0, 1, 0x0, 1, 0xffffffff, 0x0, 0x0, 0xffffffff, 0xffffffff, .plain, .val 0x0⟩,
  ⟨0x4c, 0x0, 1, 0x0, 1, 0xffffffff, 0x0, 0x0, 0xffffffff, 0xffffffff, .plain, .val 0x0⟩,
  ⟨0x50, 0x0, 1, 0x0, 1, 0x1, 0x0, 0x0, 0x0, 0x1, .gd, .val 0x0⟩,
  ⟨0x58, 0x0, 1, 0x0, 1, 0x0, 0x0, 0x0, 0x0, 0xf, .plain, .val 0x0⟩]

/-- Registers of LDG, part 1. -/
def rowsLDGPart1 : List RegRow := [
  ⟨0x60, 0x4, 8, 0x0, 1, 0x0, 0x0, 0x0, 0xffffffff, 0xffffffff, .plain, .val 0x0⟩,
  ⟨0x80, 0x0, 1, 0x0, 1, 0x0, 0x0, 0x0, 0xfff, 0xfff, .plain, .val 0x0⟩,
  ⟨0x100, 0x4, 24, 0x0, 1, 0x0, 0x0, 0x0, 0xffffffff, 0xffffffff, .plain, .val 0x0⟩,
  ⟨0x1000, 0x4, 512, 0x0, 1, 0x0, 0x0, 0x0, 0xffffffff, 0xffffffff, .plain, .val 0x0⟩,
  ⟨0x8000, 0x4, 8192, 0x0, 1, 0x0, 0x0, 0x0, 0x0, 0xffffffff, .plain, .val 0x0⟩]

/-- Registers of LDG. -/
def rowsLDG : List RegRow := rowsLDGPart0 ++ rowsLDGPart1

/-- Registers of TOK. -/
def rowsTOK : List RegRow := [
  ⟨0x0, 0x0, 1, 0x0, 1, 0x0, 0x0, 0x0, 0x0, 0x7f7f, .plain, .val 0x7f⟩,
  ⟨0x4, 0x0, 1, 0x0, 1, 0x0, 0x0, 0x7f, 0x0, 0x7f, .cmd, .val 0x0⟩,
  ⟨0x8, 0x0, 1, 0x0, 1, 0xffffffff, 0x0, 0x0, 0x0, 0xffffffff, .plain, .val 0x0⟩,
  ⟨0xc, 0x0, 1, 0x0, 1, 0xffffffff, 0x0, 0x0, 0x0, 0xffffffff, .plain, .val 0x0⟩,
  ⟨0x100, 0x20, 7, 0x0, 1, 0x0, 0x0, 0x0, 0x0, 0xffffffff, .plain, .poolSize⟩,
  ⟨0x104, 0x20, 7, 0x0, 1, 0x0, 0x0, 0x0, 0x0, 0xffffffff, .plain, .poolSize⟩,
  ⟨0x108, 0x20, 7, 0x0, 1, 0x0, 0x0, 0x0, 0x0, 0xffffffff, .plain, .val 0x0⟩,
  ⟨0x10c, 0x20, 7, 0x0, 1, 0x0, 0x0, 0x0, 0x0, 0xffffffff, .plain, .val 0x0⟩,
  ⟨0x110, 0x20, 7, 0x0, 1, 0x0, 0x0, 0x0, 0x0, 0xffffffff, .plain, .poolSize⟩,
  ⟨0x114, 0x20, 7, 0x0, 1, 0xffffffff, 0x0, 0x0, 0x0, 0xffffffff, .plain, .val 0x0⟩,
  ⟨0x118, 0x20, 7, 0x0, 1, 0xffffffff, 0x0, 0x0, 0x0, 0xffffffff, .plain, .val 0x0⟩,
  ⟨0x1000, 0x200, 7, 0x4, 80, 0x0, 0x0, 0x0, 0x0, 0xffffffff, .plain, .val 0x0⟩]

/-- Registers of HDMA. -/
def rowsHDMA : List RegRow := [
  ⟨0x0, 0x0, 1, 0x0, 1, 0xffffffff, 0x0, 0x0, 0xffffffff, 0xffffffff, .plain, .val 0x0⟩,
  ⟨0x4, 0x0, 1, 0x0, 1, 0xffffffff, 0x0, 0x0, 0xffffffff, 0xffffffff, .plain, .val 0x0⟩,
  ⟨0x8, 0x0, 1, 0x0, 1, 0xffff, 0x0, 0x0, 0xffff, 0xffff, .plain, .val 0xc8⟩,
  ⟨0xc, 0x0, 1, 0x0, 1, 0xffffffff, 0x0, 0x0, 0xffffffff, 0xffffffff, .plain, .val 0x0⟩,
  ⟨0x10, 0x0, 1, 0x0, 1, 0x0, 0x0, 0x0, 0xffff03ff, 0xffff03ff, .plain, .val 0x0⟩,
  ⟨0x100, 0x40, 9, 0x0, 1, 0xffffffff, 0x0, 0x0, 0xffffffff, 0xffffffff, .plain, .val 0x0⟩,
  ⟨0x104, 0x40, 9, 0x0, 1, 0xffffffff, 0x0, 0x0, 0xffffffff, 0xffffffff, .plain, .val 0x0⟩,
  ⟨0x108, 0x40, 9, 0x0, 1, 0x1ffff, 0x0, 0x0, 0x1ffff, 0x1ffff, .plain, .val 0x400⟩,
  ⟨0x10c, 0x40, 9, 0x0, 1, 0x1, 0x0, 0x6, 0x1, 0x7, .cmd, .val 0x0⟩,
  ⟨0x110, 0x40, 9, 0x0, 1, 0x0, 0x0, 0x0, 0xffffffff, 0xffffffff, .plain, .val 0x0⟩,
  ⟨0x114, 0x40, 9, 0x0, 1, 0x0, 0x0, 0x0, 0xffffffff, 0xffffffff, .plain, .val 0x0⟩,
  ⟨0x118, 0x40, 9, 0x0, 1, 0x0, 0x8, 0x0, 0xe, 0xf, .cmd, .val 0x0⟩,
  ⟨0x400, 0x4, 64, 0x0, 1, 0xffff, 0x0, 0x0, 0xffff, 0xffff, .plain, .vecMod⟩]

/-- Registers of DRC, part 0. -/
def rowsDRCPart0 : List RegRow := [
  ⟨0x0, 0x0, 1, 0x0, 1, 0xffff007f, 0x0, 0x0, 0xffff003f, 0xffff007f, .plain, .val 0x64002a⟩,
  ⟨0x4, 0x0, 1, 0x0, 1, 0x0, 0x0, 0x0, 0x4ff3, 0x7ff3, .plain, .val 0x0⟩,
  ⟨0x8, 0x0, 1, 0x0, 1, 0x0, 0x0, 0x0, 0xffffffff, 0xffffffff, .plain, .val 0x0⟩,
  ⟨0xc, 0x0, 1, 0x0, 1, 0x0, 0x0, 0x0, 0xffffffff, 0xffffffff, .plain, .val 0x0⟩,
  ⟨0x10, 0x4, 9, 0x0, 1, 0xf, 0x0, 0x0, 0xf, 0xf, .plain, .val 0xf⟩,
  ⟨0x40, 0x4, 9, 0x0, 1, 0xffff, 0x0, 0x0, 0xffff, 0xffff, .plain, .portTarget⟩,
  ⟨0x80, 0x4, 9, 0x0, 1, 0xffffffff, 0x0, 0x0, 0xffffffff, 0xffffffff, .plain, .val 0x0⟩,
  ⟨0xc0, 0x4, 9, 0x0, 1, 0xffffffff, 0x0, 0x0, 0xffffffff, 0xffffffff, .plain, .val 0x0⟩,
  ⟨0x100, 0x4, 4, 0x0, 1, 0xffff0000, 0x0, 0x0, 0x0, 0xffff0007, .plain, .val 0x1⟩,
  ⟨0x110, 0x0, 1, 0x0, 1, 0xffffffff, 0x0, 0x0, 0xffffffff, 0xffffffff, .plain, .val 0x0⟩,
  ⟨0x120, 0x0, 1, 0x0, 1, 0xffffffff, 0x0, 0x0, 0xffffffff, 0xffffffff, .plain, .val 0xe10⟩,
  ⟨0x124, 0x0, 1, 0x0, 1, 0xffffffff, 0x0, 0x0, 0xffffffff, 0xffffffff, .plain, .val 0x0⟩,
  ⟨0x128, 0x0, 1, 0x0, 1, 0xffffffff, 0x0, 0x0, 0xffffffff, 0xffffffff, .plain, .val 0x0⟩,
  ⟨0x12c, 0x0, 1, 0x0, 1, 0xffffffff, 0x0, 0x0, 0xffffffff, 0xffffffff, .plain, .val 0x0⟩,
  ⟨0x130, 0x0, 1, 0x0, 1, 0xffff003f, 0x0, 0x0, 0xffff003f, 0xffff003f, .plain, .val 0x640006⟩,
  ⟨0x138, 0x0, 1, 0x0, 1, 0x0, 0x0, 0x0, 0xffffffff, 0xffffffff, .plain, .val 0x0⟩,
  ⟨0x13c, 0x0, 1, 0x0, 1, 0x0, 0x0, 0x0, 0xffffffff, 0xffffffff, .plain, .val 0x0⟩,
  ⟨0x1000, 0x100, 8, 0x0, 1, 0x3fff, 0x0, 0x0, 0x0, 0x3fff, .plain, .val 0x0⟩,
  ⟨0x1004, 0x100, 8, 0x0, 1, 0x7f, 0x0, 0x0, 0x0, 0x7f, .plain, .val 0x0⟩,
  ⟨0x1040, 0x100, 8, 0x40, 2, 0x3fff, 0x0, 0x0, 0x0, 0x3fff, .plain, .val 0x0⟩]

/-- Registers of DRC, part 1. -/
def rowsDRCPart1 : List RegRow := [
  ⟨0x1044, 0x100, 8, 0x40, 2, 0x3fff, 0x0, 0x0, 0x0, 0x3fff, .plain, .val 0x0⟩,
  ⟨0x1048, 0x100, 8, 0x40, 2, 0x7f, 0x0, 0x0, 0x0, 0x7f, .plain, .val 0x0⟩,
  ⟨0x1050, 0x100, 8, 0x40, 2, 0x3f3f3f3f, 0x0, 0x0, 0x0, 0x3f3f3f3f, .plain, .val 0x0⟩,
  ⟨0x1054, 0x100, 8, 0x40, 2, 0x3f3f3f3f, 0x0, 0x0, 0x0, 0x3f3f3f3f, .plain, .val 0x0⟩,
  ⟨0x1058, 0x100, 8, 0x40, 2, 0x3f3f3f3f, 0x0, 0x0, 0x0, 0x3f3f3f3f, .plain, .val 0x0⟩,
  ⟨0x105c, 0x100, 8, 0x40, 2, 0x3f3f3f3f, 0x0, 0x0, 0x0, 0x3f3f3f3f, .plain, .val 0x0⟩,
  ⟨0x1060, 0x100, 8, 0x40, 2, 0x3f3f, 0x0, 0x0, 0x0, 0x3f3f, .plain, .val 0x0⟩]

/-- Registers of DRC. -/
def rowsDRC : List RegRow := rowsDRCPart0 ++ rowsDRCPart1

/-- Registers of TRG. -/
def rowsTRG : List RegRow := [
  ⟨0x0, 0x0, 1, 0x0, 1, 0xff, 0x0, 0x0, 0xff, 0xff, .plain, .val 0x0⟩,
  ⟨0x4, 0x0, 1, 0x0, 1, 0x0, 0x0, 0xff, 0x0, 0xff, .cmd, .val 0x0⟩,
  ⟨0x8, 0x0, 1, 0x0, 1, 0x0, 0xff0000, 0x0, 0x0, 0xffffff, .cmd, .val 0x0⟩,
  ⟨0x10, 0x4, 8, 0x0, 1, 0xffff, 0x0, 0x0, 0xffff, 0xffff, .plain, .val 0x10⟩,
  ⟨0x30, 0x4, 8, 0x0, 1, 0xffff, 0x0, 0x0, 0xffff, 0xffff, .plain, .val 0x0⟩,
  ⟨0x50, 0x0, 1, 0x0, 1, 0xffffffff, 0x0, 0x0, 0xffffffff, 0xffffffff, .plain, .val 0x0⟩]

/-- Registers of TIA, part 0. -/
def rowsTIAPart0 : List RegRow := [
  ⟨0x0, 0x0, 1, 0x0, 1, 0xffffffff, 0x0, 0x0, 0xffffffff, 0xffffffff, .plain, .val 0x3e8⟩,
  ⟨0x8, 0x0, 1, 0x0, 1, 0x0, 0x0, 0x0, 0x0, 0xffffffff, .plain, .val 0x0⟩,
  ⟨0xc, 0x0, 1, 0x0, 1, 0x0, 0x0, 0x0, 0x0, 0xffffffff, .plain, .val 0x0⟩,
  ⟨0x10, 0x0, 1, 0x0, 1, 0x0, 0x0, 0x0, 0x0, 0xffffffff, .plain, .val 0x0⟩,
  ⟨0x14, 0x0, 1, 0x0, 1, 0x0, 0x0, 0x0, 0x0, 0xffffffff, .plain, .val 0x0⟩,
  ⟨0x18, 0x0, 1, 0x0, 1, 0x0, 0x0, 0x0, 0x0, 0xffffffff, .plain, .val 0x0⟩,
  ⟨0x1c, 0x0, 1, 0x0, 1, 0x0, 0x0, 0x0, 0x0, 0xffffffff, .plain, .val 0x0⟩,
  ⟨0x20, 0x0, 1, 0x0, 1, 0x0, 0x0, 0x0, 0x0, 0xffffffff, .fifo, .val 0x0⟩,
  ⟨0x24, 0x0, 1, 0x0, 1, 0x0, 0x0, 0x0, 0x0, 0xfff, .plain, .val 0x0⟩,
  ⟨0x28, 0x0, 1, 0x0, 1, 0xffffffff, 0x0, 0x0, 0xffffffff, 0xffffffff, .plain, .val 0x0⟩,
  ⟨0x2c, 0x0, 1, 0x0, 1, 0xffffffff, 0x0, 0x0, 0xffffffff, 0xffffffff, .plain, .val 0x0⟩,
  ⟨0x30, 0x0, 1, 0x0, 1, 0xffffffff, 0x0, 0x0, 0xffffffff, 0xffffffff, .plain, .val 0x0⟩,
  ⟨0x34, 0x0, 1, 0x0, 1, 0xffffffff, 0x0, 0x0, 0xffffffff, 0xffffffff, .plain, .val 0x0⟩,
  ⟨0x38, 0x0, 1, 0x0, 1, 0xffff, 0x0, 0x0, 0xffff, 0xffff, .plain, .val 0x400⟩,
  ⟨0x1000, 0x80, 64, 0x0, 1, 0xffff0f1f, 0x0, 0x0, 0x0, 0xffff0f1f, .plain, .val 0x10000⟩,
  ⟨0x1004, 0x80, 64, 0x0, 1, 0x7ff, 0x0, 0x0, 0x0, 0x7ff, .plain, .val 0x0⟩,
  ⟨0x1008, 0x80, 64, 0x0, 1, 0x7ff, 0x0, 0x0, 0x0, 0x7ff, .plain, .val 0x0⟩,
  ⟨0x100c, 0x80, 64, 0x0, 1, 0xffffffff, 0x0, 0x0, 0x0, 0xffffffff, .plain, .val 0x0⟩,
  ⟨0x1010, 0x80, 64, 0x0, 1, 0xffffffff, 0x0, 0x0, 0x0, 0xffffffff, .plain, .val 0x0⟩,
  ⟨0x1014, 0x80, 64, 0x0, 1, 0xffffffff, 0x0, 0x0, 0x0, 0xffffffff, .plain, .val 0x0⟩]

/-- Registers of TIA, part 1. -/
def rowsTIAPart1 : List RegRow := [
  ⟨0x1018, 0x80, 64, 0x0, 1, 0x0, 0x0, 0x3, 0x0, 0x3, .cmd, .val 0x0⟩,
  ⟨0x101c, 0x80, 64, 0x0, 1, 0x0, 0x0, 0x0, 0x0, 0xffff0f07, .plain, .val 0x0⟩,
  ⟨0x1020, 0x80, 64, 0x4, 8, 0x0, 0x0, 0x0, 0xffffffff, 0xffffffff, .plain, .val 0x0⟩]

/-- Registers of TIA. -/
def rowsTIA : List RegRow := rowsTIAPart0 ++ rowsTIAPart1

/-- Registers of AQ. -/
def rowsAQ : List RegRow := [
  ⟨0x0, 0x0, 1, 0x0, 1, 0x3ff0033, 0x0, 0x0, 0x0, 0x3ff0033, .plain, .val 0x30⟩,
  ⟨0x4, 0x0, 1, 0x0, 1, 0xffff, 0x0, 0x0, 0x0, 0xffff, .plain, .val 0x2⟩,
  ⟨0x8, 0x0, 1, 0x0, 1, 0xffffff, 0x0, 0x0, 0x0, 0xffffff, .plain, .val 0x0⟩,
  ⟨0xc, 0x0, 1, 0x0, 1, 0xffffff, 0x0, 0x0, 0x0, 0xffffff, .plain, .val 0x1⟩,
  ⟨0x10, 0x0, 1, 0x0, 1, 0x7ff, 0x0, 0x0, 0x0, 0x7ff, .plain, .val 0x1⟩,
  ⟨0x14, 0x0, 1, 0x0, 1, 0xffff, 0x0, 0x0, 0x0, 0xffff, .plain, .val 0x1⟩,
  ⟨0x18, 0x0, 1, 0x0, 1, 0x7ffff7f, 0x0, 0x0, 0x0, 0x7ffff7f, .plain, .val 0x0⟩,
  ⟨0x1c, 0x0, 1, 0x0, 1, 0xffff, 0x0, 0x0, 0x0, 0xffff, .plain, .val 0x0⟩,
  ⟨0x20, 0x0, 1, 0x0, 1, 0xffffffff, 0x0, 0x0, 0x0, 0xffffffff, .plain, .val 0x0⟩,
  ⟨0x24, 0x0, 1, 0x0, 1, 0x1, 0x0, 0x0, 0x0, 0x1, .plain, .val 0x1⟩,
  ⟨0x28, 0x0, 1, 0x0, 1, 0xffffffff, 0x0, 0x0, 0x0, 0xffffffff, .plain, .val 0x0⟩,
  ⟨0x2c, 0x0, 1, 0x0, 1, 0xffffffff, 0x0, 0x0, 0x0, 0xffffffff, .plain, .val 0x0⟩,
  ⟨0x30, 0x0, 1, 0x0, 1, 0xffff, 0x0, 0x0, 0x0, 0xffff, .plain, .val 0x100⟩,
  ⟨0x34, 0x0, 1, 0x0, 1, 0x7f3f, 0x0, 0x0, 0x0, 0xf7f3f, .plain, .val 0x0⟩,
  ⟨0x40, 0x4, 16, 0x0, 1, 0x83ff, 0x0, 0x0, 0x0, 0x83ff, .plain, .val 0x0⟩,
  ⟨0x80, 0x0, 1, 0x0, 1, 0x0, 0x0, 0x7, 0x0, 0x7, .cmd, .val 0x0⟩,
  ⟨0x84, 0x0, 1, 0x0, 1, 0x0, 0x0, 0x0, 0x0, 0x7ff0f1f, .plain, .val 0x0⟩,
  ⟨0x88, 0x0, 1, 0x0, 1, 0xffffffff, 0x0, 0x0, 0xffffffff, 0xffffffff, .plain, .val 0x0⟩,
  ⟨0x8c, 0x0, 1, 0x0, 1, 0xffffffff, 0x0, 0x0, 0xffffffff, 0xffffffff, .plain, .val 0x0⟩,
  ⟨0x90, 0x0, 1, 0x0, 1, 0x0, 0x0, 0x0, 0xffff, 0xffff, .plain, .val 0x0⟩]

/-- Registers of CAL, part 0. -/
def rowsCALPart0 : List RegRow := [
  ⟨0x0, 0x0, 1, 0x0, 1, 0x1, 0x0, 0x0, 0x1, 0x1, .plain, .val 0x1⟩,
  ⟨0x8, 0x0, 1, 0x0, 1, 0xffffffff, 0x0, 0x0, 0xffffffff, 0xffffffff, .gd, .val 0x0⟩,
  ⟨0x10, 0x0, 1, 0x0, 1, 0xffff, 0x0, 0x0, 0xffff, 0xffff, .gd, .val 0x0⟩,
  ⟨0x20, 0x0, 1, 0x0, 1, 0xffffffff, 0x0, 0x0, 0xffffffff, 0xffffffff, .plain, .val 0x2625a0⟩,
  ⟨0x24, 0x0, 1, 0x0, 1, 0xffffffff, 0x0, 0x0, 0xffffffff, 0xffffffff, .plain, .val 0x989680⟩,
  ⟨0x28, 0x0, 1, 0x0, 1, 0xffff0001, 0x0, 0x0, 0xffff0001, 0xffff0001, .plain, .val 0x0⟩,
  ⟨0x2c, 0x0, 1, 0x0, 1, 0x0, 0x0, 0x0, 0x0, 0x7, .plain, .val 0x0⟩,
  ⟨0x30, 0x0, 1, 0x0, 1, 0xffffffff, 0x0, 0x0, 0xffffffff, 0xffffffff, .plain, .val 0x258⟩,
  ⟨0x34, 0x0, 1, 0x0, 1, 0x1f1f, 0x0, 0x0, 0x1f1f, 0x1f1f, .plain, .val 0x1010⟩,
  ⟨0x38, 0x0, 1, 0x0, 1, 0xffff, 0x0, 0x0, 0xffff, 0xffff, .plain, .val 0x2710⟩,
  ⟨0x40, 0x0, 1, 0x0, 1, 0x0, 0x0, 0x0, 0x0, 0x3, .plain, .val 0x0⟩,
  ⟨0x80, 0x0, 1, 0x0, 1, 0xffffffff, 0x0, 0x0, 0xffffffff, 0xffffffff, .plain, .val 0x0⟩,
  ⟨0x84, 0x0, 1, 0x0, 1, 0xffffffff, 0x0, 0x0, 0xffffffff, 0xffffffff, .plain, .val 0x0⟩,
  ⟨0x88, 0x0, 1, 0x0, 1, 0xffffffff, 0x0, 0x0, 0xffffffff, 0xffffffff, .plain, .val 0x0⟩,
  ⟨0x8c, 0x0, 1, 0x0, 1, 0xffffffff, 0x0, 0x0, 0xffffffff, 0xffffffff, .plain, .val 0x0⟩,
  ⟨0x90, 0x0, 1, 0x0, 1, 0x0, 0x0, 0x0, 0x0, 0xffffffff, .plain, .val 0x0⟩,
  ⟨0x94, 0x0, 1, 0x0, 1, 0x0, 0x0, 0x0, 0x0, 0xffffffff, .plain, .val 0x0⟩,
  ⟨0x98, 0x0, 1, 0x0, 1, 0x0, 0x0, 0x0, 0xffffffff, 0xffffffff, .plain, .val 0x0⟩,
  ⟨0x9c, 0x0, 1, 0x0, 1, 0x0, 0x0, 0x0, 0xffffffff, 0xffffffff, .plain, .val 0x0⟩,
  ⟨0x100, 0x4, 32, 0x0, 1, 0x0, 0x0, 0x0, 0x3f000f, 0x3f3f0f, .plain, .val 0x0⟩]

/-- Registers of CAL, part 1. -/
def rowsCALPart1 : List RegRow := [
  ⟨0x180, 0x4, 16, 0x0, 1, 0x0, 0x0, 0x0, 0x3f000f, 0x3f3f0f, .plain, .val 0x0⟩,
  ⟨0x200, 0x4, 33, 0x0, 1, 0xffffffff, 0x0, 0x0, 0xffffffff, 0xffffffff, .plain, .val 0x0⟩,
  ⟨0x300, 0x4, 9, 0x0, 1, 0xffffffff, 0x0, 0x0, 0xffffffff, 0xffffffff, .plain, .val 0x0⟩,
  ⟨0x400, 0x4, 16, 0x0, 1, 0xf, 0x0, 0x0, 0xf, 0xf, .plain, .val 0x1⟩]

/-- Registers of CAL. -/
def rowsCAL : List RegRow := rowsCALPart0 ++ rowsCALPart1

/-- Registers of HKS. -/
def rowsHKS : List RegRow := [
  ⟨0x0, 0x0, 1, 0x0, 1, 0x0, 0x0, 0x0, 0xffffffff, 0xffffffff, .plain, .val 0x0⟩,
  ⟨0x4, 0x0, 1, 0x0, 1, 0x0, 0x0, 0x0, 0xf, 0xf, .plain, .val 0x0⟩,
  ⟨0x800, 0x0, 1, 0x0, 1, 0xffff, 0x0, 0x0, 0xffff, 0xffff, .plain, .val 0xa⟩,
  ⟨0x810, 0x4, 11, 0x0, 1, 0xffffffff, 0x0, 0x0, 0xffffffff, 0xffffffff, .plain, .val 0x0⟩,
  ⟨0x840, 0x4, 11, 0x0, 1, 0xffffffff, 0x0, 0x0, 0xffffffff, 0xffffffff, .plain, .val 0x0⟩]

/-- Registers of SEQ, part 0. -/
def rowsSEQPart0 : List RegRow := [
  ⟨0x0, 0x0, 1, 0x0, 1, 0x0, 0x0, 0xf, 0x0, 0xf0f, .cmd, .val 0x0⟩,
  ⟨0x4, 0x0, 1, 0x0, 1, 0x3fff, 0x0, 0x0, 0x0, 0x3fff, .plain, .val 0x0⟩,
  ⟨0x8, 0x0, 1, 0x0, 1, 0xffffffff, 0x0, 0x0, 0x0, 0xffffffff, .plain, .val 0x0⟩,
  ⟨0xc, 0x0, 1, 0x0, 1, 0xffffffff, 0x0, 0x0, 0x0, 0xffffffff, .plain, .val 0x0⟩,
  ⟨0x10, 0x0, 1, 0x0, 1, 0x0, 0x100, 0x0, 0x78, 0x3fff1fff, .cmd, .val 0x0⟩,
  ⟨0x14, 0x0, 1, 0x0, 1, 0x3ff, 0x0, 0x0, 0x0, 0x3ff, .plain, .val 0x200⟩,
  ⟨0x18, 0x0, 1, 0x0, 1, 0xf, 0x0, 0x0, 0x0, 0xf, .mw, .val 0x0⟩,
  ⟨0x1c, 0x0, 1, 0x0, 1, 0xf, 0x0, 0x0, 0x0, 0xf, .plain, .val 0x0⟩,
  ⟨0x20, 0x0, 1, 0x0, 1, 0xffff, 0x0, 0x0, 0x0, 0xffff, .plain, .val 0x0⟩,
  ⟨0x24, 0x0, 1, 0x0, 1, 0xffffffff, 0x0, 0x0, 0x0, 0xffffffff, .plain, .val 0x0⟩,
  ⟨0x28, 0x0, 1, 0x0, 1, 0xbfbfbfbf, 0x0, 0x0, 0x0, 0xbfbfbfbf, .plain, .val 0x0⟩,
  ⟨0x30, 0x0, 1, 0x0, 1, 0x0, 0x0, 0x0, 0xffffffff, 0xffffffff, .plain, .val 0x0⟩,
  ⟨0x34, 0x0, 1, 0x0, 1, 0x0, 0x0, 0x0, 0xffffffff, 0xffffffff, .plain, .val 0x0⟩,
  ⟨0x38, 0x0, 1, 0x0, 1, 0x0, 0x0, 0x0, 0xffffffff, 0xffffffff, .plain, .val 0x0⟩,
  ⟨0x3c, 0x0, 1, 0x0, 1, 0x0, 0x0, 0x0, 0x3fff000f, 0x3fff000f, .plain, .val 0x0⟩,
  ⟨0x40, 0x0, 1, 0x0, 1, 0x0, 0x0, 0x0, 0x0, 0xffffffff, .plain, .val 0x0⟩,
  ⟨0x44, 0x0, 1, 0x0, 1, 0x0, 0x0, 0x0, 0x0, 0xffffffff, .plain, .val 0x0⟩,
  ⟨0x48, 0x0, 1, 0x0, 1, 0x0, 0x0, 0x0, 0x0, 0xffffffff, .plain, .val 0x0⟩,
  ⟨0x80, 0x0, 1, 0x0, 1, 0x0, 0x0, 0x0, 0xfffffff, 0xfffffff, .plain, .val 0x0⟩,
  ⟨0x84, 0x0, 1, 0x0, 1, 0x0, 0x0, 0x0, 0x1ffff, 0x1ffff, .plain, .val 0x0⟩]

/-- Registers of SEQ, part 1. -/
def rowsSEQPart1 : List RegRow := [
  ⟨0x88, 0x4, 2, 0x0, 1, 0x0, 0x0, 0x0, 0xffffffff, 0xffffffff, .plain, .val 0x0⟩,
  ⟨0x90, 0x4, 8, 0x0, 1, 0x0, 0x0, 0x0, 0x3fff, 0x3fff, .plain, .val 0x0⟩,
  ⟨0xb0, 0x0, 1, 0x0, 1, 0x0, 0x0, 0x0, 0xffffffff, 0xffffffff, .plain, .val 0x0⟩,
  ⟨0xb4, 0x0, 1, 0x0, 1, 0x0, 0x0, 0x0, 0xffffffff, 0xffffffff, .plain, .val 0x0⟩,
  ⟨0xb8, 0x0, 1, 0x0, 1, 0x0, 0x0, 0x0, 0xffffffff, 0xffffffff, .plain, .val 0x0⟩,
  ⟨0xbc, 0x0, 1, 0x0, 1, 0x0, 0x0, 0x0, 0xffffffff, 0xffffffff, .plain, .val 0x0⟩,
  ⟨0xc0, 0x0, 1, 0x0, 1, 0x0, 0x0, 0x0, 0xffffffff, 0xffffffff, .plain, .val 0x0⟩,
  ⟨0xc4, 0x0, 1, 0x0, 1, 0x0, 0x0, 0x0, 0xffffffff, 0xffffffff, .plain, .val 0x0⟩,
  ⟨0xc8, 0x0, 1, 0x0, 1, 0x0, 0x0, 0x0, 0x3ff, 0x3ff, .plain, .val 0x0⟩,
  ⟨0x100, 0x0, 1, 0x0, 1, 0x3f3f3f3f, 0x0, 0x0, 0x3f3f3f3f, 0x3f3f3f3f, .plain, .val 0x0⟩,
  ⟨0x104, 0x0, 1, 0x0, 1, 0x0, 0x0, 0x1, 0x0, 0x1, .cmd, .val 0x0⟩,
  ⟨0x108, 0x0, 1, 0x0, 1, 0xffffff, 0x0, 0x0, 0xffffff, 0xffffff, .plain, .val 0x1000⟩,
  ⟨0x10c, 0x0, 1, 0x0, 1, 0x0, 0x0, 0x0, 0x0, 0xffffff, .plain, .val 0x0⟩,
  ⟨0x110, 0x0, 1, 0x0, 1, 0x0, 0x0, 0x0, 0x0, 0x7ff, .plain, .val 0x0⟩,
  ⟨0x114, 0x0, 1, 0x0, 1, 0xffffffff, 0x0, 0x0, 0x0, 0xffffffff, .plain, .val 0x0⟩,
  ⟨0x118, 0x0, 1, 0x0, 1, 0x0, 0x0, 0x0, 0xffffffff, 0xffffffff, .plain, .val 0x0⟩,
  ⟨0x11c, 0x0, 1, 0x0, 1, 0x0, 0x0, 0x0, 0xffffffff, 0xffffffff, .plain, .val 0x0⟩,
  ⟨0x120, 0x0, 1, 0x0, 1, 0xffffffff, 0x0, 0x0, 0xffffffff, 0xffffffff, .plain, .val 0x2710⟩,
  ⟨0x124, 0x0, 1, 0x0, 1, 0xffffffff, 0x0, 0x0, 0xffffffff, 0xffffffff, .plain, .val 0x0⟩,
  ⟨0x128, 0x0, 1, 0x0, 1, 0xffffffff, 0x0, 0x0, 0xffffffff, 0xffffffff, .plain, .val 0x0⟩]

/-- Registers of SEQ, part 2. -/
def rowsSEQPart2 : List RegRow := [
  ⟨0x130, 0x0, 1, 0x0, 1, 0xffffffff, 0x0, 0x0, 0x0, 0xffffffff, .plain, .val 0xffffffff⟩,
  ⟨0x134, 0x0, 1, 0x0, 1, 0xffffffff, 0x0, 0x0, 0x0, 0xffffffff, .plain, .val 0xffffffff⟩,
  ⟨0x138, 0x0, 1, 0x0, 1, 0x0, 0x0, 0x0, 0x0, 0xffffffff, .plain, .val 0x0⟩,
  ⟨0x13c, 0x0, 1, 0x0, 1, 0x0, 0x0, 0x0, 0x0, 0xffffffff, .plain, .val 0x0⟩,
  ⟨0x140, 0x0, 1, 0x0, 1, 0x33, 0x0, 0x0, 0x0, 0x33, .plain, .val 0x10⟩,
  ⟨0x144, 0x0, 1, 0x0, 1, 0x1f03, 0x0, 0x0, 0x0, 0x1f03, .plain, .val 0x1⟩,
  ⟨0x148, 0x0, 1, 0x0, 1, 0x0, 0x0, 0x1, 0x0, 0x1, .cmd, .val 0x0⟩,
  ⟨0x180, 0x4, 32, 0x0, 1, 0xffffffff, 0x0, 0x0, 0x0, 0xffffffff, .plain, .val 0x44444444⟩,
  ⟨0x200, 0x4, 8, 0x0, 1, 0xffffffff, 0x0, 0x0, 0x0, 0xffffffff, .plain, .val 0x0⟩]

/-- Registers of SEQ. -/
def rowsSEQ : List RegRow := rowsSEQPart0 ++ rowsSEQPart1 ++ rowsSEQPart2

/-- Registers of FCAP, part 0. -/
def rowsFCAPPart0 : List RegRow := [
  ⟨0x0, 0x4, 4, 0x0, 1, 0x3f1f, 0x0, 0x0, 0x3f1f, 0xf3f1f, .plain, .val 0x0⟩,
  ⟨0x100, 0x100, 4, 0x0, 1, 0x313, 0x0, 0x0, 0x313, 0x313, .plain, .val 0x301⟩,
  ⟨0x104, 0x100, 4, 0x0, 1, 0xffff, 0x0, 0x0, 0xffff, 0xffff, .plain, .val 0x100⟩,
  ⟨0x108, 0x100, 4, 0x0, 1, 0x0, 0x0, 0x0, 0x0, 0x7, .plain, .val 0x0⟩,
  ⟨0x110, 0x100, 4, 0x0, 1, 0x0, 0x0, 0x0, 0xffffffff, 0xffffffff, .plain, .val 0x0⟩,
  ⟨0x114, 0x100, 4, 0x0, 1, 0x0, 0x0, 0x0, 0xffffffff, 0xffffffff, .plain, .val 0x0⟩,
  ⟨0x118, 0x100, 4, 0x0, 1, 0x0, 0x0, 0x0, 0xffffffff, 0xffffffff, .plain, .val 0x0⟩,
  ⟨0x11c, 0x100, 4, 0x0, 1, 0x0, 0x0, 0x0, 0xffffffff, 0xffffffff, .plain, .val 0x0⟩,
  ⟨0x120, 0x100, 4, 0x0, 1, 0x0, 0x0, 0x0, 0xffffffff, 0xffffffff, .plain, .val 0x0⟩,
  ⟨0x124, 0x100, 4, 0x0, 1, 0x0, 0x0, 0x0, 0xffffffff, 0xffffffff, .plain, .val 0x0⟩,
  ⟨0x128, 0x100, 4, 0x0, 1, 0x0, 0x0, 0x0, 0xffffffff, 0xffffffff, .plain, .val 0x0⟩,
  ⟨0x12c, 0x100, 4, 0x0, 1, 0x0, 0x0, 0x0, 0xffffffff, 0xffffffff, .plain, .val 0x0⟩,
  ⟨0x130, 0x100, 4, 0x0, 1, 0x0, 0x0, 0x0, 0xffffffff, 0xffffffff, .plain, .val 0x0⟩,
  ⟨0x134, 0x100, 4, 0x0, 1, 0xffffffff, 0x0, 0x0, 0xffffffff, 0xffffffff, .plain, .val 0x0⟩,
  ⟨0x138, 0x100, 4, 0x0, 1, 0x1f, 0x0, 0x0, 0x1f, 0x1f, .plain, .val 0x0⟩,
  ⟨0x13c, 0x100, 4, 0x0, 1, 0x0, 0x0, 0x1, 0x0, 0x1, .cmd, .val 0x0⟩,
  ⟨0x140, 0x100, 4, 0x0, 1, 0xffffffff, 0x0, 0x0, 0xffffffff, 0xffffffff, .plain, .val 0x0⟩,
  ⟨0x144, 0x100, 4, 0x0, 1, 0xffffffff, 0x0, 0x0, 0xffffffff, 0xffffffff, .plain, .val 0x0⟩,
  ⟨0x148, 0x100, 4, 0x0, 1, 0xffff, 0x0, 0x0, 0xffff, 0xffff, .plain, .val 0x100⟩,
  ⟨0x1000, 0x8, 64, 0x0, 1, 0x0, 0x0, 0x0, 0xffffffff, 0xffffffff, .plain, .val 0x0⟩]

/-- Registers of FCAP, part 1. -/
def rowsFCAPPart1 : List RegRow := [
  ⟨0x1004, 0x8, 64, 0x0, 1, 0x0, 0x0, 0x0, 0xffffffff, 0xffffffff, .plain, .val 0x0⟩,
  ⟨0x1200, 0x4, 64, 0x0, 1, 0xffffffff, 0x0, 0x0, 0xffffffff, 0xffffffff, .plain, .val 0x0⟩,
  ⟨0x1300, 0x0, 1, 0x0, 1, 0x0, 0x0, 0x0, 0xffffffff, 0xffffffff, .plain, .val 0x0⟩,
  ⟨0x1304, 0x0, 1, 0x0, 1, 0x0, 0x0, 0x0, 0xffffffff, 0xffffffff, .plain, .val 0x0⟩,
  ⟨0x1308, 0x0, 1, 0x0, 1, 0x0, 0x0, 0x0, 0xffffffff, 0xffffffff, .plain, .val 0x0⟩,
  ⟨0x130c, 0x0, 1, 0x0, 1, 0x0, 0x0, 0x0, 0xffffffff, 0xffffffff, .plain, .val 0x0⟩,
  ⟨0x1310, 0x0, 1, 0x0, 1, 0x0, 0x0, 0x0, 0xffffffff, 0xffffffff, .plain, .val 0x0⟩,
  ⟨0x1314, 0x0, 1, 0x0, 1, 0x0, 0x0, 0x0, 0xffffffff, 0xffffffff, .plain, .val 0x0⟩,
  ⟨0x2000, 0x8, 1024, 0x0, 1, 0x0, 0x0, 0x0, 0xffffffff, 0xffffffff, .plain, .val 0xffffffff⟩,
  ⟨0x2004, 0x8, 1024, 0x0, 1, 0x0, 0x0, 0x0, 0xffffffff, 0xffffffff, .plain, .val 0xffffffff⟩,
  ⟨0x4000, 0x4, 1024, 0x0, 1, 0x0, 0x0, 0x0, 0xffffffff, 0xffffffff, .plain, .val 0x0⟩]

/-- Registers of FCAP. -/
def rowsFCAP : List RegRow := rowsFCAPPart0 ++ rowsFCAPPart1

/-- Registers of TSET. -/
def rowsTSET : List RegRow := [
  ⟨0x0, 0x4, 6, 0x0, 1, 0xffffffff, 0x0, 0x0, 0x0, 0xffffffff, .plain, .val 0x0⟩,
  ⟨0x18, 0x0, 1, 0x0, 1, 0x0, 0x0, 0x0, 0x0, 0xffff1f, .wo, .val 0x0⟩,
  ⟨0x1c, 0x0, 1, 0x0, 1, 0x0, 0x0, 0x0, 0x0, 0x10f, .plain, .val 0x0⟩,
  ⟨0x20, 0x0, 1, 0x0, 1, 0x0, 0x0, 0x1, 0x0, 0xf01, .cmd, .val 0x0⟩,
  ⟨0x24, 0x0, 1, 0x0, 1, 0x0, 0x0, 0x0, 0xffffffff, 0xffffffff, .plain, .val 0x0⟩,
  ⟨0x28, 0x0, 1, 0x0, 1, 0xffffffff, 0x0, 0x0, 0xffffffff, 0xffffffff, .plain, .val 0x0⟩,
  ⟨0x2c, 0x0, 1, 0x0, 1, 0xffffffff, 0x0, 0x0, 0xffffffff, 0xffffffff, .plain, .val 0x0⟩,
  ⟨0x30, 0x0, 1, 0x0, 1, 0xffffffff, 0x0, 0x0, 0xffffffff, 0xffffffff, .plain, .val 0x0⟩,
  ⟨0x34, 0x0, 1, 0x0, 1, 0xffffffff, 0x0, 0x0, 0xffffffff, 0xffffffff, .plain, .val 0x0⟩,
  ⟨0x38, 0x0, 1, 0x0, 1, 0xffffffff, 0x0, 0x0, 0xffffffff, 0xffffffff, .plain, .val 0x0⟩,
  ⟨0x3c, 0x0, 1, 0x0, 1, 0xffffffff, 0x0, 0x0, 0xffffffff, 0xffffffff, .plain, .val 0x0⟩,
  ⟨0x100, 0x8, 32, 0x0, 1, 0xffffff, 0x0, 0x0, 0x0, 0xffffff, .plain, .val 0x0⟩,
  ⟨0x104, 0x8, 32, 0x0, 1, 0xffff, 0x0, 0x0, 0x0, 0xffff, .plain, .val 0x20⟩,
  ⟨0x200, 0x8, 32, 0x0, 1, 0x0, 0x0, 0x0, 0x0, 0xffffff, .plain, .val 0x0⟩,
  ⟨0x204, 0x8, 32, 0x0, 1, 0x0, 0x0, 0x0, 0x0, 0xffff, .plain, .val 0x20⟩,
  ⟨0x300, 0x4, 64, 0x0, 1, 0xffff, 0x0, 0x0, 0x0, 0xffff, .plain, .val 0x0⟩,
  ⟨0x400, 0x4, 64, 0x0, 1, 0x0, 0x0, 0x0, 0x0, 0xffff, .plain, .val 0x0⟩,
  ⟨0x40000, 0x4, 49152, 0x0, 1, 0x0, 0x0, 0x0, 0x0, 0xffffffff, .plain, .val 0x0⟩,
  ⟨0x80000, 0x4, 49152, 0x0, 1, 0x0, 0x0, 0x0, 0x0, 0xffffffff, .plain, .val 0x0⟩]

/-- Registers of PINB, part 0. -/
def rowsPINBPart0 : List RegRow := [
  ⟨0x0, 0x400, 33, 0x0, 1, 0x3ffff, 0x0, 0x0, 0x0, 0x3ffff, .plain, .val 0x881⟩,
  ⟨0x4, 0x400, 33, 0x0, 1, 0xfff, 0x0, 0x0, 0x0, 0xfff, .plain, .val 0x0⟩,
  ⟨0x8, 0x400, 33, 0x0, 1, 0x1ff3f, 0x0, 0x0, 0x1ff3f, 0x1ff3f, .plain, .val 0x10000⟩,
  ⟨0xc, 0x400, 33, 0x0, 1, 0x0, 0x0, 0x0, 0x1ff3f, 0x1ff3f, .plain, .val 0x10000⟩,
  ⟨0x10, 0x400, 33, 0x0, 1, 0xffff, 0x0, 0x0, 0x0, 0xffff, .plain, .val 0x0⟩,
  ⟨0x14, 0x400, 33, 0x0, 1, 0xffff, 0x0, 0x0, 0x0, 0xffff, .plain, .val 0x0⟩,
  ⟨0x20, 0x400, 33, 0x4, 8, 0xffff, 0x0, 0x0, 0x0, 0xffff, .plain, .pinLevel⟩,
  ⟨0x40, 0x400, 33, 0x4, 8, 0x0, 0x0, 0x0, 0x0, 0xffff, .plain, .pinLevel⟩,
  ⟨0x60, 0x400, 33, 0x0, 1, 0xffffffff, 0x0, 0x0, 0xffffffff, 0xffffffff, .plain, .val 0x0⟩,
  ⟨0x64, 0x400, 33, 0x0, 1, 0x0, 0x0, 0x0, 0x17ff, 0x1fff, .plain, .pinCarrier⟩,
  ⟨0x100, 0x400, 33, 0x4, 23, 0xffffffff, 0x0, 0x0, 0xffffffff, 0xffffffff, .plain, .val 0x0⟩,
  ⟨0x180, 0x400, 33, 0x0, 1, 0xffffffff, 0x0, 0x0, 0xffffffff, 0xffffffff, .plain, .val 0x0⟩,
  ⟨0x184, 0x400, 33, 0x0, 1, 0x0, 0x0, 0x0, 0x3, 0x3, .plain, .val 0x0⟩,
  ⟨0x188, 0x400, 33, 0x0, 1, 0x0, 0x0, 0x0, 0xffffffff, 0xffffffff, .plain, .val 0x0⟩,
  ⟨0x18c, 0x400, 33, 0x0, 1, 0x0, 0x0, 0x0, 0xffffffff, 0xffffffff, .plain, .val 0x0⟩,
  ⟨0x9000, 0x0, 1, 0x0, 1, 0x1, 0x0, 0x0, 0x0, 0x1, .gd, .val 0x0⟩,
  ⟨0x9010, 0x0, 1, 0x0, 1, 0x0, 0xffffffff, 0x0, 0x0, 0xffffffff, .cmd, .val 0x0⟩,
  ⟨0x9014, 0x0, 1, 0x0, 1, 0x0, 0x1, 0x0, 0x0, 0x1, .cmd, .val 0x0⟩,
  ⟨0x9018, 0x0, 1, 0x0, 1, 0x1, 0x0, 0x0, 0x0, 0x1, .plain, .val 0x0⟩,
  ⟨0x9020, 0x0, 1, 0x0, 1, 0x0, 0x0, 0x0, 0x0, 0xffffffff, .plain, .val 0xffffffff⟩]

/-- Registers of PINB, part 1. -/
def rowsPINBPart1 : List RegRow := [
  ⟨0x9024, 0x0, 1, 0x0, 1, 0x0, 0x0, 0x0, 0x0, 0xffffffff, .plain, .val 0xffffffff⟩,
  ⟨0x9028, 0x0, 1, 0x0, 1, 0x0, 0x0, 0x0, 0x0, 0x3, .plain, .val 0x3⟩,
  ⟨0x902c, 0x0, 1, 0x0, 1, 0x0, 0x0, 0x0, 0x0, 0xffffffff, .plain, .val 0x0⟩,
  ⟨0x9030, 0x0, 1, 0x0, 1, 0x0, 0x0, 0x0, 0x0, 0x1, .plain, .val 0x0⟩,
  ⟨0x9040, 0x0, 1, 0x0, 1, 0xffffffff, 0x0, 0x0, 0xffffffff, 0xffffffff, .plain, .val 0x0⟩,
  ⟨0x9044, 0x0, 1, 0x0, 1, 0xffffffff, 0x0, 0x0, 0xffffffff, 0xffffffff, .plain, .val 0x0⟩,
  ⟨0x9050, 0x0, 1, 0x0, 1, 0x3, 0x0, 0x0, 0x0, 0x3, .plain, .val 0x0⟩,
  ⟨0x9054, 0x0, 1, 0x0, 1, 0x0, 0x0, 0x0, 0x0, 0x7ff, .plain, .val 0x0⟩,
  ⟨0x9058, 0x0, 1, 0x0, 1, 0xffffffff, 0x0, 0x0, 0xffffffff, 0xffffffff, .plain, .val 0x0⟩,
  ⟨0x9060, 0x0, 1, 0x0, 1, 0x3, 0x0, 0x0, 0x3, 0x3, .plain, .val 0x1⟩]

/-- Registers of PINB. -/
def rowsPINB : List RegRow := rowsPINBPart0 ++ rowsPINBPart1

/-- Registers of SMCG, part 0. -/
def rowsSMCGPart0 : List RegRow := [
  ⟨0x0, 0x400, 17, 0x0, 1, 0x177, 0x0, 0x0, 0x0, 0x177, .plain, .val 0x40⟩,
  ⟨0x4, 0x400, 17, 0x0, 1, 0xfffff, 0x0, 0x0, 0x0, 0xfffff, .plain, .val 0x38e39⟩,
  ⟨0x8, 0x400, 17, 0x0, 1, 0xffffffff, 0x0, 0x0, 0x0, 0xffffffff, .plain, .val 0xc71b1c72⟩,
  ⟨0xc, 0x400, 17, 0x0, 1, 0xffffffff, 0x0, 0x0, 0x0, 0xffffffff, .plain, .val 0x19991999⟩,
  ⟨0x10, 0x400, 17, 0x0, 1, 0xffffffff, 0x0, 0x0, 0x0, 0xffffffff, .plain, .val 0x0⟩,
  ⟨0x14, 0x400, 17, 0x0, 1, 0xffff, 0x0, 0x0, 0x0, 0xffff, .plain, .val 0x0⟩,
  ⟨0x18, 0x400, 17, 0x0, 1, 0xfffff, 0x0, 0x0, 0x0, 0xfffff, .plain, .val 0x80000⟩,
  ⟨0x1c, 0x400, 17, 0x0, 1, 0xfffff, 0x0, 0x0, 0x0, 0xfffff, .plain, .val 0x38e39⟩,
  ⟨0x20, 0x400, 17, 0x0, 1, 0x0, 0x0, 0x0, 0x0, 0x177, .plain, .val 0x40⟩,
  ⟨0x24, 0x400, 17, 0x0, 1, 0x0, 0x0, 0x0, 0x0, 0xfffff, .plain, .val 0x38e39⟩,
  ⟨0x28, 0x400, 17, 0x0, 1, 0x0, 0x0, 0x0, 0x0, 0xffffffff, .plain, .val 0xc71b1c72⟩,
  ⟨0x2c, 0x400, 17, 0x0, 1, 0x0, 0x0, 0x0, 0x0, 0xffffffff, .plain, .val 0x19991999⟩,
  ⟨0x30, 0x400, 17, 0x0, 1, 0x0, 0x0, 0x0, 0x0, 0xffffffff, .plain, .val 0x0⟩,
  ⟨0x34, 0x400, 17, 0x0, 1, 0x0, 0x0, 0x0, 0x0, 0xffff, .plain, .val 0x0⟩,
  ⟨0x38, 0x400, 17, 0x0, 1, 0x0, 0x0, 0x0, 0x0, 0xfffff, .plain, .val 0x80000⟩,
  ⟨0x3c, 0x400, 17, 0x0, 1, 0x0, 0x0, 0x0, 0x0, 0xfffff, .plain, .val 0x38e39⟩,
  ⟨0x40, 0x400, 17, 0x0, 1, 0xf, 0x0, 0x0, 0x0, 0xf, .plain, .val 0x0⟩,
  ⟨0x44, 0x400, 17, 0x0, 1, 0xffff, 0x0, 0x0, 0x0, 0xffff, .plain, .val 0x1000⟩,
  ⟨0x48, 0x400, 17, 0x0, 1, 0x1fffff, 0x0, 0x0, 0x0, 0x1fffff, .plain, .val 0x2⟩,
  ⟨0x4c, 0x400, 17, 0x0, 1, 0xfffff, 0x0, 0x0, 0x0, 0xfffff, .plain, .val 0x40050⟩]

/-- Registers of SMCG, part 1. -/
def rowsSMCGPart1 : List RegRow := [
  ⟨0x50, 0x400, 17, 0x0, 1, 0x0, 0x0, 0x0, 0x0, 0xffffff, .plain, .val 0x0⟩,
  ⟨0x54, 0x400, 17, 0x0, 1, 0x0, 0x0, 0x0, 0x0, 0xffffff, .plain, .val 0x0⟩,
  ⟨0x58, 0x400, 17, 0x0, 1, 0x0, 0x0, 0x0, 0x0, 0xffffffff, .plain, .val 0x0⟩,
  ⟨0x5c, 0x400, 17, 0x0, 1, 0x0, 0x0, 0x0, 0x0, 0xffffffff, .plain, .val 0x0⟩,
  ⟨0x60, 0x400, 17, 0x4, 4, 0x3ffff, 0x0, 0x0, 0x0, 0x3ffff, .plain, .monThr⟩,
  ⟨0x70, 0x400, 17, 0x0, 1, 0xfffffff, 0x0, 0x0, 0x0, 0xfffffff, .plain, .val 0x1004⟩,
  ⟨0x74, 0x400, 17, 0x0, 1, 0xffff0001, 0x0, 0x0, 0x0, 0xffff0001, .plain, .val 0x640000⟩,
  ⟨0x78, 0x400, 17, 0x0, 1, 0xffffffff, 0x0, 0x0, 0xffffffff, 0xffffffff, .plain, .val 0x0⟩,
  ⟨0x80, 0x400, 17, 0x0, 1, 0x1, 0x0, 0x0, 0x0, 0xff1, .plain, .val 0x0⟩,
  ⟨0x84, 0x400, 17, 0x0, 1, 0x7, 0x0, 0x0, 0x0, 0x7, .plain, .val 0x0⟩,
  ⟨0x88, 0x400, 17, 0x0, 1, 0x0, 0x0, 0x0, 0xffffffff, 0xffffffff, .plain, .val 0x0⟩,
  ⟨0x8c, 0x400, 17, 0x0, 1, 0x0, 0x0, 0x0, 0xffffffff, 0xffffffff, .plain, .val 0x0⟩,
  ⟨0x90, 0x400, 17, 0x0, 1, 0x0, 0x0, 0x0, 0x5ff, 0x7ff, .plain, .smcCarrier⟩,
  ⟨0x100, 0x400, 17, 0x4, 27, 0xffffffff, 0x0, 0x0, 0xffffffff, 0xffffffff, .plain, .val 0x0⟩,
  ⟨0x180, 0x400, 17, 0x0, 1, 0xffffffff, 0x0, 0x0, 0xffffffff, 0xffffffff, .plain, .val 0x0⟩,
  ⟨0x184, 0x400, 17, 0x0, 1, 0x0, 0x0, 0x0, 0x3, 0x3, .plain, .val 0x0⟩,
  ⟨0x188, 0x400, 17, 0x0, 1, 0x0, 0x0, 0x0, 0xffffffff, 0xffffffff, .plain, .val 0x0⟩,
  ⟨0x18c, 0x400, 17, 0x0, 1, 0x0, 0x0, 0x0, 0xffffffff, 0xffffffff, .plain, .val 0x0⟩,
  ⟨0x8000, 0x0, 1, 0x0, 1, 0x1, 0x0, 0x0, 0x1, 0x1, .gd, .val 0x0⟩,
  ⟨0x8008, 0x0, 1, 0x0, 1, 0x7fff, 0x0, 0x0, 0x7fff, 0x7fff, .gd, .val 0x0⟩]

/-- Registers of SMCG, part 2. -/
def rowsSMCGPart2 : List RegRow := [
  ⟨0x8010, 0x0, 1, 0x0, 1, 0x0, 0x0, 0x0, 0x7fff, 0xf7fff, .plain, .val 0x0⟩,
  ⟨0x8018, 0x0, 1, 0x0, 1, 0x0, 0x0, 0x0, 0x0, 0x1ffff, .plain, .val 0x0⟩,
  ⟨0x801c, 0x0, 1, 0x0, 1, 0x0, 0x0, 0x0, 0x0, 0x1ffff, .plain, .val 0x0⟩,
  ⟨0x8020, 0x0, 1, 0x0, 1, 0x0, 0x0, 0x0, 0x0, 0x1ffff, .plain, .val 0x0⟩,
  ⟨0x8024, 0x0, 1, 0x0, 1, 0x0, 0x1ffff, 0x0, 0x0, 0x1ffff, .cmd, .val 0x0⟩,
  ⟨0x8028, 0x0, 1, 0x0, 1, 0x1, 0x0, 0x0, 0x0, 0x1, .plain, .val 0x0⟩,
  ⟨0x802c, 0x0, 1, 0x0, 1, 0xffffffff, 0x0, 0x0, 0xffffffff, 0xffffffff, .plain, .val 0x1ffff⟩,
  ⟨0x8030, 0x0, 1, 0x0, 1, 0xffffffff, 0x0, 0x0, 0xffffffff, 0xffffffff, .plain, .val 0x0⟩,
  ⟨0x8034, 0x0, 1, 0x0, 1, 0xffffffff, 0x0, 0x0, 0xffffffff, 0xffffffff, .plain, .val 0x0⟩,
  ⟨0x8038, 0x0, 1, 0x0, 1, 0xffffffff, 0x0, 0x0, 0xffffffff, 0xffffffff, .plain, .val 0x0⟩,
  ⟨0xc000, 0x4, 4096, 0x0, 1, 0xfffff, 0x0, 0x0, 0xfffff, 0xfffff, .plain, .sine⟩]

/-- Registers of SMCG. -/
def rowsSMCG : List RegRow := rowsSMCGPart0 ++ rowsSMCGPart1 ++ rowsSMCGPart2

/-- The windows of R417, each with its registers. -/
def windows : List (Window × List RegRow) := [
  (⟨0x0, 0x0, 1, 0x10000, 0x200, 0x200, 0x5, 0, true⟩, rowsGLB),
  (⟨0x10000, 0x0, 1, 0x10000, 0x100, 0x100, 0x1, 0, false⟩, rowsPLN),
  (⟨0x20000, 0x0, 1, 0x10000, 0x800, 0x800, 0x2, 0, true⟩, rowsFLT),
  (⟨0x30000, 0x0, 1, 0x10000, 0x100, 0x100, 0x3, 0, true⟩, rowsGOV),
  (⟨0x40000, 0x0, 1, 0x10000, 0x200, 0x200, 0x4, 0, true⟩, rowsBOOT),
  (⟨0x50000, 0x0, 1, 0x10000, 0x10000, 0x10000, 0x0, 0, false⟩, rowsLDG),
  (⟨0x60000, 0x0, 1, 0x10000, 0x2000, 0x2000, 0x6, 0, false⟩, rowsTOK),
  (⟨0x70000, 0x0, 1, 0x10000, 0x800, 0x800, 0x7, 0, false⟩, rowsHDMA),
  (⟨0x80000, 0x0, 1, 0x10000, 0x2000, 0x2000, 0x8, 0, false⟩, rowsDRC),
  (⟨0x90000, 0x0, 1, 0x10000, 0x100, 0x100, 0x9, 0, false⟩, rowsTRG),
  (⟨0xa0000, 0x0, 1, 0x10000, 0x4000, 0x4000, 0xa, 0, false⟩, rowsTIA),
  (⟨0xb0000, 0x2000, 8, 0x2000, 0x100, 0x100, 0x18, 0, false⟩, rowsAQ),
  (⟨0xc0000, 0x0, 1, 0x10000, 0x800, 0x800, 0xb, 0, false⟩, rowsCAL),
  (⟨0xd0000, 0x0, 1, 0x10000, 0x1000, 0x1000, 0xc, 0, false⟩, rowsHKS),
  (⟨0x100000, 0x10000, 4, 0x10000, 0x400, 0x400, 0x10, 1, false⟩, rowsSEQ),
  (⟨0x200000, 0x0, 1, 0x10000, 0x8000, 0x8000, 0x14, 0, false⟩, rowsFCAP),
  (⟨0x1000000, 0x100000, 4, 0x100000, 0x100000, 0x100000, 0x50, 1, false⟩, rowsTSET),
  (⟨0x2000000, 0x10000, 32, 0x10000, 0x10000, 0x10000, 0x20, 1, false⟩, rowsPINB),
  (⟨0x3000000, 0x10000, 16, 0x10000, 0x10000, 0x10000, 0x40, 1, false⟩, rowsSMCG)]

/-- Sizes of the token pools VT FT ST AT LT DT HT (R331). -/
def poolSizeOf (p : Nat) : Nat :=
  match p with
  | 0 => 1024
  | 1 => 512
  | 2 => 32768
  | 3 => 512
  | 4 => 4096
  | 5 => 512
  | _ => 4096

/-- Target latencies of ports P0 to P8 (R313). -/
def portTargetOf (n : Nat) : Nat :=
  if n ≤ 3 then 0x64
  else match n with
    | 4 => 0xC8
    | 5 => 0x1F4
    | 6 => 0xC8
    | 7 => 0x7D0
    | _ => 0x2710

/-- π scaled by 2^64. -/
def piFix : Nat := 57952155664616982739

/-- Partial sums of the sine series at `x / 2^64`: `term` is the present term, `m` its odd exponent. -/
def sineSum : Nat → Nat → Nat → Nat → Int → Int → Int
  | 0, _, _, _, _, acc => acc
  | fuel + 1, x, term, m, sign, acc =>
    sineSum fuel x (term * x / 2 ^ 64 * x / 2 ^ 64 / ((m + 1) * (m + 2))) (m + 2) (-sign) (acc + sign * term)

/-- `round(524,287 × sin(2πi / 4,096))` as 20-bit two's complement: the reset value of a DDS table (R213). -/
def sineEntry (i : Nat) : Nat :=
  let q := i % 1024
  let j := if i / 1024 % 2 = 0 then q else 1024 - q
  let x := piFix * j / 2048
  let s := sineSum 14 x x 1 1 0
  let r := (524287 * s * 2 + 2 ^ 64) / 2 ^ 65
  unsignedOf 20 (if i / 1024 % 4 < 2 then r else -r)

/-- The value of a reset cell for window copy `n` and strides `i`, `j`. -/
def ResetVal.at (r : ResetVal) (n i j : Nat) : Nat :=
  match r with
  | .val x => x
  | .poolSize => poolSizeOf i
  | .vecMod => if i = 1 then 0x3E8 else 0
  | .portTarget => portTargetOf i
  | .pinLevel =>
    match j with
    | 0 => 0x2E8B
    | 1 => 0x2E8B
    | 2 => 0x2E8B
    | 3 => 0x36DB
    | 4 => 0x36DB
    | 5 => 0x2E8B
    | _ => 0
  | .pinCarrier => if i = 32 then 0x7FF else 32 * n + i
  | .smcCarrier => if i = 16 then 0x1FF else 16 * n + i
  | .monThr => if j % 2 = 0 then 0x1FFFF else 0x20000
  | .sine => sineEntry i

/-- Where a BAR0 offset lands (R386, R417). `comp` says that it is the complement word of a guarded pair. -/
inductive Decoded where
  | outside
  | unimplemented (block : Nat)
  | reg (row : RegRow) (win : Window) (n i j addr : Nat) (comp : Bool)
deriving DecidableEq, Repr

/-- The indices at which `off` meets a row, if it does. -/
def RegRow.index (r : RegRow) (off : Nat) : Option (Nat × Nat) :=
  if off < r.off then none
  else
    let d := off - r.off
    let i := if r.s1 = 0 then 0 else d / r.s1
    let e := if r.s1 = 0 then d else d % r.s1
    let j := if r.s2 = 0 then 0 else e / r.s2
    let f := if r.s2 = 0 then e else e % r.s2
    if i < r.n1 && j < r.n2 && f = 0 then some (i, j) else none

/-- The row of a window that holds `off`; a guarded row also holds its complement word at + 0x4. -/
def findRow : List RegRow → Nat → Option (RegRow × Nat × Nat × Bool)
  | [], _ => none
  | r :: rs, off =>
    match r.index off with
    | some (i, j) => some (r, i, j, false)
    | none =>
      if r.kind = .gd && 4 ≤ off then
        match r.index (off - 4) with
        | some (i, j) => some (r, i, j, true)
        | none => findRow rs off
      else findRow rs off

/-- The copy of a window that holds an address. -/
def Window.copyOf (w : Window) (addr : Nat) : Option Nat :=
  if addr < w.base then none
  else
    let d := addr - w.base
    let n := if w.stride = 0 then 0 else d / w.stride
    let e := if w.stride = 0 then d else d % w.stride
    if n < w.count && e < w.size then some n else none

/-- Decode a BAR0 offset over a list of windows. -/
def decodeIn : List (Window × List RegRow) → Nat → Decoded
  | [], _ => .outside
  | (w, rows) :: ws, addr =>
    match w.copyOf addr with
    | none => decodeIn ws addr
    | some n =>
      let base := w.base + w.stride * n
      let off := (addr - base) % w.period
      match findRow rows off with
      | none => .unimplemented (w.block + w.blockStep * n)
      | some (r, i, j, comp) => .reg r w n i j (base + off) comp

/-- Decode a BAR0 offset (R386, R417, R418): aliases land on the register they stand for. -/
def decodeReg (addr : Nat) : Decoded := decodeIn windows (addr / 4 * 4)

/-- What a register holds after power-on reset (R11). -/
def regReset (addr : Nat) : W32 :=
  match decodeReg addr with
  | .reg r _ n i j _ _ => BitVec.ofNat 32 (r.reset.at n i j)
  | _ => 0

/-- The block whose window holds an address, or 0xFF (R347, R386). -/
def blockOfAddr (addr : Nat) : Nat :=
  match decodeReg addr with
  | .outside => 0xFF
  | .unimplemented b => b
  | .reg _ w n _ _ _ _ => w.block + w.blockStep * n

/-! ### Field names, as BLOCK.REGISTER_FIELD of the manual (R7) -/

def GLB.DEVICE_ID : Fld := ⟨0x0, 0, 32⟩
def GLB.REVISION : Fld := ⟨0x4, 0, 8⟩
def GLB.SERIAL : Fld := ⟨0x8, 0, 64⟩
def GLB.STATE_STATE : Fld := ⟨0x10, 0, 3⟩
def GLB.STATE_STEP : Fld := ⟨0x10, 4, 4⟩
def GLB.POWER_CTRL_DORMANT : Fld := ⟨0x14, 0, 1⟩
def GLB.POWER_CTRL_DORMANT_RESULT : Fld := ⟨0x14, 4, 4⟩
def GLB.WAKE_CFG_DB_EN : Fld := ⟨0x18, 0, 1⟩
def GLB.WAKE_CFG_CMP_EN : Fld := ⟨0x18, 1, 1⟩
def GLB.WAKE_CFG_TRIG_EN : Fld := ⟨0x18, 8, 8⟩
def GLB.WAKE_CFG_TRIG_FALL : Fld := ⟨0x18, 16, 8⟩
def GLB.WAKE_STATUS_SOURCE : Fld := ⟨0x1c, 0, 3⟩
def GLB.WAKE_STATUS_LINE : Fld := ⟨0x1c, 3, 4⟩
def GLB.WAKE_STATUS_CHAN : Fld := ⟨0x1c, 16, 11⟩
def GLB.WAKE_STAMP : Fld := ⟨0x20, 0, 64⟩
def GLB.ABORT_ALL : Fld := ⟨0x28, 0, 1⟩
def GLB.DEV_STATUS_REPLACE_REQ : Fld := ⟨0x2c, 0, 1⟩
def GLB.DEV_STATUS_FAULT : Fld := ⟨0x2c, 1, 1⟩
def GLB.BANK_ENGINE (i : Nat) : Fld := ⟨0x40 + 0x4 * i, 0, 32⟩
def GLB.SITE_ENGINE (i : Nat) : Fld := ⟨0x48 + 0x4 * i, 0, 32⟩
def GLB.MAP_COMMIT : Fld := ⟨0x58, 0, 1⟩
def GLB.MAP_STATUS_PENDING : Fld := ⟨0x5c, 0, 1⟩
def GLB.MAP_STATUS_LAST_RESULT : Fld := ⟨0x5c, 4, 4⟩
def GLB.MAP_STATUS_FIRST_BAD : Fld := ⟨0x5c, 16, 10⟩
def GLB.LS_PULSE : Fld := ⟨0x60, 0, 8⟩
def GLB.SUBSYS_SVID : Fld := ⟨0x100, 0, 16⟩
def GLB.SUBSYS_SSID : Fld := ⟨0x100, 16, 16⟩
def GLB.OTP_STATUS_KEY_PRESENT : Fld := ⟨0x104, 0, 1⟩
def GLB.OTP_STATUS_OWNER_SET : Fld := ⟨0x104, 1, 1⟩
def GLB.OTP_STATUS_ROW_ERR : Fld := ⟨0x104, 8, 4⟩
def GLB.OWNER_HASH (i : Nat) : Fld := ⟨0x110 + 0x4 * i, 0, 32⟩
def GLB.VENDOR_HASH (i : Nat) : Fld := ⟨0x140 + 0x4 * i, 0, 32⟩
def PLN.COUNT : Fld := ⟨0x10000, 0, 64⟩
def PLN.QUALITY_QUAL : Fld := ⟨0x10008, 0, 2⟩
def PLN.QUALITY_EPOCH_STATE : Fld := ⟨0x10008, 4, 2⟩
def PLN.QUALITY_REF_WARM : Fld := ⟨0x10008, 8, 1⟩
def PLN.QUALITY_PLLT_LOCK : Fld := ⟨0x10008, 9, 1⟩
def PLN.QUALITY_REFCLK_OK : Fld := ⟨0x10008, 10, 1⟩
def PLN.QUALITY_REFSTEP : Fld := ⟨0x10008, 11, 1⟩
def PLN.QUALITY_WAKE_CAP : Fld := ⟨0x10008, 12, 1⟩
def PLN.QUALITY_DRIFT_CAP : Fld := ⟨0x10008, 13, 1⟩
def PLN.SYNC_CTRL_ARM : Fld := ⟨0x10010, 0, 1⟩
def PLN.SYNC_CTRL_DISARM : Fld := ⟨0x10010, 1, 1⟩
def PLN.SYNC_CTRL_CHECK_EN : Fld := ⟨0x10010, 2, 1⟩
def PLN.SYNC_CTRL_ARM_RESULT : Fld := ⟨0x10010, 8, 4⟩
def PLN.SYNC_LOAD : Fld := ⟨0x10018, 0, 64⟩
def PLN.SYNC_DESKEW : Fld := ⟨0x10020, 0, 16⟩
def PLN.SYNC_PERIOD : Fld := ⟨0x10024, 0, 32⟩
def PLN.PHASE_TOL : Fld := ⟨0x10028, 0, 12⟩
def PLN.PHASE_OFS : Fld := ⟨0x1002c, 0, 12⟩
def PLN.SYNC_LAST : Fld := ⟨0x10030, 0, 64⟩
def PLN.SYNC_LAST_FINE : Fld := ⟨0x10038, 0, 12⟩
def PLN.SYNC_DEV_DEV : Fld := ⟨0x1003c, 0, 16⟩
def PLN.SYNC_DEV_CHECKS : Fld := ⟨0x1003c, 16, 16⟩
def PLN.SLIP_COUNT : Fld := ⟨0x10040, 0, 32⟩
def PLN.EPOCH_NUM : Fld := ⟨0x10044, 0, 32⟩
def PLN.WARM_SETTLE : Fld := ⟨0x10048, 0, 32⟩
def PLN.EPOCH_TAG : Fld := ⟨0x10050, 0, 64⟩
def FLT.STATUS_SAFE_HOLD : Fld := ⟨0x20000, 0, 1⟩
def FLT.STATUS_FACTORY : Fld := ⟨0x20000, 1, 1⟩
def FLT.STATUS_REPLACE_REQ : Fld := ⟨0x20000, 2, 1⟩
def FLT.STATUS_STRAP : Fld := ⟨0x20000, 3, 1⟩
def FLT.STATUS_FACT_RESULT : Fld := ⟨0x20000, 4, 4⟩
def FLT.STATUS_OOS_COUNT : Fld := ⟨0x20000, 8, 8⟩
def FLT.QUIET_T : Fld := ⟨0x20010, 0, 32⟩
def FLT.RECOV_LIMIT : Fld := ⟨0x20014, 0, 32⟩
def FLT.RECOV_WINDOW : Fld := ⟨0x20018, 0, 32⟩
def FLT.REACT_LINK_FC0 : Fld := ⟨0x20020, 0, 1⟩
def FLT.REACT_THOT_ABORT : Fld := ⟨0x20020, 1, 1⟩
def FLT.REACT_OOS_FC0 : Fld := ⟨0x20020, 2, 1⟩
def FLT.FACTORY : Fld := ⟨0x20028, 0, 1⟩
def FLT.INJECT_DETECTOR : Fld := ⟨0x20030, 0, 16⟩
def FLT.INJECT_BLOCK : Fld := ⟨0x20030, 16, 8⟩
def FLT.INJECT_GO : Fld := ⟨0x20030, 31, 1⟩
def FLT.UNAVAIL_MS : Fld := ⟨0x20038, 0, 64⟩
def FLT.FEC_INFO_DETECTOR (i : Nat) : Fld := ⟨0x20100 + 0x20 * i, 0, 16⟩
def FLT.FEC_INFO_BLOCK (i : Nat) : Fld := ⟨0x20100 + 0x20 * i, 16, 8⟩
def FLT.FEC_INFO_MASTER (i : Nat) : Fld := ⟨0x20100 + 0x20 * i, 24, 8⟩
def FLT.FEC_ADDR (i : Nat) : Fld := ⟨0x20104 + 0x20 * i, 0, 64⟩
def FLT.FEC_STAMP (i : Nat) : Fld := ⟨0x2010c + 0x20 * i, 0, 64⟩
def FLT.FEC_COUNT (i : Nat) : Fld := ⟨0x20114 + 0x20 * i, 0, 32⟩
def FLT.FEC_CTRL_ACCESS (i : Nat) : Fld := ⟨0x20118 + 0x20 * i, 0, 4⟩
def FLT.FEC_CTRL_VALID (i : Nat) : Fld := ⟨0x20118 + 0x20 * i, 8, 1⟩
def FLT.BLK_STATE (i : Nat) : Fld := ⟨0x20400 + 0x4 * i, 0, 2⟩
def FLT.BLK_RECOV (i : Nat) : Fld := ⟨0x20400 + 0x4 * i, 8, 8⟩
def FLT.BLK_LAST_DETECTOR (i : Nat) : Fld := ⟨0x20400 + 0x4 * i, 16, 16⟩
def GOV.TJ (i : Nat) : Fld := ⟨0x30000 + 0x4 * i, 0, 16⟩
def GOV.TARGET : Fld := ⟨0x30040, 0, 8⟩
def GOV.PWR_LIMIT : Fld := ⟨0x30044, 0, 8⟩
def GOV.POWER : Fld := ⟨0x30048, 0, 16⟩
def GOV.IDLE_T : Fld := ⟨0x3004c, 0, 16⟩
def GOV.STATE_ACTIONS : Fld := ⟨0x30050, 0, 3⟩
def GOV.STATE_THERM_HOLD : Fld := ⟨0x30050, 3, 1⟩
def GOV.STATE_EXHAUSTED : Fld := ⟨0x30050, 4, 1⟩
def BOOT.STATUS_LOADED : Fld := ⟨0x40000, 0, 2⟩
def BOOT.STATUS_RESTARTED : Fld := ⟨0x40000, 2, 1⟩
def BOOT.STATUS_OCTAL : Fld := ⟨0x40000, 3, 1⟩
def BOOT.STATUS_A_STATE : Fld := ⟨0x40000, 4, 4⟩
def BOOT.STATUS_B_STATE : Fld := ⟨0x40000, 8, 4⟩
def BOOT.STATUS_SIG_REQ : Fld := ⟨0x40000, 12, 1⟩
def BOOT.SEQ_A : Fld := ⟨0x40004, 0, 32⟩
def BOOT.SEQ_B : Fld := ⟨0x40008, 0, 32⟩
def BOOT.REGINIT_ERR : Fld := ⟨0x4000c, 0, 32⟩
def BOOT.NVM_ADDR : Fld := ⟨0x40010, 0, 26⟩
def BOOT.NVM_CMD_OP : Fld := ⟨0x40014, 0, 2⟩
def BOOT.NVM_CMD_GO : Fld := ⟨0x40014, 31, 1⟩
def BOOT.NVM_STATUS_BUSY : Fld := ⟨0x40018, 0, 1⟩
def BOOT.NVM_STATUS_RESULT : Fld := ⟨0x40018, 4, 4⟩
def BOOT.NVM_ERASE : Fld := ⟨0x40020, 0, 2⟩
def BOOT.NVM_BUF (i : Nat) : Fld := ⟨0x40100 + 0x4 * i, 0, 32⟩
def LDG.CTRL : Fld := ⟨0x50000, 0, 1⟩
def LDG.SIGN_INTERVAL : Fld := ⟨0x50004, 0, 32⟩
def LDG.FLUSH_T : Fld := ⟨0x50008, 0, 16⟩
def LDG.DRING_BASE : Fld := ⟨0x50010, 0, 64⟩
def LDG.DRING_SIZE : Fld := ⟨0x50018, 0, 16⟩
def LDG.DRING_LEVEL : Fld := ⟨0x5001c, 0, 32⟩
def LDG.STATUS_COLLAPSED : Fld := ⟨0x50020, 0, 1⟩
def LDG.STATUS_SIGN_PENDING : Fld := ⟨0x50020, 1, 1⟩
def LDG.STATUS_SEALING : Fld := ⟨0x50020, 2, 1⟩
def LDG.STATUS_SEALED : Fld := ⟨0x50020, 3, 1⟩
def LDG.STATUS_SEAL_FAILED : Fld := ⟨0x50020, 4, 1⟩
def LDG.STATUS_FREE : Fld := ⟨0x50020, 16, 10⟩
def LDG.NEXT_SEQ : Fld := ⟨0x50028, 0, 64⟩
def LDG.NEXT_BLOCK : Fld := ⟨0x50030, 0, 64⟩
def LDG.CHAIN_ID : Fld := ⟨0x50038, 0, 64⟩
def LDG.LATE_COUNT : Fld := ⟨0x50040, 0, 32⟩
def LDG.SUMMARY_COUNT : Fld := ⟨0x50044, 0, 32⟩
def LDG.SIGN_COUNT : Fld := ⟨0x50048, 0, 32⟩
def LDG.POST_SEAL : Fld := ⟨0x5004c, 0, 32⟩
def LDG.RESET : Fld := ⟨0x50050, 0, 1⟩
def LDG.RESET_RESULT : Fld := ⟨0x50058, 0, 4⟩
def LDG.LAST_DIGEST (i : Nat) : Fld := ⟨0x50060 + 0x4 * i, 0, 32⟩
def LDG.CERT_LEN : Fld := ⟨0x50080, 0, 12⟩
def LDG.PUBKEY (i : Nat) : Fld := ⟨0x50100 + 0x4 * i, 0, 32⟩
def LDG.CERT (i : Nat) : Fld := ⟨0x51000 + 0x4 * i, 0, 32⟩
def LDG.SEALBUF (i : Nat) : Fld := ⟨0x58000 + 0x4 * i, 0, 32⟩
def TOK.STATUS_AUDIT_OK : Fld := ⟨0x60000, 0, 7⟩
def TOK.STATUS_RESETTING : Fld := ⟨0x60000, 8, 7⟩
def TOK.CTRL : Fld := ⟨0x60004, 0, 7⟩
def TOK.RECON_COUNT : Fld := ⟨0x60008, 0, 32⟩
def TOK.RESET_RETURNED : Fld := ⟨0x6000c, 0, 32⟩
def TOK.POOL_SIZE (i : Nat) : Fld := ⟨0x60100 + 0x20 * i, 0, 32⟩
def TOK.POOL_FREE (i : Nat) : Fld := ⟨0x60104 + 0x20 * i, 0, 32⟩
def TOK.POOL_HELD (i : Nat) : Fld := ⟨0x60108 + 0x20 * i, 0, 32⟩
def TOK.POOL_INFLIGHT (i : Nat) : Fld := ⟨0x6010c + 0x20 * i, 0, 32⟩
def TOK.POOL_MIN_FREE (i : Nat) : Fld := ⟨0x60110 + 0x20 * i, 0, 32⟩
def TOK.POOL_WAITS (i : Nat) : Fld := ⟨0x60114 + 0x20 * i, 0, 32⟩
def TOK.POOL_DENIED (i : Nat) : Fld := ⟨0x60118 + 0x20 * i, 0, 32⟩
def TOK.OUT_OUT (i j : Nat) : Fld := ⟨0x61000 + 0x200 * i + 0x4 * j, 0, 16⟩
def TOK.OUT_PEAK (i j : Nat) : Fld := ⟨0x61000 + 0x200 * i + 0x4 * j, 16, 16⟩
def HDMA.WB_BASE : Fld := ⟨0x70000, 0, 64⟩
def HDMA.FLUSH_US : Fld := ⟨0x70008, 0, 16⟩
def HDMA.PL_SEQ : Fld := ⟨0x7000c, 0, 32⟩
def HDMA.LINK_STATUS_WIDTH : Fld := ⟨0x70010, 0, 4⟩
def HDMA.LINK_STATUS_SPEED : Fld := ⟨0x70010, 4, 4⟩
def HDMA.LINK_STATUS_L0 : Fld := ⟨0x70010, 8, 1⟩
def HDMA.LINK_STATUS_L1 : Fld := ⟨0x70010, 9, 1⟩
def HDMA.LINK_STATUS_DOWNS : Fld := ⟨0x70010, 16, 16⟩
def HDMA.RING_BASE (i : Nat) : Fld := ⟨0x70100 + 0x40 * i, 0, 64⟩
def HDMA.RING_SIZE (i : Nat) : Fld := ⟨0x70108 + 0x40 * i, 0, 17⟩
def HDMA.RING_CTRL_EN (i : Nat) : Fld := ⟨0x7010c + 0x40 * i, 0, 1⟩
def HDMA.RING_CTRL_SKIP (i : Nat) : Fld := ⟨0x7010c + 0x40 * i, 1, 1⟩
def HDMA.RING_CTRL_RETRY (i : Nat) : Fld := ⟨0x7010c + 0x40 * i, 2, 1⟩
def HDMA.RING_HOST_PTR (i : Nat) : Fld := ⟨0x70110 + 0x40 * i, 0, 32⟩
def HDMA.RING_DEV_PTR (i : Nat) : Fld := ⟨0x70114 + 0x40 * i, 0, 32⟩
def HDMA.RING_STATUS_ACTIVE (i : Nat) : Fld := ⟨0x70118 + 0x40 * i, 0, 1⟩
def HDMA.RING_STATUS_DESC_ERR (i : Nat) : Fld := ⟨0x70118 + 0x40 * i, 1, 1⟩
def HDMA.RING_STATUS_HOST_ERR (i : Nat) : Fld := ⟨0x70118 + 0x40 * i, 2, 1⟩
def HDMA.RING_STATUS_PTR_ERR (i : Nat) : Fld := ⟨0x70118 + 0x40 * i, 3, 1⟩
def HDMA.VEC_MOD (i : Nat) : Fld := ⟨0x70400 + 0x4 * i, 0, 16⟩
def DRC.CONFIG_MAP : Fld := ⟨0x80000, 0, 2⟩
def DRC.CONFIG_BIN_MAX : Fld := ⟨0x80000, 2, 2⟩
def DRC.CONFIG_DENSITY : Fld := ⟨0x80000, 4, 2⟩
def DRC.CONFIG_PD_EN : Fld := ⟨0x80000, 6, 1⟩
def DRC.CONFIG_PD_IDLE : Fld := ⟨0x80000, 16, 16⟩
def DRC.STATUS_BIN : Fld := ⟨0x80004, 0, 2⟩
def DRC.STATUS_IN_SERVICE : Fld := ⟨0x80004, 4, 4⟩
def DRC.STATUS_RETIRED : Fld := ⟨0x80004, 8, 4⟩
def DRC.STATUS_INIT_DONE : Fld := ⟨0x80004, 12, 1⟩
def DRC.STATUS_AVAIL : Fld := ⟨0x80004, 13, 1⟩
def DRC.STATUS_FALLBACK : Fld := ⟨0x80004, 14, 1⟩
def DRC.USABLE : Fld := ⟨0x80008, 0, 64⟩
def DRC.MAP3_PORT (i : Nat) : Fld := ⟨0x80010 + 0x4 * i, 0, 4⟩
def DRC.PORT_TARGET (i : Nat) : Fld := ⟨0x80040 + 0x4 * i, 0, 16⟩
def DRC.PORT_MAXLAT (i : Nat) : Fld := ⟨0x80080 + 0x4 * i, 0, 32⟩
def DRC.PORT_OVERDUE (i : Nat) : Fld := ⟨0x800c0 + 0x4 * i, 0, 32⟩
def DRC.REF_PAIR_F (i : Nat) : Fld := ⟨0x80100 + 0x4 * i, 0, 3⟩
def DRC.REF_PAIR_MAX_DEBT (i : Nat) : Fld := ⟨0x80100 + 0x4 * i, 16, 16⟩
def DRC.REF_URGENT : Fld := ⟨0x80110, 0, 32⟩
def DRC.SCRUB : Fld := ⟨0x80120, 0, 32⟩
def DRC.CE_COUNT : Fld := ⟨0x80124, 0, 32⟩
def DRC.UE_COUNT : Fld := ⟨0x80128, 0, 32⟩
def DRC.DRIFT_COUNT : Fld := ⟨0x8012c, 0, 32⟩
def DRC.VERIFY_W : Fld := ⟨0x80130, 0, 6⟩
def DRC.VERIFY_PERIOD : Fld := ⟨0x80130, 16, 16⟩
def DRC.LAST_UE : Fld := ⟨0x80138, 0, 64⟩
def DRC.DLY_CA (i : Nat) : Fld := ⟨0x81000 + 0x100 * i, 0, 14⟩
def DRC.DLY_VREF_CA (i : Nat) : Fld := ⟨0x81004 + 0x100 * i, 0, 7⟩
def DRC.DLY_WR (i j : Nat) : Fld := ⟨0x81040 + 0x100 * i + 0x40 * j, 0, 14⟩
def DRC.DLY_RD (i j : Nat) : Fld := ⟨0x81044 + 0x100 * i + 0x40 * j, 0, 14⟩
def DRC.DLY_VREF_DQ (i j : Nat) : Fld := ⟨0x81048 + 0x100 * i + 0x40 * j, 0, 7⟩
def DRC.DLY_RD_DSK0_K0 (i j : Nat) : Fld := ⟨0x81050 + 0x100 * i + 0x40 * j, 0, 6⟩
def DRC.DLY_RD_DSK0_K1 (i j : Nat) : Fld := ⟨0x81050 + 0x100 * i + 0x40 * j, 8, 6⟩
def DRC.DLY_RD_DSK0_K2 (i j : Nat) : Fld := ⟨0x81050 + 0x100 * i + 0x40 * j, 16, 6⟩
def DRC.DLY_RD_DSK0_K3 (i j : Nat) : Fld := ⟨0x81050 + 0x100 * i + 0x40 * j, 24, 6⟩
def DRC.DLY_RD_DSK1_K0 (i j : Nat) : Fld := ⟨0x81054 + 0x100 * i + 0x40 * j, 0, 6⟩
def DRC.DLY_RD_DSK1_K1 (i j : Nat) : Fld := ⟨0x81054 + 0x100 * i + 0x40 * j, 8, 6⟩
def DRC.DLY_RD_DSK1_K2 (i j : Nat) : Fld := ⟨0x81054 + 0x100 * i + 0x40 * j, 16, 6⟩
def DRC.DLY_RD_DSK1_K3 (i j : Nat) : Fld := ⟨0x81054 + 0x100 * i + 0x40 * j, 24, 6⟩
def DRC.DLY_WR_DSK0_K0 (i j : Nat) : Fld := ⟨0x81058 + 0x100 * i + 0x40 * j, 0, 6⟩
def DRC.DLY_WR_DSK0_K1 (i j : Nat) : Fld := ⟨0x81058 + 0x100 * i + 0x40 * j, 8, 6⟩
def DRC.DLY_WR_DSK0_K2 (i j : Nat) : Fld := ⟨0x81058 + 0x100 * i + 0x40 * j, 16, 6⟩
def DRC.DLY_WR_DSK0_K3 (i j : Nat) : Fld := ⟨0x81058 + 0x100 * i + 0x40 * j, 24, 6⟩
def DRC.DLY_WR_DSK1_K0 (i j : Nat) : Fld := ⟨0x8105c + 0x100 * i + 0x40 * j, 0, 6⟩
def DRC.DLY_WR_DSK1_K1 (i j : Nat) : Fld := ⟨0x8105c + 0x100 * i + 0x40 * j, 8, 6⟩
def DRC.DLY_WR_DSK1_K2 (i j : Nat) : Fld := ⟨0x8105c + 0x100 * i + 0x40 * j, 16, 6⟩
def DRC.DLY_WR_DSK1_K3 (i j : Nat) : Fld := ⟨0x8105c + 0x100 * i + 0x40 * j, 24, 6⟩
def DRC.DLY_DMI_DSK_RD (i j : Nat) : Fld := ⟨0x81060 + 0x100 * i + 0x40 * j, 0, 6⟩
def DRC.DLY_DMI_DSK_WR (i j : Nat) : Fld := ⟨0x81060 + 0x100 * i + 0x40 * j, 8, 6⟩
def TRG.OWN : Fld := ⟨0x90000, 0, 8⟩
def TRG.SW_PULSE : Fld := ⟨0x90004, 0, 8⟩
def TRG.STATUS_LEVEL : Fld := ⟨0x90008, 0, 8⟩
def TRG.STATUS_DRIVING : Fld := ⟨0x90008, 8, 8⟩
def TRG.STATUS_CONTEND : Fld := ⟨0x90008, 16, 8⟩
def TRG.WIDTH (i : Nat) : Fld := ⟨0x90010 + 0x4 * i, 0, 16⟩
def TRG.SKEW (i : Nat) : Fld := ⟨0x90030 + 0x4 * i, 0, 16⟩
def TRG.LOST : Fld := ⟨0x90050, 0, 32⟩
def TIA.TIMEOUT : Fld := ⟨0xa0000, 0, 32⟩
def TIA.ACTIVE : Fld := ⟨0xa0008, 0, 64⟩
def TIA.DONE : Fld := ⟨0xa0010, 0, 64⟩
def TIA.TMO : Fld := ⟨0xa0018, 0, 64⟩
def TIA.RES_FIFO : Fld := ⟨0xa0020, 0, 32⟩
def TIA.RES_LEVEL_LEVEL : Fld := ⟨0xa0024, 0, 9⟩
def TIA.RES_LEVEL_DWORD : Fld := ⟨0xa0024, 9, 3⟩
def TIA.RES_LOST : Fld := ⟨0xa0028, 0, 32⟩
def TIA.ARM_IGNORED : Fld := ⟨0xa002c, 0, 32⟩
def TIA.SRING_BASE : Fld := ⟨0xa0030, 0, 64⟩
def TIA.SRING_SIZE : Fld := ⟨0xa0038, 0, 16⟩
def TIA.M_CFG_FUNC (i : Nat) : Fld := ⟨0xa1000 + 0x80 * i, 0, 4⟩
def TIA.M_CFG_CLASS (i : Nat) : Fld := ⟨0xa1000 + 0x80 * i, 4, 1⟩
def TIA.M_CFG_A_EDGE (i : Nat) : Fld := ⟨0xa1000 + 0x80 * i, 8, 2⟩
def TIA.M_CFG_B_EDGE (i : Nat) : Fld := ⟨0xa1000 + 0x80 * i, 10, 2⟩
def TIA.M_CFG_COUNT (i : Nat) : Fld := ⟨0xa1000 + 0x80 * i, 16, 16⟩
def TIA.M_CH_A (i : Nat) : Fld := ⟨0xa1004 + 0x80 * i, 0, 11⟩
def TIA.M_CH_B (i : Nat) : Fld := ⟨0xa1008 + 0x80 * i, 0, 11⟩
def TIA.M_GATE_START (i : Nat) : Fld := ⟨0xa100c + 0x80 * i, 0, 64⟩
def TIA.M_GATE_LEN (i : Nat) : Fld := ⟨0xa1014 + 0x80 * i, 0, 32⟩
def TIA.M_CTRL_ARM (i : Nat) : Fld := ⟨0xa1018 + 0x80 * i, 0, 1⟩
def TIA.M_CTRL_STOP (i : Nat) : Fld := ⟨0xa1018 + 0x80 * i, 1, 1⟩
def TIA.M_STATE_STATE (i : Nat) : Fld := ⟨0xa101c + 0x80 * i, 0, 3⟩
def TIA.M_STATE_LAST_STATUS (i : Nat) : Fld := ⟨0xa101c + 0x80 * i, 8, 4⟩
def TIA.M_STATE_DONE_REPS (i : Nat) : Fld := ⟨0xa101c + 0x80 * i, 16, 16⟩
def TIA.M_RES (i j : Nat) : Fld := ⟨0xa1020 + 0x80 * i + 0x4 * j, 0, 32⟩
def AQ.CFG_KIND (n : Nat) : Fld := ⟨0xb0000 + 0x2000 * n, 0, 2⟩
def AQ.CFG_CMP_COUNT (n : Nat) : Fld := ⟨0xb0000 + 0x2000 * n, 4, 2⟩
def AQ.CFG_CMP_FIRST (n : Nat) : Fld := ⟨0xb0000 + 0x2000 * n, 16, 10⟩
def AQ.DIV (n : Nat) : Fld := ⟨0xb0004 + 0x2000 * n, 0, 16⟩
def AQ.PRE (n : Nat) : Fld := ⟨0xb0008 + 0x2000 * n, 0, 24⟩
def AQ.POST (n : Nat) : Fld := ⟨0xb000c + 0x2000 * n, 0, 24⟩
def AQ.SEGS (n : Nat) : Fld := ⟨0xb0010 + 0x2000 * n, 0, 11⟩
def AQ.SLOT (n : Nat) : Fld := ⟨0xb0014 + 0x2000 * n, 0, 16⟩
def AQ.TRIG_TRIG_SRC (n : Nat) : Fld := ⟨0xb0018 + 0x2000 * n, 0, 2⟩
def AQ.TRIG_LINE (n : Nat) : Fld := ⟨0xb0018 + 0x2000 * n, 2, 3⟩
def AQ.TRIG_EDGE (n : Nat) : Fld := ⟨0xb0018 + 0x2000 * n, 5, 2⟩
def AQ.TRIG_SMC (n : Nat) : Fld := ⟨0xb0018 + 0x2000 * n, 8, 8⟩
def AQ.TRIG_MON (n : Nat) : Fld := ⟨0xb0018 + 0x2000 * n, 16, 2⟩
def AQ.TRIG_ENG (n : Nat) : Fld := ⟨0xb0018 + 0x2000 * n, 18, 2⟩
def AQ.TRIG_SITE (n : Nat) : Fld := ⟨0xb0018 + 0x2000 * n, 20, 7⟩
def AQ.TRIG_SKEW (n : Nat) : Fld := ⟨0xb001c + 0x2000 * n, 0, 16⟩
def AQ.CLAIM (n : Nat) : Fld := ⟨0xb0020 + 0x2000 * n, 0, 32⟩
def AQ.SPILL (n : Nat) : Fld := ⟨0xb0024 + 0x2000 * n, 0, 1⟩
def AQ.DRING_BASE (n : Nat) : Fld := ⟨0xb0028 + 0x2000 * n, 0, 64⟩
def AQ.DRING_SIZE (n : Nat) : Fld := ⟨0xb0030 + 0x2000 * n, 0, 16⟩
def AQ.PART_BASE (n : Nat) : Fld := ⟨0xb0034 + 0x2000 * n, 0, 6⟩
def AQ.PART_GRAN (n : Nat) : Fld := ⟨0xb0034 + 0x2000 * n, 8, 7⟩
def AQ.PART_PART_RESULT (n : Nat) : Fld := ⟨0xb0034 + 0x2000 * n, 16, 4⟩
def AQ.SMC_SEL_SMC (n i : Nat) : Fld := ⟨0xb0040 + 0x2000 * n + 0x4 * i, 0, 8⟩
def AQ.SMC_SEL_QTY (n i : Nat) : Fld := ⟨0xb0040 + 0x2000 * n + 0x4 * i, 8, 2⟩
def AQ.SMC_SEL_EN (n i : Nat) : Fld := ⟨0xb0040 + 0x2000 * n + 0x4 * i, 15, 1⟩
def AQ.CTRL_ARM (n : Nat) : Fld := ⟨0xb0080 + 0x2000 * n, 0, 1⟩
def AQ.CTRL_TRIGGER (n : Nat) : Fld := ⟨0xb0080 + 0x2000 * n, 1, 1⟩
def AQ.CTRL_DISARM (n : Nat) : Fld := ⟨0xb0080 + 0x2000 * n, 2, 1⟩
def AQ.STATUS_STATE (n : Nat) : Fld := ⟨0xb0084 + 0x2000 * n, 0, 3⟩
def AQ.STATUS_POST_DONE (n : Nat) : Fld := ⟨0xb0084 + 0x2000 * n, 3, 1⟩
def AQ.STATUS_SUPP (n : Nat) : Fld := ⟨0xb0084 + 0x2000 * n, 4, 1⟩
def AQ.STATUS_ARM_RESULT (n : Nat) : Fld := ⟨0xb0084 + 0x2000 * n, 8, 4⟩
def AQ.STATUS_SEG (n : Nat) : Fld := ⟨0xb0084 + 0x2000 * n, 16, 11⟩
def AQ.TRIG_SUPPRESSED (n : Nat) : Fld := ⟨0xb0088 + 0x2000 * n, 0, 32⟩
def AQ.OUTSIDE (n : Nat) : Fld := ⟨0xb008c + 0x2000 * n, 0, 32⟩
def AQ.ARM_NUM (n : Nat) : Fld := ⟨0xb0090 + 0x2000 * n, 0, 16⟩
def CAL.CTRL : Fld := ⟨0xc0000, 0, 1⟩
def CAL.SPARE_DIS_P : Fld := ⟨0xc0008, 0, 32⟩
def CAL.SPARE_DIS_S : Fld := ⟨0xc0010, 0, 16⟩
def CAL.VREF_UV : Fld := ⟨0xc0020, 0, 32⟩
def CAL.RREF_MOHM : Fld := ⟨0xc0024, 0, 32⟩
def CAL.TREF_CFG_EN : Fld := ⟨0xc0028, 0, 1⟩
def CAL.TREF_CFG_SKEW : Fld := ⟨0xc0028, 16, 16⟩
def CAL.REF_STATUS_VREF_OK : Fld := ⟨0xc002c, 0, 1⟩
def CAL.REF_STATUS_RREF_OK : Fld := ⟨0xc002c, 1, 1⟩
def CAL.REF_STATUS_TREF_SEEN : Fld := ⟨0xc002c, 2, 1⟩
def CAL.AGE_LIMIT : Fld := ⟨0xc0030, 0, 32⟩
def CAL.BAND_PIN : Fld := ⟨0xc0034, 0, 5⟩
def CAL.BAND_SMC : Fld := ⟨0xc0034, 8, 5⟩
def CAL.PACE_MAX : Fld := ⟨0xc0038, 0, 16⟩
def CAL.ROT_STATUS_PACED : Fld := ⟨0xc0040, 0, 1⟩
def CAL.ROT_STATUS_REF_HOLD : Fld := ⟨0xc0040, 1, 1⟩
def CAL.REJECT_COUNT : Fld := ⟨0xc0080, 0, 32⟩
def CAL.PASS_COUNT : Fld := ⟨0xc0084, 0, 32⟩
def CAL.CONFLICT_COUNT : Fld := ⟨0xc0088, 0, 32⟩
def CAL.HANDOVER_COUNT : Fld := ⟨0xc008c, 0, 32⟩
def CAL.OVERDUE : Fld := ⟨0xc0090, 0, 64⟩
def CAL.COMMITTED : Fld := ⟨0xc0098, 0, 64⟩
def CAL.BANK_STATE_STATE (i : Nat) : Fld := ⟨0xc0100 + 0x4 * i, 0, 3⟩
def CAL.BANK_STATE_SP_FAILED (i : Nat) : Fld := ⟨0xc0100 + 0x4 * i, 3, 1⟩
def CAL.BANK_STATE_CUR (i : Nat) : Fld := ⟨0xc0100 + 0x4 * i, 8, 6⟩
def CAL.BANK_STATE_COMMIT_C (i : Nat) : Fld := ⟨0xc0100 + 0x4 * i, 16, 6⟩
def CAL.GRP_STATE_STATE (i : Nat) : Fld := ⟨0xc0180 + 0x4 * i, 0, 3⟩
def CAL.GRP_STATE_SP_FAILED (i : Nat) : Fld := ⟨0xc0180 + 0x4 * i, 3, 1⟩
def CAL.GRP_STATE_CUR (i : Nat) : Fld := ⟨0xc0180 + 0x4 * i, 8, 6⟩
def CAL.GRP_STATE_COMMIT_C (i : Nat) : Fld := ⟨0xc0180 + 0x4 * i, 16, 6⟩
def CAL.TRIM_PIN_P (i : Nat) : Fld := ⟨0xc0200 + 0x4 * i, 0, 32⟩
def CAL.TRIM_PIN_S (i : Nat) : Fld := ⟨0xc0300 + 0x4 * i, 0, 32⟩
def CAL.SMC_HO_GATE (i : Nat) : Fld := ⟨0xc0400 + 0x4 * i, 0, 2⟩
def CAL.SMC_HO_ENG (i : Nat) : Fld := ⟨0xc0400 + 0x4 * i, 2, 2⟩
def HKS.VERSION_ROM_LEVEL : Fld := ⟨0xd0000, 0, 16⟩
def HKS.VERSION_PATCH_LEVEL : Fld := ⟨0xd0000, 16, 16⟩
def HKS.PATCH_STATUS : Fld := ⟨0xd0004, 0, 4⟩
def HKS.SRAM_SCRUB : Fld := ⟨0xd0800, 0, 16⟩
def HKS.SRAM_CE (i : Nat) : Fld := ⟨0xd0810 + 0x4 * i, 0, 32⟩
def HKS.SRAM_UE (i : Nat) : Fld := ⟨0xd0840 + 0x4 * i, 0, 32⟩
def SEQ.CTRL_START (n : Nat) : Fld := ⟨0x100000 + 0x10000 * n, 0, 1⟩
def SEQ.CTRL_PAUSE (n : Nat) : Fld := ⟨0x100000 + 0x10000 * n, 1, 1⟩
def SEQ.CTRL_RESUME (n : Nat) : Fld := ⟨0x100000 + 0x10000 * n, 2, 1⟩
def SEQ.CTRL_ABORT (n : Nat) : Fld := ⟨0x100000 + 0x10000 * n, 3, 1⟩
def SEQ.CTRL_START_RESULT (n : Nat) : Fld := ⟨0x100000 + 0x10000 * n, 8, 4⟩
def SEQ.START_ADDR (n : Nat) : Fld := ⟨0x100004 + 0x10000 * n, 0, 14⟩
def SEQ.START_AT (n : Nat) : Fld := ⟨0x100008 + 0x10000 * n, 0, 64⟩
def SEQ.STATUS_STATE (n : Nat) : Fld := ⟨0x100010 + 0x10000 * n, 0, 3⟩
def SEQ.STATUS_PROG_VALID (n : Nat) : Fld := ⟨0x100010 + 0x10000 * n, 3, 1⟩
def SEQ.STATUS_LAST_END (n : Nat) : Fld := ⟨0x100010 + 0x10000 * n, 4, 2⟩
def SEQ.STATUS_RES_VALID (n : Nat) : Fld := ⟨0x100010 + 0x10000 * n, 6, 1⟩
def SEQ.STATUS_PAUSE_PENDING (n : Nat) : Fld := ⟨0x100010 + 0x10000 * n, 7, 1⟩
def SEQ.STATUS_TRIG_DENIED (n : Nat) : Fld := ⟨0x100010 + 0x10000 * n, 8, 1⟩
def SEQ.STATUS_DEPTH (n : Nat) : Fld := ⟨0x100010 + 0x10000 * n, 9, 4⟩
def SEQ.STATUS_PC (n : Nat) : Fld := ⟨0x100010 + 0x10000 * n, 16, 14⟩
def SEQ.CONFIG_POS_COUNT (n : Nat) : Fld := ⟨0x100014 + 0x10000 * n, 0, 9⟩
def SEQ.CONFIG_ALLDROP_HALT (n : Nat) : Fld := ⟨0x100014 + 0x10000 * n, 9, 1⟩
def SEQ.SW_FLAGS (n : Nat) : Fld := ⟨0x100018 + 0x10000 * n, 0, 4⟩
def SEQ.SEG_TRIG_LINE (n : Nat) : Fld := ⟨0x10001c + 0x10000 * n, 0, 3⟩
def SEQ.SEG_TRIG_EN (n : Nat) : Fld := ⟨0x10001c + 0x10000 * n, 3, 1⟩
def SEQ.CAP_SET_SET_A (n : Nat) : Fld := ⟨0x100020 + 0x10000 * n, 0, 8⟩
def SEQ.CAP_SET_SET_B (n : Nat) : Fld := ⟨0x100020 + 0x10000 * n, 8, 8⟩
def SEQ.TIA_SEL (n : Nat) : Fld := ⟨0x100024 + 0x10000 * n, 0, 32⟩
def SEQ.MON_SEL_K0 (n : Nat) : Fld := ⟨0x100028 + 0x10000 * n, 0, 6⟩
def SEQ.MON_SEL_EN0 (n : Nat) : Fld := ⟨0x100028 + 0x10000 * n, 7, 1⟩
def SEQ.MON_SEL_K1 (n : Nat) : Fld := ⟨0x100028 + 0x10000 * n, 8, 6⟩
def SEQ.MON_SEL_EN1 (n : Nat) : Fld := ⟨0x100028 + 0x10000 * n, 15, 1⟩
def SEQ.MON_SEL_K2 (n : Nat) : Fld := ⟨0x100028 + 0x10000 * n, 16, 6⟩
def SEQ.MON_SEL_EN2 (n : Nat) : Fld := ⟨0x100028 + 0x10000 * n, 23, 1⟩
def SEQ.MON_SEL_K3 (n : Nat) : Fld := ⟨0x100028 + 0x10000 * n, 24, 6⟩
def SEQ.MON_SEL_EN3 (n : Nat) : Fld := ⟨0x100028 + 0x10000 * n, 31, 1⟩
def SEQ.PROG_ID (n : Nat) : Fld := ⟨0x100030 + 0x10000 * n, 0, 64⟩
def SEQ.PROG_CRC (n : Nat) : Fld := ⟨0x100038 + 0x10000 * n, 0, 32⟩
def SEQ.LOAD_STATUS_REASON (n : Nat) : Fld := ⟨0x10003c + 0x10000 * n, 0, 4⟩
def SEQ.LOAD_STATUS_FIRST_BAD (n : Nat) : Fld := ⟨0x10003c + 0x10000 * n, 16, 14⟩
def SEQ.VEC_NUM (n : Nat) : Fld := ⟨0x100040 + 0x10000 * n, 0, 64⟩
def SEQ.SEG_NUM (n : Nat) : Fld := ⟨0x100048 + 0x10000 * n, 0, 32⟩
def SEQ.RES_INFO_PC (n : Nat) : Fld := ⟨0x100080 + 0x10000 * n, 0, 14⟩
def SEQ.RES_INFO_DEPTH (n : Nat) : Fld := ⟨0x100080 + 0x10000 * n, 14, 4⟩
def SEQ.RES_INFO_TS (n : Nat) : Fld := ⟨0x100080 + 0x10000 * n, 18, 5⟩
def SEQ.RES_INFO_ATOMIC (n : Nat) : Fld := ⟨0x100080 + 0x10000 * n, 23, 1⟩
def SEQ.RES_INFO_CAUSE (n : Nat) : Fld := ⟨0x100080 + 0x10000 * n, 24, 4⟩
def SEQ.RES_PLAYED (n : Nat) : Fld := ⟨0x100084 + 0x10000 * n, 0, 17⟩
def SEQ.RES_CNT_CLO (n i : Nat) : Fld := ⟨0x100088 + 0x10000 * n + 0x4 * i, 0, 16⟩
def SEQ.RES_CNT_CHI (n i : Nat) : Fld := ⟨0x100088 + 0x10000 * n + 0x4 * i, 16, 16⟩
def SEQ.RES_STACK (n i : Nat) : Fld := ⟨0x100090 + 0x10000 * n + 0x4 * i, 0, 14⟩
def SEQ.RES_MASK (n : Nat) : Fld := ⟨0x1000b0 + 0x10000 * n, 0, 64⟩
def SEQ.RES_VEC (n : Nat) : Fld := ⟨0x1000b8 + 0x10000 * n, 0, 64⟩
def SEQ.RES_STAMP (n : Nat) : Fld := ⟨0x1000c0 + 0x10000 * n, 0, 64⟩
def SEQ.RES_EFFECTS_FIRST (n : Nat) : Fld := ⟨0x1000c8 + 0x10000 * n, 0, 8⟩
def SEQ.RES_EFFECTS_CNT (n : Nat) : Fld := ⟨0x1000c8 + 0x10000 * n, 8, 1⟩
def SEQ.RES_EFFECTS_BOP (n : Nat) : Fld := ⟨0x1000c8 + 0x10000 * n, 9, 1⟩
def SEQ.CACHE_PART_S_BASE (n : Nat) : Fld := ⟨0x100100 + 0x10000 * n, 0, 6⟩
def SEQ.CACHE_PART_S_GRAN (n : Nat) : Fld := ⟨0x100100 + 0x10000 * n, 8, 6⟩
def SEQ.CACHE_PART_P_BASE (n : Nat) : Fld := ⟨0x100100 + 0x10000 * n, 16, 6⟩
def SEQ.CACHE_PART_P_GRAN (n : Nat) : Fld := ⟨0x100100 + 0x10000 * n, 24, 6⟩
def SEQ.STREAM_CTRL (n : Nat) : Fld := ⟨0x100104 + 0x10000 * n, 0, 1⟩
def SEQ.STREAM_LOWWATER (n : Nat) : Fld := ⟨0x100108 + 0x10000 * n, 0, 24⟩
def SEQ.STREAM_LEVEL (n : Nat) : Fld := ⟨0x10010c + 0x10000 * n, 0, 24⟩
def SEQ.STREAM_STATUS_PART_RESULT (n : Nat) : Fld := ⟨0x100110 + 0x10000 * n, 0, 4⟩
def SEQ.STREAM_STATUS_DESC_ERR (n : Nat) : Fld := ⟨0x100110 + 0x10000 * n, 4, 1⟩
def SEQ.STREAM_STATUS_EOS (n : Nat) : Fld := ⟨0x100110 + 0x10000 * n, 5, 1⟩
def SEQ.STREAM_STATUS_ALL_IN (n : Nat) : Fld := ⟨0x100110 + 0x10000 * n, 6, 1⟩
def SEQ.STREAM_STATUS_FLUSH_BUSY (n : Nat) : Fld := ⟨0x100110 + 0x10000 * n, 7, 1⟩
def SEQ.STREAM_STATUS_STRIDE (n : Nat) : Fld := ⟨0x100110 + 0x10000 * n, 8, 3⟩
def SEQ.STREAM_SEQ (n : Nat) : Fld := ⟨0x100114 + 0x10000 * n, 0, 32⟩
def SEQ.STREAM_POS (n : Nat) : Fld := ⟨0x100118 + 0x10000 * n, 0, 64⟩
def SEQ.HOLD_LIMIT (n : Nat) : Fld := ⟨0x100120 + 0x10000 * n, 0, 32⟩
def SEQ.HOLD_COUNT (n : Nat) : Fld := ⟨0x100124 + 0x10000 * n, 0, 32⟩
def SEQ.SYMBOL_ERR (n : Nat) : Fld := ⟨0x100128 + 0x10000 * n, 0, 32⟩
def SEQ.SITE_ENABLE (n : Nat) : Fld := ⟨0x100130 + 0x10000 * n, 0, 64⟩
def SEQ.SITE_MASK (n : Nat) : Fld := ⟨0x100138 + 0x10000 * n, 0, 64⟩
def SEQ.SITE_CFG_MASK_MODE (n : Nat) : Fld := ⟨0x100140 + 0x10000 * n, 0, 2⟩
def SEQ.SITE_CFG_DROP_MODE (n : Nat) : Fld := ⟨0x100140 + 0x10000 * n, 4, 2⟩
def SEQ.IDLE_CFG_END_STATE (n : Nat) : Fld := ⟨0x100144 + 0x10000 * n, 0, 2⟩
def SEQ.IDLE_CFG_IDLE_TS (n : Nat) : Fld := ⟨0x100144 + 0x10000 * n, 8, 5⟩
def SEQ.IDLE_COMMIT (n : Nat) : Fld := ⟨0x100148 + 0x10000 * n, 0, 1⟩
def SEQ.IDLE_VEC (n i : Nat) : Fld := ⟨0x100180 + 0x10000 * n + 0x4 * i, 0, 32⟩
def SEQ.KEEPALIVE (n i : Nat) : Fld := ⟨0x100200 + 0x10000 * n + 0x4 * i, 0, 32⟩
def FCAP.PART_ENG_BASE (i : Nat) : Fld := ⟨0x200000 + 0x4 * i, 0, 5⟩
def FCAP.PART_ENG_GRAN (i : Nat) : Fld := ⟨0x200000 + 0x4 * i, 8, 6⟩
def FCAP.PART_ENG_PART_RESULT (i : Nat) : Fld := ⟨0x200000 + 0x4 * i, 16, 4⟩
def FCAP.ENG_CFG_MODE (i : Nat) : Fld := ⟨0x200100 + 0x100 * i, 0, 2⟩
def FCAP.ENG_CFG_DROP_TIMING (i : Nat) : Fld := ⟨0x200100 + 0x100 * i, 4, 1⟩
def FCAP.ENG_CFG_SPILL_EN (i : Nat) : Fld := ⟨0x200100 + 0x100 * i, 8, 1⟩
def FCAP.ENG_CFG_MAP_CLR (i : Nat) : Fld := ⟨0x200100 + 0x100 * i, 9, 1⟩
def FCAP.ENG_FIRST_N (i : Nat) : Fld := ⟨0x200104 + 0x100 * i, 0, 16⟩
def FCAP.ENG_STATUS_DRAINING (i : Nat) : Fld := ⟨0x200108 + 0x100 * i, 0, 1⟩
def FCAP.ENG_STATUS_WITHHOLDING (i : Nat) : Fld := ⟨0x200108 + 0x100 * i, 1, 1⟩
def FCAP.ENG_STATUS_DUMP_BUSY (i : Nat) : Fld := ⟨0x200108 + 0x100 * i, 2, 1⟩
def FCAP.ENG_TOTAL (i : Nat) : Fld := ⟨0x200110 + 0x100 * i, 0, 64⟩
def FCAP.ENG_WITHHELD (i : Nat) : Fld := ⟨0x200118 + 0x100 * i, 0, 64⟩
def FCAP.ENG_WRITTEN (i : Nat) : Fld := ⟨0x200120 + 0x100 * i, 0, 64⟩
def FCAP.ENG_SKIPPED (i : Nat) : Fld := ⟨0x200128 + 0x100 * i, 0, 32⟩
def FCAP.ENG_CAP_SKIPPED (i : Nat) : Fld := ⟨0x20012c + 0x100 * i, 0, 32⟩
def FCAP.ENG_MAP_RANGE (i : Nat) : Fld := ⟨0x200130 + 0x100 * i, 0, 32⟩
def FCAP.ENG_MAP_BASE (i : Nat) : Fld := ⟨0x200134 + 0x100 * i, 0, 32⟩
def FCAP.ENG_MAP_SHIFT (i : Nat) : Fld := ⟨0x200138 + 0x100 * i, 0, 5⟩
def FCAP.ENG_MAP_CTRL (i : Nat) : Fld := ⟨0x20013c + 0x100 * i, 0, 1⟩
def FCAP.ENG_DRING_BASE (i : Nat) : Fld := ⟨0x200140 + 0x100 * i, 0, 64⟩
def FCAP.ENG_DRING_SIZE (i : Nat) : Fld := ⟨0x200148 + 0x100 * i, 0, 16⟩
def FCAP.SITE_COUNT (i : Nat) : Fld := ⟨0x201000 + 0x8 * i, 0, 64⟩
def FCAP.SITE_LIMIT (i : Nat) : Fld := ⟨0x201200 + 0x4 * i, 0, 32⟩
def FCAP.DROP : Fld := ⟨0x201300, 0, 64⟩
def FCAP.PENDING : Fld := ⟨0x201308, 0, 64⟩
def FCAP.SEGF : Fld := ⟨0x201310, 0, 64⟩
def FCAP.FIRST_FAIL (i : Nat) : Fld := ⟨0x202000 + 0x8 * i, 0, 64⟩
def FCAP.CH_COUNT (i : Nat) : Fld := ⟨0x204000 + 0x4 * i, 0, 32⟩
def TSET.STAGE (n i : Nat) : Fld := ⟨0x1000000 + 0x100000 * n + 0x4 * i, 0, 32⟩
def TSET.STAGE_WRITE_TS (n : Nat) : Fld := ⟨0x1000018 + 0x100000 * n, 0, 5⟩
def TSET.STAGE_WRITE_POS_FIRST (n : Nat) : Fld := ⟨0x1000018 + 0x100000 * n, 8, 8⟩
def TSET.STAGE_WRITE_POS_LAST (n : Nat) : Fld := ⟨0x1000018 + 0x100000 * n, 16, 8⟩
def TSET.WRITE_STATUS_RESULT (n : Nat) : Fld := ⟨0x100001c + 0x100000 * n, 0, 4⟩
def TSET.WRITE_STATUS_BUSY (n : Nat) : Fld := ⟨0x100001c + 0x100000 * n, 8, 1⟩
def TSET.COMMIT_COMMIT (n : Nat) : Fld := ⟨0x1000020 + 0x100000 * n, 0, 1⟩
def TSET.COMMIT_COMMIT_RESULT (n : Nat) : Fld := ⟨0x1000020 + 0x100000 * n, 8, 4⟩
def TSET.COMMIT_COUNT (n : Nat) : Fld := ⟨0x1000024 + 0x100000 * n, 0, 32⟩
def TSET.ORIGIN (n : Nat) : Fld := ⟨0x1000028 + 0x100000 * n, 0, 64⟩
def TSET.EDGE_DROP (n : Nat) : Fld := ⟨0x1000030 + 0x100000 * n, 0, 32⟩
def TSET.STROBE_DROP (n : Nat) : Fld := ⟨0x1000034 + 0x100000 * n, 0, 32⟩
def TSET.EDGE_RANGE (n : Nat) : Fld := ⟨0x1000038 + 0x100000 * n, 0, 32⟩
def TSET.EDGE_CLAMP (n : Nat) : Fld := ⟨0x100003c + 0x100000 * n, 0, 32⟩
def TSET.SH_PERIOD_LO (n i : Nat) : Fld := ⟨0x1000100 + 0x100000 * n + 0x8 * i, 0, 24⟩
def TSET.SH_PERIOD_HI (n i : Nat) : Fld := ⟨0x1000104 + 0x100000 * n + 0x8 * i, 0, 16⟩
def TSET.ACT_PERIOD_LO (n i : Nat) : Fld := ⟨0x1000200 + 0x100000 * n + 0x8 * i, 0, 24⟩
def TSET.ACT_PERIOD_HI (n i : Nat) : Fld := ⟨0x1000204 + 0x100000 * n + 0x8 * i, 0, 16⟩
def TSET.SH_SITE_DESKEW (n i : Nat) : Fld := ⟨0x1000300 + 0x100000 * n + 0x4 * i, 0, 16⟩
def TSET.ACT_SITE_DESKEW (n i : Nat) : Fld := ⟨0x1000400 + 0x100000 * n + 0x4 * i, 0, 16⟩
def TSET.ACT_ENTRY (n i : Nat) : Fld := ⟨0x1040000 + 0x100000 * n + 0x4 * i, 0, 32⟩
def TSET.SH_ENTRY (n i : Nat) : Fld := ⟨0x1080000 + 0x100000 * n + 0x4 * i, 0, 32⟩
def PINB.CFG_ABORT_STATE (n i : Nat) : Fld := ⟨0x2000000 + 0x10000 * n + 0x400 * i, 0, 2⟩
def PINB.CFG_RX_TERM (n i : Nat) : Fld := ⟨0x2000000 + 0x10000 * n + 0x400 * i, 2, 1⟩
def PINB.CFG_LOAD_EN (n i : Nat) : Fld := ⟨0x2000000 + 0x10000 * n + 0x400 * i, 3, 1⟩
def PINB.CFG_SLEW (n i : Nat) : Fld := ⟨0x2000000 + 0x10000 * n + 0x400 * i, 4, 2⟩
def PINB.CFG_HYST (n i : Nat) : Fld := ⟨0x2000000 + 0x10000 * n + 0x400 * i, 6, 3⟩
def PINB.CFG_CMP_SPEED (n i : Nat) : Fld := ⟨0x2000000 + 0x10000 * n + 0x400 * i, 9, 2⟩
def PINB.CFG_CMP_EN (n i : Nat) : Fld := ⟨0x2000000 + 0x10000 * n + 0x400 * i, 11, 1⟩
def PINB.CFG_CMP_DEF_H (n i : Nat) : Fld := ⟨0x2000000 + 0x10000 * n + 0x400 * i, 12, 1⟩
def PINB.CFG_CMP_DEF_L (n i : Nat) : Fld := ⟨0x2000000 + 0x10000 * n + 0x400 * i, 13, 1⟩
def PINB.CFG_LS_GRP (n i : Nat) : Fld := ⟨0x2000000 + 0x10000 * n + 0x400 * i, 14, 3⟩
def PINB.CFG_LS_IMM (n i : Nat) : Fld := ⟨0x2000000 + 0x10000 * n + 0x400 * i, 17, 1⟩
def PINB.SEL_IRQ_SEL (n i : Nat) : Fld := ⟨0x2000004 + 0x10000 * n + 0x400 * i, 0, 4⟩
def PINB.SEL_WAKE_SEL (n i : Nat) : Fld := ⟨0x2000004 + 0x10000 * n + 0x400 * i, 4, 4⟩
def PINB.SEL_STAMP_SEL (n i : Nat) : Fld := ⟨0x2000004 + 0x10000 * n + 0x400 * i, 8, 4⟩
def PINB.MAP_SITE (n i : Nat) : Fld := ⟨0x2000008 + 0x10000 * n + 0x400 * i, 0, 6⟩
def PINB.MAP_POS (n i : Nat) : Fld := ⟨0x2000008 + 0x10000 * n + 0x400 * i, 8, 8⟩
def PINB.MAP_UNMAPPED (n i : Nat) : Fld := ⟨0x2000008 + 0x10000 * n + 0x400 * i, 16, 1⟩
def PINB.MAP_ACT_SITE (n i : Nat) : Fld := ⟨0x200000c + 0x10000 * n + 0x400 * i, 0, 6⟩
def PINB.MAP_ACT_POS (n i : Nat) : Fld := ⟨0x200000c + 0x10000 * n + 0x400 * i, 8, 8⟩
def PINB.MAP_ACT_UNMAPPED (n i : Nat) : Fld := ⟨0x200000c + 0x10000 * n + 0x400 * i, 16, 1⟩
def PINB.DRV_DESKEW (n i : Nat) : Fld := ⟨0x2000010 + 0x10000 * n + 0x400 * i, 0, 16⟩
def PINB.CMP_DESKEW (n i : Nat) : Fld := ⟨0x2000014 + 0x10000 * n + 0x400 * i, 0, 16⟩
def PINB.LVL (n i j : Nat) : Fld := ⟨0x2000020 + 0x10000 * n + 0x400 * i + 0x4 * j, 0, 16⟩
def PINB.ACT_LVL (n i j : Nat) : Fld := ⟨0x2000040 + 0x10000 * n + 0x400 * i + 0x4 * j, 0, 16⟩
def PINB.CH_STAMP_LOST (n i : Nat) : Fld := ⟨0x2000060 + 0x10000 * n + 0x400 * i, 0, 32⟩
def PINB.CARRY_CARRIER (n i : Nat) : Fld := ⟨0x2000064 + 0x10000 * n + 0x400 * i, 0, 11⟩
def PINB.CARRY_ON_BUS (n i : Nat) : Fld := ⟨0x2000064 + 0x10000 * n + 0x400 * i, 11, 1⟩
def PINB.CARRY_FAILED (n i : Nat) : Fld := ⟨0x2000064 + 0x10000 * n + 0x400 * i, 12, 1⟩
def PINB.CAL (n i j : Nat) : Fld := ⟨0x2000100 + 0x10000 * n + 0x400 * i + 0x4 * j, 0, 32⟩
def PINB.CAL_REJ (n i : Nat) : Fld := ⟨0x2000180 + 0x10000 * n + 0x400 * i, 0, 32⟩
def PINB.CAL_FAILS (n i : Nat) : Fld := ⟨0x2000184 + 0x10000 * n + 0x400 * i, 0, 2⟩
def PINB.CAL_END (n i : Nat) : Fld := ⟨0x2000188 + 0x10000 * n + 0x400 * i, 0, 64⟩
def PINB.HV_EN (n : Nat) : Fld := ⟨0x2009000 + 0x10000 * n, 0, 1⟩
def PINB.CMP_EVT (n : Nat) : Fld := ⟨0x2009010 + 0x10000 * n, 0, 32⟩
def PINB.CMP_EVT_SP (n : Nat) : Fld := ⟨0x2009014 + 0x10000 * n, 0, 1⟩
def PINB.EVT_CFG (n : Nat) : Fld := ⟨0x2009018 + 0x10000 * n, 0, 1⟩
def PINB.UNRES_H (n : Nat) : Fld := ⟨0x2009020 + 0x10000 * n, 0, 32⟩
def PINB.UNRES_L (n : Nat) : Fld := ⟨0x2009024 + 0x10000 * n, 0, 32⟩
def PINB.UNRES_SP_H (n : Nat) : Fld := ⟨0x2009028 + 0x10000 * n, 0, 1⟩
def PINB.UNRES_SP_L (n : Nat) : Fld := ⟨0x2009028 + 0x10000 * n, 1, 1⟩
def PINB.SETTLING (n : Nat) : Fld := ⟨0x200902c + 0x10000 * n, 0, 32⟩
def PINB.SETTLING_SP (n : Nat) : Fld := ⟨0x2009030 + 0x10000 * n, 0, 1⟩
def PINB.CMP_UNREADY (n : Nat) : Fld := ⟨0x2009040 + 0x10000 * n, 0, 32⟩
def PINB.LEVEL_CLAMP (n : Nat) : Fld := ⟨0x2009044 + 0x10000 * n, 0, 32⟩
def PINB.STAMP_CFG (n : Nat) : Fld := ⟨0x2009050 + 0x10000 * n, 0, 2⟩
def PINB.STAMP_LEVEL (n : Nat) : Fld := ⟨0x2009054 + 0x10000 * n, 0, 11⟩
def PINB.STAMP_LOST (n : Nat) : Fld := ⟨0x2009058 + 0x10000 * n, 0, 32⟩
def PINB.GOV_POLICY (n : Nat) : Fld := ⟨0x2009060 + 0x10000 * n, 0, 2⟩
def SMCG.MODE_MODE (n i : Nat) : Fld := ⟨0x3000000 + 0x10000 * n + 0x400 * i, 0, 3⟩
def SMCG.MODE_IRANGE (n i : Nat) : Fld := ⟨0x3000000 + 0x10000 * n + 0x400 * i, 4, 3⟩
def SMCG.MODE_DDS_EN (n i : Nat) : Fld := ⟨0x3000000 + 0x10000 * n + 0x400 * i, 8, 1⟩
def SMCG.FORCE (n i : Nat) : Fld := ⟨0x3000004 + 0x10000 * n + 0x400 * i, 0, 20⟩
def SMCG.CLAMP_V_LO (n i : Nat) : Fld := ⟨0x3000008 + 0x10000 * n + 0x400 * i, 0, 16⟩
def SMCG.CLAMP_V_HI (n i : Nat) : Fld := ⟨0x3000008 + 0x10000 * n + 0x400 * i, 16, 16⟩
def SMCG.CLAMP_I_SRC (n i : Nat) : Fld := ⟨0x300000c + 0x10000 * n + 0x400 * i, 0, 16⟩
def SMCG.CLAMP_I_SNK (n i : Nat) : Fld := ⟨0x300000c + 0x10000 * n + 0x400 * i, 16, 16⟩
def SMCG.DDS_FTW (n i : Nat) : Fld := ⟨0x3000010 + 0x10000 * n + 0x400 * i, 0, 32⟩
def SMCG.DDS_FTW_HI (n i : Nat) : Fld := ⟨0x3000014 + 0x10000 * n + 0x400 * i, 0, 16⟩
def SMCG.DDS_AMP (n i : Nat) : Fld := ⟨0x3000018 + 0x10000 * n + 0x400 * i, 0, 20⟩
def SMCG.DDS_OFFSET (n i : Nat) : Fld := ⟨0x300001c + 0x10000 * n + 0x400 * i, 0, 20⟩
def SMCG.ACT_MODE_MODE (n i : Nat) : Fld := ⟨0x3000020 + 0x10000 * n + 0x400 * i, 0, 3⟩
def SMCG.ACT_MODE_IRANGE (n i : Nat) : Fld := ⟨0x3000020 + 0x10000 * n + 0x400 * i, 4, 3⟩
def SMCG.ACT_MODE_DDS_EN (n i : Nat) : Fld := ⟨0x3000020 + 0x10000 * n + 0x400 * i, 8, 1⟩
def SMCG.ACT_FORCE (n i : Nat) : Fld := ⟨0x3000024 + 0x10000 * n + 0x400 * i, 0, 20⟩
def SMCG.ACT_CLAMP_V_LO (n i : Nat) : Fld := ⟨0x3000028 + 0x10000 * n + 0x400 * i, 0, 16⟩
def SMCG.ACT_CLAMP_V_HI (n i : Nat) : Fld := ⟨0x3000028 + 0x10000 * n + 0x400 * i, 16, 16⟩
def SMCG.ACT_CLAMP_I_SRC (n i : Nat) : Fld := ⟨0x300002c + 0x10000 * n + 0x400 * i, 0, 16⟩
def SMCG.ACT_CLAMP_I_SNK (n i : Nat) : Fld := ⟨0x300002c + 0x10000 * n + 0x400 * i, 16, 16⟩
def SMCG.ACT_DDS_FTW (n i : Nat) : Fld := ⟨0x3000030 + 0x10000 * n + 0x400 * i, 0, 32⟩
def SMCG.ACT_DDS_FTW_HI (n i : Nat) : Fld := ⟨0x3000034 + 0x10000 * n + 0x400 * i, 0, 16⟩
def SMCG.ACT_DDS_AMP (n i : Nat) : Fld := ⟨0x3000038 + 0x10000 * n + 0x400 * i, 0, 20⟩
def SMCG.ACT_DDS_OFFSET (n i : Nat) : Fld := ⟨0x300003c + 0x10000 * n + 0x400 * i, 0, 20⟩
def SMCG.LS_LS_GRP (n i : Nat) : Fld := ⟨0x3000040 + 0x10000 * n + 0x400 * i, 0, 3⟩
def SMCG.LS_LS_IMM (n i : Nat) : Fld := ⟨0x3000040 + 0x10000 * n + 0x400 * i, 3, 1⟩
def SMCG.SLEW_STEP (n i : Nat) : Fld := ⟨0x3000044 + 0x10000 * n + 0x400 * i, 0, 16⟩
def SMCG.SLEW_RATE (n i : Nat) : Fld := ⟨0x3000048 + 0x10000 * n + 0x400 * i, 0, 21⟩
def SMCG.CONV_CONV_DIV (n i : Nat) : Fld := ⟨0x300004c + 0x10000 * n + 0x400 * i, 0, 16⟩
def SMCG.CONV_AVG (n i : Nat) : Fld := ⟨0x300004c + 0x10000 * n + 0x400 * i, 16, 4⟩
def SMCG.MEAS_V (n i : Nat) : Fld := ⟨0x3000050 + 0x10000 * n + 0x400 * i, 0, 24⟩
def SMCG.MEAS_I (n i : Nat) : Fld := ⟨0x3000054 + 0x10000 * n + 0x400 * i, 0, 24⟩
def SMCG.MEAS_STAMP (n i : Nat) : Fld := ⟨0x3000058 + 0x10000 * n + 0x400 * i, 0, 64⟩
def SMCG.TH (n i j : Nat) : Fld := ⟨0x3000060 + 0x10000 * n + 0x400 * i + 0x4 * j, 0, 18⟩
def SMCG.MON_MON_DEB (n i : Nat) : Fld := ⟨0x3000070 + 0x10000 * n + 0x400 * i, 0, 8⟩
def SMCG.MON_MON_HYST (n i : Nat) : Fld := ⟨0x3000070 + 0x10000 * n + 0x400 * i, 8, 12⟩
def SMCG.MON_MON_ACT (n i : Nat) : Fld := ⟨0x3000070 + 0x10000 * n + 0x400 * i, 20, 8⟩
def SMCG.CLAMP_CLAMP_ACT (n i : Nat) : Fld := ⟨0x3000074 + 0x10000 * n + 0x400 * i, 0, 1⟩
def SMCG.CLAMP_CLAMP_T (n i : Nat) : Fld := ⟨0x3000074 + 0x10000 * n + 0x400 * i, 16, 16⟩
def SMCG.CLAMP_TIME (n i : Nat) : Fld := ⟨0x3000078 + 0x10000 * n + 0x400 * i, 0, 32⟩
def SMCG.OUT_OUT_EN (n i : Nat) : Fld := ⟨0x3000080 + 0x10000 * n + 0x400 * i, 0, 1⟩
def SMCG.OUT_OUT_STATE (n i : Nat) : Fld := ⟨0x3000080 + 0x10000 * n + 0x400 * i, 4, 3⟩
def SMCG.OUT_PENDING_ON (n i : Nat) : Fld := ⟨0x3000080 + 0x10000 * n + 0x400 * i, 7, 1⟩
def SMCG.OUT_OFF_CAUSE (n i : Nat) : Fld := ⟨0x3000080 + 0x10000 * n + 0x400 * i, 8, 3⟩
def SMCG.OUT_SETTLED (n i : Nat) : Fld := ⟨0x3000080 + 0x10000 * n + 0x400 * i, 11, 1⟩
def SMCG.ABORT_ABORT_OFF (n i : Nat) : Fld := ⟨0x3000084 + 0x10000 * n + 0x400 * i, 0, 1⟩
def SMCG.ABORT_ABORT_ENG (n i : Nat) : Fld := ⟨0x3000084 + 0x10000 * n + 0x400 * i, 1, 2⟩
def SMCG.CHARGE (n i : Nat) : Fld := ⟨0x3000088 + 0x10000 * n + 0x400 * i, 0, 64⟩
def SMCG.CARRY_CARRIER (n i : Nat) : Fld := ⟨0x3000090 + 0x10000 * n + 0x400 * i, 0, 9⟩
def SMCG.CARRY_ON_BUS (n i : Nat) : Fld := ⟨0x3000090 + 0x10000 * n + 0x400 * i, 9, 1⟩
def SMCG.CARRY_FAILED (n i : Nat) : Fld := ⟨0x3000090 + 0x10000 * n + 0x400 * i, 10, 1⟩
def SMCG.CAL (n i j : Nat) : Fld := ⟨0x3000100 + 0x10000 * n + 0x400 * i + 0x4 * j, 0, 32⟩
def SMCG.CAL_REJ (n i : Nat) : Fld := ⟨0x3000180 + 0x10000 * n + 0x400 * i, 0, 32⟩
def SMCG.CAL_FAILS (n i : Nat) : Fld := ⟨0x3000184 + 0x10000 * n + 0x400 * i, 0, 2⟩
def SMCG.CAL_END (n i : Nat) : Fld := ⟨0x3000188 + 0x10000 * n + 0x400 * i, 0, 64⟩
def SMCG.HV_EN (n : Nat) : Fld := ⟨0x3008000 + 0x10000 * n, 0, 1⟩
def SMCG.GANG (n : Nat) : Fld := ⟨0x3008008 + 0x10000 * n, 0, 15⟩
def SMCG.GANG_STATUS_ACTIVE (n : Nat) : Fld := ⟨0x3008010 + 0x10000 * n, 0, 15⟩
def SMCG.GANG_STATUS_RESULT (n : Nat) : Fld := ⟨0x3008010 + 0x10000 * n, 16, 4⟩
def SMCG.ON (n : Nat) : Fld := ⟨0x3008018 + 0x10000 * n, 0, 17⟩
def SMCG.PENDING (n : Nat) : Fld := ⟨0x300801c + 0x10000 * n, 0, 17⟩
def SMCG.CLAMPED (n : Nat) : Fld := ⟨0x3008020 + 0x10000 * n, 0, 17⟩
def SMCG.MON_EVT (n : Nat) : Fld := ⟨0x3008024 + 0x10000 * n, 0, 17⟩
def SMCG.EVT_CFG (n : Nat) : Fld := ⟨0x3008028 + 0x10000 * n, 0, 1⟩
def SMCG.SAFE_RAMP_STEP (n : Nat) : Fld := ⟨0x300802c + 0x10000 * n, 0, 16⟩
def SMCG.SAFE_RAMP_RATE (n : Nat) : Fld := ⟨0x300802c + 0x10000 * n, 16, 16⟩
def SMCG.RANGE_REFUSED (n : Nat) : Fld := ⟨0x3008030 + 0x10000 * n, 0, 32⟩
def SMCG.DDS_CLIP (n : Nat) : Fld := ⟨0x3008034 + 0x10000 * n, 0, 32⟩
def SMCG.LEVEL_CLAMP (n : Nat) : Fld := ⟨0x3008038 + 0x10000 * n, 0, 32⟩
def SMCG.DDS_TABLE (n i : Nat) : Fld := ⟨0x300c000 + 0x10000 * n + 0x4 * i, 0, 20⟩

end Sys2Proof.Machine
end

