-- ==== Sys2Proof/Machine/State.lean ====
section
/-! DEFINITION. The state of the device, as plain data. Every register of the map has its home in `regs`; what
lies behind the registers (queues, engines, converters, buffers, memories) has the records below. -/

namespace Sys2Proof.Machine

/-! ### Ledger records, paths and blocks -/

/-- A ledger record, or a group carried as one unit (R276, R278). -/
structure Rec where
  coarse : Nat
  fine : Nat
  qual : Nat
  nt : Bool
  late : Bool
  typ : Nat
  flags : Nat
  path : Nat
  payload : List Byte
  pseq : Nat                       -- of the first record of the group (R337)
  ovf : Nat × Nat × Nat            -- overflow tally it brings: count, first and last stamp (R334)
deriving DecidableEq, Repr

/-- One ledger record path: its col, its pending slots and its overflow tally (R333 to R337). -/
structure PathQ where
  col : List Rec
  pend : List Rec
  ovf : Nat × Nat × Nat
  pseq : Nat
  rx : Nat                         -- PSEQ the merger expects next
deriving DecidableEq, Repr

/-- A path at power-on. -/
def PathQ.reset : PathQ := ⟨[], [], (0, 0, 0), 0, 0⟩

/-- A tally of collapsed records of one PATH (R293, R294). -/
structure Tally where
  count : Nat
  first : Nat
  last : Nat
  classes : Nat
  late : Nat
  atZero : Bool                    -- some were collapsed while no block was free
  atLow : Bool                     -- some were collapsed while 1 to 8 blocks were free
deriving DecidableEq, Repr

/-- The empty tally. -/
def Tally.zero : Tally := ⟨0, 0, 0, 0, 0, false, false⟩

/-- A closed ledger block, or a placeholder (R281, R296, R297). -/
structure Blk where
  num : Nat
  firstSeq : Nat
  count : Nat
  flags : Nat
  front : Nat
  prev : List Byte
  slots : List (List Byte)
  digest : List Byte               -- of the block as closed
deriving DecidableEq, Repr

/-- The stages of the seal (R299). -/
inductive SealStage where
  | none
  | merging (since : Nat)
  | done
deriving DecidableEq, Repr

/-- LDG (R281 to R300). -/
structure LdgSt where
  chain : Bool                     -- a chain is running (R282)
  chains : Nat                     -- chains begun
  held : List Rec                  -- records the merger holds, in arrival order
  own : List Rec                   -- LDG's own records that wait for a free block (R295)
  ownFirst : Bool                  -- they waited for a free block: they go before the next releases
  ownPseq : Nat
  tallies : Tab Tally
  collapsed : Bool                 -- collapse is in effect
  jumps : List (Nat × Nat)         -- epoch loads of the last merge horizon: count raised by J, and when (R284)
  cur : List (List Byte)           -- slots of the block under construction
  curSince : Nat                   -- when its first record was placed
  relAt : Nat                      -- CCLK period of the latest release
  relLen : Nat                     -- slots of the block under construction before that release
  curFirst : Nat                   -- its FIRST_SEQ
  curFlags : Nat
  prev : List Byte                 -- PREV_DIGEST of the block under construction
  closeDue : Bool                  -- fell due while no buffer block was free (R283)
  closeSign : Bool                 -- a signing tick was among the causes
  buffer : List Blk                -- closed blocks in the ledger buffer, oldest first
  dring : List Blk                 -- blocks in the DRAM ledger ring, oldest first
  dringHead : Nat                  -- ring slot of the oldest
  recent : List Blk                -- the eight newest closed blocks, oldest first
  signed : Option Nat              -- newest signed block of the chain
  signWait : Option (Nat × List Byte)   -- signature in preparation: block and digest
  lastTick : Nat                   -- last signing tick, or start of the chain
  accepted : Option (Nat × Nat × List Byte)   -- newest block the host accepted (R297)
  lost : Option (Nat × Nat × Nat × Nat)       -- span to report: first, last, FIRST_SEQ, records
  sealSt : SealStage
deriving DecidableEq, Repr

/-- LDG at power-on. -/
def LdgSt.reset : LdgSt :=
  { chain := false, chains := 0, held := [], own := [], ownFirst := false, ownPseq := 0, tallies := [], collapsed := false, jumps := [], cur := [],
    curSince := 0, relAt := 0, relLen := 0, curFirst := 0, curFlags := 0, prev := [], closeDue := false, closeSign := false, buffer := [],
    dring := [], dringHead := 0, recent := [], signed := none, signWait := none, lastTick := 0,
    accepted := none, lost := none, sealSt := .none }

/-! ### Tokens -/

/-- TOK (R331 to R343). What the TOK counters and the OUT registers show lives here. -/
structure TokSt where
  free : Tab Nat                   -- free tokens of a pool, by pool
  out : Tab (Nat × Nat)            -- OUT and PEAK, by 128 p + h
  minFree : Tab Nat                -- POOLp.MIN_FREE
  waits : Tab Nat                  -- POOLp.WAITS
  denied : Tab Nat                 -- POOLp.DENIED
  lastShared : Tab Nat             -- holder that last received a shared token, by pool
  auditBad : Nat                   -- bit p: a grant or return of pool p failed its check
  recon : Tab (Nat × Nat × Nat)    -- FREE, HELD and INFLIGHT at the last reconciliation
  round : Option (Tab Nat × Tab (Nat × Nat))  -- round in progress, as of its marker: FREE by pool; OUT and tokens in flight by 128 p + h
deriving DecidableEq, Repr

/-- TOK at power-on. -/
def TokSt.reset : TokSt := ⟨[], [], [], [], [], [], 0, [], none⟩

/-! ### Faults -/

/-- What FLT keeps of one block: FLT.BLKp and what stands behind it (R351 to R354). -/
structure BlkRt where
  state : Nat                      -- 0 IN_SERVICE, 1 RESET, 2 RECOVERING, 3 OOS
  lastDet : Nat
  resetAt : Nat                    -- coarse stamp of the present RESET
  resetEnd : Option Nat            -- elapsed time at which the last RESET phase ended
  recovs : List Nat                -- elapsed times of the recoveries in the window
  quietFrom : Nat                  -- elapsed time from which QUIET_T runs
  discarded : List (Nat × Nat × Nat × Nat)   -- path, records lost, first and last stamps
  deps : List Nat                  -- dependents under the maps in force at the detection (R353)
  intrinsic : Bool                 -- its time out of service counts in U (R362)
deriving DecidableEq, Repr

/-- No fault yet. -/
def BlkRt.reset : BlkRt := ⟨0, 0, 0, none, [], 0, [], [], false⟩

/-- A first-error capture set (R347). -/
structure Fec where
  det : Nat
  block : Nat
  master : Nat
  addr : Nat
  stamp : Nat
  count : Nat
  access : Nat
  valid : Bool
deriving DecidableEq, Repr

/-- An empty capture set. -/
def Fec.reset : Fec := ⟨0, 0, 0xFF, 0, 0, 0, 0, false⟩

/-- A detection: what R346 and R347 record of it. -/
structure Detection where
  det : Nat
  block : Nat
  master : Nat
  access : Nat
  addr : Nat
  detail : Nat
  injected : Bool
deriving DecidableEq, Repr

/-- FLT. -/
structure FltSt where
  blks : Tab BlkRt
  fec : Tab Fec                    -- by class
  alarms : List Detection          -- recorded in this command, their reaction not yet taken
  fc0 : Option (Nat × Nat)         -- first FC0: detector and coarse stamp
  unavail : Nat                    -- U in TCLK, without FC0 charges (R362)
  safeHold : Bool                  -- the device is in SAFE_HOLD
  replace : Nat                    -- causes of REPLACE_REQ, as bits (R274)
  supplyOut : List Supply          -- supplies out of range
  gapFrom : Option Nat             -- coarse stamp at which the supply gap began
  gapCheck : Option (Nat × Nat)    -- reconciliation owed for a closed gap: its stamps
deriving DecidableEq, Repr

/-- FLT at power-on. -/
def FltSt.reset : FltSt := ⟨[], [], [], none, 0, false, 0, [], none, none⟩

/-! ### The Plain -/

/-- A request that arrived inside an epoch load and waits for it (R49). -/
inductive HeldReq where
  | start (n : Eng)
  | acq (u : UnitIx)
  | tia (k : Meas)
  | arm
deriving DecidableEq, Repr

/-- An epoch taken and not yet loaded (R46): raw stamp of the edge, SYNC_LOAD and SYNC_DESKEW as read at the
detecting TCLK, and when the load falls due. -/
structure EpochDue where
  raw : Nat
  fine : Nat
  load : Nat
  deskew : Nat
  due : Nat
deriving DecidableEq, Repr

/-- What PLN holds behind its registers. -/
structure PlnSt where
  everLocked : Bool                -- PLL-T has locked since power-on reset (R38)
  badRun : Nat                     -- consecutive bad windows (R36)
  goodRun : Nat
  epoch : Option EpochDue
  held : List HeldReq
  ball : Nat × Nat                 -- the epoch's ball stamp (R50)
  lastPass : Bool                  -- the last SYNC check passed
  warmSince : Option Nat           -- debounced REF_WARM high since (elapsed)
  tagLo : W32                      -- EPOCH_TAG_LO as last written (R55)
  quals : List (Nat × Nat)         -- the latest changes of the quality: count at the change, quality before it (R42)
  floor : Nat                      -- least interpolated stamp, in ft, once REFCLK steps have begun (R40)
deriving DecidableEq, Repr

/-- PLN at power-on. -/
def PlnSt.reset : PlnSt := ⟨false, 0, 0, none, [], (0, 0), false, none, 0, [], 0⟩

/-! ### Vector engines, streams and timing sets -/

/-- The fields of a microword (R60). -/
structure MicroWord where
  next : Nat
  bop : Nat
  csel : Nat
  cntOp : Nat
  cntImm : Nat
  rep : Nat
  tsel : Nat
  tsCommit : Bool
  vsrc : Nat
  vaddr : Nat
  smaskOp : Nat
  smaskImm : Nat
  trig : Nat
  segStart : Bool
  failOp : Nat
  capOp : Nat
  stamp : Nat
  dacOp : Nat
  tiaOp : Nat
  atomic : Bool
  handoverOk : Bool
  matchSel : Nat
  user : Nat
deriving DecidableEq, Repr

/-- One copy of an engine's timing sets: entries by 256 t + p, period words in units of 2^-24 TCLK, and site
deskews in steps (R128, R135, R142). -/
structure TsetCopy where
  entries : Tab (BitVec 192)
  periods : Tab Nat
  deskew : Tab Int
deriving DecidableEq, Repr

/-- Every entry OFF with zero offsets, every period 32 TCLK, no deskew. -/
def TsetCopy.reset : TsetCopy := ⟨[], [], []⟩

/-- The timing sets of one engine (R135 to R138). -/
structure TsetSt where
  shadow : TsetCopy
  active : TsetCopy
  view : TsetCopy                  -- what the next vector to be issued uses
  before : Option TsetCopy         -- shadow before a range write in progress
  held : Tab Nat                   -- SH_PERIOD_t_LO written and not yet committed by HI (R389)
  commitHeld : Bool                -- host commit that waits for an IDLE_VEC vector to end
  originHeld : Option Nat          -- ORIGIN write that waits likewise
deriving DecidableEq, Repr

/-- Timing sets at power-on. -/
def TsetSt.reset : TsetSt := ⟨.reset, .reset, .reset, none, [], false, none⟩

/-- Counters and call stack (oldest first). -/
structure SeqRegs where
  cnt : List Nat
  stack : List Nat
deriving DecidableEq, Repr

/-- Counters and stack as START leaves them. -/
def SeqRegs.zero : SeqRegs := ⟨[0, 0, 0, 0], []⟩

/-- A vector issued to the pins, from issue to its end. -/
structure Play where
  addr : Nat
  word : MicroWord
  idx : Nat                        -- play index in its pass
  first : Bool                     -- the word's first play: first-play effects act at its start
  last : Bool                      -- a decision point follows
  start : Nat                      -- exact start, in 2^-24 TCLK
  vec : Nat                        -- VEC_NUM
  seg : Nat
  stream : Bool                    -- taken from the stream ring
  progMask : Nat                   -- program mask in force from its start
  commit : Option TsetCopy         -- sets that a TS_COMMIT of its word makes active
  shadow : Option (Tab W32)        -- registers at issue, where its word pulses load strobes (R166)
  symErr : List Nat                -- positions that play symbol 0xB
  ranged : List (Nat × Nat)        -- global channel and edges not placed for range
  clamped : List Nat               -- global channels whose adjustment is clamped
  arch : Option SeqRegs            -- counters and stack that take effect at its start
deriving DecidableEq, Repr

/-- What the engine issues next: a word and a play index of it. -/
structure Todo where
  addr : Nat
  idx : Nat
  first : Bool                     -- entry of the word (not a later pass of a match loop)
deriving DecidableEq, Repr

/-- What follows the last play issued. -/
inductive AfterLast where
  | issue (t : Todo)               -- a vector is to be issued
  | decide                         -- its word's decision point is due
  | halt (allDrop : Bool)          -- the program ends with it
  | idle                           -- no program
deriving DecidableEq, Repr

/-- A stream descriptor accepted and not finished (R111, R112). -/
structure Buf where
  addr : Nat
  vcount : Nat
  seq : Nat
  eos : Bool
  irq : Bool
  dram : Bool
  tag : W64
  linesIn : Nat                    -- lines moved into the ring
  issued : Nat                     -- vectors issued
  past : Bool                      -- the ring's CI has moved past its descriptor (R375)
deriving DecidableEq, Repr

/-- A stream ring (R106, R113 to R117). -/
structure StreamSt where
  bufs : List Buf                  -- accepted buffers not wholly issued, oldest first
  head : Nat                       -- byte offset in the ring of the next vector to issue
  tail : Nat                       -- byte offset at which the next vector to arrive goes
  posStale : Bool                  -- STREAM_POS is kept from before a flush until the next START (R117)
deriving DecidableEq, Repr

/-- An empty ring. -/
def StreamSt.reset : StreamSt := ⟨[], 0, 0, false⟩

/-- A hold in progress (R124). -/
structure HoldSt where
  since : Nat                      -- T in coarse TCLK
  sinceElapsed : Nat
  vec : Nat
deriving DecidableEq, Repr

/-- The match logic of a WAIT_MATCH word (R83 to R86). -/
structure MatchSt where
  from_ : Nat                      -- number of the word's first vector
  compared : Nat                   -- sites with a compare in the window
  failed : Nat                     -- sites that failed in it
  latched : Nat
  since : Int                      -- start of the word's first play, in steps of elapsed time (R84)
deriving DecidableEq, Repr

/-- No match loop. -/
def MatchSt.none : MatchSt := ⟨0, 0, 0, 0, 0⟩

/-- One vector engine. -/
structure EngSt where
  regs : SeqRegs                   -- counters and stack on the decision side
  arch : SeqRegs                   -- as they have taken effect
  prog : Nat                       -- program mask on the issue side
  mask : Nat                       -- program mask in force
  seg : Nat                        -- SEG_NUM on the issue side
  segBegun : Bool                  -- a segment is open
  segUser : Nat
  vec : Nat                        -- vectors issued since START
  after : AfterLast
  earliest : Nat                   -- earliest start of the next vector, in 2^-24 TCLK
  issued : List Play               -- issued and not started, oldest first
  play : Option Play               -- in play
  lastSyms : List Nat
  lastTs : Nat
  under : Option Nat               -- under-run found: T in 2^-24 TCLK
  hold : Option HoldSt
  holdDue : Option HoldSt          -- hold that has ended: its HOLD_END record belongs to the start of the missing vector (R126)
  stopped : Bool                   -- held or paused, and no vector has started since: the vector in play has ended (R95)
  abortReq : Option Nat            -- cause of an abort that has not landed
  thermal : Bool                   -- its pause was caused by a thermal hold
  timeoutBit : Bool                -- the last WAIT_MATCH ended by timeout
  mat : MatchSt
  newf : Nat                       -- sites that failed since the last decision
  segAhead : List (Nat × Nat)      -- segments not yet begun and sites that a timeout has already charged in them (R86)
  firsts : Nat                     -- first-of-segment notices already raised, by kind
  idleVec : List Nat               -- active IDLE vector, 256 symbols
  idleNext : Option Nat            -- next start of the IDLE_VEC player, in 2^-24 TCLK
  idleStop : Bool                  -- a loss of PLL-T lock has stopped the player: its channels are high-impedance (R134)
  started : Bool                   -- a START has followed power-on or reset
  aborted : Bool                   -- an abort has landed and no START has followed
  loading : Bool                   -- a program load has begun and its LAST descriptor has not come
  loadRefused : Bool               -- descriptors of a refused load are still arriving
  stream : StreamSt
  eosIn : Bool                     -- the EOS buffer has moved into the ring completely
  eosDone : Bool                   -- and every vector of it has been issued (R114)
deriving DecidableEq, Repr

/-- An engine at power-on. -/
def EngSt.reset : EngSt :=
  { regs := .zero, arch := .zero, prog := 0, mask := 0, seg := 0, segBegun := false, segUser := 0, vec := 0,
    after := .idle, earliest := 0, issued := [], play := none, lastSyms := [], lastTs := 0,
    under := none, hold := none, holdDue := none, stopped := false, abortReq := none, thermal := false, timeoutBit := false,
    mat := .none, newf := 0, segAhead := [], firsts := 0, idleVec := List.replicate 256 4, idleNext := none, idleStop := false, started := false,
    aborted := false, loading := false, loadRefused := false, stream := .reset,
    eosIn := false, eosDone := false }

/-! ### Pin channels -/

/-- A stream entry (R191) on its way, with the half-width of its stamp (R195). -/
structure StEntry where
  bytes : List Byte                -- its 16 bytes
  half : Nat                       -- in ft
deriving DecidableEq, Repr

/-- What a channel's output does (R139, R148). -/
inductive OutSt where
  | off
  | drive
  | term
deriving DecidableEq, Repr

/-- What a drive edge does to the output and the level latch (R139, R140). -/
inductive EdgeAct where
  | on
  | onLatch (b : Bool)
  | latch (b : Bool)
  | term
  | off
deriving DecidableEq, Repr

/-- A drive edge that waits for its effective instant. -/
structure Edge where
  at_ : Int                        -- in steps of TCLK/256
  act : EdgeAct
  eng : Nat
  vec : Nat
deriving DecidableEq, Repr

/-- A compare that waits for its close (R141, R168). -/
structure Cmp where
  eng : Nat
  sym : Nat
  s0 : Int
  s1 : Int
  window : Bool
  vec : Nat
  seg : Nat
  user : Nat
  site : Nat
  pos : Nat
  failOp : Nat
  isMatch : Bool                   -- of a WAIT_MATCH word
  chan : Nat                       -- logical channel
  mask : Nat                       -- effective site mask of its vector (R118, R168)
  drop : Nat                       -- sites in drop-out as its vector was issued (R120, R168)
  skip : Bool                      -- found not placeable at its issue (R144)
deriving DecidableEq, Repr

/-- A result in the compare pipeline (R168). -/
inductive CmpRes where
  | pass
  | fail
  | notMade
  | capture
deriving DecidableEq, Repr

/-- A compare result on its way to fail capture. -/
structure Res where
  cmp : Cmp
  res : CmpRes
  ch : Bool
  cl : Bool
  close : Int                      -- in steps
deriving DecidableEq, Repr

/-- What a channel's comparators show from an instant on: outputs, readiness (R159), and whether they are in mode F. -/
structure CmpSnap where
  at_ : Int
  ch : Bool
  cl : Bool
  readyH : Bool
  readyL : Bool
  fast : Bool
deriving DecidableEq, Repr

/-- One comparator (R155 to R162). -/
structure CompSt where
  out : Bool
  resolved : Bool
  reason : Nat                     -- of the settle interval that left it unresolved (R162)
deriving DecidableEq, Repr

/-- One physical pin channel. -/
structure PinSt where
  out : OutSt
  latch : Bool
  lastEdge : Option Int            -- last drive edge placed, in steps
  req : Nat                        -- last drive request, as a symbol (K repeats it)
  edges : List Edge
  cmps : List Cmp
  lastClose : Option Int × Option Int   -- of the two compare units
  unit : Bool                      -- unit that takes the next compare
  res : List Res
  high : CompSt
  low : CompSt
  mode : Nat                       -- comparator mode in force (R158)
  powered : Bool
  settle : Option Nat              -- elapsed time at which the settle interval ends
  modeChanged : Bool               -- the settle interval follows a change of mode
  lowered : Bool                   -- the governor has lowered the mode (R164)
  hist : List CmpSnap              -- oldest first
  queue : List StEntry             -- channel queue of the stamper (R191)
  lost : Option (Nat × Nat × Nat)  -- open span of lost stamps: count, first, last (R190)
  lastStamp : Option Nat × Option Nat   -- when CH and CL were last stamped, in ft of elapsed time (R188)
  idleSince : Nat                  -- elapsed time since which it has played X or been unmapped
  measure : Option Nat             -- TIA measurement bound to it
deriving DecidableEq, Repr

/-- A comparator before it has resolved. -/
def CompSt.reset : CompSt := ⟨false, false, 1⟩

/-- A pin channel at power-on: OFF, latch 0, comparators powered, unresolved and in their first settle interval (R159). -/
def PinSt.reset : PinSt :=
  { out := .off, latch := false, lastEdge := none, req := 4, edges := [], cmps := [], lastClose := (none, none),
    unit := false, res := [], high := .reset, low := .reset, mode := 0, powered := true, settle := some 160,
    modeChanged := false, lowered := false, hist := [⟨0, false, false, false, false, true⟩], queue := [], lost := none, lastStamp := (none, none),
    idleSince := 0, measure := none }

/-! ### Fail capture -/

/-- A fail memory record (R180). -/
structure FRec where
  eng : Nat
  kind : Nat                       -- 0 FAIL, 1 CAPTURE, 2 MATCH_TIMEOUT
  vec : Nat
  user : Nat
  seg : Nat
  stamp : Nat
  site : Nat
  pos : Nat
  chan : Nat
  spare : Bool
  flags : Nat
  at_ : Nat                        -- elapsed time of its arrival
  map : Option Nat                 -- in MAP mode, the index whose bit it sets (R181)
  spill : Bool                     -- the way it takes out of fail memory: through the DRAM fail ring (R179, R182)
deriving DecidableEq, Repr

/-- Records withheld and not yet reported (R183). -/
structure Withheld where
  num : Nat
  sites : Nat
  first : Nat
  last : Nat
  reason : Nat
  mapBits : Nat
deriving DecidableEq, Repr

/-- Fail capture of one engine. -/
structure FcapSt where
  col : List FRec                  -- fail record col
  queue : List FRec                -- records in fail memory, oldest first
  dring : List FRec                -- records in the DRAM fail ring
  map : Tab Nat                    -- fail map, by index
  withheld : Option Withheld
  queueNext : Nat                  -- slot of the fail memory queue that the next record takes
  dringNext : Nat                  -- slot of the DRAM fail ring that the next record takes
  pendAt : Tab Nat                 -- elapsed time at which a site's drop-out became pending (R175)
  siteFails : Tab Nat              -- FAIL records of each site since START (FIRST_N)
  siteWritten : Tab Nat
  siteWithheld : Tab Nat
  dropCause : Tab Nat              -- 1 LIMIT, 2 FAIL_STOP, by site
  dropAt : Tab Nat                 -- elapsed time of its D, by site
  ended : Bool                     -- the run has ended and its marker is on its way
  dumpAt : Option Nat              -- next map index of a dump in progress
deriving DecidableEq, Repr

/-- Fail capture at power-on. -/
def FcapSt.reset : FcapSt :=
  { col := [], queue := [], dring := [], map := [], withheld := none, queueNext := 0, dringNext := 0, pendAt := [], siteFails := [], siteWritten := [],
    siteWithheld := [], dropCause := [], dropAt := [], ended := false, dumpAt := none }

/-! ### Interval measurement -/

/-- An armed TIA measurement (R198 to R206). -/
structure TiaM where
  armed : Bool
  armAt : Nat                      -- coarse stamp of the arm
  armEl : Nat                      -- elapsed time of it
  func : Nat
  cls : Nat
  aEdge : Nat
  bEdge : Nat
  count : Nat
  chA : Nat                        -- physical channels bound at arm
  chB : Nat
  gateStart : Nat
  gateLen : Nat
  calStream : Bool                 -- fell back to stream class
  calA : Nat × Nat                 -- sums of the 64 raw readings of edges 1 and 2 TCLK apart, of CH_A and of CH_B (R193)
  calB : Nat × Nat
  ready : Option Nat               -- ready instant
  open_ : Option Nat               -- gate opening
  a : Option Nat                   -- edge A of the repetition in progress, in ft
  b : Option Nat                   -- edge B of it (PHASE)
  bs : List Nat                    -- edges B of the latest TCLK: one may precede its A there (R187, R200)
  last : Nat                       -- end of the previous repetition, in ft
  prior : Option (Nat × Nat × Nat × Nat)   -- latest edge before the gate is open: channel, TCLK in ft, raw reading, stream stamp (R196)
  vals : List Int                  -- values of the completed repetitions
  aux : List Int                   -- their periods (PHASE)
  stamps : List Nat                -- stamps of a FREQ gate, in ft
  ref : Option Nat                 -- first edge used, in ft
  qual : Nat                       -- quality at REF
  border : Bool
  shadow : Bool
  slot : Nat                       -- TDR repetitions begun
deriving DecidableEq, Repr

/-- A measurement that is not armed. -/
def TiaM.reset : TiaM :=
  { armed := false, armAt := 0, armEl := 0, func := 0, cls := 0, aEdge := 0, bEdge := 0, count := 0, chA := 0, chB := 0,
    gateStart := 0, gateLen := 0, calStream := false, calA := (0, 0), calB := (0, 0), ready := none, open_ := none, a := none, b := none, bs := [],
    last := 0, prior := none, vals := [], aux := [], stamps := [], ref := none, qual := 0, border := false, shadow := false, slot := 0 }

/-- A result that waits to become available: its 32 bytes and status. -/
structure TiaRes where
  k : Nat
  status : Nat
  bytes : List Byte
  limit : Option (TiaM × Nat)      -- a measurement that ended at a limit of its gate, in ft: a stamp near it sets BORDER
deriving DecidableEq, Repr

/-- TIA. -/
structure TiaSt where
  ms : Tab TiaM
  results : List TiaRes            -- produced and not yet available (R203)
  fifo : List (List W32)           -- RES_FIFO, oldest first
  popped : Nat                     -- dwords of the oldest already read
  rseq : Tab Nat
  sring : List StEntry             -- entries in the DRAM stamp ring
  sringNext : Nat                  -- slot of the ring that the next entry takes
deriving DecidableEq, Repr

/-- TIA at power-on. -/
def TiaSt.reset : TiaSt := ⟨[], [], [], 0, [], [], 0⟩

/-- One bank's stamp buffer: entries that passed a channel queue (R190, R191). -/
structure BankSt where
  buffer : List StEntry
  turn : Nat                       -- channel whose turn is next
deriving DecidableEq, Repr

/-- An empty stamp buffer. -/
def BankSt.reset : BankSt := ⟨[], 0⟩

/-! ### Maps -/

/-- The active maps of banks and sites to engines (R24). -/
structure MapSt where
  bank : Tab Nat
  site : Tab Nat
  heldStarts : List Nat            -- engines whose START waits for a commit or a thermal hold (R28, R359)
deriving DecidableEq, Repr

/-- Every bank and site with E0. -/
def MapSt.reset : MapSt := ⟨[], [], []⟩

/-! ### Host interface -/

/-- A guarded value that waits for its complement (R390). -/
structure GdPend where
  addr : Nat
  value : W32
  at_ : Nat
deriving DecidableEq, Repr

/-- What the device has sent to the host: posted writes in order (R364, R373, R384). -/
inductive Posted where
  | pointer (ring : Nat) (value : W32)
  | block (ring : Nat) (slot : Nat) (bytes : List Byte)
  | status (slot : Nat) (code : Nat)
  | data (addr : Nat) (bytes : List Byte)
  | message (vector : Nat)
deriving DecidableEq, Repr

/-- What HDMA keeps of one ring beside its registers (R373 to R382). -/
structure RingRt where
  bseq : Nat                       -- blocks sent since EN 0 → 1
  openSince : Option Nat           -- elapsed time of the first item of the block that is open
  source : Nat                     -- engine or unit whose items it takes next
  offset : Nat                     -- bytes of the segment or map already sent
deriving DecidableEq, Repr

/-- A ring at power-on. -/
def RingRt.reset : RingRt := ⟨0, none, 0, 0⟩

/-- HDMA's side of the host interface. -/
structure HostSt where
  memEn : Bool                     -- Memory Space Enable (R365)
  master : Bool                    -- Bus Master Enable
  d3 : Bool                        -- D3hot
  msix : Tab W32                   -- MSI-X table, by dword
  due : Nat                        -- vectors whose message is due, as bits
  lastMsg : Tab Nat                -- elapsed time of the last message of a vector
  gd : Tab GdPend                  -- pending guarded value, by block code
  rings : Tab RingRt
  wbDue : Nat                      -- rings whose pointer writeback is due, as bits
  posted : List Posted             -- writes sent to the host, oldest first
deriving DecidableEq, Repr

/-- At power-on: memory space and bus mastering off, D0. -/
def HostSt.reset : HostSt := ⟨false, false, false, [], 0, [], [], [], 0, []⟩

/-- A dword of the MSI-X table that nothing has written: every vector is masked. PRESUMED (PCI). -/
def msixReset (i : Nat) : W32 := if i % 4 = 3 then 1 else 0

/-! ### Start-up and governor -/

/-- BOOT and the power states. -/
structure BootSt where
  chosen : Nat                     -- copy in use: 0 none, 1 A, 2 B
  tried : List Nat                 -- copies already tried at this power-up
  busy : Option (Nat × Nat)        -- NVM command in progress: 0 read, 1 program, 2 sector, 3 copy; address
  patch : List Byte                -- housekeeping patch words loaded (R409)
  dormEntry : Bool                 -- entry into DORMANT in progress (R413)
  wake : Bool                      -- a wake event came during or after step 4
  wakeBells : Tab Nat              -- doorbell values received in DORMANT and applied after wake, by ring
  dormStore : List Rec             -- records made in DORMANT (R414)
  loader : Bool                    -- the boot loader applies image entries: writes are its own (R403)
deriving DecidableEq, Repr

/-- BOOT at power-on. -/
def BootSt.reset : BootSt := ⟨0, [], none, [], false, false, [], [], false⟩

/-- GOV (R357 to R359). -/
structure GovSt where
  lastRelease : Nat                -- elapsed time of the last release
  warned : Bool                    -- T_WARN crossed and not re-armed
  coolFrom : Option Nat            -- elapsed time since which every sensor has read below 110 °C
  permanent : Bool                 -- GOV is OOS: the hold lasts until power-on
deriving DecidableEq, Repr

/-- GOV at power-on. -/
def GovSt.reset : GovSt := ⟨0, false, none, false⟩

/-! ### DRAM -/

/-- A request in a port or in a pair's write queue (R313). -/
structure DrcReq where
  port : Nat
  write : Bool
  addr : Nat                       -- data address of its line
  pair : Nat
  bank : Nat
  row : Nat
  col : Nat
  data : List Byte                 -- 64 bytes to write, or read
  at_ : Nat                        -- elapsed time of its entry into the port's queue
  seq : Nat                        -- order of arrival
  overdue : Bool                   -- counted in PORT_OVERDUE
deriving DecidableEq, Repr

/-- DRC (R307 to R330). -/
structure DrcSt where
  reads : List DrcReq              -- reads not yet issued, by arrival
  ported : List DrcReq             -- writes that wait in their ports for room in the write queue
  writes : Tab (List DrcReq)       -- write queue of a pair, by arrival
  burst : Nat                      -- pairs whose write burst is on, as bits
  issued : Tab (List DrcReq)       -- issued reads whose data is on its way, by port
  openRow : Tab (Option Nat)       -- open row, by 16 p + bank
  debt : Tab (Int × Nat)           -- refresh debt in halves of a TCLK and the elapsed time it was brought up to, by 16 p + bank
  front : Tab Nat                  -- rows initialised in order, by 16 p + bank (R309)
  ahead : Tab (List (Nat × Nat))   -- rows initialised ahead of the front, by pair: bank and row
  held : Tab Nat                   -- a drift check holds the pair, since
  lastCheck : Tab Nat              -- elapsed time of the pair's last drift check
  fChanged : Tab (Option Nat)      -- when the multiplier of a pair changed, since its last check (R326)
  shift : Tab Int                  -- drift of a lane's centre from its image value, by 8 ch + lane item
  asleep : Nat                     -- pairs in power-down, as bits
  lastUse : Tab Nat                -- elapsed time of the last request of a pair
  retiring : Option Nat            -- retirement in progress, since
  next : Nat                       -- arrival order of the next request
  scrubAt : Nat                    -- next line of the scrub sweep
  selfRefresh : Bool
deriving DecidableEq, Repr

/-- DRC at power-on. -/
def DrcSt.reset : DrcSt :=
  { reads := [], ported := [], writes := [], burst := 0, issued := [], openRow := [], debt := [], front := [],
    ahead := [], held := [], lastCheck := [], fChanged := [], shift := [], asleep := 0, lastUse := [], retiring := none, next := 0,
    scrubAt := 0, selfRefresh := false }

/-- HKS: the SRAM scrub. -/
structure HksSt where
  scrubAt : Nat                    -- index of the next codeword of the sweep (R306)
  cacheBad : List (Nat × Nat)      -- spans of the vector cache with an uncorrectable error: data address and length (R110)
  selfTest : List Nat              -- blocks under HKS self-test (R30); no command of the table starts one
deriving DecidableEq, Repr

/-- HKS at power-on. -/
def HksSt.reset : HksSt := ⟨0, [], []⟩

/-! ### Calibration -/

/-- A pass on a calibration bus. -/
structure Pass where
  phys : Nat                       -- physical channel or SMC, on the bus
  inPlace : Bool                   -- without a spare to carry it (R272)
  vref : Bool                      -- both references were good at its start (R252)
  rref : Bool
  vrefUv : Nat                     -- the declarations it works with: as its start found them (R251)
  rrefMohm : Nat
deriving DecidableEq, Repr

/-- One calibration bus: of banks 0 to 31, or of SMC groups 0 to 15 as 32 to 47 (R259, R266). -/
structure BusSt where
  mirrorEnd : Option Nat           -- elapsed time at which the mirror ends
  waitFrom : Option Nat            -- elapsed time since which it waits for an eligible instant
  commit : Option Nat              -- H, elapsed, once CAL has committed to it (R261)
  overlap : Option (Nat × Nat × Nat)   -- outgoing and incoming physical channel, H
  pass : Option Pass
  reason : Nat                     -- reason of the handover in progress
  fc2 : Option Nat                 -- channel that the spare is to carry for good (R271)
  failSpare : Bool                 -- the spare goes out of service after its handback (R271)
  noSpare : List Nat               -- channels under R273
  overdue : Bool
  lastEnd : Option Nat             -- elapsed end of its last pass, from which pacing counts (R269)
deriving DecidableEq, Repr

/-- A bus at power-on. -/
def BusSt.reset : BusSt :=
  { mirrorEnd := none, waitFrom := none, commit := none, overlap := none, pass := none, reason := 0, fc2 := none,
    failSpare := false, noSpare := [], overdue := false, lastEnd := none }

/-- CAL. -/
structure CalSt where
  buses : Tab BusSt
  ends : Tab Nat                   -- elapsed end of a channel's last clean pass, by 64 bus + page (R257)
  windows : Tab (Int × Int × Nat)  -- lo, hi and Δ of a constant (CALTAB), pin constants 0 to 22, SMC 32 to 58
  trefQuiet : Nat                  -- whole seconds without a CAL_TREF edge (R252)
  trefSeen : Bool                  -- an edge has come since the last check
  refAt : Nat                      -- elapsed time of the last check
deriving DecidableEq, Repr

/-- CAL at power-on. -/
def CalSt.reset : CalSt := ⟨[], [], [], 0, false, 0⟩

/-! ### Load strobes -/

/-- What one TCLK has seen of load strobes and shadow writes (R166). -/
structure LsSt where
  at_ : Nat                        -- elapsed time of it
  groups : Nat                     -- groups already pulsed in it, as bits
  old : List (Nat × W32)           -- dwords that writes replaced in it, and what they held, newest first
deriving DecidableEq, Repr

/-- Nothing yet. -/
def LsSt.reset : LsSt := ⟨0, 0, []⟩

/-! ### Trigger lines -/

/-- One trigger line (R230 to R233). -/
structure LineSt where
  driven : Bool                    -- level this device drives, where it owns the line
  pulseEnd : Nat                   -- elapsed time of the latest end of its pulses
  checks : List Nat                -- elapsed times of the changes it made that are not yet compared (R231), oldest first
  level : Bool                     -- level at the ball
  hist : List (Nat × Bool)         -- level of the samples from an elapsed TCLK on, oldest first (R79)
  lastStamp : Option Nat           -- when its last stamped transition came, in ft of elapsed time
  gap : Bool                       -- transitions were lost since the line's last record
deriving DecidableEq, Repr

/-- A line that reads low. -/
def LineSt.reset : LineSt := ⟨false, 0, [], false, [], none, false⟩

/-! ### Acquisition -/

/-- A trigger that a unit has not judged yet (R241, R242). -/
structure AqTrig where
  stamp : Int                      -- after skew, in ft
  source : Nat                     -- 0 software, 1 sequencer, 2 line, 3 monitor, 4 fail
  half : Nat                       -- half-width of the stamp in ft (R195, R41)
deriving DecidableEq, Repr

/-- One sample as taken. -/
structure AqSample where
  k : Nat
  bytes : List Byte
  unres : Nat                      -- channels settling or unresolved (R236)
  slow : Bool                      -- a comparator not in mode F
  lost : Bool                      -- no AT token: filled with zeros (R240)
deriving DecidableEq, Repr

/-- A segment in progress. -/
structure AqSeg where
  trig : AqTrig
  k : Nat                          -- trigger sample
  ofs : Nat                        -- TRIG_OFS
  border : Bool
  seg : Nat
  qual : Nat                       -- quality at its trigger
deriving DecidableEq, Repr

/-- The commands that have reached a unit in one CCLK period (R244). -/
structure AqCmds where
  cclk : Nat
  arm : Nat                        -- the ARM among them: 0 none, 1 accepted, 2 without effect on a running unit, 3 refused
  was : Nat × Nat                  -- state and SEG before an accepted ARM
  trigs : List (Nat × Int × Nat)   -- the TRIGGERs among them: source, stamp before skew, half-width
deriving DecidableEq, Repr

/-- One acquisition unit. -/
structure AqSt where
  next : Nat                       -- index of the next sample
  dead : Option Nat                -- first sample of the dead time; none while it waits for a slot
  samples : List AqSample          -- samples held, oldest first
  entries : List StEntry           -- stream entries held (STAMP), oldest first
  seg : Option AqSeg
  trigs : List AqTrig              -- delivered and not judged, in the order of R242
  lastK : Option Nat               -- latest trigger sample accepted since ARM
  borders : Nat                    -- entries of the segment in progress near a limit of its window
  lostEntries : Nat                -- entries of it that its slot could not hold
  lastAt : Nat                     -- elapsed time of the unit's previous sample (STALE, R237)
  fill : Nat                       -- bytes of the 64-byte line it is filling (R240)
  cmds : AqCmds
  done : List (List Byte)          -- completed segments in their slots, oldest first
  out : List (List Byte)           -- segments copied out, on their way to the host
  dringNext : Nat                  -- slot of the DRAM ring that the next segment takes
deriving DecidableEq, Repr

/-- A unit at power-on. -/
def AqSt.reset : AqSt :=
  { next := 0, dead := none, samples := [], entries := [], seg := none, trigs := [], lastK := none, borders := 0,
    lostEntries := 0, lastAt := 0, fill := 0, cmds := ⟨0, 0, (0, 0), []⟩, done := [], out := [], dringNext := 0 }

/-- Lines on their way into the acquisition memory (R240). -/
structure AqFlow where
  lines : List Nat                 -- the unit of each line, oldest first; each holds an AT token
  at_ : Nat                        -- CCLK period up to which the memory has taken lines
deriving DecidableEq, Repr

/-! ### Source-measure channels -/

/-- One window monitor (R218). `shown` is what the engines see until `arrive` (R80). -/
structure MonSt where
  flag : Bool
  run : Nat                        -- conversions in a row that speak for a change
  shown : Bool
  arrive : Nat
deriving DecidableEq, Repr

/-- DDS of a channel (R213, R214). -/
inductive DdsSt where
  | off
  | toOffset                       -- the slew limiter moves the code to DDS_OFFSET
  | waits                          -- it starts at the next update
  | runs
  | stopping                       -- it runs on until the table crosses zero
deriving DecidableEq, Repr

/-- What is left to do of a shutdown's ramp (R225). -/
inductive RampSt where
  | voltage                        -- the code moves to ZERO in FV
  | current                        -- the current moves to 0 A first
  | convert                        -- the channel becomes FV at the measured voltage
deriving DecidableEq, Repr

/-- One physical source-measure channel. -/
structure SmcSt where
  code : Nat                       -- applied DAC code
  stepDue : Nat                    -- elapsed time of the next slew step
  latches : List (Nat × List (Nat × W32)) -- pending latches: when due, and the shadow dwords taken, by number
  dds : DdsSt
  phase : Nat
  ddsLast : Nat                    -- elapsed time of the last update
  sumV : Int
  sumI : Int
  avgN : Nat                       -- conversions in the block of averages
  lastV : Int
  lastI : Int
  convAt : Nat                     -- elapsed time of the latest conversion
  mons : List MonSt                -- V_HI, V_LO, I_HI, I_LO
  clamp : Option Nat               -- elapsed time since which its clamp is engaged
  clampFrom : Nat                  -- elapsed time from which CLAMP_TIME has still to count that engagement (R220, R394)
  switchAt : Nat                   -- elapsed time at which its switch has moved
  offDue : Bool                    -- an OFF came while it was CLOSING
  ramp : RampSt
  fast : Bool                      -- the ramp uses SAFE_RAMP
  offAt : Nat                      -- elapsed time at which its last shutdown began
  offReq : Option Nat              -- elapsed time of its last OFF request
  offHeld : Option Nat             -- cause of a shutdown that waits for a handover to complete (R264)
  residual : Int                   -- charge below 1 pC, in fC, of the logical channel of this number
deriving DecidableEq, Repr

/-- A channel at power-on: OPEN, at ZERO. -/
def SmcSt.reset : SmcSt :=
  { code := 0x38E39, stepDue := 0, latches := [], dds := .off, phase := 0, ddsLast := 0, sumV := 0, sumI := 0, avgN := 0,
    lastV := 0, lastI := 0, convAt := 0, mons := List.replicate 4 ⟨false, 0, false, 0⟩, clamp := none,
    clampFrom := 0, switchAt := 0, offDue := false, ramp := .voltage, fast := false, offAt := 0, offReq := none, offHeld := none, residual := 0 }

/-- All source-measure channels. -/
structure SmcAll where
  chs : Tab SmcSt
  clampAt : Tab Nat                -- elapsed time of a group's last LEVEL_CLAMP notice
  ftwHeld : Tab Nat                -- DDS_FTW LO written and not yet committed by HI, by 17 g + page (R389, R420)
deriving DecidableEq, Repr

/-- At power-on. -/
def SmcAll.reset : SmcAll := ⟨[], [], []⟩

/-! ### The device -/

/-- The device without its memories and its queue of commands. -/
structure Dev where
  count : BitVec 64                -- the Plain counter (R38)
  elapsed : Nat                    -- TCLK periods since power-on, whatever the Plain does (R53)
  regs : Tab W32                   -- registers by BAR0 address; an unlisted one holds its reset value
  snaps : Tab W32                  -- what a snapshot read left for the registers it covers (R8)
  draws : Nat                      -- the model's own: free values drawn so far
  disc : Nat                       -- bit p: path p works under token discipline (R30)
  paths : Tab PathQ                -- ledger record cols, by PATH
  ldg : LdgSt
  tok : TokSt
  flt : FltSt
  host : HostSt
  pln : PlnSt
  maps : MapSt
  ls : LsSt
  engs : Tab EngSt
  tsets : Tab TsetSt
  pins : Tab PinSt                 -- by physical channel
  banks : Tab BankSt
  fcap : Tab FcapSt                -- by engine
  tia : TiaSt
  cal : CalSt
  trg : Tab LineSt
  aqs : Tab AqSt
  acq : AqFlow
  smc : SmcAll
  drc : DrcSt
  hks : HksSt
  boot : BootSt
  gov : GovSt
deriving DecidableEq, Repr

/-- The device at power-on. -/
def Dev.reset : Dev :=
  { count := 0, elapsed := 0, regs := [], snaps := [], draws := 0, disc := 2 ^ 80 - 1, paths := [],
    ldg := .reset, tok := .reset, flt := .reset, host := .reset, pln := .reset, maps := .reset, ls := .reset, engs := [],
    tsets := [], pins := [], banks := [], fcap := [], tia := .reset, cal := .reset, trg := [], aqs := [], acq := ⟨[], 0⟩, smc := .reset, drc := .reset, hks := .reset, boot := .reset, gov := .reset }

/-- The memories of the device, byte by byte: on-chip SRAM by the data addresses of R301 (regions held as typed
queues excepted), DRAM by data address (R310) and the NVM (R411). -/
structure Mem where
  sram : Tab Byte
  dram : Tab Byte
  nvm : Tab Byte
  sramCheck : Tab Byte             -- check bytes of on-chip codewords: byte j of codeword i at 8 i + j (R302)
  dramCheck : Tab Byte             -- check bytes of DRAM lines, likewise
deriving DecidableEq, Repr

/-- What a byte of SRAM or DRAM that nothing has written reads as. DESIGN CHOICE for on-chip SRAM (log 5). -/
def ramByte (_ : Nat) : Byte := 0

/-- What a byte of NVM that nothing has programmed reads as: erased NOR flash. PRESUMED (log 6). -/
def nvmByte (_ : Nat) : Byte := 0xFF

/-- The canonical form of the memories and of their check bytes. -/
abbrev Mem.wf (m : Mem) : Bool :=
  m.sram.wf ramByte && m.dram.wf ramByte && m.nvm.wf nvmByte && m.sramCheck.wf ramByte && m.dramCheck.wf ramByte

/-- Memories that nothing has written. -/
def Mem.reset : Mem := ⟨[], [], [], [], []⟩

/-- The state of the model: the device, its memories, and the commands that wait, first in, first out. -/
structure State where
  dev : Dev
  mem : Mem
  pending : List Instr
deriving DecidableEq, Repr

/-- Why the machine stops with a fault. -/
inductive Fault where
  /-- Raised by no command: the device's own faults FC0 to FC3 are effects on State. Safe. -/
  | none
deriving DecidableEq, Repr

/-- Why a command is refused. -/
inductive Refusal where
  /-- A command whose meaning is not written. Safe: the machine stops where the device goes on. -/
  | notModelled (mnemonic : String)
deriving DecidableEq, Repr

/-- The machine at power-on reset: every register at its reset value, the Plain counter at 0, nothing stored. -/
def State.reset : State := { dev := .reset, mem := .reset, pending := [] }

end Sys2Proof.Machine
end

