-- ==== Sys2Proof/Machine/Codeword.lean ====
section
/-! DEFINITION. The error-correcting code of the memories: Reed-Solomon over GF(2^8) (R302), and the stores that keep every
codeword's check bytes with its data (R304, R310). -/

namespace Sys2Proof.Machine

/-! ### The field and the generator (R302) -/

/-- α times an element: the field polynomial is 0x11D. -/
def gfTwice (a : Nat) : Nat := if a < 128 then 2 * a else (2 * a) ^^^ 0x11D

/-- `a` times the low `fuel` bits of `b`, in GF(2^8). -/
def gfMulBits : Nat → Nat → Nat → Nat
  | 0, _, _ => 0
  | fuel + 1, a, b => (if b % 2 = 1 then a else 0) ^^^ gfMulBits fuel (gfTwice a) (b / 2)

/-- The product of two elements. -/
def gfMul (a b : Nat) : Nat := if a = 0 then 0 else gfMulBits 8 a b

/-- α to the power `j`. -/
def gfPow : Nat → Nat
  | 0 => 1
  | j + 1 => gfTwice (gfPow j)

/-- A polynomial, highest degree first, times (x − r). -/
def timesRoot (g : List Nat) (r : Nat) : List Nat := (g ++ [0]).zipWith (· ^^^ ·) (0 :: g.map (gfMul r))

/-- The generator: the product of (x − α^j) for j from 0 to 7. -/
def rsGenerator : List Nat := (List.range 8).foldl (fun g j => timesRoot g (gfPow j)) [1]

/-- One data byte enters the remainder, highest degree first. -/
def rsStep (g : List Nat) (rem : List Nat) (b : Nat) : List Nat :=
  (rem.tail ++ [0]).zipWith (· ^^^ ·) (g.tail.map (gfMul (b ^^^ rem.headD 0)))

/-- The eight check bytes of a codeword's data: the remainder of data times x^8 by the generator. -/
def rsCheck (data : List Byte) : List Byte :=
  ((data.map BitVec.toNat).foldl (rsStep rsGenerator) (List.replicate 8 0)).map (BitVec.ofNat 8)

/-- The value of a polynomial, highest degree first, at `x`. -/
def gfEval (x : Nat) (p : List Nat) : Nat := p.foldl (fun acc c => gfMul acc x ^^^ c) 0

/-! ### Codewords and their stores (R29, R301, R304) -/

/-- A codeword's number, the data address of its first byte, and how many data bytes it has. -/
structure Codeword where
  num : Nat
  base : Nat
  k : Nat
deriving DecidableEq, Repr

/-- Codewords of 64 data bytes that meet `len` bytes from `a`. -/
def linesOver (a len : Nat) : List Codeword :=
  if len = 0 then [] else (List.range' (a / 64) ((a + len - 1) / 64 + 1 - a / 64)).map fun i => ⟨i, 64 * i, 64⟩

/-- On-chip codewords that meet `len` bytes from `a`: a microword is one of its own (R29), numbered from 2^20 on. -/
def sramOver (a len : Nat) : List Codeword :=
  if 0x1C80000 ≤ a && a < 0x1DE0000 then
    let o := a - 0x1C80000
    if len = 0 then []
    else (List.range' (o / 22) ((o + len - 1) / 22 + 1 - o / 22)).map fun j => ⟨2 ^ 20 + j, 0x1C80000 + 22 * j, 22⟩
  else linesOver a len

/-- Bytes in a row of a memory. -/
def bytesAt (t : Tab Byte) (a len : Nat) : List Byte := (List.range len).map fun i => Tab.get ramByte t (a + i)

/-- Bytes stored in a row. -/
def storeAt (t : Tab Byte) (key : Nat → Nat) (bs : List Byte) : Tab Byte :=
  bs.zipIdx.foldl (fun t (b, i) => t.set ramByte (key i) b) t

/-- The check bytes of codewords as their data now stands. -/
def encodeOver (data : Tab Byte) (cs : List Codeword) (check : Tab Byte) : Tab Byte :=
  cs.foldl (fun t c => storeAt t (8 * c.num + ·) (rsCheck (bytesAt data c.base c.k))) check

/-- Store bytes in SRAM, and the check bytes of what they touch. -/
def Mem.writeSram (a : Nat) (bs : List Byte) (m : Mem) : Mem :=
  let t := storeAt m.sram (a + ·) bs
  { m with sram := t, sramCheck := encodeOver t (sramOver a bs.length) m.sramCheck }

/-- Store bytes in SRAM within a ring of `size` bytes at `base`, from offset `o` on. -/
def Mem.writeRing (base size o : Nat) (bs : List Byte) (m : Mem) : Mem :=
  let t := storeAt m.sram (fun i => base + (o + i) % max 1 size) bs
  let spans := if o + bs.length ≤ size then linesOver (base + o) bs.length else linesOver (base + o) (size - o) ++ linesOver base size
  { m with sram := t, sramCheck := encodeOver t spans m.sramCheck }

/-- Store bytes in DRAM, and the check bytes of their lines. -/
def Mem.writeDram (a : Nat) (bs : List Byte) (m : Mem) : Mem :=
  let t := storeAt m.dram (a + ·) bs
  { m with dram := t, dramCheck := encodeOver t (linesOver a bs.length) m.dramCheck }

/-- Bytes of on-chip SRAM from an address. -/
def Mem.sramBytes (m : Mem) (a len : Nat) : List Byte := bytesAt m.sram a len

/-- Bytes of DRAM. -/
def Mem.dramBytes (m : Mem) (a len : Nat) : List Byte := bytesAt m.dram a len

/-- DRAM holds nothing any more: zeros, whose check bytes are zeros (R302, R309). -/
def Mem.dropDram (m : Mem) : Mem := { m with dram := [], dramCheck := [] }

/-- No on-chip memory keeps what it held, and DRAM neither. -/
def Mem.dropRam (m : Mem) : Mem := { m with sram := [], sramCheck := [], dram := [], dramCheck := [] }

end Sys2Proof.Machine
end

