-- ==== Sys2Proof/Machine/Ops.lean ====
section
/-! DEFINITION. The operations every block shares: register access (R7 to R11), the passing of time, tokens (R331
to R333), ledger records on their way to the merger (R276, R335, R337), detections (R344 to R347), MSI-X signals. -/

namespace Sys2Proof.Machine

/-- What a meaning answers. -/
abbrev Out := Host.Outcome State Fault Refusal

/-- A change of the device alone. -/
def State.onDev (s : State) (f : Dev → Dev) : Out := .next { s with dev := f s.dev }

/-- A change of the device and its memories. -/
def State.onBoth (s : State) (f : Mem → Dev → Dev × Mem) : Out :=
  let x := f s.mem s.dev
  .next { s with dev := x.1, mem := x.2 }

/-! ### Registers -/

/-- The dword at a BAR0 address. -/
def Dev.reg (d : Dev) (a : Nat) : W32 := Tab.get regReset d.regs a

/-- Store a dword. -/
def Dev.setReg (a : Nat) (v : W32) (d : Dev) : Dev := { d with regs := d.regs.insert a v }

/-- A field's value. -/
def Dev.get (d : Dev) (f : Fld) : Nat :=
  if f.w = 64 then (d.reg f.addr).toNat + 2 ^ 32 * (d.reg (f.addr + 4)).toNat
  else bitsOf (d.reg f.addr).toNat f.lo f.w

/-- A dword with bits `[lo + w - 1 : lo]` replaced. -/
def spliceBits (old lo w v : Nat) : W32 :=
  BitVec.ofNat 32 (old % 2 ^ lo + v % 2 ^ w * 2 ^ lo + old / 2 ^ (lo + w) * 2 ^ (lo + w))

/-- Write a field; a 64-bit field is a dword pair (R8). -/
def Dev.put (f : Fld) (v : Nat) (d : Dev) : Dev :=
  if f.w = 64 then
    { d with regs := (d.regs.insert f.addr (BitVec.ofNat 32 v)).insert (f.addr + 4) (BitVec.ofNat 32 (v / 2 ^ 32)) }
  else d.setReg f.addr (spliceBits (d.reg f.addr).toNat f.lo f.w v)

/-- A one-bit field reads 1. -/
def Dev.on (d : Dev) (f : Fld) : Bool := d.get f == 1

/-- Add to a counter that saturates. -/
def Dev.bumpBy (f : Fld) (n : Nat) (d : Dev) : Dev := d.put f (min (2 ^ f.w - 1) (d.get f + n))

/-- Count one. -/
def Dev.bump (f : Fld) (d : Dev) : Dev := d.bumpBy f 1

/-- A number as a field with the value 1 or 0. -/
def bit (b : Bool) : Nat := if b then 1 else 0

/-- Set or clear bit `i` of a number. -/
def setBitTo (x i : Nat) (b : Bool) : Nat := if x.testBit i = b then x else if b then x + 2 ^ i else x - 2 ^ i

/-- Apply an operation when a condition holds. -/
def Dev.when (b : Bool) (f : Dev → Dev) (d : Dev) : Dev := if b then f d else d

/-- Apply an operation for each element of a list, first to last. -/
def Dev.each {α : Type} (l : List α) (f : α → Dev → Dev) (d : Dev) : Dev := l.foldl (fun d a => f a d) d

/-- The next value the spec leaves open. -/
def Dev.draw (d : Dev) : Nat × Dev := (Config.freeValue d.draws, { d with draws := d.draws + 1 })

/-- Drop leading elements beyond a number kept. -/
def keepLast {α : Type} (n : Nat) (l : List α) : List α := l.drop (l.length - n)

/-! ### Named parts of the state -/

/-- Engine `n`. -/
def Dev.eng (d : Dev) (n : Nat) : EngSt := Tab.get (fun _ => .reset) d.engs n
/-- Replace engine `n`. -/
def Dev.setEng (n : Nat) (e : EngSt) (d : Dev) : Dev := { d with engs := d.engs.insert n e }
/-- Change engine `n`. -/
def Dev.modEng (n : Nat) (f : EngSt → EngSt) (d : Dev) : Dev := d.setEng n (f (d.eng n))
/-- Timing sets of engine `n`. -/
def Dev.tset (d : Dev) (n : Nat) : TsetSt := Tab.get (fun _ => .reset) d.tsets n
/-- Change the timing sets of engine `n`. -/
def Dev.modTset (n : Nat) (f : TsetSt → TsetSt) (d : Dev) : Dev :=
  { d with tsets := d.tsets.insert n (f (d.tset n)) }
/-- Physical channel `c`. -/
def Dev.pin (d : Dev) (c : Nat) : PinSt := Tab.get (fun _ => .reset) d.pins c
/-- Change physical channel `c`. -/
def Dev.modPin (c : Nat) (f : PinSt → PinSt) (d : Dev) : Dev := { d with pins := d.pins.insert c (f (d.pin c)) }
/-- Fail capture of engine `n`. -/
def Dev.fc (d : Dev) (n : Nat) : FcapSt := Tab.get (fun _ => .reset) d.fcap n
/-- Change fail capture of engine `n`. -/
def Dev.modFc (n : Nat) (f : FcapSt → FcapSt) (d : Dev) : Dev := { d with fcap := d.fcap.insert n (f (d.fc n)) }
/-- Stamp buffer of bank `b`. -/
def Dev.bank (d : Dev) (b : Nat) : BankSt := Tab.get (fun _ => .reset) d.banks b
/-- Change the stamp buffer of bank `b`. -/
def Dev.modBank (b : Nat) (f : BankSt → BankSt) (d : Dev) : Dev :=
  { d with banks := d.banks.insert b (f (d.bank b)) }
/-- TIA measurement `k`. -/
def Dev.meas (d : Dev) (k : Nat) : TiaM := Tab.get (fun _ => .reset) d.tia.ms k
/-- Change TIA measurement `k`. -/
def Dev.modMeas (k : Nat) (f : TiaM → TiaM) (d : Dev) : Dev :=
  { d with tia := { d.tia with ms := d.tia.ms.insert k (f (d.meas k)) } }
/-- FLT's account of a block. -/
def Dev.blk (d : Dev) (b : Nat) : BlkRt := Tab.get (fun _ => .reset) d.flt.blks b
/-- Change FLT's account of a block. -/
def Dev.modBlk (b : Nat) (f : BlkRt → BlkRt) (d : Dev) : Dev :=
  { d with flt := { d.flt with blks := d.flt.blks.insert b (f (d.blk b)) } }
/-- The engine that owns bank `b` (R24). -/
def Dev.bankEng (d : Dev) (b : Nat) : Nat := Tab.get (fun _ => 0) d.maps.bank b
/-- The engine that owns site `k` (R24). -/
def Dev.siteEng (d : Dev) (k : Nat) : Nat := Tab.get (fun _ => 0) d.maps.site k

/-! ### Device states -/

/-- GLB.STATE codes (R412): BOOT. -/
abbrev stBoot : Nat := 0
/-- GLB.STATE: UNCONFIGURED. -/
abbrev stUnconfigured : Nat := 1
/-- GLB.STATE: READY; a read shows RUN while R412 says so. -/
abbrev stReady : Nat := 2
/-- GLB.STATE: DORMANT. -/
abbrev stDormant : Nat := 4
/-- GLB.STATE: SAFE_HOLD. -/
abbrev stSafeHold : Nat := 5

/-- The stored device state. -/
def Dev.st (d : Dev) : Nat := d.get GLB.STATE_STATE

/-- The device is in BOOT, steps 1 to 9. -/
def Dev.inBoot (d : Dev) : Bool := d.st == stBoot

/-- A block is held in RESET or OOS. -/
def Dev.blockDown (d : Dev) (b : Nat) : Bool := (d.blk b).state == 1 || (d.blk b).state == 3

/-- DRC is held out of service (R352, R355). -/
def Dev.drcOos (d : Dev) : Bool := (d.blk 8).state == 3

/-! ### Time -/

/-- TCLK periods in a microsecond and a millisecond at the nominal frequency. -/
abbrev usTclk : Nat := 1600
/-- TCLK periods in a millisecond. -/
abbrev msTclk : Nat := 1600000

/-- The Plain counter advances by 1 on every TCLK (R38). -/
def Dev.byTclk (d : Dev) : Bool := d.on PLN.QUALITY_PLLT_LOCK && !d.on PLN.QUALITY_REFSTEP

/-- The Plain counter advances by 16 on every REFCLK edge (R39); without REFCLK there is no edge. -/
def Dev.byRefclk (d : Dev) : Bool := d.on PLN.QUALITY_REFSTEP && d.on PLN.QUALITY_REFCLK_OK && d.pln.everLocked

/-- How far the counter moves in the next `k` TCLK periods; REFCLK edges fall at whole multiples of 16 (R35). -/
def Dev.countStep (d : Dev) (k : Nat) : Nat :=
  if d.byTclk then k
  else if d.byRefclk then 16 * ((d.elapsed + k) / 16 - d.elapsed / 16)
  else 0

/-- Blocks whose RESET, RECOVERING and OOS time counts in U (R362). -/
def serviceBlock (b : Nat) : Bool :=
  b == 1 || (0x10 ≤ b && b ≤ 0x14) || (0x20 ≤ b && b ≤ 0x53)

/-- Some block is out of service for a reason that counts in U (R362). -/
def Dev.unavailable (d : Dev) : Bool :=
  d.flt.blks.any fun (b, r) =>
    r.intrinsic && (r.state == 1 || r.state == 3 || (r.state == 2 && serviceBlock b))

/-- READY or RUN is shown (R412). -/
def Dev.inService (d : Dev) : Bool := d.st == stReady

/-- `k` TCLK periods pass. -/
def Dev.pass (k : Nat) (d : Dev) : Dev :=
  { d with
    count := d.count + BitVec.ofNat 64 (d.countStep k)
    elapsed := d.elapsed + k
    flt := { d.flt with
      unavail := d.flt.unavail + (if d.inService && d.unavailable then k else 0) } }

/-- The clock moves forward to the instant at which an event falls due, if that lies ahead. -/
def Dev.until (t : Nat) (d : Dev) : Dev := if d.elapsed < t then d.pass (t - d.elapsed) else d

/-- The coarse stamp of an event that happens now (R2, R23). DESIGN CHOICE (log 93): the replicas of the other clock domains
read the counter exactly. -/
def Dev.now (d : Dev) : Nat := d.count.toNat

/-- The full stamp, in fine ticks, of an interpolated instant with corrected fine part `f` (R47). While the counter counts
in REFCLK steps there is no fine part (R41); no stamp falls below those taken before the steps began (R40). -/
def Dev.interpolatedBy (d : Dev) (f : Int) : Nat :=
  max d.pln.floor (if d.byTclk then (4096 * d.now + f + d.get PLN.PHASE_OFS : Int).toNat else 4096 * d.now)

/-- The full stamp of an instant whose fine part is `f`. -/
def Dev.interpolated (d : Dev) (f : Nat) : Nat := d.interpolatedBy f

/-- The elapsed time of an instant given on the Plain, if it lies in the future; the Plain counts by TCLK. -/
def Dev.elapsedOf (d : Dev) (coarse : Nat) : Nat := d.elapsed + (coarse - d.now)

/-! ### Tokens (R331 to R333) -/

/-- The paths that draw LT tokens: every ledger path but LDG's own (R277, R331). -/
def ledgerPaths : List Nat := List.range' 1 12 ++ List.range' 0x10 64

/-- The holders of a pool. -/
def poolHolders (p : Nat) : List Nat :=
  match p with
  | 0 => List.range 4
  | 1 => List.range 4
  | 2 => List.range 32
  | 3 => List.range 8
  | 4 => ledgerPaths
  | 5 => List.range 5
  | _ => List.range 9

/-- Reserve of every holder of a pool. -/
def poolReserve (p : Nat) : Nat :=
  match p with
  | 0 => 256
  | 1 => 128
  | 2 => 1024
  | 3 => 64
  | 4 => 16
  | 5 => 32
  | _ => 128

/-- Cap of every holder of a pool. -/
def poolCap (p : Nat) : Nat :=
  match p with
  | 0 => 256
  | 1 => 128
  | 2 => 1024
  | 3 => 64
  | 4 => 256
  | 5 => 192
  | _ => 2048

/-- Pool numbers. -/
abbrev poolVT : Nat := 0
/-- Fail records. -/
abbrev poolFT : Nat := 1
/-- Stamps. -/
abbrev poolST : Nat := 2
/-- Acquisition lines. -/
abbrev poolAT : Nat := 3
/-- Ledger records. -/
abbrev poolLT : Nat := 4
/-- DRAM write bursts. -/
abbrev poolDT : Nat := 5
/-- DMA staging lines. -/
abbrev poolHT : Nat := 6

/-- Free tokens of a pool. -/
def TokSt.freeOf (t : TokSt) (p : Nat) : Nat := Tab.get poolSizeOf t.free p
/-- OUT of a holder. -/
def TokSt.outOf (t : TokSt) (p h : Nat) : Nat := (Tab.get (fun _ => (0, 0)) t.out (128 * p + h)).1
/-- PEAK of a holder. -/
def TokSt.peakOf (t : TokSt) (p h : Nat) : Nat := (Tab.get (fun _ => (0, 0)) t.out (128 * p + h)).2

/-- The part of a pool's free tokens that is set aside for reserves. -/
def TokSt.setAside (t : TokSt) (p : Nat) : Nat :=
  ((poolHolders p).map fun k => poolReserve p - t.outOf p k).sum

/-- The shared free count (R332). -/
def TokSt.shared (t : TokSt) (p : Nat) : Nat := t.freeOf p - t.setAside p

/-- Holder `h` may take `n` tokens (R332, token by token). -/
def TokSt.mayTake (t : TokSt) (p h n : Nat) : Bool :=
  let o := t.outOf p h
  o + n ≤ poolReserve p || (o + n ≤ poolCap p && o + n - max o (poolReserve p) ≤ t.shared p)

/-- A grant of `n` tokens, with the check of R341 on it. -/
def TokSt.take (t : TokSt) (p h n : Nat) : TokSt :=
  let o := t.outOf p h + n
  let fr := t.freeOf p - n
  { t with
    free := t.free.insert p fr
    out := t.out.insert (128 * p + h) (o, max o (t.peakOf p h))
    minFree := t.minFree.insert p (min fr (Tab.get poolSizeOf t.minFree p))
    lastShared := if poolReserve p < o then t.lastShared.insert p h else t.lastShared
    auditBad := if poolCap p < o then setBitTo t.auditBad p true else t.auditBad }

/-- A return of `n` tokens; a return from a holder that has none fails its check (R341). -/
def TokSt.give (t : TokSt) (p h n : Nat) : TokSt :=
  let o := t.outOf p h
  if o < n then
    { t with
      free := t.free.insert p (t.freeOf p + o)
      out := t.out.insert (128 * p + h) (0, t.peakOf p h)
      auditBad := setBitTo t.auditBad p true }
  else
    { t with
      free := t.free.insert p (t.freeOf p + n)
      out := t.out.insert (128 * p + h) (o - n, t.peakOf p h) }

/-- Count `n` items withheld, lost or tallied for want of a token (R333). -/
def TokSt.deny (t : TokSt) (p n : Nat) : TokSt :=
  { t with denied := t.denied.insert p (min (2 ^ 32 - 1) (Tab.get (fun _ => 0) t.denied p + n)) }

/-- Count a grant that waited. -/
def TokSt.waited (t : TokSt) (p n : Nat) : TokSt :=
  { t with waits := t.waits.insert p (min (2 ^ 32 - 1) (Tab.get (fun _ => 0) t.waits p + n)) }

/-- A holder that may takes `n` tokens now. -/
def Dev.mayTake (d : Dev) (p h n : Nat) : Bool := d.tok.mayTake p h n
/-- Take tokens. -/
def Dev.take (p h n : Nat) (d : Dev) : Dev := { d with tok := d.tok.take p h n }
/-- Return tokens. -/
def Dev.give (p h n : Nat) (d : Dev) : Dev := { d with tok := d.tok.give p h n }
/-- Count items refused a token. -/
def Dev.deny (p n : Nat) (d : Dev) : Dev := { d with tok := d.tok.deny p n }

/-- The CCLK period of this instant: 5 in 8 TCLK (R13). -/
def Dev.cclk (d : Dev) : Nat := 5 * d.elapsed / 8

/-- The acquisition memory has taken one waiting line in each CCLK period that has passed; their AT tokens are back (R240, R331).
DESIGN CHOICE (log 111): lines go in the order in which they were filled. -/
def Dev.aqDrain (d : Dev) : Dev :=
  let n := d.cclk - d.acq.at_
  let d' := (d.acq.lines.take n).foldl (fun d u => d.give poolAT u 1) d
  { d' with acq := ⟨d.acq.lines.drop n, d.cclk⟩ }

/-! ### Ledger records -/

/-- A path's queue. -/
def Dev.path (d : Dev) (p : Nat) : PathQ := Tab.get (fun _ => .reset) d.paths p
/-- Change a path's queue. -/
def Dev.setPath (p : Nat) (q : PathQ) (d : Dev) : Dev := { d with paths := d.paths.insert p q }

/-- 32-byte records of a group with this payload: 19 payload bytes each (R278). -/
def recordsOf (payload : List Byte) : Nat := max 1 (ceilDiv payload.length 19)

/-- Records a list of groups takes. -/
def slotsOf (rs : List Rec) : Nat := (rs.map fun r => recordsOf r.payload).sum

/-- Add `n` records stamped `c` to a tally of overflow (R335). -/
def ovfAdd (o : Nat × Nat × Nat) (n c : Nat) : Nat × Nat × Nat :=
  if o.1 = 0 then (n, c, c) else (o.1 + n, o.2.1, c)

/-- A record enters its path's col: it takes its PSEQ, and the overflow tally goes with it (R334, R337). -/
def PathQ.enter (q : PathQ) (r : Rec) : PathQ :=
  { q with col := q.col ++ [{ r with pseq := q.pseq, ovf := q.ovf }]
           pseq := (q.pseq + recordsOf r.payload) % 2 ^ 32
           ovf := (0, 0, 0) }

/-- A produced record takes tokens and its place in the col, waits in a pending slot, or is counted (R333, R335).
In DORMANT it goes to the store of 64 records, or is counted (R414). -/
def Dev.produce (r : Rec) (d : Dev) : Dev :=
  let n := recordsOf r.payload
  let q := d.path r.path
  if d.st == stDormant then
    if slotsOf d.boot.dormStore + n ≤ 64 then
      { d with boot := { d.boot with dormStore := d.boot.dormStore ++ [r] } }
    else { d with paths := d.paths.insert r.path { q with ovf := ovfAdd q.ovf n r.coarse } }
  else if q.pend.isEmpty && d.mayTake poolLT r.path n then
    { d with tok := d.tok.take poolLT r.path n, paths := d.paths.insert r.path (q.enter r) }
  else if slotsOf q.pend + n ≤ 8 then
    { d with paths := d.paths.insert r.path { q with pend := q.pend ++ [r] } }
  else
    { d with tok := d.tok.deny poolLT n
             paths := d.paths.insert r.path { q with ovf := ovfAdd q.ovf n r.coarse } }

/-- The path works under token discipline (R30). -/
def Dev.tokenDisc (d : Dev) (p : Nat) : Bool := d.disc.testBit p

/-- The quality in force in the TCLK period of a stamp (R42): what it was before the first later change. -/
def Dev.qualAt (d : Dev) (coarse : Nat) : Nat :=
  match d.pln.quals.find? fun (c, _) => decide (coarse < c) with
  | some (_, q) => q
  | none => d.get PLN.QUALITY_QUAL

/-- A record of a path with the stamp given (R276). LDG's own records wait for their placement (R284). -/
def Dev.emitAt (coarse fine path typ flags : Nat) (payload : List Byte) (d : Dev) : Dev :=
  let r : Rec :=
    { coarse, fine, qual := d.qualAt coarse, nt := d.tokenDisc path, late := false, typ, flags, path,
      payload, pseq := 0, ovf := (0, 0, 0) }
  if path = 0 then { d with ldg := { d.ldg with own := d.ldg.own ++ [r] } } else d.produce r

/-- A record of a path stamped now. -/
def Dev.emit (path typ : Nat) (payload : List Byte) (d : Dev) : Dev := d.emitAt d.now 0 path typ 0 payload

/-! ### Discipline (R30 to R34) -/

/-- The block of a PATH code (R277): FCAP and AQU have several paths. -/
def blockOfPath (p : Nat) : Nat :=
  if 0x14 ≤ p ∧ p ≤ 0x17 then 0x14 else if 0x18 ≤ p ∧ p ≤ 0x1F then 0x18 else p

/-- The ledger paths of a block. -/
def pathsOfBlock (b : Nat) : List Nat :=
  if b = 0x14 then List.range' 0x14 4 else if b = 0x18 then List.range' 0x18 8
  else if b < 0x50 then [b] else []

/-- Every ledger path, LDG's included. -/
def allPaths : List Nat := 0 :: ledgerPaths

/-- A condition of R30 puts the path under token discipline. -/
def Dev.tokenCond (d : Dev) (p : Nat) : Bool :=
  d.flt.safeHold || d.inBoot || d.get PLN.QUALITY_QUAL == 0 || (d.blk (blockOfPath p)).state != 0 ||
    d.hks.selfTest.contains (blockOfPath p)

/-- The DISCIPLINE record of a path: new discipline, last PSEQ, first stamp in stamp order (R34, R279). DESIGN CHOICE
(log 94): the record that marks entry into token discipline has 0 for that stamp. -/
def Dev.disciplineRecord (p : Nat) (toStamp : Bool) (d : Dev) : Dev :=
  let last := ((if p = 0 then d.ldg.ownPseq else (d.path p).pseq) + (2 ^ 32 - 1)) % 2 ^ 32
  d.emit p 0x03 (leBytes 1 (bit (!toStamp)) ++ leBytes 4 last ++ leBytes 8 (if toStamp then d.now else 0))

/-- A path goes under token discipline at once; its DISCIPLINE record is NT (R34). -/
def Dev.toToken (p : Nat) (d : Dev) : Dev :=
  if d.tokenDisc p then d else ({ d with disc := setBitTo d.disc p true }).disciplineRecord p false

/-- A path returns to stamp discipline and writes its DISCIPLINE record (R34). -/
def Dev.toStamp (p : Nat) (d : Dev) : Dev :=
  if d.tokenDisc p then ({ d with disc := setBitTo d.disc p false }).disciplineRecord p true else d

/-! ### MSI-X -/

/-- The condition of vector `v` arises (R384). -/
def Dev.signal (v : Nat) (d : Dev) : Dev := { d with host := { d.host with due := setBitTo d.host.due v true } }

/-- A condition of RUN holds (R412): an engine between LOADING and PAUSED, an SMC output that is not OPEN, an acquisition
unit neither IDLE nor DONE, an armed TIA measurement. -/
def Dev.running (d : Dev) : Bool :=
  ((List.range 4).any fun n => let s := d.get (SEQ.STATUS_STATE n); 1 ≤ s && s ≤ 4) ||
    ((List.range 8).any fun u => let s := d.get (AQ.STATUS_STATE u); s != 0 && s != 5) ||
    (d.tia.ms.any fun (_, m) => m.armed) ||
    (d.regs.any fun (a, _) =>
      0x3000000 ≤ a && a < 0x3100000 && a % 0x10000 < 0x4400 && a % 0x400 == 0x80 &&
        d.get (SMCG.OUT_OUT_STATE ((a - 0x3000000) / 0x10000) (a % 0x10000 / 0x400)) != 0)

/-- A change between READY and RUN signals vector 2 (R383, R412). -/
def Dev.stateSignal (d was : Dev) : Dev :=
  if d.st == stReady && was.st == stReady && was.running != d.running then d.signal 2 else d

/-! ### Detections (R344 to R347, R354) -/

/-- A block's RESET or its shadow covers now (R354). -/
def BlkRt.shadows (r : BlkRt) (elapsed : Nat) : Bool :=
  r.state == 1 ||
  (match r.resetEnd with
   | some e => r.state == 2 && decide (elapsed < e + msTclk)
   | none => false)

/-- A detection of `block` with code `det` is shadowed by the reset of a block it depends on (R353, R354). -/
def Dev.shadowed (d : Dev) (block det : Nat) : Bool :=
  d.flt.blks.any fun (b, r) =>
    r.shadows d.elapsed && r.deps.contains block && (b != 0 || det == 0x1004) && (4096 ≤ det)

/-- Recoveries of a block begun within FLT.RECOV_WINDOW (R352). -/
def Dev.recovs (d : Dev) (b : Nat) : List Nat :=
  (d.blk b).recovs.filter fun t => decide (d.elapsed < t + 1000 * msTclk * d.get FLT.RECOV_WINDOW)

/-- A further FC1 of the block would exceed the recovery limit (R352). -/
def Dev.atLimit (d : Dev) (b : Nat) : Bool :=
  ((d.blk b).state == 0 || (d.blk b).state == 2) && d.get FLT.RECOV_LIMIT ≤ (d.recovs b).length

/-- The class of a detection: that of its code, or FC0 where FLT.REACT makes it one (R345, R360). -/
def Dev.classOf (d : Dev) (a : Detection) : Nat :=
  let c := a.det / 4096
  if a.det = 0x1005 && d.on FLT.REACT_LINK_FC0 then 0
  else if c = 1 && d.on FLT.REACT_OOS_FC0 && d.atLimit a.block && !d.shadowed a.block a.det then 0
  else c

/-- The first-error capture of a class takes a detection (R347). -/
def Dev.capture (a : Detection) (d : Dev) : Dev :=
  let c := d.classOf a
  let f := Tab.get (fun _ => Fec.reset) d.flt.fec c
  let f' : Fec :=
    if f.valid then { f with count := min (2 ^ 32 - 1) (f.count + 1) }
    else { det := a.det, block := a.block, master := a.master, addr := a.addr, stamp := d.now, count := 0,
           access := a.access, valid := true }
  { d with flt := { d.flt with fec := d.flt.fec.insert c f' } }

/-- FLAGS of a FAULT or NOTICE record: CONSEQUENT and the mark of an injected detection (R276, R361). -/
def faultFlags (consequent injected : Bool) : Nat := 2 * bit consequent + 8 * bit injected

/-- The FAULT record of a detection (R346). -/
def Dev.faultRecord (a : Detection) (d : Dev) : Dev :=
  d.emitAt d.now 0 2 0x60 (faultFlags (d.shadowed a.block a.det) a.injected)
    (leBytes 1 (d.classOf a) ++ leBytes 2 a.det ++ leBytes 1 a.block ++ leBytes 1 a.master ++
      leBytes 1 a.access ++ leBytes 8 a.addr ++ leBytes 4 a.detail)

/-- The NOTICE record of a detection, with its eight detail bytes (R346). -/
def Dev.noticeRecord (a : Detection) (details : List Byte) (d : Dev) : Dev :=
  d.emitAt d.now 0 2 0x61 (faultFlags (d.shadowed a.block a.det) a.injected)
    (leBytes 2 a.det ++ leBytes 1 a.block ++ (details ++ List.replicate 8 0).take 8)

/-- A detection of class FC0 to FC2: captured and recorded; its reaction follows in the same command, unless a
reset of another block shadows it (R354). -/
def Dev.alarm (a : Detection) (d : Dev) : Dev :=
  let s := d.shadowed a.block a.det
  let d := ((d.faultRecord a).capture a).signal 0
  if s then d else { d with flt := { d.flt with alarms := d.flt.alarms ++ [a] } }

/-- An FC3 detection: captured, and recorded in a NOTICE (R344, R346). -/
def Dev.noticeOf (a : Detection) (details : List Byte) (d : Dev) : Dev :=
  ((d.capture a).noticeRecord a details).signal 1

/-- A detection with no access, no master and no address. -/
def plainDetection (det block : Nat) : Detection := ⟨det, block, 0xFF, 0, 0, 0, false⟩

/-- A notice with the details its statement names. -/
def Dev.notice (det block : Nat) (details : List Byte) (d : Dev) : Dev :=
  d.noticeOf (plainDetection det block) details

/-- A fault of class FC0 to FC2 with no access behind it. -/
def Dev.fault (det block : Nat) (d : Dev) : Dev := d.alarm (plainDetection det block)

/-- The master of a register write (R347): the host, or the boot loader while it applies image entries. -/
def Dev.writeMaster (d : Dev) : Nat := if d.boot.loader then 0x04 else 0x07

/-- The access type of a register write (R347): the host's, or an internal one of the boot loader. -/
def Dev.writeAccess (d : Dev) : Nat := if d.boot.loader then 0x6 else 0x2

/-- A register write at a BAR0 offset is ignored or its command refused (R345, R347). -/
def Dev.ignored (addr : Nat) (d : Dev) : Dev :=
  d.noticeOf ⟨0x3003, blockOfAddr addr, d.writeMaster, d.writeAccess, addr, 0, false⟩ (leBytes 8 addr)

/-- REPLACE_REQ_N is asserted for a cause (R274), and vector 2 signals its assertion (R383). -/
def Dev.replaceReq (cause : Nat) (d : Dev) : Dev :=
  let d := if d.flt.replace = 0 then d.signal 2 else d
  { d with flt := { d.flt with replace := setBitTo d.flt.replace cause true } }

end Sys2Proof.Machine
end

