-- ==== Sys2Proof/Machine/HostGate.lean ====
section
/-! DEFINITION. What every host register access meets before the register it names (R350, R365, R386, R390, R393,
R397, R410). -/

namespace Sys2Proof.Machine

/-- Master code of the host (R347). -/
abbrev hostMaster : Nat := 0x07

/-- A REG_DECODE notice for a BAR0 offset (R386). -/
def Dev.regDecode (write : Bool) (addr : Nat) (d : Dev) : Dev :=
  d.noticeOf ⟨0x3006, blockOfAddr addr, d.writeMaster, if write then d.writeAccess else 1, addr, 0, false⟩ (leBytes 8 addr)

/-- The registers of a block are served in the present device state (R393, R397, R410). -/
def Dev.served (d : Dev) (b : Nat) : Bool :=
  if d.st == stDormant then b == 5 || b == 2 || b == 3 || b == 4
  else if d.inBoot then b == 5 || b == 2 || b == 4 || b == 7
  else if d.st == stUnconfigured then b == 5 || b == 2 || b == 4 || b == 7 || b == 1
  else true

/-- A write that SAFE_HOLD discards: captured as WRITE_IGNORED, without a record (R350). -/
def Dev.safeHoldDiscard (block addr : Nat) (d : Dev) : Dev := d.capture ⟨0x3003, block, hostMaster, 2, addr, 0, false⟩

/-- A GD_DISCARD for the guarded register at `addr` (R390). -/
def Dev.gdDiscard (addr : Nat) (d : Dev) : Dev :=
  d.noticeOf ⟨0x3002, blockOfAddr addr, hostMaster, 2, addr, 0, false⟩ (leBytes 8 addr)

/-- The pending guarded value of a block. -/
def Dev.gdPending (d : Dev) (b : Nat) : Option GdPend := (d.host.gd.find? fun (k, _) => k == b).map (·.2)

/-- Forget the pending guarded value of a block. -/
def Dev.gdForget (b : Nat) (d : Dev) : Dev := { d with host := { d.host with gd := d.host.gd.erase b } }

/-- Another write to a block discards its pending guarded value (R390). -/
def Dev.gdBreak (b : Nat) (d : Dev) : Dev :=
  match d.gdPending b with
  | some g => (d.gdForget b).gdDiscard g.addr
  | none => d

/-- A host write to the register at `addr` reaches it. -/
def Dev.hostOpen (d : Dev) (addr : Nat) : Bool := d.host.memEn && !d.flt.safeHold && d.served (blockOfAddr addr)

/-- What a host write meets when it does not reach its register. -/
def Dev.hostStop (addr : Nat) (d : Dev) : Dev :=
  if !d.host.memEn then d
  else if d.flt.safeHold then d.safeHoldDiscard (blockOfAddr addr) addr
  else d.regDecode true addr

/-- A full host write to the register at `addr`, with its effect. -/
def Dev.hostWrite (addr : Nat) (f : Dev → Dev) (d : Dev) : Dev :=
  if d.hostOpen addr then f (d.gdBreak (blockOfAddr addr)) else d.hostStop addr

/-- A completed guarded write (R390): the complement arrives, with what the completed value does. -/
def Dev.guarded (addr : Nat) (complement : W32) (f : Nat → Dev → Dev) (d : Dev) : Dev :=
  let b := blockOfAddr addr
  if !d.hostOpen addr then d.hostStop (addr + 4)
  else
    match d.gdPending b with
    | none => d.gdDiscard addr
    | some g =>
      let d := d.gdForget b
      if g.addr = addr then
        if complement = ~~~ g.value && d.elapsed ≤ g.at_ + 16000 then f g.value.toNat d else d.gdDiscard addr
      else (d.gdDiscard g.addr).gdDiscard addr

end Sys2Proof.Machine
end

