-- ==== Sys2Proof/Machine/PlainOps.lean ====
section
/-! DEFINITION. The Plain's quality, its SYNC checks and its epochs (R35 to R57). -/

namespace Sys2Proof.Machine

/-- Change PLN. -/
def Dev.modPln (f : PlnSt → PlnSt) (d : Dev) : Dev := { d with pln := f d.pln }

/-- The quality in force. -/
def Dev.qual (d : Dev) : Nat := d.get PLN.QUALITY_QUAL

/-- REFCLK was lost after PLL-T had locked: the quality stays frozen (R43, first row). -/
def Dev.qualFrozen (d : Dev) : Bool :=
  (d.pln.everLocked && !d.on PLN.QUALITY_REFCLK_OK) || (d.flt.fc0.any fun (det, _) => det == 0x0006)

/-- A change of the quality state writes a QUALITY record with its cause (R43); UNLOCKED puts every path under token
discipline (R30). What the quality was is kept for records stamped before the change (R42). -/
def Dev.setQual (new cause : Nat) (d : Dev) : Dev :=
  let old := d.qual
  if old = new || d.qualFrozen then d
  else
    let d := (d.put PLN.QUALITY_QUAL new).modPln fun p => { p with quals := keepLast 64 (p.quals ++ [(d.now, old)]) }
    let d := (d.emit 1 0x10 (leBytes 1 old ++ leBytes 1 new ++ leBytes 1 cause)).signal 2
    if new = 0 then d.each allPaths Dev.toToken else d

/-- REF_WARM has been high without a break for WARM_SETTLE (R44). -/
def Dev.warmSettled (d : Dev) : Bool :=
  match d.pln.warmSince with
  | some t => decide (t + msTclk * d.get PLN.WARM_SETTLE ≤ d.elapsed)
  | none => false

/-- The rising rows of R43, as far as their conditions hold now. -/
def Dev.qualRise (d : Dev) : Dev :=
  let d := if d.qual = 0 && d.on PLN.QUALITY_PLLT_LOCK && d.on PLN.QUALITY_REFCLK_OK then d.setQual 1 3 else d
  let d := if d.qual = 1 && d.warmSettled then d.setQual 2 4 else d
  if d.qual = 2 && d.get PLN.QUALITY_EPOCH_STATE == 2 && d.pln.lastPass && !d.on PLN.QUALITY_WAKE_CAP
  then d.setQual 3 6 else d

/-- The fine part a stamper reads: none while the counter counts in REFCLK steps (R41). -/
def Dev.finePart (d : Dev) (f : Nat) : Nat := if d.byTclk then f else 0

/-- Counting in REFCLK steps begins, at a REFCLK edge (R39). The largest stamp an interpolator can have given by then bounds
the later ones from below (R40). -/
def Dev.enterSteps (d : Dev) : Dev :=
  ((d.put PLN.QUALITY_PLLT_LOCK 0).put PLN.QUALITY_REFSTEP 1).modPln fun p =>
    { p with floor := if d.byTclk then 4096 * (d.now + 2) else p.floor }

/-- The deviation of a stamp from the nearest expected crossing (R50), in fine ticks. -/
def syncDeviation (m ball period : Nat) : Int :=
  let p : Int := period
  let x : Int := (m : Int) - ball
  let r := x % p
  if 2 * r ≤ p then r else r - p

/-- Clip to ±`lim`. -/
def clampInt (lim : Int) (x : Int) : Int := max (-lim) (min lim x)

/-- The SYNC_EDGE record (R50, R279). DESIGN CHOICE (log 96): a deviation that four bytes cannot hold is taken modulo
2^32. -/
def Dev.syncRecord (m : Nat) (dev : Int) (outcome : Nat) (d : Dev) : Dev :=
  d.emitAt (m / 4096) (m % 4096) 1 0x12 0 (leBytes 4 (unsignedOf 32 dev) ++ leBytes 1 outcome)

/-- PLAIN_SLIP (R43, R50). -/
def Dev.plainSlip (d : Dev) : Dev :=
  let d := (d.bump PLN.SLIP_COUNT).put PLN.QUALITY_EPOCH_STATE 0
  let d := d.modPln fun p => { p with lastPass := false }
  let d := if d.qual = 3 then d.setQual 2 8 else d
  d.fault 0x1008 1

/-- A SYNC edge that is checked against the epoch (R50). DEDUCED (log 114): a pass in REFCLK steps lifts no cap. -/
def Dev.syncCheck (m : Nat) (d : Dev) : Dev :=
  let dev := syncDeviation m (4096 * d.pln.ball.1 + d.pln.ball.2) (4096 * d.get PLN.SYNC_PERIOD)
  let d := (d.put PLN.SYNC_DEV_DEV (unsignedOf 16 (clampInt 32767 dev))).bump PLN.SYNC_DEV_CHECKS
  if d.byTclk then
    if dev.natAbs ≤ d.get PLN.PHASE_TOL then
      let d := d.syncRecord m dev 1
      let d := if d.get PLN.QUALITY_EPOCH_STATE = 1 then d.put PLN.QUALITY_EPOCH_STATE 2 else d
      let d := (d.put PLN.QUALITY_WAKE_CAP 0).put PLN.QUALITY_DRIFT_CAP 0
      (d.modPln fun p => { p with lastPass := true }).qualRise
    else if dev.natAbs ≤ 4096 then
      let d := d.syncRecord m dev 2
      let d := (d.notice 0x3009 1 []).put PLN.QUALITY_DRIFT_CAP 1
      let d := d.modPln fun p => { p with lastPass := false }
      if d.qual = 3 then d.setQual 2 7 else d
    else (d.syncRecord m dev 3).plainSlip
  else if dev.natAbs ≤ 65536 then d.syncRecord m dev 1
  else (d.syncRecord m dev 3).plainSlip

/-- The count that an epoch gives the TCLK period of its edge (R46, R47). -/
def EpochDue.countAtEdge (e : EpochDue) : Nat :=
  e.load + e.deskew / 4096 - (if e.deskew % 4096 < e.fine then 1 else 0)

/-- PHASE_OFS after an epoch (R47). -/
def EpochDue.phaseOfs (e : EpochDue) : Nat := (e.deskew % 4096 + 4096 - e.fine) % 4096

/-- A SYNC edge while the device is armed (R49). Bit 63 of the counter is 0 after every load (R40): a load that would set it
is refused as one of a SYNC_LOAD whose bit 63 is 1 (log 97). -/
def Dev.armedEdge (fine : Nat) (d : Dev) : Dev :=
  let e : EpochDue :=
    { raw := d.now, fine, load := d.get PLN.SYNC_LOAD, deskew := d.get PLN.SYNC_DESKEW, due := d.elapsed + 32 }
  let d := (d.syncRecord (d.interpolated fine) 0 0).put PLN.SYNC_CTRL_ARM 0
  if 2 ^ 63 ≤ e.load || 2 ^ 63 ≤ e.countAtEdge + 32 then (d.put PLN.SYNC_CTRL_ARM_RESULT 4).notice 0x3003 1 []
  else if d.now < e.countAtEdge then
    (d.put PLN.SYNC_CTRL_ARM_RESULT 5).modPln fun p => { p with epoch := some e }
  else (d.put PLN.SYNC_CTRL_ARM_RESULT 6).notice 0x3003 1 []

/-- A SYNC edge with raw fine part `f` (R46 to R50, R56). -/
def Dev.syncEdge (f : Nat) (d : Dev) : Dev :=
  let m := d.interpolated f
  let d := (d.put PLN.SYNC_LAST (m / 4096)).put PLN.SYNC_LAST_FINE (m % 4096)
  if d.on PLN.SYNC_CTRL_ARM then d.armedEdge (d.finePart f)
  else if d.on PLN.SYNC_CTRL_CHECK_EN &&
      (d.get PLN.QUALITY_EPOCH_STATE == 1 || d.get PLN.QUALITY_EPOCH_STATE == 2) then d.syncCheck m
  else d.syncRecord m 0 0

/-- The load of an epoch: the counter, PHASE_OFS, the epoch's state and its record (R46, R47, R49); the merger learns
by how much the count was raised (R284). The end of an IDLE_VEC vector in play is read on the new count (R134). -/
def Dev.loadEpoch (e : EpochDue) (d : Dev) : Dev :=
  let old := d.now
  let new := e.countAtEdge + (old - e.raw)
  let d := (((d.put PLN.PHASE_OFS e.phaseOfs).bump PLN.EPOCH_NUM).put PLN.QUALITY_EPOCH_STATE 1).put PLN.SYNC_DEV_CHECKS 0
  let d := d.emitAt e.raw e.fine 1 0x11 0
    (leBytes 8 old ++ leBytes 8 new ++ leBytes 2 e.phaseOfs ++ leBytes 4 (d.get PLN.EPOCH_NUM))
  { d with
    count := BitVec.ofNat 64 new
    engs := d.engs.map fun (n, e) => (n, { e with idleNext := e.idleNext.map (· + (new - old) * 2 ^ 24) })
    pln := { d.pln with epoch := none, lastPass := false,
                        ball := (e.load + e.deskew / 4096, e.deskew % 4096) }
    ldg := { d.ldg with jumps := keepLast 64 (d.ldg.jumps ++ [(new - old, d.elapsed)]) } }

/-- A request that cancels arming arrives (R49): ARM clears with result 0x7. -/
def Dev.cancelArm (d : Dev) : Dev :=
  if d.on PLN.SYNC_CTRL_ARM then
    ((d.put PLN.SYNC_CTRL_ARM 0).put PLN.SYNC_CTRL_ARM_RESULT 7).notice 0x3003 1 []
  else d

/-- A request that arrives between an epoch edge and its load is held (R49). -/
def Dev.holdForEpoch (r : HeldReq) (d : Dev) : Option Dev :=
  if d.pln.epoch.isSome then some (d.modPln fun p => { p with held := p.held ++ [r] }) else none

end Sys2Proof.Machine
end

