-- ==== Sys2Proof/Machine/PinBase.lean ====
section
/-! DEFINITION. Physical and logical pin channels, their level DACs and the readiness of their comparators (R4, R148 to
R168). -/

namespace Sys2Proof.Machine

/-! ### Physical and logical channels -/

/-- Bank of a physical channel (R4). -/
def bankOf (p : Nat) : Nat := if p < 1024 then p / 32 else p - 1024

/-- Index of its pin page in the bank: 32 is the spare. -/
def pageOf (p : Nat) : Nat := if p < 1024 then p % 32 else 32

/-- Physical channel of a page. -/
def physOfPage (b i : Nat) : Nat := if i < 32 then 32 * b + i else 1024 + b

/-- The 33 physical channels of a bank, the spare last. -/
def bankPins (b : Nat) : List Nat := (List.range 33).map (physOfPage b)

/-- Every physical channel. -/
def allPins : List Nat := List.range 1056

/-- The physical channel that carries logical channel `c` (R192). -/
def Dev.physOf (d : Dev) (c : Nat) : Nat := d.get (PINB.CARRY_CARRIER (c / 32) (c % 32))

/-- The logical channel that physical channel `p` carries. -/
def Dev.logicalOf (d : Dev) (p : Nat) : Option Nat :=
  let c := d.get (PINB.CARRY_CARRIER (bankOf p) (pageOf p))
  if p < 1024 then (if c = p then some p else none) else if c < 1024 then some c else none

/-- A field of the pin page that configures a physical channel; while a spare carries a channel both pages hold the
same (R262). -/
def Dev.pinGet (d : Dev) (f : Nat → Nat → Fld) (p : Nat) : Nat := d.get (f (bankOf p) (pageOf p))

/-- A one-bit field of a pin page. -/
def Dev.pinOn (d : Dev) (f : Nat → Nat → Fld) (p : Nat) : Bool := d.pinGet f p == 1

/-- Logical channel `c` is mapped. -/
def Dev.mapped (d : Dev) (c : Nat) : Bool := !d.on (PINB.MAP_ACT_UNMAPPED (c / 32) (c % 32))
/-- Site of logical channel `c`. -/
def Dev.chanSite (d : Dev) (c : Nat) : Nat := d.get (PINB.MAP_ACT_SITE (c / 32) (c % 32))
/-- Pin position of logical channel `c`. -/
def Dev.chanPos (d : Dev) (c : Nat) : Nat := d.get (PINB.MAP_ACT_POS (c / 32) (c % 32))
/-- Engine of logical channel `c`. -/
def Dev.chanEng (d : Dev) (c : Nat) : Nat := d.bankEng (c / 32)

/-- The banks of engine `n`. -/
def Dev.engBanks (d : Dev) (n : Nat) : List Nat := (List.range 32).filter fun b => d.bankEng b == n
/-- The sites of engine `n`. -/
def Dev.engSites (d : Dev) (n : Nat) : List Nat := (List.range 64).filter fun k => d.siteEng k == n
/-- The mapped logical channels of engine `n`. -/
def Dev.engChans (d : Dev) (n : Nat) : List Nat :=
  ((d.engBanks n).flatMap fun b => (List.range 32).map (32 * b + ·)).filter d.mapped

/-- A set of numbers as a bit mask. -/
def maskOf (l : List Nat) : Nat := l.foldl (fun m k => setBitTo m k true) 0

/-- Sites of engine `n` that carry a mapped channel. -/
def Dev.carriedSites (d : Dev) (n : Nat) : List Nat :=
  let used := (d.engChans n).map d.chanSite
  (d.engSites n).filter fun k => used.contains k

/-- Outgoing channel of a handover whose overlap is under way: its stamps carry SHADOW (R192). -/
def Dev.isShadow (d : Dev) (p : Nat) : Bool :=
  match (Tab.get (fun _ => BusSt.reset) d.cal.buses (bankOf p)).overlap with
  | some (out, _, _) => out == p
  | none => false

/-- The logical channel whose output physical channel `p` gives: the one it carries and, for the outgoing channel of a handover
in its overlap, still the one it hands over (R192, R261). -/
def Dev.drivesAs (d : Dev) (p : Nat) : Option Nat :=
  match d.logicalOf p with
  | some c => some c
  | none =>
    match (Tab.get (fun _ => BusSt.reset) d.cal.buses (bankOf p)).overlap with
    | some (out, inc, _) => if out == p then d.logicalOf inc else none
    | none => none

/-- The instant in placement steps of an event now with fine part `f` in ft. -/
def Dev.stepNow (d : Dev) (f : Nat) : Int := 256 * d.elapsed + f / 16

/-! ### Levels (R151, R152, R165) -/

/-- A code after the check of R152. -/
def clampLevel (hv : Bool) (j v : Nat) : Nat :=
  if hv || 3 ≤ j then v else if 47661 < v then 47661 else if v < 5958 then 5958 else v

/-- Copy values into the active DACs `levels` of pages of bank `b`, with the check of R152 and its count and notice. -/
def Dev.latchPages (src : Nat → Nat → Nat) (b : Nat) (pages levels : List Nat) (d : Dev) : Dev :=
  let hv := d.on (PINB.HV_EN b)
  let all := pages.flatMap fun i => levels.map fun j => (i, j)
  let hit := all.filter fun (i, j) => clampLevel hv j (src i j) != src i j
  let d := d.each all fun (i, j) => Dev.put (PINB.ACT_LVL b i j) (clampLevel hv j (src i j))
  match (hit.map fun (i, _) => physOfPage b i).min? with
  | none => d
  | some p =>
    (d.bumpBy (PINB.LEVEL_CLAMP b) hit.length).notice 0x300F (0x20 + b) (leBytes 2 p ++ leBytes 2 hit.length)

/-- A field as a register table holds it. -/
def regsGet (regs : Tab W32) (f : Fld) : Nat := bitsOf (Tab.get regReset regs f.addr).toNat f.lo f.w

/-- The account of strobes and shadow writes of the present TCLK (R166). -/
def Dev.lsNow (d : Dev) : Dev := if d.ls.at_ = d.elapsed then d else { d with ls := ⟨d.elapsed, 0, []⟩ }

/-- Note what a dword holds before a write of this TCLK replaces it. -/
def Dev.noteOld (addr : Nat) (d : Dev) : Dev :=
  let d := d.lsNow
  { d with ls := { d.ls with old := (addr, d.reg addr) :: d.ls.old } }

/-- The registers as they stood in the previous TCLK, as far as writes have replaced them since (R166). -/
def Dev.shadowRegs (d : Dev) : Tab W32 :=
  if d.ls.at_ = d.elapsed then d.ls.old.foldl (fun r (a, v) => r.insert a v) d.regs else d.regs

/-- A pulse of the load strobe groups in `groups` reaches the pin channels, with the shadow levels of `regs`
(R165, R166). -/
def Dev.strobePins (groups : Nat) (regs : Tab W32) (d : Dev) : Dev :=
  d.each (List.range 32) fun b d =>
    let pages := (List.range 33).filter fun i =>
      groups.testBit (d.get (PINB.CFG_LS_GRP b i)) && !d.on (PINB.CFG_LS_IMM b i)
    if pages.isEmpty then d else d.latchPages (fun i j => regsGet regs (PINB.LVL b i j)) b pages (List.range 8)

/-- A shadow write of level `j` is copied at once on the pages whose LS_IMM is 1 (R165). -/
def Dev.latchNow (b j : Nat) (pages : List Nat) (d : Dev) : Dev :=
  d.latchPages (fun i k => d.get (PINB.LVL b i k)) b (pages.filter fun i => d.on (PINB.CFG_LS_IMM b i)) [j]

/-! ### Readiness (R158, R159) -/

/-- Settle interval after entry to a comparator mode (R158). -/
def settleTime (mode : Nat) : Nat :=
  match mode with
  | 0 => 160
  | 1 => 1600
  | 2 => 16000
  | _ => 160000

/-- The comparators of a channel have power and are enabled. -/
def Dev.cmpLive (d : Dev) (p : Nat) : Bool := (d.pin p).powered && d.pinOn PINB.CFG_CMP_EN p

/-- The comparators of a channel may have power: every supply is in range, the bank is neither in RESET nor OOS, and in DORMANT
the channel may wake the device (R148, R171, R352). -/
def Dev.cmpMayPower (d : Dev) (p : Nat) : Bool :=
  d.flt.supplyOut.isEmpty && !d.blockDown (0x20 + bankOf p) && (d.st != stDormant || d.pinGet PINB.SEL_WAKE_SEL p != 0)

/-- One comparator of a channel. -/
def PinSt.cmpOf (s : PinSt) (low : Bool) : CompSt := if low then s.low else s.high

/-- A comparator is ready (R159). -/
def Dev.cmpReady (d : Dev) (p : Nat) (low : Bool) : Bool :=
  d.cmpLive p && (d.pin p).settle.isNone && ((d.pin p).cmpOf low).resolved

/-- Ready and in mode F (R163). -/
def Dev.cmpUsable (d : Dev) (p : Nat) (low : Bool) : Bool := d.cmpReady p low && (d.pin p).mode == 0

/-- What a channel's comparators show now, noted as of `at_`. -/
def Dev.snapAt (d : Dev) (p : Nat) (at_ : Int) : CmpSnap :=
  let s := d.pin p
  { at_, ch := s.high.out, cl := s.low.out, readyH := d.cmpReady p false, readyL := d.cmpReady p true, fast := s.mode == 0 }

/-- CH was ready and in mode F (R163). -/
def CmpSnap.okH (x : CmpSnap) : Bool := x.readyH && x.fast
/-- CL was ready and in mode F (R163). -/
def CmpSnap.okL (x : CmpSnap) : Bool := x.readyL && x.fast

/-- Entries of a history that still matter to an instant at or after `t`. -/
def trimHist (t : Int) : List CmpSnap → List CmpSnap
  | a :: b :: rest => if b.at_ ≤ t then trimHist t (b :: rest) else a :: b :: rest
  | l => l

/-- Note what the comparators of a channel show from an instant on, for compares that look back to it. -/
def Dev.noteCmp (p : Nat) (at_ : Int) (d : Dev) : Dev :=
  let s := d.pin p
  let keep := (s.cmps.map fun c => c.s0).foldl min ((256 * d.elapsed : Int) - 16793344)
  d.modPin p fun s => { s with hist := (trimHist keep s.hist).filter (fun a => a.at_ != at_) ++ [d.snapAt p at_] }

/-- What the comparators showed at an instant. -/
def histAt (dflt : CmpSnap) (t : Int) : List CmpSnap → CmpSnap
  | [] => dflt
  | a :: rest => if a.at_ ≤ t then histAt a t rest else dflt

/-- Everything the comparators showed in `[t0, t1)`. -/
def histOver (dflt : CmpSnap) (t0 t1 : Int) (l : List CmpSnap) : List CmpSnap :=
  histAt dflt t0 l :: l.filter fun a => decide (t0 < a.at_) && decide (a.at_ < t1)

/-! ### What the ball shows (R148, R149) -/

/-- The state of a channel's output at its ball. -/
inductive BallState where
  | highZ
  | load                           -- high impedance with the active load
  | vt                             -- terminated to VT
  | vih
  | vil
deriving DecidableEq, Repr

/-- OFF, as the pin page decides (R149). -/
def Dev.offState (d : Dev) (p : Nat) : BallState :=
  if d.pinOn PINB.CFG_RX_TERM p then .vt else if d.pinOn PINB.CFG_LOAD_EN p then .load else .highZ

/-- An idle engine leaves its channels high-impedance: before the first START, with END_STATE HIZ (R122), and while a loss of
PLL-T lock stops its IDLE_VEC player (R134). -/
def Dev.idleHiz (d : Dev) (n : Nat) : Bool :=
  !(d.eng n).started || (d.eng n).idleStop ||
    (d.get (SEQ.IDLE_CFG_END_STATE n) == 1 && d.get (SEQ.STATUS_STATE n) ≤ 1)

/-- The level of a TDR measurement at its channel (R206). -/
def Dev.tdrBall (d : Dev) (k : Nat) : BallState :=
  match (d.meas k).open_ with
  | some o =>
    let t := (d.now - o) % 1024
    if o ≤ d.now && 256 ≤ t && t < 768 then .vih else .vil
  | none => .vil

/-- A channel's output (R148, R206): the first row that applies. DORMANT leaves every pin high-impedance (R413). -/
def Dev.ball (d : Dev) (p : Nat) : BallState :=
  let s := d.pin p
  let driven : BallState :=
    match s.out with
    | .off => d.offState p
    | .term => .vt
    | .drive => if s.latch then .vih else .vil
  if !d.flt.supplyOut.isEmpty || d.flt.safeHold || d.flt.fc0.isSome || d.st == stDormant ||
      d.blockDown (0x20 + bankOf p) || d.pinOn PINB.CARRY_ON_BUS p then .highZ
  else
    match d.drivesAs p with
    | none => match s.measure with | some k => d.tdrBall k | none => .highZ
    | some c =>
      if (d.eng (d.chanEng c)).aborted then
        match d.pinGet PINB.CFG_ABORT_STATE p with
        | 0 => if d.mapped c then driven else d.offState p
        | 2 => .vt
        | _ => .highZ
      else
        match s.measure with
        | some k => d.tdrBall k
        | none => if !d.mapped c then d.offState p else if d.idleHiz (d.chanEng c) then .highZ else driven

end Sys2Proof.Machine
end

