-- ==== Sys2Proof/Machine/TiaOps.lean ====
section
/-! DEFINITION. TIA: interval measurements, their results and their events (R193 to R206). -/

namespace Sys2Proof.Machine

/-- Change TIA. -/
def Dev.modTia (f : TiaSt → TiaSt) (d : Dev) : Dev := { d with tia := f d.tia }

/-- TIA.TIMEOUT in TCLK. -/
def Dev.tiaTimeoutT (d : Dev) : Nat := usTclk * d.get TIA.TIMEOUT

/-- Gate end in coarse TCLK, where the gate is bounded (R199). -/
def TiaM.gateEnd (m : TiaM) : Option Nat :=
  match m.open_ with
  | some o => if m.gateLen = 0 then none else some (o + m.gateLen)
  | none => none

/-- Code of a transition as A_EDGE has it: 0 CH rising, 1 CH falling, 2 CL rising, 3 CL falling. -/
def edgeCode (low rise : Bool) : Nat := 2 * bit low + bit (!rise)

/-- Half-width of a measurement's stamps in ft (R195). -/
def TiaM.half (m : TiaM) : Nat := if m.cls = 1 && !m.calStream then 20 else 99

/-- Nearest integer to `a / b`, a half rounding up. -/
def roundDiv (a : Int) (b : Nat) : Int := (2 * a + b) / (2 * (b : Int))

/-- A raw reading in ft by a setup's sums over 64 calibration edges: (r − c) × 4,096 / G with G = m2 − m1 and c = 2 m1 − m2
(R193). Rounded half up, log 109. -/
def metroFine (sums : Nat × Nat) (raw : Nat) : Int :=
  roundDiv ((64 * raw - (2 * sums.1 - sums.2) : Int) * 4096) (sums.2 - sums.1)

/-- The stamp a measurement takes of an edge of physical channel `p` (R193): in metrology class by its own setup, else the
stream stamp. `base` is the stamp with no fine part. -/
def TiaM.stampOf (m : TiaM) (p base raw s : Nat) : Nat :=
  if m.cls = 1 && !m.calStream then (base + metroFine (if p = m.chA then m.calA else m.calB) raw : Int).toNat else s

/-- Whether a transition of physical channel `p` is one that a measurement uses (R200): edge A, edge B, or the opposite
transition that ends a WIDTH. -/
def TiaM.uses (m : TiaM) (p code : Nat) : Bool :=
  (p == m.chA && code == m.aEdge) || ((m.func == 1 || m.func == 4) && p == m.chB && code == m.bEdge) ||
  (m.func == 3 && p == m.chA && code / 2 == m.aEdge / 2)

/-! ### Arithmetic of the results (R201, R202) -/

/-- Integer square root, `bits` bits of it. -/
def natSqrt : Nat → Nat → Nat → Nat
  | 0, _, r => r
  | bits + 1, x, r =>
    let t := r + 2 ^ bits
    natSqrt bits x (if t * t ≤ x then t else r)

/-- Largest minus smallest of a list. -/
def spread (l : List Int) : Nat :=
  match l with
  | [] => 0
  | x :: xs => (xs.foldl max x - xs.foldl min x).toNat

/-- `Σ i · t_i`. -/
def weighted : Nat → List Int → Int
  | _, [] => 0
  | i, t :: ts => i * t + weighted (i + 1) ts

/-- What a FREQ gate's stamps give: n, the fit's numerator and denominator, irregular, f in µHz, residual (R201). -/
structure FreqFit where
  n : Nat
  irreg : Bool
  value : Nat
  resid : Nat
deriving DecidableEq, Repr

/-- The regression of R201 over at least three stamps: `P̂ = A / D`. Rounding of the residual is a choice (log). -/
def freqFit (stamps : List Nat) : FreqFit :=
  let n := stamps.length
  let t0 := stamps.headD 0
  let t : List Int := stamps.map fun (s : Nat) => (s : Int) - (t0 : Int)
  let si : Int := n * (n - 1) / 2
  let sii : Int := (n - 1) * n * (2 * n - 1) / 6
  let st := t.sum
  let stt := (t.map fun x => x * x).sum
  let a := n * weighted 0 t - si * st
  let dd := n * sii - si * si
  let e := n * stt - st * st
  let irreg := (t.zip (t.drop 1)).any fun (x, y) => decide (a < 4 * ((y - x) * dd - a).natAbs)
  let f := (2 * 6553600000000000000 * dd + a) / (2 * a)
  let r2 := 256 * (e * dd - a * a) / (dd * (n * n))
  { n, irreg, value := f.toNat, resid := min (2 ^ 32 - 1) (natSqrt 48 r2.toNat 0) }

/-- `Σ x_i / y_i` as a fraction. -/
def sumRatios : List (Int × Int) → Int × Int
  | [] => (0, 1)
  | (x, y) :: r => let (p, q) := sumRatios r; (p * y + x * q, q * y)

/-- VALUE, AUX1 and AUX2 of a measurement (R202). -/
def TiaM.values (m : TiaM) : Int × Nat × Nat :=
  let n := m.vals.length
  if m.func = 5 then
    if m.stamps.length < 3 then (0, m.stamps.length, 0)
    else let f := freqFit m.stamps; (f.value, f.n, f.resid)
  else if n = 0 then (0, 0, 0)
  else if m.func = 4 then
    let (p, q) := sumRatios (m.vals.zip m.aux)
    (roundDiv m.vals.sum n, n, (roundDiv (p * 2 ^ 32) (q * n).toNat).toNat % 2 ^ 32)
  else (roundDiv m.vals.sum n, n, min (2 ^ 32 - 1) (spread m.vals))

/-! ### Ending a measurement -/

/-- DONE or TMO bit of a measurement. -/
def Dev.tiaBit (f : Fld) (k : Nat) (b : Bool) (d : Dev) : Dev := d.put f (setBitTo (d.get f) k b)

/-- Produce the result of measurement `k` with a status: it becomes available by TIA_RESULT (R202, R203). -/
def Dev.tiaProduce (k status : Nat) (d : Dev) : Dev :=
  let m := d.meas k
  let (v, a1, a2) := m.values
  let status := if status = 0 && m.func == 5 && m.stamps.length < 3 then 3 else status
  let ref := match m.ref with | some r => r | none => 4096 * m.open_.getD d.now
  let rseq := (Tab.get (fun _ => 0) d.tia.rseq k + 1) % 65536
  let irreg := m.func == 5 && 3 ≤ m.stamps.length && (freqFit m.stamps).irreg
  let nt := d.tokenDisc 10 || status == 8
  let flags := bit m.border + 2 * bit m.calStream + 4 * bit irreg + 8 * bit nt + 16 * bit m.shadow
  let bytes :=
    leBytes 8 (ref / 4096) ++ leBytes 2 (ref % 4096 + 4096 * m.func) ++ leBytes 1 (k + 64 * m.cls) ++
    leBytes 1 status ++ leBytes 8 (unsignedOf 64 v) ++ leBytes 4 a1 ++ leBytes 4 a2 ++ leBytes 1 flags ++
    leBytes 1 (if m.ref.isSome then m.qual else d.qualAt (ref / 4096)) ++ leBytes 2 rseq
  let limit :=
    if status = 1 then m.open_.map fun o => (m, 4096 * (o + d.tiaTimeoutT))
    else if m.func = 5 && (status = 4 || decide (d.now < m.gateEnd.getD 0)) then some (m, 4096 * d.now)
    else if m.func = 5 then m.gateEnd.map fun g => (m, 4096 * g)
    else none
  let d := d.modTia fun t =>
    { t with results := t.results ++ [{ k, status, bytes, limit }], rseq := t.rseq.insert k rseq }
  (d.put (TIA.M_STATE_LAST_STATUS k) status).put (TIA.M_STATE_DONE_REPS k) m.vals.length

/-- An armed measurement ends with a status: TDR gives its channel back (R205, R206). -/
def Dev.tiaEnd (k status : Nat) (d : Dev) : Dev :=
  let m := d.meas k
  if !m.armed then d
  else
    let d := d.tiaProduce k status
    let d := (d.tiaBit TIA.ACTIVE k false).put (TIA.M_STATE_STATE k) 0
    let d := (d.modMeas k fun m => { m with armed := false }).stateSignal d
    if m.func = 6 then d.modPin m.chA fun s => { s with measure := none } else d

/-- Every armed measurement. -/
def Dev.tiaActive (d : Dev) : List Nat := (List.range 64).filter fun k => (d.meas k).armed

/-- Every armed measurement ends with status ABORTED (R205). -/
def Dev.tiaAbortAll (d : Dev) : Dev := d.each d.tiaActive fun k => Dev.tiaEnd k 8

/-- Measurements bound to a physical channel. -/
def Dev.tiaBound (d : Dev) (p : Nat) : List Nat :=
  d.tiaActive.filter fun k =>
    let m := d.meas k
    m.chA == p || ((m.func == 1 || m.func == 4) && m.chB == p)

/-- Measurements bound to a physical channel end with status CHANNEL (R205). -/
def Dev.tiaLoseChannel (p : Nat) (d : Dev) : Dev := d.each (d.tiaBound p) fun k => Dev.tiaEnd k 7

/-! ### Edges -/

/-- A stamp lies within its half-width of a limit of the gate, the timeout instant among them (R196, R199). -/
def TiaM.near (m : TiaM) (timeout s : Nat) : Bool :=
  match m.open_ with
  | some o =>
    decide (((s : Int) - 4096 * o).natAbs ≤ m.half) ||
    (m.gateLen ≠ 0 && decide (((s : Int) - 4096 * (o + m.gateLen)).natAbs ≤ m.half)) ||
    decide (((s : Int) - 4096 * (o + timeout)).natAbs ≤ m.half)
  | none => false

/-- The first edge a measurement uses is its REF. -/
def TiaM.use (m : TiaM) (s qual : Nat) (shadow : Bool) : TiaM :=
  let m := if shadow then { m with shadow := true } else m
  if m.ref.isSome then m else { m with ref := some s, qual }

/-- The first edge B at or after `s` among those of the latest TCLK; after `s` where `strict`. -/
def TiaM.heldB (m : TiaM) (strict : Bool) (s : Nat) : Option Nat :=
  m.bs.find? fun b => if strict then decide (s < b) else decide (s ≤ b)

/-- A repetition starts at edge A, at `s` (R200). An edge B of its TCLK may have come before it: CH is queued before CL
(R187). -/
def TiaM.begin (m : TiaM) (s : Nat) (same : Bool) : TiaM :=
  match m.func, m.heldB same s, m.heldB false s with
  | 1, some b, _ => { m with vals := m.vals ++ [(b : Int) - s], a := none, last := b }
  | 4, _, b => { m with a := some s, b }
  | _, _, _ => { m with a := some s }

/-- What one accepted edge does to a measurement in its gate (R200): `isA`, `isB` and `isOpp` say what the edge is. -/
def TiaM.edge (m : TiaM) (s : Nat) (isA isB isOpp same : Bool) : TiaM :=
  let m := if isB then { m with bs := (m.bs.filter fun b => b / 4096 == s / 4096) ++ [s] } else m
  match m.func, m.a with
  | 5, _ => if isA then { m with stamps := m.stamps ++ [s] } else m
  | 1, some a =>
    if isB && (if same then decide (a < s) else decide (a ≤ s)) then
      let m := { m with vals := m.vals ++ [(s : Int) - a], a := none, last := s }
      if isA then m.begin s same else m
    else m
  | 2, some a => if isA then { m with vals := m.vals ++ [(s : Int) - a], a := some s } else m
  | 3, some a => if isOpp && decide (a < s) then { m with vals := m.vals ++ [(s : Int) - a], a := none, last := s } else m
  | 4, some a =>
    match m.b with
    | none => if isB && decide (a ≤ s) then { m with b := some s } else m
    | some b =>
      if isA && decide (b ≤ s) then
        TiaM.begin { m with vals := m.vals ++ [(b : Int) - a], aux := m.aux ++ [(s : Int) - a] } s same
      else m
  | _, some _ => m
  | _, none => if isA && decide (m.last ≤ s) then m.begin s same else m

/-- An edge has become part of a repetition. -/
def TiaM.usedBy (m m' : TiaM) : Bool :=
  m.a != m'.a || m.b != m'.b || m.vals.length != m'.vals.length || m.stamps.length != m'.stamps.length

/-- The measurement tap of one measurement (R200): a transition of physical channel `p` at TCLK `base` in ft, with its raw
reading and its stream stamp `s`. Before the gate opens, the latest edge is held for BORDER (R196). -/
def Dev.tiaTapOne (p : Nat) (low rise : Bool) (base raw s : Nat) (k : Nat) (d : Dev) : Dev :=
  let m := d.meas k
  let code := edgeCode low rise
  let isA := p == m.chA && code == m.aEdge
  let isB := (m.func == 1 || m.func == 4) && p == m.chB && code == m.bEdge
  let isOpp := p == m.chA && code / 2 == m.aEdge / 2 && code != m.aEdge
  let same := m.chA == m.chB && m.aEdge / 2 == m.bEdge / 2
  if !(isA || isB || isOpp) || m.func == 6 then d
  else
    match m.open_ with
    | none => if m.uses p code then d.modMeas k fun m => { m with prior := some (p, base, raw, s) } else d
    | some o =>
      let s := m.stampOf p base raw s
      let m := if m.uses p code && m.near d.tiaTimeoutT s then { m with border := true } else m
      let inGate := decide (4096 * o ≤ s) && (m.gateLen = 0 || decide (s < 4096 * (o + m.gateLen))) &&
        decide (s < 4096 * (o + d.tiaTimeoutT))
      if !inGate then d.modMeas k fun _ => m
      else
        let m' := m.edge s isA isB isOpp same
        let m' := if m.usedBy m' then m'.use s (d.qualAt (s / 4096)) (d.isShadow p && 1024 ≤ p) else m'
        let d := d.modMeas k fun _ => m'
        let d := d.put (TIA.M_STATE_DONE_REPS k) m'.vals.length
        if m'.func ≠ 5 && m'.count ≤ m'.vals.length then d.tiaEnd k 0 else d

/-- A stamp just outside a gate whose result is not yet available sets its BORDER (R196). -/
def Dev.tiaLateBorder (p code base raw s : Nat) (d : Dev) : Dev :=
  d.modTia fun t =>
    { t with results := t.results.map fun r =>
        match r.limit with
        | some (m, g) =>
          if m.uses p code && decide (((m.stampOf p base raw s : Int) - g).natAbs ≤ m.half) then
            { r with bytes := r.bytes.mapIdx fun i b => if i = 28 then b ||| 1 else b }
          else r
        | none => r }

/-- The measurement tap: every transition that R188 accepts (R189). -/
def Dev.tiaTap (p : Nat) (low rise : Bool) (raw s : Nat) (d : Dev) : Dev :=
  let base := d.interpolated 0
  let d := d.tiaLateBorder p (edgeCode low rise) base raw s
  d.each (d.tiaBound p) (Dev.tiaTapOne p low rise base raw s)

/-! ### Arm, gate and stop -/

/-- The physical channel a channel number binds to (R198). -/
def Dev.tiaBind (d : Dev) (c : Nat) : Nat := if c < 1024 then d.physOf c else c

/-- A channel lies on its calibration bus. -/
def Dev.pinOnBus (d : Dev) (p : Nat) : Bool := d.pinOn PINB.CARRY_ON_BUS p

/-- The judgement of R198: none, or the status of a refused arm. -/
def Dev.tiaJudge (k : Nat) (d : Dev) : Option Nat :=
  let func := d.get (TIA.M_CFG_FUNC k)
  let cls := d.get (TIA.M_CH_A k)
  let chB := d.get (TIA.M_CH_B k)
  let two := func == 1 || func == 4
  let len := d.get (TIA.M_GATE_LEN k)
  let aLow := 2 ≤ d.get (TIA.M_CFG_A_EDGE k)
  let bLow := 2 ≤ d.get (TIA.M_CFG_B_EDGE k)
  let pA := d.tiaBind cls
  let pB := d.tiaBind chB
  if func == 0 || 7 ≤ func || (func != 5 && d.get (TIA.M_CFG_COUNT k) == 0) || 1055 < cls || 1055 < chB ||
      (func == 5 && (len == 0 || d.tiaTimeoutT < len)) then some 5
  else if d.on PLN.QUALITY_REFSTEP || !d.cmpUsable pA (aLow && func != 6) || (two && !d.cmpUsable pB bLow) ||
      d.pinOnBus pA || (two && d.pinOnBus pB) then some 2
  else if func == 6 &&
      (d.blockDown (0x20 + bankOf pA) || (d.pin pA).measure.isSome || (d.eng (d.bankEng (bankOf pA))).aborted ||
        (d.logicalOf pA).any fun c => d.mapped c && d.get (SEQ.STATUS_STATE (d.chanEng c)) != 0) then some 2
  else none

/-- An ARM of measurement `k` has been taken in this TCLK (R205). -/
def Dev.tiaArmedNow (d : Dev) (k : Nat) : Bool :=
  let m := d.meas k
  (m.armed || m.func != 0) && m.armEl == d.elapsed

/-- ARM of measurement `k` (R198, R205): two in one TCLK are one arm. -/
def Dev.tiaArm (k : Nat) (d : Dev) : Dev :=
  if d.tiaArmedNow k then d
  else if (d.meas k).armed then (d.bump TIA.ARM_IGNORED).ignored (TIA.M_CTRL_ARM k).addr
  else
    let m : TiaM :=
      { TiaM.reset with
        armAt := d.now, armEl := d.elapsed, func := d.get (TIA.M_CFG_FUNC k), cls := d.get (TIA.M_CFG_CLASS k),
        aEdge := d.get (TIA.M_CFG_A_EDGE k), bEdge := d.get (TIA.M_CFG_B_EDGE k),
        count := d.get (TIA.M_CFG_COUNT k), chA := d.tiaBind (d.get (TIA.M_CH_A k)),
        chB := d.tiaBind (d.get (TIA.M_CH_B k)), gateStart := d.get (TIA.M_GATE_START k),
        gateLen := d.get (TIA.M_GATE_LEN k) }
    let d := (d.tiaBit TIA.DONE k false).tiaBit TIA.TMO k false
    match d.tiaJudge k with
    | some st => (d.modMeas k fun _ => m).tiaProduce k st
    | none =>
      let d := (d.modMeas k fun _ => { m with armed := true, ready := if m.cls = 0 then some (d.now + 16) else none }).stateSignal d
      let d := (d.tiaBit TIA.ACTIVE k true).put (TIA.M_STATE_STATE k) (if m.cls = 0 then 2 else 1)
      let d := d.put (TIA.M_STATE_DONE_REPS k) 0
      if m.func = 6 then d.modPin m.chA fun s => { s with measure := some k } else d

/-- A completed metrology setup with the sums of its readings of CH_A and CH_B, or its fall back to stream class, gives the ready
instant (R194, R199). -/
def Dev.tiaReady (k : Nat) (sums : Option ((Nat × Nat) × (Nat × Nat))) (d : Dev) : Dev :=
  let m := d.meas k
  if m.armed && m.cls == 1 && m.ready.isNone then
    let late := decide (m.armAt + 16000 < d.now)
    let d := d.until (d.elapsedOf (m.armAt + (if sums.isSome then 3200 else 16000)))
    let c := sums.getD (m.calA, m.calB)
    (d.modMeas k fun m => { m with ready := some d.now, calStream := sums.isNone || late, calA := c.1, calB := c.2 }).put
      (TIA.M_STATE_STATE k) 2
  else d

/-- The gate of an armed and ready measurement opens, or lies in the past (R199). -/
def Dev.tiaOpen (k : Nat) (d : Dev) : Dev :=
  let m := d.meas k
  match m.armed, m.ready, m.open_ with
  | true, some r, none =>
    if m.gateStart ≠ 0 && m.gateStart < r then (d.until (d.elapsedOf r)).tiaEnd k 6
    else
      let o := if m.gateStart = 0 then r else m.gateStart
      let d := d.until (d.elapsedOf o)
      let near := m.prior.any fun (p, base, raw, s) =>
        decide (((m.stampOf p base raw s : Int) - 4096 * o).natAbs ≤ m.half)
      (d.modMeas k fun m => { m with open_ := some o, border := m.border || near }).put (TIA.M_STATE_STATE k) 3
  | _, _, _ => d

/-- A FREQ gate ends at TCLK `g` (R205): the stamps before it count, one near it sets BORDER (R196). -/
def TiaM.stopAt (m : TiaM) (g : Nat) : TiaM :=
  { m with
    border := m.border || m.stamps.any fun s => decide (((s : Int) - 4096 * g).natAbs ≤ m.half)
    stamps := m.stamps.filter fun s => decide (s < 4096 * g) }

/-- STOP (R205): a FREQ gate ends at the stop TCLK. Beside an ARM of the same TCLK the STOP comes first. -/
def Dev.tiaStop (k : Nat) (d : Dev) : Dev :=
  if !(d.meas k).armed || d.tiaArmedNow k then d
  else if (d.meas k).func = 5 then
    let d := d.modMeas k fun m => m.stopAt d.now
    d.tiaEnd k (if (d.meas k).stamps.length < 3 then 3 else 4)
  else d.tiaEnd k 4

/-- The timeout instant of an open measurement (R199). -/
def Dev.tiaTimeout (k : Nat) (d : Dev) : Dev :=
  let m := d.meas k
  match m.armed, m.open_ with
  | true, some o => (d.until (d.elapsedOf (o + d.tiaTimeoutT))).tiaEnd k 1
  | _, _ => d

/-- The end of a FREQ gate (R200, R201). -/
def Dev.tiaGateEnd (k : Nat) (d : Dev) : Dev :=
  let m := d.meas k
  match m.armed && m.func == 5, m.gateEnd with
  | true, some g => (d.until (d.elapsedOf g)).tiaEnd k 0
  | _, _ => d

/-- One TDR repetition, over at the end of its slot, with its reflection in ft after the launch (R206). -/
def Dev.tdrRepetition (k : Nat) (refl : Option Nat) (d : Dev) : Dev :=
  let m := d.meas k
  match m.armed && m.func == 6, m.open_ with
  | true, some o =>
    let launch := 4096 * (o + 1024 * m.slot + 256)
    let d := d.until (d.elapsedOf (o + 1024 * (m.slot + 1)))
    let m := { m with slot := m.slot + 1 }
    let m :=
      match refl with
      | some r =>
        let s := launch + r
        let m := if decide (r ≤ m.half) || decide (((r : Int) - 512 * 4096).natAbs ≤ m.half) then { m with border := true } else m
        if r < 512 * 4096 && s < 4096 * (o + d.tiaTimeoutT) && (m.gateLen = 0 || s < 4096 * (o + m.gateLen)) then
          let m := if m.near d.tiaTimeoutT s then { m with border := true } else m
          { m.use s (d.qualAt (s / 4096)) (d.isShadow m.chA && 1024 ≤ m.chA) with vals := m.vals ++ [(r : Int)] }
        else m
      | none => m
    let d := (d.modMeas k fun _ => m).put (TIA.M_STATE_DONE_REPS k) m.vals.length
    if m.count ≤ m.vals.length then d.tiaEnd k 0 else d
  | _, _ => d

/-- A result becomes available (R203): the oldest that measurement `k` has produced. -/
def Dev.tiaDeliver (k : Nat) (d : Dev) : Dev :=
  match d.tia.results.find? fun r => r.k == k with
  | none => d
  | some r =>
    let dws := (List.range 8).map fun j => BitVec.ofNat 32 (ofLeBytes ((r.bytes.drop (4 * j)).take 4))
    let d := d.modTia fun t => { t with results := t.results.erase r }
    let d := d.each (List.range 8) fun j => Dev.setReg (TIA.M_RES k j).addr (dws.getD j 0)
    let d :=
      if d.tia.fifo.length < 256 then d.modTia fun t => { t with fifo := t.fifo ++ [dws] } else d.bump TIA.RES_LOST
    let d := (d.emitAt d.now 0 10 0x33 ((r.bytes.getD 28 0).toNat % 2) r.bytes).signal 13
    let d := d.tiaBit TIA.DONE k true
    if r.status = 1 then d.tiaBit TIA.TMO k true else d

/-- TIA_OP of a word on one name of TIA_SEL: arm or stop; a number above 63 has no effect (R73, R197). -/
def Dev.tiaByName (n k : Nat) (arm : Bool) (d : Dev) : Dev :=
  let meas := bitsOf (d.get (SEQ.TIA_SEL n)) (8 * k) 8
  if 63 < meas then d.notice 0x3003 (0x10 + n) [] else if arm then d.tiaArm meas else d.tiaStop meas

end Sys2Proof.Machine
end

