-- ==== Sys2Proof/Machine/PinOps.lean ====
section
/-! DEFINITION. Comparators and edge stampers (R155 to R171, R187 to R192) and the pin page's control register. -/

namespace Sys2Proof.Machine

/-! ### Settle intervals (R159, R160) -/

/-- A comparator set to the unresolved state: its output reads its default. -/
def CompSt.unresolve (dflt : Bool) (reason : Nat) : CompSt := ⟨dflt, false, reason⟩

/-- Both comparators of a channel begin a settle interval for `mode`; with a reason they start unresolved (R160), without
one the mode has changed. Measurements on the channel end (R205). -/
def Dev.startSettle (p mode : Nat) (reason : Option Nat) (d : Dev) : Dev :=
  let d := d.modPin p fun s => { s with mode, settle := some (d.elapsed + settleTime mode), modeChanged := reason.isNone }
  let d :=
    match reason with
    | some r =>
      let h := d.pinOn PINB.CFG_CMP_DEF_H p
      let l := d.pinOn PINB.CFG_CMP_DEF_L p
      d.modPin p fun s => { s with high := .unresolve h r, low := .unresolve l r }
    | none => d
  (d.noteCmp p (256 * d.elapsed)).tiaLoseChannel p

/-- The comparators of a channel get power where they may, and start unresolved in their configured mode, in DORMANT in mode W
(R159, R160, R171). -/
def Dev.powerCmp (reason p : Nat) (d : Dev) : Dev :=
  if !d.cmpMayPower p then d
  else
    let d := d.modPin p fun s => { s with powered := true, lowered := false }
    if d.pinOn PINB.CFG_CMP_EN p then
      d.startSettle p (if d.st == stDormant then 3 else d.pinGet PINB.CFG_CMP_SPEED p) (some reason)
    else d

/-- The comparators of a channel lose power (R148, R171). -/
def Dev.unpowerCmp (p : Nat) (d : Dev) : Dev :=
  let d := d.modPin p fun s => { s with powered := false, settle := none }
  (d.noteCmp p (256 * d.elapsed)).tiaLoseChannel p

/-- The channel only mirrors a carrier in a handover (R259): its comparators write no CMP_RESOLVE. -/
def Dev.isMirror (d : Dev) (p : Nat) : Bool :=
  let b := bankOf p
  let st := d.get (CAL.BANK_STATE_STATE b)
  if (Tab.get (fun _ => BusSt.reset) d.cal.buses b).overlap.isSome then false
  else if 1024 ≤ p then st == 2 || st == 3 else (st == 5 || st == 6) && d.get (CAL.BANK_STATE_CUR b) == p % 32

/-- Number of the logical channel in a record, with NOLOG in bit 10 (R280). -/
def Dev.logicalField (d : Dev) (p : Nat) : Nat := match d.drivesAs p with | some c => c | none => 1024

/-- A CMP_RESOLVE record (R162, R280). -/
def Dev.resolveRecord (p : Nat) (low : Bool) (side : Bool) (dflt : Bool) (reason : Nat) (immediate : Bool)
    (full : Nat) (d : Dev) : Dev :=
  if d.isMirror p then d
  else
    d.emitAt (full / 4096) (full % 4096) (0x20 + bankOf p) 0x40 (8 * bit immediate)
      (leBytes 2 p ++ leBytes 2 (d.logicalField p) ++
        leBytes 1 (bit low + 2 * bit side + 4 * bit dflt + 16 * reason))

/-- Change one comparator of a channel. -/
def Dev.modCmp (p : Nat) (low : Bool) (f : CompSt → CompSt) (d : Dev) : Dev :=
  d.modPin p fun s => if low then { s with low := f s.low } else { s with high := f s.high }

/-- Side above the band, from a comparator's output: CH reads 1 above, CL reads 1 below. -/
def sideOf (low value : Bool) : Bool := value != low

/-- A comparator resolves to a value. -/
def Dev.resolve (p : Nat) (low value : Bool) (reason : Nat) (immediate : Bool) (full : Nat) (d : Dev) : Dev :=
  let dflt := ((d.pin p).cmpOf low).out
  let d := d.modCmp p low fun c => { c with out := value, resolved := true }
  d.resolveRecord p low (sideOf low value) dflt reason immediate full

/-- One comparator at the end of its settle interval (R161). A band of zero width always resolves; where the input
lies exactly on it the side is open. -/
def Dev.settleOne (p : Nat) (low : Bool) (side : Side) (changed : Bool) (d : Dev) : Dev :=
  let c := (d.pin p).cmpOf low
  let full := 4096 * d.now
  let live : Option Bool := match side with | .inside => none | .above => some !low | .below => some low
  let (live, d) :=
    if live.isNone && d.pinGet PINB.CFG_HYST p = 0 then
      let (v, d) := d.draw
      (some (v % 2 == 1), d)
    else (live, d)
  match live with
  | none => d
  | some v =>
    if !c.resolved then d.resolve p low v c.reason true full
    else if changed && v != c.out then d.resolve p low v 4 true full
    else d

/-- The end of a channel's settle interval (R161). -/
def Dev.settleEnd (p : Nat) (high low : Side) (d : Dev) : Dev :=
  match (d.pin p).settle with
  | none => d
  | some t =>
    let d := d.until t
    let changed := (d.pin p).modeChanged
    let d := (d.settleOne p false high changed).settleOne p true low changed
    let d := d.modPin p fun s => { s with settle := none, modeChanged := false }
    d.noteCmp p (256 * d.elapsed)

/-! ### Stamps (R187 to R192) -/

/-- Half-width of a channel's stamps in the stream, in ft (R195). -/
def Dev.streamHalf (d : Dev) (p : Nat) : Nat :=
  if d.on PLN.QUALITY_REFSTEP then 65536
  else
    match (d.pin p).mode with
    | 0 => 99
    | 1 => 26215
    | 2 => 6553600
    | _ => 163840000

/-- A stream entry (R191); `lost` is the count since the previous delivered entry. -/
def Dev.streamEntry (p : Nat) (low rise : Bool) (full lost : Nat) (d : Dev) : StEntry :=
  ⟨leBytes 8 (full / 4096) ++
  leBytes 2 (full % 4096 + 4096 * bit low + 8192 * bit rise + 16384 * bit ((d.pin p).mode != 0) +
    32768 * bit (0 < lost)) ++
  leBytes 2 (p + 2048 * bit (d.isShadow p) + 4096 * bit (d.tokenDisc (0x20 + bankOf p))) ++
  leBytes 2 (d.logicalField p + 16384 * d.get PLN.QUALITY_QUAL) ++
  leBytes 2 (min 0xFFFF lost), d.streamHalf p⟩

/-- A stream stamp is lost (R190). -/
def Dev.loseStamp (p full : Nat) (d : Dev) : Dev :=
  let b := bankOf p
  let d := (d.bump (PINB.CH_STAMP_LOST b (pageOf p))).bump (PINB.STAMP_LOST b)
  d.modPin p fun s => { s with lost := some (ovfAdd (s.lost.getD (0, 0, 0)) 1 (full / 4096)) }

/-- A stream stamp enters its channel queue, or is lost; the end of a loss span is recorded (R190). -/
def Dev.queueStamp (p : Nat) (low rise : Bool) (full : Nat) (d : Dev) : Dev :=
  let s := d.pin p
  if 64 ≤ s.queue.length then d.loseStamp p full
  else
    let n := (s.lost.getD (0, 0, 0)).1
    let e := d.streamEntry p low rise full n
    let d := d.modPin p fun s => { s with queue := s.queue ++ [e], lost := none }
    match s.lost with
    | some (n, first, last) =>
      d.emit (0x20 + bankOf p) 0x34 (leBytes 2 p ++ leBytes 4 n ++ leBytes 8 first ++ leBytes 4 last)
    | none => d

/-- A transition at `at_`, in ft of elapsed time, reaches the channel's stamper (R188, R189): the tap sees it with its raw
reading, and a selected one goes to the stream. -/
def Dev.stampEdge (p : Nat) (low rise : Bool) (at_ raw full : Nat) (d : Dev) : Dev :=
  if d.pinOnBus p then d
  else
    let s := d.pin p
    let last := if low then s.lastStamp.2 else s.lastStamp.1
    let stream := (d.pinGet PINB.SEL_STAMP_SEL p).testBit (edgeCode low rise) &&
      d.get (PINB.STAMP_CFG (bankOf p)) != 0
    let close := match last with | some t => decide (at_ < t + 2622) | none => false
    if close then (if stream then d.loseStamp p full else d)
    else
      let d := d.modPin p fun s =>
        { s with lastStamp := if low then (s.lastStamp.1, some at_) else (some at_, s.lastStamp.2) }
      let d := d.tiaTap p low rise raw full
      if stream then d.queueStamp p low rise full else d

/-! ### Comparator events (R170) -/

/-- A selected transition of a ready comparator (R170). -/
def Dev.cmpEvent (p : Nat) (low rise : Bool) (full : Nat) (d : Dev) : Dev :=
  let b := bankOf p
  let code := edgeCode low rise
  if !(d.pinGet PINB.SEL_IRQ_SEL p).testBit code then d
  else
    let f : Fld := if p < 1024 then ⟨(PINB.CMP_EVT b).addr, p % 32, 1⟩ else PINB.CMP_EVT_SP b
    if d.on f then d
    else
      let d := d.put f 1
      let d := d.emitAt (full / 4096) (full % 4096) (0x20 + b) 0x41 0
        (leBytes 2 p ++ leBytes 2 (d.logicalField p) ++ leBytes 1 (2 ^ code))
      if d.on (PINB.EVT_CFG b) then d.signal (16 + b) else d

/-- The fine part of a transition of physical channel `p` in stream class (R193, R406): by the interpolator tables of CALTAB. -/
def streamFine (m : Mem) (d : Dev) (p raw : Nat) : Nat :=
  let word (n a : Nat) : Int := signedOf (8 * n) (ofLeBytes (m.sramBytes (0x1F60000 + a) n))
  let tables := (List.range 3).map fun t =>
    (word 2 (12 + 2 * t), word 4 (127192 + 24 * p + 8 * t), word 4 (127196 + 24 * p + 8 * t))
  (Config.streamFine tables (signedOf 16 (d.get (GOV.TJ (Config.bankSensor (bankOf p)).val))) raw).toNat

/-- A comparator output changes, or an unresolved one's input leaves its band (R161, R169). In DORMANT the stampers
have no clock; a selected transition still makes its event (R414). `fine` is its place in the TCLK, `raw` the interpolator's
reading, `corrected` the fine part of its stamp. -/
def Dev.cmpTransition (p : Nat) (low value : Bool) (fine raw corrected : Nat) (d : Dev) : Dev :=
  let s := d.pin p
  let c := s.cmpOf low
  let full := d.interpolated corrected
  if !d.cmpLive p || s.settle.isSome then d
  else if !c.resolved then (d.resolve p low value c.reason false full).noteCmp p (d.stepNow fine)
  else if c.out = value then d
  else
    let d := (d.modCmp p low fun c => { c with out := value }).noteCmp p (d.stepNow fine)
    let d := if d.st == stDormant then d else d.stampEdge p low value (4096 * d.elapsed + fine) raw full
    d.cmpEvent p low value full

/-! ### The pin page's control register (R148, R153, R157 to R159) -/

/-- Pages a host write to page `i` of bank `b` reaches: while the spare carries channel `i`, both (R262). -/
def Dev.mirrorPages (d : Dev) (b i : Nat) : List Nat :=
  if i < 32 && d.get (PINB.CARRY_CARRIER b 32) == 32 * b + i then [i, 32] else [i]

/-- The spare's page while it carries a channel takes no write of its own (R262). -/
def Dev.spareBusy (d : Dev) (b i : Nat) : Bool := i == 32 && d.get (PINB.CARRY_CARRIER b 32) != 0x7FF

/-- The control dword a write leaves: reserved codes of ABORT_STATE and HYST leave their fields. -/
def pinCfgMerge (old new : Nat) : Nat :=
  let v := new % 2 ^ 18
  let v := if v % 4 = 3 then v - 3 + old % 4 else v
  if 5 ≤ bitsOf v 6 3 then v - bitsOf v 6 3 * 64 + bitsOf old 6 3 * 64 else v

/-- A write to the control register of one page: options, and the settle it starts. -/
def Dev.pinConfigPage (b i v : Nat) (d : Dev) : Dev :=
  let f := PINB.CFG_ABORT_STATE b i
  let p := physOfPage b i
  let old := (d.reg f.addr).toNat
  let new := pinCfgMerge old v
  let bad := v % 4 = 3 || 5 ≤ bitsOf v 6 3
  let d := d.setReg f.addr (BitVec.ofNat 32 new)
  let d := if bad then d.ignored f.addr else d
  let en0 := old.testBit 11
  let en1 := new.testBit 11
  let speed := bitsOf new 9 2
  if !en0 && en1 then
    if (d.pin p).powered then
      (d.modPin p fun s => { s with lowered := false }).startSettle p speed (some 3) else d
  else if en0 && !en1 then
    (d.modPin p fun s => { s with settle := none }).noteCmp p (256 * d.elapsed) |>.tiaLoseChannel p
  else if en1 && bitsOf old 9 2 != speed && (d.pin p).powered then
    (d.modPin p fun s => { s with lowered := false }).startSettle p speed none
  else d

/-- A host write to a pin page's control register. -/
def Dev.pinConfigWrite (p : Nat) (v : W32) (d : Dev) : Dev :=
  let b := bankOf p
  let i := pageOf p
  let a := (PINB.CFG_ABORT_STATE b i).addr
  if d.spareBusy b i then d.ignored a
  else d.each (d.mirrorPages b i) fun j => Dev.pinConfigPage b j v.toNat

end Sys2Proof.Machine
end

