-- ==== Sys2Proof/Machine/AcqOps.lean ====
section
/-! DEFINITION. Acquisition units: arming, triggers, segments (R234 to R248), and the trigger lines (R230 to R233). -/

namespace Sys2Proof.Machine

/-! ### Shares of a memory in granules (R107) -/

/-- Two ranges of granules, as base and length, have one in common. -/
def rangesMeet (a b : Nat × Nat) : Bool := 0 < a.2 && 0 < b.2 && a.1 < b.1 + b.2 && b.1 < a.1 + a.2

/-! ### Unit state -/

/-- Unit states (R244). -/
abbrev aqIdle : Nat := 0
/-- Dead time. -/
abbrev aqDead : Nat := 1
/-- Filling the pre-trigger part. -/
abbrev aqPrefill : Nat := 2
/-- Waiting for a trigger. -/
abbrev aqReady : Nat := 3
/-- Recording after a trigger. -/
abbrev aqPost : Nat := 4
/-- All segments recorded. -/
abbrev aqDone : Nat := 5
/-- FC1 reset of AQU. -/
abbrev aqReset : Nat := 6

/-- Unit `u`. -/
def Dev.aq (d : Dev) (u : Nat) : AqSt := Tab.get (fun _ => .reset) d.aqs u
/-- Change unit `u`. -/
def Dev.modAq (u : Nat) (f : AqSt → AqSt) (d : Dev) : Dev := { d with aqs := d.aqs.insert u (f (d.aq u)) }
/-- State of unit `u`. -/
def Dev.aqState (d : Dev) (u : Nat) : Nat := d.get (AQ.STATUS_STATE u)
/-- The unit is IDLE or DONE. -/
def Dev.aqQuiet (d : Dev) (u : Nat) : Bool := d.aqState u == aqIdle || d.aqState u == aqDone
/-- The unit runs: not IDLE, DONE or RESET. -/
def Dev.aqRuns (d : Dev) (u : Nat) : Bool := !d.aqQuiet u && d.aqState u != aqReset
/-- KIND of a unit: 0 CMP, 1 SMC, 2 STAMP. -/
def Dev.aqKind (d : Dev) (u : Nat) : Nat := d.get (AQ.CFG_KIND u)

/-- The ACQ_STATE record of a change from `old` to `new` with SEG at `seg` (R246). -/
def Dev.aqStateRecord (u old new seg : Nat) (d : Dev) : Dev :=
  d.emit (0x18 + u) 0x37 (leBytes 1 u ++ leBytes 1 old ++ leBytes 1 new ++ leBytes 2 seg)

/-- The unit goes to a state; into IDLE or DONE it writes an ACQ_STATE record (R246). -/
def Dev.aqGo (u new : Nat) (d : Dev) : Dev :=
  let old := d.aqState u
  let d := (d.put (AQ.STATUS_STATE u) new).stateSignal d
  if old ≠ new && (new = aqIdle || new = aqDone) then d.aqStateRecord u old new (d.get (AQ.STATUS_SEG u)) else d

/-! ### The sample grid (R235) -/

/-- Channels of a CMP unit. -/
def Dev.aqChannels (d : Dev) (u : Nat) : Nat := 8 * 2 ^ d.get (AQ.CFG_CMP_COUNT u)

/-- Sample size in bytes (R236, R237). -/
def Dev.aqSampleSize (d : Dev) (u : Nat) : Nat :=
  match d.aqKind u with
  | 0 => d.aqChannels u / 4
  | 1 => 4 * ((List.range 16).filter fun j => d.on (AQ.SMC_SEL_EN u j)).length
  | _ => 0

/-- Sample period in TCLK. -/
def Dev.aqPeriod (d : Dev) (u : Nat) : Nat := max 1 (if d.aqKind u = 1 then 20 * d.get (AQ.DIV u) else d.get (AQ.DIV u))

/-- Plain instant of sample 0: MCLK edges fall at multiples of 20 TCLK of elapsed time. -/
def Dev.aqOrigin (d : Dev) (u : Nat) : Int := if d.aqKind u = 1 then (d.now : Int) - d.elapsed else 0

/-- Plain instant of sample `k`. -/
def Dev.aqInstant (d : Dev) (u k : Nat) : Int := d.aqOrigin u + d.aqPeriod u * k

/-- The first sample at or after now. -/
def Dev.aqNextIndex (d : Dev) (u : Nat) : Nat := ceilDiv ((d.now : Int) - d.aqOrigin u).toNat (d.aqPeriod u)

/-- The first sample whose instant is strictly greater than a stamp in ft (R243). -/
def Dev.aqTrigSample (d : Dev) (u : Nat) (t : Int) : Nat :=
  ((t - 4096 * d.aqOrigin u) / (4096 * (d.aqPeriod u : Int)) + 1).toNat

/-! ### Slots and segments -/

/-- Slots in a unit's range (R239). -/
def Dev.aqSlots (d : Dev) (u : Nat) : Nat := d.get (AQ.PART_GRAN u) * 1024 / d.get (AQ.SLOT u)

/-- A slot is free. -/
def Dev.aqFree (d : Dev) (u : Nat) : Bool := (d.aq u).done.length + bit (d.aq u).seg.isSome < d.aqSlots u

/-- Dead time begins at sample `k`, or when a slot becomes free (R245). -/
def Dev.aqBeginDead (u k : Nat) (d : Dev) : Dev :=
  let d := d.modAq u fun a => { a with dead := if d.aqFree u then some k else none, next := max a.next k }
  d.aqGo u aqDead

/-- A stream entry's stamp, in ft (R191). -/
def entryStamp (e : StEntry) : Nat := 4096 * ofLeBytes (e.bytes.take 8) + ofLeBytes ((e.bytes.drop 8).take 2) % 4096

/-- A stream entry's physical channel (R191). -/
def entryPhys (e : StEntry) : Nat := ofLeBytes ((e.bytes.drop 10).take 2) % 2048

/-- Window of a STAMP segment in ft (R243). -/
def Dev.aqWindow (d : Dev) (u : Nat) (s : AqSeg) : Int × Int :=
  let t := d.aqInstant u s.k
  let div : Int := d.aqPeriod u
  (4096 * (t - d.get (AQ.PRE u) * div), 4096 * (t + d.get (AQ.POST u) * div))

/-- The 64-byte header and the body of a segment, as it stands (R247). -/
def Dev.aqSegment (u : Nat) (s : AqSeg) (trunc : Bool) (d : Dev) : List Byte :=
  let a := d.aq u
  let kind := d.aqKind u
  let pre := d.get (AQ.PRE u)
  let body := a.samples.filter fun x => decide (s.k - pre ≤ x.k) && decide (x.k < s.k + d.get (AQ.POST u))
  let post := (body.filter fun x => decide (s.k ≤ x.k)).length
  let lost := body.filter fun x => x.lost
  let (w0, _) := d.aqWindow u s
  let postEntries := (a.entries.filter fun e => decide (4096 * d.aqInstant u s.k ≤ entryStamp e)).length
  let lostN := if kind = 2 then a.lostEntries else lost.length
  let flags := bit trunc + 2 * bit (0 < lostN) + 4 * bit s.border + 8 * bit (d.tokenDisc (0x18 + u)) +
    16 * bit (body.any fun x => x.slow)
  let first : Nat := match lost with | x :: _ => x.k - (s.k - pre) | [] => 0xFFFFFFFF
  let unres := if kind = 2 then a.borders else body.foldl (fun m x => m ||| x.unres) 0
  let sample0 : Int := if kind = 2 then w0 / 4096 else d.aqInstant u (s.k - pre)
  leBytes 8 (unsignedOf 64 (s.trig.stamp / 4096)) ++
  leBytes 2 ((s.trig.stamp % 4096).toNat + 4096 * s.trig.source) ++ leBytes 1 (u + 8 * kind) ++ leBytes 1 flags ++
  leBytes 2 s.seg ++ leBytes 2 (d.get (AQ.ARM_NUM u)) ++ leBytes 8 (unsignedOf 64 sample0) ++ leBytes 4 pre ++
  leBytes 4 (if kind = 2 then postEntries else post) ++ leBytes 4 s.ofs ++ leBytes 4 lostN ++ leBytes 4 first ++
  leBytes 2 (d.get (AQ.DIV u)) ++ leBytes 1 s.qual ++ leBytes 1 0 ++ leBytes 8 unres ++ leBytes 8 0 ++
  (if kind = 2 then (a.entries.map fun e => e.bytes).flatten else (body.map fun x => x.bytes).flatten)

/-- Line `l` of a segment, counted from its header, is lost: it reads as zeros, and the header counts what it held in LOST
and FIRST_LOST with OVERRUN (R305, R329). `size` is the sample size, or that of an entry. -/
def spoilLine (size l : Nat) (seg : List Byte) : List Byte :=
  let lo := 64 * l
  let first := (lo - 64) / max 1 size
  let n := (min (lo + 64) seg.length - 64 + size - 1) / max 1 size - first
  if l = 0 || seg.length ≤ lo then seg
  else
    let lost := ofLeBytes ((seg.drop 36).take 4) + n
    let at_ := min first (ofLeBytes ((seg.drop 40).take 4))
    let flags := ofLeBytes ((seg.drop 11).take 1) ||| 2
    seg.take 11 ++ leBytes 1 flags ++ (seg.drop 12).take 24 ++ leBytes 4 lost ++ leBytes 4 at_ ++
      (seg.drop 44).take (lo - 44) ++ List.replicate (min 64 (seg.length - lo)) 0 ++ seg.drop (lo + 64)

/-! ### Lines (R240) -/

/-- `z` more bytes of unit `u` enter its col. The line they begin takes an AT token first; `none` where there is none. -/
def Dev.aqEnter (u z : Nat) (d : Dev) : Option Dev :=
  let d := d.aqDrain
  let fill := (d.aq u).fill
  let need := ceilDiv (fill + z) 64 - ceilDiv fill 64
  if !d.mayTake poolAT u need then none
  else
    let d := (if need = 0 then d else d.take poolAT u need).modAq u fun a => { a with fill := (fill + z) % 64 }
    some { d with acq := { d.acq with lines := d.acq.lines ++ List.replicate ((fill + z) / 64) u } }

/-- The line under way goes as it stands. -/
def Dev.aqFlush (u : Nat) (d : Dev) : Dev :=
  if (d.aq u).fill = 0 then d
  else
    let d := (d.aqDrain).modAq u fun a => { a with fill := 0 }
    { d with acq := { d.acq with lines := d.acq.lines ++ [u] } }

/-- Bytes of one sample or entry of a unit. -/
def Dev.aqItemSize (d : Dev) (u : Nat) : Nat := if d.aqKind u = 2 then 16 else d.aqSampleSize u

/-- The segment in progress closes and is queued for delivery. -/
def Dev.aqCloseSeg (u : Nat) (trunc : Bool) (d : Dev) : Dev :=
  match (d.aq u).seg with
  | none => d
  | some s =>
    let bytes := d.aqSegment u s trunc
    (d.aqFlush u).modAq u fun a =>
      { a with seg := none, done := a.done ++ [bytes], borders := 0, lostEntries := 0
               entries := [], samples := a.samples.filter fun x => decide (s.k + d.get (AQ.POST u) ≤ x.k) }

/-- The segment in progress completes after its last sample (R246). -/
def Dev.aqComplete (u : Nat) (d : Dev) : Dev :=
  match (d.aq u).seg with
  | none => d
  | some s =>
    let last := s.k + d.get (AQ.POST u) - 1
    if (d.aq u).next ≤ last then d
    else
      let d := d.aqCloseSeg u false
      let n := d.get (AQ.STATUS_SEG u) + 1
      let d := (d.put (AQ.STATUS_POST_DONE u) 1).put (AQ.STATUS_SEG u) n
      if d.get (AQ.SEGS u) ≤ n then d.aqGo u aqDone else d.aqBeginDead u (last + 1)

/-- Sample `k` has been taken: dead time and fill advance (R245). -/
def Dev.aqAdvance (u k : Nat) (d : Dev) : Dev :=
  match (d.aq u).seg, (d.aq u).dead with
  | some _, _ => d.aqComplete u
  | none, some dd =>
    let pre := d.get (AQ.PRE u)
    if dd + 32 + pre ≤ k then d.aqGo u aqReady
    else if dd + 32 ≤ k then d.aqGo u aqPrefill
    else d
  | none, none => d

/-! ### Triggers (R241 to R245) -/

/-- Order in which a unit judges triggers (R242). -/
def AqTrig.before (a b : AqTrig) : Bool := a.stamp < b.stamp || (a.stamp == b.stamp && decide (a.source ≤ b.source))

/-- Insert a trigger behind those judged before it. -/
def insertTrig (t : AqTrig) : List AqTrig → List AqTrig
  | [] => [t]
  | x :: xs => if x.before t then x :: insertTrig t xs else t :: x :: xs

/-- A trigger reaches a unit; IDLE, DONE and RESET take none (R244). Its stamp has TRIG_SKEW added (R241). -/
def Dev.aqDeliver (u source : Nat) (stamp : Int) (half : Nat) (d : Dev) : Dev :=
  if d.aqRuns u then
    let t : AqTrig := { stamp := stamp + signedOf 16 (d.get (AQ.TRIG_SKEW u)), source, half }
    d.modAq u fun a => { a with trigs := insertTrig t a.trigs }
  else d

/-- A trigger of a hardware source reaches every unit that selects it. -/
def Dev.aqHardware (source : Nat) (sel : Nat → Bool) (stamp : Int) (half : Nat) (d : Dev) : Dev :=
  d.each (List.range 8) fun u d => if sel u then d.aqDeliver u source stamp half else d

/-- A FAIL of a site, or a MATCH_TIMEOUT charge, as a hardware source (R241). -/
def Dev.aqFail (n site stamp : Nat) (d : Dev) : Dev :=
  d.aqHardware 4
    (fun u => d.get (AQ.TRIG_TRIG_SRC u) == 3 && d.get (AQ.TRIG_ENG u) == n &&
      (d.get (AQ.TRIG_SITE u) == site || d.get (AQ.TRIG_SITE u) == 0x40)) (4096 * stamp) 4096

/-- A monitor of a global SMC as a hardware source (R241); none while its group is in FC1 reset (R248). -/
def Dev.aqMonitor (smc mon stamp : Nat) (d : Dev) : Dev :=
  d.aqHardware 3
    (fun u => !d.blockDown (0x40 + smc / 16) && d.get (AQ.TRIG_TRIG_SRC u) == 2 && d.get (AQ.TRIG_SMC u) == smc && d.get (AQ.TRIG_MON u) == mon)
    (4096 * stamp) 8192

/-- A transition of a trigger line as a hardware source (R241). -/
def Dev.aqLine (line : Nat) (rise : Bool) (stamp : Int) (d : Dev) : Dev :=
  d.aqHardware 2
    (fun u => d.get (AQ.TRIG_TRIG_SRC u) == 1 && d.get (AQ.TRIG_LINE u) == line &&
      (d.get (AQ.TRIG_EDGE u) == 2 || (d.get (AQ.TRIG_EDGE u) == bit (!rise)))) stamp 99

/-- A record of a unit stamped with a trigger. -/
def Dev.aqRecord (u typ : Nat) (t : AqTrig) (flags : Nat) (payload : List Byte) (d : Dev) : Dev :=
  d.emitAt (t.stamp / 4096).toNat (t.stamp % 4096).toNat (0x18 + u) typ flags payload

/-- A trigger is suppressed with a reason (R245). -/
def Dev.aqSuppress (u : Nat) (t : AqTrig) (reason : Nat) (d : Dev) : Dev :=
  let d := (d.bump (AQ.TRIG_SUPPRESSED u)).put (AQ.STATUS_SUPP u) 1
  d.aqRecord u 0x36 t 0 (leBytes 1 u ++ leBytes 1 t.source ++ leBytes 1 reason)

/-- An entry comes to a slot that holds `cap` entries (R239). In a full slot a pre-trigger entry, stamped before the trigger
sample at `at_`, overwrites the oldest of them, and one after it is not kept. -/
def admitEntry (cap : Nat) (at_ : Int) (held : List StEntry) (e : StEntry) : List StEntry :=
  let pre (x : StEntry) : Bool := decide ((entryStamp x : Int) < at_)
  if held.length < cap then held ++ [e]
  else if pre e then
    match held.find? pre with
    | some old => held.erase old ++ [e]
    | none => held
  else held

/-- Entries that the slot of a STAMP unit holds (R239). -/
def Dev.aqRoom (d : Dev) (u : Nat) : Nat := (d.get (AQ.SLOT u) - 1) * 4

/-- A trigger is accepted with trigger sample `k` (R243, R245). -/
def Dev.aqAccept (u : Nat) (t : AqTrig) (k : Nat) (d : Dev) : Dev :=
  let at_ : Int := 4096 * d.aqInstant u k
  let ofs := (at_ - t.stamp).toNat
  let ofs := if d.aqKind u = 1 then ceilDiv ofs 16 else ofs
  let before : Int := at_ - 4096 * d.aqPeriod u
  let border := decide ((t.stamp - at_).natAbs ≤ t.half) || decide ((t.stamp - before).natAbs ≤ t.half)
  let seg := d.get (AQ.STATUS_SEG u)
  let s : AqSeg := { trig := t, k, ofs, border, seg, qual := d.qualAt (t.stamp / 4096).toNat }
  let d := d.aqRecord u 0x35 t (bit border)
    (leBytes 1 u ++ leBytes 2 seg ++ leBytes 1 t.source ++ leBytes 8 k ++ leBytes 4 ofs)
  let (w0, w1) := d.aqWindow u s
  let inWin (e : StEntry) : Bool := decide (w0 ≤ entryStamp e) && decide ((entryStamp e : Int) < w1)
  let out := ((d.aq u).entries.filter fun e => !inWin e).length
  let d := d.bumpBy (AQ.OUTSIDE u) out
  let near := ((d.aq u).entries.filter fun e => decide (((entryStamp e : Int) - w0).natAbs ≤ e.half) ||
    decide (((entryStamp e : Int) - w1).natAbs ≤ e.half)).length
  let d := d.modAq u fun a =>
    let es := a.entries.filter inWin
    let kept := es.foldl (admitEntry (d.aqRoom u) at_) []
    { a with seg := some s, lastK := some k, dead := none
             entries := kept, lostEntries := es.length - kept.length, borders := near }
  (d.put (AQ.STATUS_POST_DONE u) 0).aqGo u aqPost |>.aqComplete u

/-- A sample lies in the last segment accepted or before it. -/
def Dev.aqInLast (d : Dev) (u k : Nat) : Bool := (d.aq u).lastK.any fun j => decide (k < j + d.get (AQ.POST u))

/-- The unit's earliest trigger is judged 64 TCLK after its stamp (R242, R245). In DONE only a trigger that falls inside
the last segment is suppressed; a later one has no effect (R244). -/
def Dev.aqJudge (u : Nat) (d : Dev) : Dev :=
  match (d.aq u).trigs with
  | [] => d
  | t :: rest =>
    let d := d.modAq u fun a => { a with trigs := rest }
    let k := d.aqTrigSample u t.stamp
    if !d.aqRuns u then (if d.aqState u = aqDone && d.aqInLast u k then d.aqSuppress u t 2 else d)
    else
      let d := d.until (d.elapsedOf (ceilDiv t.stamp.toNat 4096 + 64))
      let a := d.aq u
      match a.seg, a.dead with
      | none, some dd =>
        let pre := d.get (AQ.PRE u)
        if k < dd + 32 then d.aqSuppress u t 2
        else if k < dd + 32 + pre then d.aqSuppress u t 1
        else if (match a.lastK with | some j => decide (k ≤ j) | none => false) then d.aqSuppress u t 2
        else d.aqAccept u t k
      | _, _ => d.aqSuppress u t 2

/-! ### Commands to a unit (R244) -/

/-- The configuration rules that an ARM checks (R234, R239): none broken. -/
def Dev.aqConfigOk (d : Dev) (u : Nat) : Bool :=
  let kind := d.aqKind u
  let div := d.get (AQ.DIV u)
  let n := d.aqChannels u
  let slot := d.get (AQ.SLOT u)
  let len := d.get (AQ.PRE u) + d.get (AQ.POST u)
  kind != 3 && (if kind = 1 then 40 ≤ div else 2 ≤ div) && (kind != 0 || d.get (AQ.CFG_CMP_FIRST u) % n == 0) &&
  1 ≤ d.get (AQ.POST u) && 1 ≤ d.get (AQ.SEGS u) && d.get (AQ.SEGS u) ≤ 1024 && 1 ≤ slot &&
  d.get (AQ.TRIG_EDGE u) != 3 &&
  (kind != 1 || (List.range 16).all fun j => !d.on (AQ.SMC_SEL_EN u j) || d.get (AQ.SMC_SEL_QTY u j) != 3) &&
  (kind == 2 || ceilDiv (64 + len * d.aqSampleSize u) 64 ≤ slot) && 1 ≤ d.aqSlots u

/-- Another running unit claims a bank of this unit's CLAIM (R244). -/
def Dev.aqClaimed (d : Dev) (u : Nat) : Bool :=
  (List.range 8).any fun v => v != u && !d.aqQuiet v && (d.get (AQ.CLAIM v) &&& d.get (AQ.CLAIM u)) != 0

/-- What an ARM does (R244). -/
def Dev.aqArmNow (u : Nat) (d : Dev) : Dev :=
  let refuse (r : Nat) (d : Dev) : Dev := (d.put (AQ.STATUS_ARM_RESULT u) r).ignored (AQ.CTRL_ARM u).addr
  if d.aqState u = aqReset then d.ignored (AQ.CTRL_ARM u).addr
  else if d.aqRuns u then d
  else if !d.aqConfigOk u then refuse 2 d
  else if d.aqClaimed u then refuse 3 d
  else if d.on PLN.QUALITY_REFSTEP then refuse 4 d
  else
    let d := (((d.put (AQ.STATUS_ARM_RESULT u) 1).put (AQ.STATUS_SEG u) 0).put (AQ.STATUS_POST_DONE u) 0).put
      (AQ.STATUS_SUPP u) 0
    let d := d.put (AQ.ARM_NUM u) (d.get (AQ.ARM_NUM u) + 1)
    let k := d.aqNextIndex u
    let d := d.modAq u fun a =>
      { a with next := k, samples := [], entries := [], trigs := [], lastK := none, borders := 0, lostEntries := 0 }
    d.aqBeginDead u k

/-- What a DISARM does (R244). -/
def Dev.aqDisarmNow (u : Nat) (d : Dev) : Dev :=
  if d.aqState u = aqIdle || d.aqState u = aqReset then d
  else
    let d := (d.aqCloseSeg u true).aqFlush u
    let d := d.bumpBy (AQ.OUTSIDE u) (d.aq u).entries.length
    (d.modAq u fun a => { a with trigs := [], samples := [], entries := [], dead := none }).aqGo u aqIdle

/-- The commands that have reached a unit in this CCLK period. -/
def Dev.aqCmds (d : Dev) (u : Nat) : AqCmds :=
  let c := (d.aq u).cmds
  if c.cclk = d.cclk then c else ⟨d.cclk, 0, (0, 0), []⟩

/-- An ARM acts, then the TRIGGERs that came before it in its CCLK period. -/
def Dev.aqArmFirst (u : Nat) (d : Dev) : Dev :=
  let c := d.aqCmds u
  let was := (d.aqState u, d.get (AQ.STATUS_SEG u))
  let ran := d.aqRuns u
  let d := d.aqArmNow u
  let arm := if ran then 2 else if d.aqRuns u then 1 else 3
  let d := d.modAq u fun a => { a with cmds := { c with arm, was } }
  if arm = 1 then d.each c.trigs fun (source, stamp, half) => Dev.aqDeliver u source stamp half else d

/-- ARM of a unit (R244). -/
def Dev.aqArm (u : Nat) (d : Dev) : Dev := d.aqArmFirst u

/-- DISARM of a unit (R244). An ARM that came before it in its CCLK period acts after it: one that was accepted stands, and the
DISARM has met the state before it; one that had no effect on the running unit now arms it. -/
def Dev.aqDisarm (u : Nat) (d : Dev) : Dev :=
  let c := d.aqCmds u
  match c.arm with
  | 1 => if c.was.1 = aqDone then d.aqStateRecord u aqDone aqIdle c.was.2 else d
  | 2 => (d.aqDisarmNow u).aqArmFirst u
  | _ => d.aqDisarmNow u

/-- A TRIGGER command to a unit (R244). -/
def Dev.aqTrigger (u source : Nat) (stamp : Int) (half : Nat) (d : Dev) : Dev :=
  let c := d.aqCmds u
  (d.modAq u fun a => { a with cmds := { c with trigs := c.trigs ++ [(source, stamp, half)] } }).aqDeliver u source stamp half

/-- A software trigger, stamped at its arrival (R241). -/
def Dev.aqSoftware (u : Nat) (d : Dev) : Dev := d.aqTrigger u 0 (4096 * d.now) 8192

/-- Every running unit goes to IDLE; an open segment closes with TRUNC (R248). -/
def Dev.aqStopAll (d : Dev) : Dev :=
  d.each (List.range 8) fun u d => if d.aqRuns u then d.aqDisarmNow u else d

/-- A write to AQn.PART (R239, R107). -/
def Dev.aqPartWrite (u v : Nat) (d : Dev) : Dev :=
  let range := (bitsOf v 0 6, bitsOf v 8 7)
  let others := (List.range 8).filter fun w => w != u && rangesMeet range (d.get (AQ.PART_BASE w), d.get (AQ.PART_GRAN w))
  let refuse (r : Nat) (d : Dev) : Dev := (d.put (AQ.PART_PART_RESULT u) r).ignored (AQ.PART_BASE u).addr
  if !d.aqQuiet u || !(d.aq u).done.isEmpty then refuse 2 d
  else if 64 < range.1 + range.2 then refuse 3 d
  else if !others.isEmpty then refuse 4 d
  else ((d.put (AQ.PART_BASE u) range.1).put (AQ.PART_GRAN u) range.2).put (AQ.PART_PART_RESULT u) 1

/-- A stream entry of bank `b` reaches the unit that claims it (R238): kept, held for a later trigger, or discarded. -/
def Dev.aqEntry (u : Nat) (e : StEntry) (d : Dev) : Dev :=
  match (d.aq u).seg with
  | some s =>
    let (w0, w1) := d.aqWindow u s
    let t := entryStamp e
    let h := e.half
    let near := decide ((t - w0).natAbs ≤ h) || decide ((t - w1).natAbs ≤ h)
    let d := if near then d.modAq u fun a => { a with borders := a.borders + 1 } else d
    if w0 ≤ t && t < w1 then
      d.modAq u fun a =>
        { a with entries := admitEntry (d.aqRoom u) (4096 * d.aqInstant u s.k) a.entries e
                 lostEntries := a.lostEntries + bit (d.aqRoom u ≤ a.entries.length) }
    else d.bump (AQ.OUTSIDE u)
  | none => d.modAq u fun a => { a with entries := a.entries ++ [e] }

/-- An entry goes into the unit's memory: it lies in the window of the segment in progress, or a later trigger may reach it. -/
def Dev.aqHolds (d : Dev) (u : Nat) (e : StEntry) : Bool :=
  (d.aq u).seg.all fun s => decide ((d.aqWindow u s).1 ≤ entryStamp e) && decide ((entryStamp e : Int) < (d.aqWindow u s).2)

/-- Entries that no later trigger can reach any more are discarded and counted (R238). -/
def Dev.aqPrune (u k : Nat) (d : Dev) : Dev :=
  let lim : Int := 4096 * (d.aqInstant u k - d.get (AQ.PRE u) * d.aqPeriod u - 65536)
  let old := ((d.aq u).entries.filter fun e => decide ((entryStamp e : Int) < lim)).length
  (d.bumpBy (AQ.OUTSIDE u) old).modAq u fun a =>
    { a with entries := a.entries.filter fun e => !decide ((entryStamp e : Int) < lim) }

/-! ### Trigger lines -/

/-- Line `n`. -/
def Dev.line (d : Dev) (n : Nat) : LineSt := Tab.get (fun _ => .reset) d.trg n
/-- Change line `n`. -/
def Dev.modLine (n : Nat) (f : LineSt → LineSt) (d : Dev) : Dev := { d with trg := d.trg.insert n (f (d.line n)) }
/-- This device owns line `n` (R231). -/
def Dev.ownsLine (d : Dev) (n : Nat) : Bool := (d.get TRG.OWN).testBit n

/-- Level of the sample of an elapsed TCLK (R79). -/
def LineSt.levelAt (l : LineSt) (t : Nat) : Bool :=
  match l.hist with
  | [] => l.level
  | (s, b) :: rest => (rest.foldl (fun acc (s, b) => if s ≤ t then b else acc) (if s ≤ t then b else !b))

/-- A pulse request on an owned line: begin, or extend (R232). -/
def Dev.trigPulse (n : Nat) (d : Dev) : Dev :=
  if d.blockDown 9 then d
  else
    let e := d.elapsed + d.get (TRG.WIDTH n)
    let l := d.line n
    d.modLine n fun _ =>
      if l.driven then { l with pulseEnd := max l.pulseEnd e }
      else { l with driven := true, pulseEnd := e, checks := l.checks ++ [d.elapsed] }

/-- A pulse request refused because the line is not owned (R74): `eng` is 0xFF for the host. -/
def Dev.trigDenied (line eng pc : Nat) (d : Dev) : Dev :=
  let x : Detection :=
    if eng = 0xFF then ⟨0x3003, 9, d.writeMaster, d.writeAccess, TRG.SW_PULSE.addr, 0, false⟩ else plainDetection 0x3003 9
  d.noticeOf x (leBytes 1 line ++ leBytes 1 eng ++ leBytes 2 pc)

/-- A pulse request from engine `n` at word `pc` (R73, R74, R81). -/
def Dev.trigFromEngine (n pc line : Nat) (d : Dev) : Dev :=
  if d.ownsLine line then d.trigPulse line
  else (d.put (SEQ.STATUS_TRIG_DENIED n) 1).trigDenied line n pc

/-- The owner drives its line low. -/
def Dev.trigLow (n : Nat) (d : Dev) : Dev :=
  d.modLine n fun l => if l.driven then { l with driven := false, checks := l.checks ++ [d.elapsed] } else l

/-- The latest end of the pulses on line `n` is reached: the owner drives it low (R232). -/
def Dev.trigPulseEnd (n : Nat) (d : Dev) : Dev :=
  if (d.line n).driven then (d.until (d.line n).pulseEnd).trigLow n else d

/-- 16 TCLK after a change on an owned line: the level received meets the level driven (R231). -/
def Dev.contendCheck (n : Nat) (received : Bool) (d : Dev) : Dev :=
  match (d.line n).checks with
  | [] => d
  | t :: rest =>
    let d := (d.until (t + 16)).modLine n fun l => { l with checks := rest }
    let drives := (d.line n).driven
    if !d.ownsLine n || received = drives then d
    else
      (d.put TRG.STATUS_CONTEND (setBitTo (d.get TRG.STATUS_CONTEND) n true)).notice 0x3010 9
        (leBytes 1 n ++ leBytes 1 (bit drives) ++ leBytes 1 (bit received))

/-- A transition on line `n` (R233). -/
def Dev.trigTransition (n : Nat) (level : Bool) (fine : Nat) (d : Dev) : Dev :=
  let l := d.line n
  if l.level = level then d
  else
    let from_ := d.elapsed + bit (fine != 0)
    let d := d.modLine n fun l => { l with level, hist := keepLast 64 (l.hist ++ [(from_, level)]) }
    if d.st == stDormant || d.blockDown 9 then d
    else
      let ball := d.interpolated fine
      let at_ := 4096 * d.elapsed + fine
      let close := match l.lastStamp with | some t => decide (at_ < t + 32768) | none => false
      if close then (d.bump TRG.LOST).modLine n fun l => { l with gap := true }
      else
        let skew := d.get (TRG.SKEW n)
        let s := if d.byTclk then ball - skew else (ball - skew) / 4096 * 4096
        let driven := d.ownsLine n && l.driven
        let d := d.modLine n fun l => { l with lastStamp := some at_, gap := false }
        let d := d.emitAt (s / 4096) (s % 4096) 9 0x14 (8 * bit driven + 16 * bit l.gap)
          (leBytes 1 (n + 8 * bit level) ++ leBytes 2 skew)
        d.aqLine n level s

end Sys2Proof.Machine
end

