-- ==== Sys2Proof/Machine/SmcBase.lean ====
section
/-! DEFINITION. Source-measure channels: pages, gangs, modes, ranges and the state others read (R207 to R210, R215, R221,
R222). -/

namespace Sys2Proof.Machine

/-! ### Channels, pages and gangs -/

/-- Group of a physical SMC (R5). -/
def groupOf (p : Nat) : Nat := if p < 256 then p / 16 else p - 256
/-- Index of its page: 16 is the spare. -/
def smcPage (p : Nat) : Nat := if p < 256 then p % 16 else 16
/-- Physical SMC of a page. -/
def smcOfPage (g i : Nat) : Nat := if i < 16 then 16 * g + i else 256 + g
/-- Block code of a group (R345). -/
def smcBlock (p : Nat) : Nat := 0x40 + groupOf p

/-- Channel `p`. -/
def Dev.sm (d : Dev) (p : Nat) : SmcSt := Tab.get (fun _ => .reset) d.smc.chs p
/-- Change channel `p`. -/
def Dev.modSm (p : Nat) (f : SmcSt → SmcSt) (d : Dev) : Dev :=
  { d with smc := { d.smc with chs := d.smc.chs.insert p (f (d.sm p)) } }

/-- The physical SMC that carries logical SMC `l`. -/
def Dev.smcPhysOf (d : Dev) (l : Nat) : Nat := d.get (SMCG.CARRY_CARRIER (l / 16) (l % 16))
/-- The logical SMC that physical SMC `p` carries. -/
def Dev.smcLogicalOf (d : Dev) (p : Nat) : Option Nat :=
  let c := d.get (SMCG.CARRY_CARRIER (groupOf p) (smcPage p))
  if p < 256 then (if c = p then some p else none) else if c < 256 then some c else none

/-- A field of the page that configures a channel (R262, R420). -/
def Dev.smcGet (d : Dev) (f : Nat → Nat → Fld) (p : Nat) : Nat := d.get (f (groupOf p) (smcPage p))

/-- Pages that show the state of channel `p`: its logical channel's, and the spare's own. -/
def Dev.smcPages (d : Dev) (p : Nat) : List Nat :=
  (match d.smcLogicalOf p with | some l => [l % 16] | none => []) ++ (if 256 ≤ p then [16] else [])

/-- Write a state field of channel `p`. -/
def Dev.smcPut (f : Nat → Nat → Fld) (p v : Nat) (d : Dev) : Dev :=
  d.each (d.smcPages p) fun i => Dev.put (f (groupOf p) i) v

/-- Joins in force of a group. -/
def Dev.joins (d : Dev) (g : Nat) : Nat := d.get (SMCG.GANG_STATUS_ACTIVE g)

/-- Lowest channel of the run of joins that channel `s` lies in. -/
def runLow (join : Nat) : Nat → Nat
  | 0 => 0
  | s + 1 => if join.testBit s then runLow join s else s + 1

/-- Channels of a group that lie in the run of channel `s`. -/
def runOf (join s : Nat) : List Nat := (List.range 16).filter fun t => runLow join t == runLow join s

/-- The gang of physical SMC `p`, leader first, as physical SMCs; the channel alone where it is not ganged (R221,
R222). -/
def Dev.gangOf (d : Dev) (p : Nat) : List Nat :=
  match d.smcLogicalOf p with
  | none => [p]
  | some l => (runOf (d.joins (l / 16)) (l % 16)).map fun s => d.smcPhysOf (16 * (l / 16) + s)

/-- The channel whose page governs `p`. -/
def Dev.leaderOf (d : Dev) (p : Nat) : Nat := (d.gangOf p).headD p
/-- The channel is a member of a gang and not its leader. -/
def Dev.isMember (d : Dev) (p : Nat) : Bool := d.leaderOf p != p

/-- Global SMC number in a record: 0xFF for a spare that carries nothing. -/
def Dev.smcField (d : Dev) (p : Nat) : Nat := match d.smcLogicalOf p with | some l => l | none => 0xFF

/-! ### Modes, ranges and codes (R207 to R210) -/

/-- FI modes. -/
def isFi (mode : Nat) : Bool := mode == 2 || mode == 3
/-- FN modes. -/
def isFn (mode : Nat) : Bool := mode == 4 || mode == 5
/-- What a mode forces: 0 voltage, 1 current, 2 nothing. -/
def forceKind (mode : Nat) : Nat := if isFi mode then 1 else if isFn mode then 2 else 0

/-- ZERO in FV. -/
abbrev zeroV : Nat := 233017
/-- ZERO in FI. -/
abbrev zeroI : Nat := 524288
/-- ZERO of a mode. -/
def zeroOf (mode : Nat) : Nat := if isFi mode then zeroI else zeroV

/-- Current range in nA (R208), before ganging. -/
def rangeNa (r : Nat) : Nat :=
  match r with
  | 0 => 2000
  | 1 => 20000
  | 2 => 200000
  | 3 => 2000000
  | _ => 32000000

/-- Active mode of a channel. -/
def Dev.smcMode (d : Dev) (p : Nat) : Nat := d.smcGet SMCG.ACT_MODE_MODE p
/-- Output state (R223): 0 OPEN, 1 CLOSING, 2 ACTIVE, 3 RAMP_DOWN, 4 OPENING. -/
def Dev.smcState (d : Dev) (p : Nat) : Nat := d.smcGet SMCG.OUT_OUT_STATE p

/-- A force code after the check of R209. -/
def clampForce (hv : Bool) (mode v : Nat) : Nat :=
  if hv || forceKind mode != 0 then v else if 815558 < v then 815558 else if v < 116509 then 116509 else v

/-- A voltage clamp after the check of R209. -/
def clampClampV (hv : Bool) (v : Nat) : Nat :=
  if hv then v else if 50971 < v then 50971 else if v < 7282 then 7282 else v

/-- The group permits values outside −1 V to +5 V. -/
def Dev.smcHv (d : Dev) (p : Nat) : Bool := d.on (SMCG.HV_EN (groupOf p))

/-- A channel that a monitor holds (R219). -/
def Dev.smcMonHeld (d : Dev) (p : Nat) : Bool :=
  let act := d.smcGet SMCG.MON_MON_ACT p
  (List.range 4).any fun j => bitsOf act (2 * j) 2 == 2 && (match (d.sm p).mons[j]? with | some m => m.flag | none => false)

/-- A channel on hold (R215, R219, R359). -/
def Dev.smcHeld (d : Dev) (p : Nat) : Bool := d.on GOV.STATE_THERM_HOLD || d.smcMonHeld p

/-- What a channel forces now: 0 voltage, 1 current, 2 nothing (R207, R223, R225). -/
def Dev.smcForces (d : Dev) (p : Nat) : Nat :=
  match d.smcState p, (d.sm p).ramp with
  | 3, .voltage => 0
  | 3, .current => 1
  | 4, _ => 0
  | _, _ => forceKind (d.smcMode p)

/-- First MCLK edge at or after an elapsed time. -/
def mclkAt (t : Nat) : Nat := ceilDiv t 20 * 20

end Sys2Proof.Machine
end

