-- ==== Sys2Proof/Machine/CalBase.lean ====
section
/-! DEFINITION. Calibration buses and the instants at which a handover may begin (R259, R260, R264, R265). A bus is named
by its number: 0 to 31 for banks B00 to B31, 32 to 47 for groups G00 to G15 (R266). -/

namespace Sys2Proof.Machine

/-! ### Buses -/

/-- Number of a bus operand. -/
def busNum : Bus → Nat
  | .bank b => b.val
  | .group g => 32 + g.val

/-- Every bus. -/
def allBuses : List Nat := List.range 48
/-- A pin bus. -/
def isPinBus (k : Nat) : Bool := k < 32
/-- Page index of a bus's spare. -/
def sparePage (k : Nat) : Nat := if isPinBus k then 32 else 16
/-- Physical channel of a page of a bus. -/
def busPhys (k i : Nat) : Nat := if isPinBus k then physOfPage k i else smcOfPage (k - 32) i
/-- Block code of a bus's bank or group. -/
def busBlock (k : Nat) : Nat := if isPinBus k then 0x20 + k else 0x40 + (k - 32)
/-- STATE of a bus (R259). -/
def busStateF (k : Nat) : Fld := if isPinBus k then CAL.BANK_STATE_STATE k else CAL.GRP_STATE_STATE (k - 32)
/-- CUR of a bus. -/
def busCurF (k : Nat) : Fld := if isPinBus k then CAL.BANK_STATE_CUR k else CAL.GRP_STATE_CUR (k - 32)
/-- SP_FAILED of a bus. -/
def busSpFailedF (k : Nat) : Fld := if isPinBus k then CAL.BANK_STATE_SP_FAILED k else CAL.GRP_STATE_SP_FAILED (k - 32)
/-- COMMIT_C of a bus. -/
def busCommitF (k : Nat) : Fld := if isPinBus k then CAL.BANK_STATE_COMMIT_C k else CAL.GRP_STATE_COMMIT_C (k - 32)
/-- CARRIER of a page of a bus. -/
def carrierF (k i : Nat) : Fld := if isPinBus k then PINB.CARRY_CARRIER k i else SMCG.CARRY_CARRIER (k - 32) i
/-- ON_BUS of a page of a bus. -/
def onBusF (k i : Nat) : Fld := if isPinBus k then PINB.CARRY_ON_BUS k i else SMCG.CARRY_ON_BUS (k - 32) i
/-- FAILED of a page of a bus. -/
def failedF (k i : Nat) : Fld := if isPinBus k then PINB.CARRY_FAILED k i else SMCG.CARRY_FAILED (k - 32) i
/-- CAL_END of a page of a bus. -/
def calEndF (k i : Nat) : Fld := if isPinBus k then PINB.CAL_END k i else SMCG.CAL_END (k - 32) i
/-- Number of constants of a channel of a bus (R253). -/
def constCount (k : Nat) : Nat := if isPinBus k then 23 else 27
/-- Constant `j` of a page of a bus. -/
def constF (k i j : Nat) : Fld := if isPinBus k then PINB.CAL k i j else SMCG.CAL (k - 32) i j

/-- A bus's typed state. -/
def Dev.bus (d : Dev) (k : Nat) : BusSt := Tab.get (fun _ => .reset) d.cal.buses k
/-- Change it. -/
def Dev.modBus (k : Nat) (f : BusSt → BusSt) (d : Dev) : Dev :=
  { d with cal := { d.cal with buses := d.cal.buses.insert k (f (d.bus k)) } }
/-- State of a bus. -/
def Dev.busState (d : Dev) (k : Nat) : Nat := d.get (busStateF k)

/-- States of R259. -/
abbrev calFree : Nat := 0
/-- The spare is on the bus. -/
abbrev calSpare : Nat := 1
/-- The spare mirrors CUR. -/
abbrev calMirrorOut : Nat := 2
/-- It waits for an eligible instant. -/
abbrev calWaitOut : Nat := 3
/-- The spare carries CUR, which is on the bus. -/
abbrev calCarry : Nat := 4
/-- CUR mirrors the spare. -/
abbrev calMirrorBack : Nat := 5
/-- It waits for an eligible instant. -/
abbrev calWaitBack : Nat := 6
/-- The spare carries COMMIT_C for good. -/
abbrev calCommitted : Nat := 7

/-- SPARE_DIS of a bus (R275). -/
def Dev.spareDisabled (d : Dev) (k : Nat) : Bool :=
  if isPinBus k then (d.get CAL.SPARE_DIS_P).testBit k else (d.get CAL.SPARE_DIS_S).testBit (k - 32)

/-- The bus has no spare free to work with (R272, R275). -/
def Dev.noSpareFree (d : Dev) (k : Nat) : Bool :=
  d.busState k == calCommitted || d.on (busSpFailedF k) || d.spareDisabled k

/-- CAL and the bank or group are in service, PLL-T has lock and the device is not in SAFE_HOLD (R263). -/
def Dev.calRuns (d : Dev) (k : Nat) : Bool :=
  d.on PLN.QUALITY_PLLT_LOCK && !d.flt.safeHold && !d.blockDown 11 && !d.blockDown (busBlock k) && d.st == stReady

/-! ### Eligible instants (R260, R264, R265) -/

/-- The engines a bus depends on (R260, R264): the bank's engine; for a group, that of its gate. -/
def Dev.busEng (d : Dev) (k : Nat) : Nat := if isPinBus k then d.bankEng k else d.get (CAL.SMC_HO_ENG (k - 32))

/-- A TIA measurement is bound to CUR or to the spare (R260). -/
def Dev.busTia (d : Dev) (k : Nat) : Bool :=
  isPinBus k &&
    (!(d.tiaBound (busPhys k (d.get (busCurF k)))).isEmpty || !(d.tiaBound (busPhys k (sparePage k))).isEmpty)

/-- The channel CUR of a group, or the gang it lies in, is OPEN, or ACTIVE and settled without a hold (R264, R265): the
leader's page speaks for every member (R222). -/
def Dev.smcEligible (d : Dev) (k : Nat) : Bool :=
  let p := d.leaderOf (d.smcPhysOf (16 * (k - 32) + d.get (busCurF k)))
  d.smcState p == 0 || (d.smcState p == 2 && d.smcGet SMCG.OUT_SETTLED p == 1 && !d.smcMonHeld p)

/-- The bus waits in WAIT_OUT or WAIT_BACK. -/
def Dev.busWaits (d : Dev) (k : Nat) : Bool :=
  (d.busState k == calWaitOut || d.busState k == calWaitBack) && (d.bus k).overlap.isNone

/-- A bus that waits may hand over (R260, R263, R275): CAL runs, no measurement is bound, and SPARE_DIS lets it start. -/
def Dev.busMay (d : Dev) (k : Nat) : Bool :=
  d.busWaits k && d.calRuns k && !d.busTia k && !(d.busState k == calWaitOut && d.spareDisabled k)

/-- The eligible instant H of a pin bus that waits, in elapsed time (R260): the start of the HANDOVER_OK vector that CAL has
committed to, or the first TCLK after the wait began where the engine is idle or CUR is unmapped. -/
def Dev.pinEligible (d : Dev) (k : Nat) : Option Nat :=
  match (d.bus k).waitFrom with
  | none => none
  | some t =>
    let st := d.get (SEQ.STATUS_STATE (d.busEng k))
    if !d.busMay k then none
    else
      match (d.bus k).commit.filter fun h => st == 2 && decide (d.elapsed ≤ h) with
      | some h => some h
      | none => if st == 0 || (st == 2 && !d.mapped (32 * k + d.get (busCurF k))) then some (t + 1) else none

/-- A group's gate is open without a vector (R264). -/
def Dev.smcGateOpen (d : Dev) (k : Nat) : Bool :=
  match d.get (CAL.SMC_HO_GATE (k - 32)) with
  | 0 => true
  | 1 => d.get (SEQ.STATUS_STATE (d.busEng k)) == 0
  | _ => d.smcState (d.smcPhysOf (16 * (k - 32) + d.get (busCurF k))) == 0

/-- H of a bus in elapsed time: for a group the instant its handover has been fixed to (R260, R264). -/
def Dev.eligible (d : Dev) (k : Nat) : Option Nat := if isPinBus k then d.pinEligible k else (d.bus k).commit

/-- What decides on eligibility may have changed: the handover of a group that waits is fixed to the first MCLK edge it is
eligible at, or given up where it has not begun and is eligible no longer (R264, R265). -/
def Dev.smcBegin (k : Nat) (d : Dev) : Dev :=
  match (d.bus k).waitFrom, (d.bus k).commit with
  | some t, none =>
    if d.busMay k && d.smcEligible k && d.smcGateOpen k then
      d.modBus k fun b => { b with commit := some (mclkAt (max d.elapsed (t + 1))) }
    else d
  | some _, some h =>
    let runs := d.get (CAL.SMC_HO_GATE (k - 32)) == 1 && d.get (SEQ.STATUS_STATE (d.busEng k)) == 2
    if decide (d.elapsed < h) && !(d.busMay k && d.smcEligible k && (runs || d.smcGateOpen k)) then
      d.modBus k fun b => { b with commit := none }
    else d
  | none, _ => d

/-- The same for every group. -/
def Dev.smcBeginAll (d : Dev) : Dev := d.each (List.range' 32 16) Dev.smcBegin

/-- A handover of the group of SMC `p` is under way and moves a channel of `p`'s gang (R264): from H, or from the change of
carrier, until the outgoing switch is open. -/
def Dev.smcHanding (d : Dev) (p : Nat) : Bool :=
  let k := 32 + groupOf p
  ((d.bus k).overlap.isSome || (d.bus k).commit.any fun h => decide (h ≤ d.elapsed)) &&
    (d.gangOf p).contains (d.smcPhysOf (16 * (k - 32) + d.get (busCurF k)))

/-- A pass gives its channel back: neither age nor CAL_FAILS changes (R257). -/
def Dev.dropPass (k : Nat) (d : Dev) : Dev :=
  match (d.bus k).pass with
  | none => d
  | some p =>
    (d.put (onBusF k (if isPinBus k then pageOf p.phys else smcPage p.phys)) 0).modBus k fun b =>
      { b with pass := none, lastEnd := some d.elapsed }

end Sys2Proof.Machine
end

