-- ==== Sys2Proof/Machine/SmcOps.lean ====
section
/-! DEFINITION. Source-measure channels: latches, slew and DDS, conversions and monitors, clamps, gangs and the output
sequence (R207 to R229). -/

namespace Sys2Proof.Machine

/-- The slew limiter's target (R212 to R214, R225). -/
def Dev.smcTarget (d : Dev) (p : Nat) : Nat :=
  if d.smcState p = 3 then (if (d.sm p).ramp = .current then zeroI else zeroV)
  else if (d.sm p).dds = .toOffset then clampForce (d.smcHv p) (d.smcMode p) (d.smcGet SMCG.ACT_DDS_OFFSET p)
  else d.smcGet SMCG.ACT_FORCE p

/-- SETTLED while the output is ACTIVE (R212); a DDS that waited for its offset starts at its next update (R214). -/
def Dev.smcSettled (p : Nat) (d : Dev) : Dev :=
  let d :=
    if d.smcState p == 2 && (d.sm p).dds == .toOffset && (d.sm p).code == d.smcTarget p then
      d.modSm p fun s => { s with dds := .waits }
    else d
  (d.smcPut SMCG.OUT_SETTLED p
    (bit (d.smcState p == 2 && (d.sm p).code == d.smcTarget p && (d.sm p).dds == .off))).smcBegin (32 + groupOf p)

/-- In the overlap of a handover the outgoing channel keeps forcing the logical channel's value (R264). -/
def Dev.smcFollow (p : Nat) (d : Dev) : Dev :=
  match (d.bus (32 + groupOf p)).overlap with
  | some (out, inn, _) => if inn = p then d.modSm out fun s => { s with code := (d.sm p).code } else d
  | none => d

/-- The step interval restarts: the first step comes at once (R212). -/
def Dev.smcRestart (p : Nat) (d : Dev) : Dev := (d.modSm p fun s => { s with stepDue := d.elapsed }).smcSettled p

/-- Count limited values of a group; one notice a latch event (R209). -/
def Dev.smcClampCount (p n : Nat) (d : Dev) : Dev :=
  if n = 0 then d
  else
    let g := groupOf p
    let d := d.bumpBy (SMCG.LEVEL_CLAMP g) n
    if Tab.get (fun _ => 0) d.smc.clampAt g = d.elapsed + 1 then d
    else
      ({ d with smc := { d.smc with clampAt := d.smc.clampAt.insert g (d.elapsed + 1) } }).notice 0x300F (0x40 + g)
        (leBytes 2 p ++ leBytes 2 n)

/-! ### Latches (R211, R216) -/

/-- Shadow dwords of the page of channel `p`, by number. -/
def smcShadow (regs : Tab W32) (p : Nat) (which : List Nat) : List (Nat × W32) :=
  which.map fun i => (i, Tab.get regReset regs ((SMCG.MODE_MODE (groupOf p) (smcPage p)).addr + 4 * i))

/-- A latch of channel `p` falls due at an elapsed time: all its shadow for a strobe, one dword for an LS_IMM write
(R211). -/
def Dev.smcQueueLatch (p due : Nat) (which : List Nat) (regs : Tab W32) (d : Dev) : Dev :=
  d.modSm p fun s => { s with latches := s.latches ++ [(due, smcShadow regs p which)] }

/-- SMCs that a host page drives: those on the bus of a pass but not carried are left out. -/
def Dev.smcLive (d : Dev) (p : Nat) : Bool := p < 256 && (d.smcLogicalOf p).isSome || 256 ≤ p

/-- A pulse of load strobe groups reaches the SMCs (R211): it is applied at the first MCLK edge at or after pulse + 32. -/
def Dev.strobeSmcs (groups : Nat) (regs : Tab W32) (d : Dev) : Dev :=
  d.each (List.range 272) fun p d =>
    if d.smcLive p && groups.testBit (d.smcGet SMCG.LS_LS_GRP p) && d.smcGet SMCG.LS_LS_IMM p = 0 then
      d.smcQueueLatch p (mclkAt (d.elapsed + 32)) (List.range 8) regs
    else d

/-- A pulse of load strobe groups reaches pins and SMCs. A group already pulsed in this TCLK makes no second latch (R166; whose
shadow it takes, log 108). -/
def Dev.strobe (groups : Nat) (regs : Tab W32) (d : Dev) : Dev :=
  let d := d.lsNow
  let new := groups - (groups &&& d.ls.groups)
  let d := { d with ls := { d.ls with groups := d.ls.groups ||| groups } }
  (d.strobePins new regs).strobeSmcs new regs

/-- The rescaled FI code after a change of range, half up (R216). -/
def rescale (code ir0 ir1 : Nat) : Int := 524288 + (((code : Int) - 524288) * ir0 * 2 + ir1) / (2 * ir1)

/-- The latch of a channel is refused whole (R216). -/
def Dev.smcRefuse (p : Nat) (d : Dev) : Dev :=
  (d.bump (SMCG.RANGE_REFUSED (groupOf p))).ignored (SMCG.MODE_MODE (groupOf p) (smcPage p)).addr

/-- An active dword of a channel once the dwords of a latch are in it. -/
def Dev.smcLatched (d : Dev) (p : Nat) (ws : List (Nat × W32)) (i : Nat) : Nat :=
  ((ws.lookup i).getD (d.reg ((SMCG.ACT_MODE_MODE (groupOf p) (smcPage p)).addr + 4 * i))).toNat

/-- The active values of a channel take the dwords of a latch, limited as R209 says. -/
def Dev.smcActivate (p : Nat) (ws : List (Nat × W32)) (d : Dev) : Dev :=
  let w : Nat → Nat := d.smcLatched p ws
  let mode := w 0 % 8
  let hv := d.smcHv p
  let f := w 1 % 2 ^ 20
  let lo := w 2 % 2 ^ 16
  let hi := w 2 / 2 ^ 16
  let had (i : Nat) : Bool := (ws.lookup i).isSome
  let n := bit ((had 0 || had 1) && clampForce hv mode f != f) +
    bit (had 2 && clampClampV hv lo != lo) + bit (had 2 && clampClampV hv hi != hi)
  let vals := [w 0, clampForce hv mode f, clampClampV hv lo + 65536 * clampClampV hv hi, w 3, w 4, w 5, w 6, w 7]
  let d := d.each (d.smcPages p) fun i d =>
    d.each vals.zipIdx fun (v, j) => Dev.setReg ((SMCG.ACT_MODE_MODE (groupOf p) i).addr + 4 * j) (BitVec.ofNat 32 v)
  d.smcClampCount p n

/-- What a change of DDS_EN does (R214). -/
def Dev.smcDdsSwitch (p : Nat) (was now : Bool) (d : Dev) : Dev :=
  if was = now then d
  else if now then (d.modSm p fun s => { s with dds := .toOffset }).smcSettled p
  else
    d.modSm p fun s => { s with dds := if s.dds = .runs || s.dds = .stopping then .stopping else .off }

/-- SMC_LATCH (R211, R216): the oldest latch of channel `p` is applied. `measured` is the code of the measured quantity in
the scale of the new mode. An output that is OPEN or CLOSING stays at ZERO of the mode in force (R223). -/
def Dev.smcLatch (p : Nat) (measured : Nat) (d : Dev) : Dev :=
  match (d.sm p).latches with
  | [] => d
  | (due, ws) :: rest =>
    let d := (d.until due).modSm p fun s => { s with latches := rest }
    if d.isMember p then d
    else
      let m0 := d.smcMode p
      let w0 := d.smcLatched p ws 0
      let m1 := w0 % 8
      let r0 := d.smcGet SMCG.ACT_MODE_IRANGE p
      let r1 := bitsOf w0 4 3
      let code := rescale (d.sm p).code (rangeNa r0) (rangeNa r1)
      let ganged := 1 < (d.gangOf p).length
      let active := d.smcState p = 2
      if r0 ≠ r1 && ganged then d.smcRefuse p
      else if active && r0 ≠ r1 && isFi m0 && isFi m1 &&
          524288 * rangeNa r1 < (((d.sm p).code : Int) - 524288).natAbs * rangeNa r0 then d.smcRefuse p
      else
        let target := d.smcTarget p
        let dds0 := d.smcGet SMCG.ACT_MODE_DDS_EN p == 1
        let d := d.smcActivate p ws
        let dds1 := d.smcGet SMCG.ACT_MODE_DDS_EN p == 1
        let d :=
          if !active then d
          else if forceKind m0 ≠ forceKind m1 then
            if isFn m1 then d else d.modSm p fun s => { s with code := measured }
          else if isFi m1 && r0 ≠ r1 then d.modSm p fun s => { s with code := min 0xFFFFF code.toNat }
          else d
        let d :=
          if d.smcState p ≤ 1 && forceKind m0 ≠ forceKind m1 then d.modSm p fun s => { s with code := zeroOf m1 } else d
        let d := (if active then d.smcDdsSwitch p dds0 dds1 else d).smcFollow p
        if active && d.smcTarget p ≠ target then d.smcRestart p else d.smcSettled p

/-- A completed write of HV_EN (R209): when it falls, active values of every channel of the group are limited. -/
def Dev.smcHvEn (g v : Nat) (d : Dev) : Dev :=
  let was := d.on (SMCG.HV_EN g)
  let d := d.put (SMCG.HV_EN g) (v % 2)
  if was && v % 2 = 0 then
    d.each (List.range 17) fun i d =>
      let p := smcOfPage g i
      if d.smcLive p && !d.isMember p then
        let t := d.smcTarget p
        let d := d.smcActivate p ((List.range 8).map fun j => (j, d.reg ((SMCG.ACT_MODE_MODE g i).addr + 4 * j)))
        if d.smcTarget p ≠ t then d.smcRestart p else d
      else d
  else d

/-! ### Output sequencing (R223 to R227) -/

/-- OFF_CAUSE codes. -/
abbrev offHost : Nat := 1
/-- A monitor. -/
abbrev offMonitor : Nat := 2
/-- The compliance clamp. -/
abbrev offClamp : Nat := 3
/-- An engine abort. -/
abbrev offEngine : Nat := 4
/-- FC1 reset of the group. -/
abbrev offGroup : Nat := 5
/-- SAFE_HOLD. -/
abbrev offSafeHold : Nat := 6
/-- A supply. -/
abbrev offSupply : Nat := 7

/-- An SMC_OUTPUT record (R225). -/
def Dev.smcOutput (p state : Nat) (d : Dev) : Dev :=
  let meter := match d.smcLogicalOf p with | some l => d.get (SMCG.CHARGE (l / 16) (l % 16)) | none => 0
  d.emit (smcBlock p) 0x44
    (leBytes 1 (d.smcField p) ++ leBytes 1 state ++ leBytes 1 (d.smcGet SMCG.OUT_OFF_CAUSE p) ++ leBytes 8 meter)

/-- The channel and its gang go to an output state. -/
def Dev.smcGo (p state : Nat) (d : Dev) : Dev :=
  ((d.each (d.gangOf p) fun q => Dev.smcPut SMCG.OUT_OUT_STATE q state).stateSignal d).smcBegin (32 + groupOf p)

/-- An enable begins (R224). -/
def Dev.smcEnable (p : Nat) (d : Dev) : Dev :=
  let d := d.smcGo p 1
  let mode := d.smcMode p
  let d := d.modSm p fun s =>
    { s with code := zeroOf mode, switchAt := d.elapsed + 16000, offDue := false, dds := .off, fast := false }
  (d.smcSettled p).smcOutput p 1

/-- OPENING begins (R223, R225). -/
def Dev.smcOpening (p : Nat) (d : Dev) : Dev :=
  let d := d.smcGo p 4
  (d.modSm p fun s => { s with code := zeroV, switchAt := d.elapsed + 16000, offDue := false, dds := .off }).smcSettled p

/-- A shutdown of an ACTIVE channel begins (R225, R226). -/
def Dev.smcShutdown (p cause : Nat) (d : Dev) : Dev :=
  let mode := d.smcMode p
  let s := d.sm p
  let ramp : RampSt := if isFi mode then (if s.code = zeroI then .convert else .current) else if isFn mode then .convert else .voltage
  let d := d.smcPut SMCG.OUT_OFF_CAUSE p cause
  let d := d.modSm p fun s =>
    { s with ramp, dds := .off, fast := cause == offSafeHold || cause == offGroup, offAt := d.elapsed, stepDue := d.elapsed }
  let d := ((d.smcGo p 3).smcSettled p).smcOutput p 3
  if ramp = .voltage && s.code = zeroV then d.smcOpening p else d

/-- The SMC_OUTPUT record that began an enable is taken back: the enable has not taken place. -/
def Dev.smcUnrecord (p : Nat) (d : Dev) : Dev :=
  let a := smcBlock p
  let q := d.path a
  match q.col.getLast? with
  | some r =>
    if r.typ = 0x44 && r.payload.take 2 = leBytes 1 (d.smcField p) ++ leBytes 1 1 then
      (d.setPath a { q with col := q.col.dropLast, pseq := r.pseq, ovf := r.ovf }).give poolLT a 1
    else d
  | none => d

/-- A shutdown request acts on an output (R224, R227). An OFF in the MCLK in which an ON began an enable wins: the output stays
OPEN. -/
def Dev.smcOffNow (p cause : Nat) (d : Dev) : Dev :=
  let d := (d.smcPut SMCG.OUT_OUT_EN p 0).modSm p fun s => { s with offReq := some d.elapsed, offHeld := none }
  let s := d.sm p
  let lower := s.offAt / 20 = d.elapsed / 20 && d.smcGet SMCG.OUT_OFF_CAUSE p < cause
  match d.smcState p with
  | 0 => d
  | 1 =>
    if !s.offDue && s.switchAt / 20 = (d.elapsed + 16000) / 20 then (d.smcGo p 0).smcUnrecord p
    else
    let d :=
      if s.offDue && !lower then d
      else (d.smcPut SMCG.OUT_OFF_CAUSE p cause).modSm p fun s => { s with offDue := true, offAt := d.elapsed }
    if cause = offSupply then d.smcOpening p else d
  | 2 =>
    if cause = offSupply then
      ((d.smcPut SMCG.OUT_OFF_CAUSE p cause).modSm p fun s => { s with offAt := d.elapsed }).smcOpening p
    else d.smcShutdown p cause
  | st =>
    let d := d.smcPut SMCG.OUT_PENDING_ON p 0
    let d := if lower || (cause = offSupply && st = 3) then d.smcPut SMCG.OUT_OFF_CAUSE p cause else d
    let d := if lower && (cause = offSafeHold || cause = offGroup) then d.modSm p fun s => { s with fast := true } else d
    if cause = offSupply && st = 3 then d.smcOpening p else d

/-- A shutdown request with a cause (R224, R227), on the whole gang (R222). A handover that it meets completes first (R264),
but for a supply, which opens the switch at once, and where SAFE_HOLD or a reset ends the handover (R263). -/
def Dev.smcOff (q cause : Nat) (d : Dev) : Dev :=
  let p := d.leaderOf q
  if cause ≤ offEngine && d.smcState p ≠ 0 && d.smcHanding p then
    (d.smcPut SMCG.OUT_OUT_EN p 0).modSm p fun s => { s with offReq := some d.elapsed, offHeld := some (max cause (s.offHeld.getD 0)) }
  else d.smcOffNow p cause

/-- Every channel whose output is not OPEN gets a shutdown request. -/
def Dev.smcAllOff (cause : Nat) (d : Dev) : Dev :=
  d.each (List.range 272) fun p d => if d.smcState p ≠ 0 && (d.smcLogicalOf p).isSome then d.smcOff p cause else d

/-- Every channel of a group gets a shutdown request. -/
def Dev.smcGroupOff (g cause : Nat) (d : Dev) : Dev :=
  d.each (List.range 17) fun i d =>
    if d.smcState (smcOfPage g i) ≠ 0 && (d.smcLogicalOf (smcOfPage g i)).isSome then d.smcOff (smcOfPage g i) cause else d

/-- An engine aborts: channels with ABORT_OFF that name it shut down (R227). -/
def Dev.smcEngineAbort (n : Nat) (d : Dev) : Dev :=
  d.each (List.range 272) fun p d =>
    if (d.smcLogicalOf p).isSome && !d.isMember p && d.smcGet SMCG.ABORT_ABORT_OFF p = 1 &&
        d.smcGet SMCG.ABORT_ABORT_ENG p = n then
      d.smcOff p offEngine
    else d

/-- An ON is refused (R224). -/
def Dev.smcNoOn (d : Dev) (p : Nat) : Bool :=
  d.flt.safeHold || !d.flt.supplyOut.isEmpty || d.blockDown (smcBlock p) || d.isMember p

/-- The refusal of an ON: OUT_EN reads 0, with a notice (R224). -/
def Dev.smcOnRefused (p : Nat) (d : Dev) : Dev :=
  (d.smcPut SMCG.OUT_OUT_EN p 0).ignored (SMCG.OUT_OUT_EN (groupOf p) (smcPage p)).addr

/-- OUT_EN written 1 (R224): an OFF of the same MCLK wins. A pass that holds the channel in place is abandoned (R272). -/
def Dev.smcOn (p : Nat) (d : Dev) : Dev :=
  if d.smcNoOn p then d.smcOnRefused p
  else if (d.sm p).offReq.any fun t => t / 20 == d.elapsed / 20 then d
  else
    let k := 32 + groupOf p
    let d := d.smcPut SMCG.OUT_OUT_EN p 1
    let d := if (d.bus k).pass.any fun x => x.inPlace && (d.gangOf p).contains x.phys then d.dropPass k else d
    match d.smcState p with
    | 0 => d.smcEnable p
    | 1 => d
    | 2 => d
    | _ => d.smcPut SMCG.OUT_PENDING_ON p 1

/-- The switch has closed (R223). -/
def Dev.smcClosed (p : Nat) (d : Dev) : Dev :=
  if d.smcState p ≠ 1 || d.isMember p then d
  else
    let d := d.until (d.sm p).switchAt
    if (d.sm p).offDue then d.smcOpening p
    else
      let d := d.smcGo p 2
      let d := d.smcDdsSwitch p false (d.smcGet SMCG.ACT_MODE_DDS_EN p == 1)
      (d.smcRestart p).smcOutput p 2

/-- The switch has opened (R225); a pending ON starts the enable at once (R224). -/
def Dev.smcOpened (p : Nat) (d : Dev) : Dev :=
  if d.smcState p ≠ 4 || d.isMember p then d
  else
    let d := d.until (d.sm p).switchAt
    let d := (d.smcGo p 0).smcOutput p 0
    let mode := d.smcMode p
    let d := d.modSm p fun s => { s with code := zeroOf mode }
    if d.smcGet SMCG.OUT_PENDING_ON p = 1 then
      let d := d.smcPut SMCG.OUT_PENDING_ON p 0
      if d.smcNoOn p then d.smcOnRefused p else d.smcEnable p
    else d

/-! ### Slew and DDS (R212 to R215) -/

/-- Step and interval in force: the faster of the channel's own setting and SAFE_RAMP for a fast ramp (R226). -/
def Dev.smcSlew (d : Dev) (p : Nat) : Nat × Nat :=
  let own := (d.smcGet SMCG.SLEW_STEP p, d.smcGet SMCG.SLEW_RATE p)
  let g := groupOf p
  let safe := (d.get (SMCG.SAFE_RAMP_STEP g), d.get (SMCG.SAFE_RAMP_RATE g))
  if (d.sm p).fast && own.1 * safe.2 < safe.1 * own.2 then safe else own

/-- A code moved toward a target by at most a step. -/
def stepToward (code target step : Nat) : Nat :=
  if code < target then min target (code + step) else max target (code - step)

/-- The slew limiter has work. -/
def Dev.smcSlewing (d : Dev) (p : Nat) : Bool :=
  !d.isMember p &&
    (d.smcState p == 3 ||
      (d.smcState p == 2 && !d.smcHeld p && ((d.sm p).dds == .off || (d.sm p).dds == .toOffset) &&
        (d.sm p).code != d.smcTarget p))

/-- SLEW_STEP (R212, R225). -/
def Dev.smcStep (p measured : Nat) (d : Dev) : Dev :=
  if !d.smcSlewing p then d
  else
    let d := d.until (d.sm p).stepDue
    let (step, rate) := d.smcSlew p
    let d := d.modSm p fun s => { s with stepDue := d.elapsed + rate * 800 }
    let down := d.smcState p = 3
    let d := if down && (d.sm p).ramp = .convert then d.modSm p fun s => { s with code := measured, ramp := .voltage } else d
    let code := stepToward (d.sm p).code (d.smcTarget p) step
    let d := d.modSm p fun s => { s with code }
    if down then
      if (d.sm p).ramp = .current && code = zeroI then
        let d := d.modSm p fun s => { s with code := measured, ramp := .voltage }
        if measured = zeroV then d.smcOpening p else d
      else if (d.sm p).ramp = .voltage && code = zeroV then d.smcOpening p
      else d
    else (d.smcFollow p).smcSettled p

/-- The DDS code of a phase, and whether it had to be limited (R213). -/
def Dev.ddsCode (d : Dev) (p phase : Nat) : Nat × Bool :=
  let t := signedOf 20 (d.get (SMCG.DDS_TABLE (groupOf p) (phase / 2 ^ 36)))
  let amp := d.smcGet SMCG.ACT_DDS_AMP p
  let x : Int := d.smcGet SMCG.ACT_DDS_OFFSET p + (amp * t + 2 ^ 18) / 2 ^ 19
  let y := if x < 0 then 0 else if 0xFFFFF < x then 0xFFFFF else x.toNat
  let z := clampForce (d.smcHv p) (d.smcMode p) y
  (z, decide ((z : Int) ≠ x))

/-- DDS_UPDATE (R213, R214). -/
def Dev.smcDds (p : Nat) (d : Dev) : Dev :=
  let s := d.sm p
  if d.isMember p || d.smcState p ≠ 2 || d.smcHeld p || !(s.dds == .waits || s.dds == .runs || s.dds == .stopping) then d
  else
    let d := d.until ((max s.ddsLast (d.elapsed - 1) / 800 + 1) * 800)
    let ftw := d.smcGet SMCG.ACT_DDS_FTW p + 2 ^ 32 * d.smcGet SMCG.ACT_DDS_FTW_HI p
    let phase := if s.dds = .waits then 0 else (s.phase + ftw) % 2 ^ 48
    let d := d.modSm p fun s => { s with ddsLast := d.elapsed }
    if s.dds = .stopping && phase / 2 ^ 47 ≠ s.phase / 2 ^ 47 then
      let off := clampForce (d.smcHv p) (d.smcMode p) (d.smcGet SMCG.ACT_DDS_OFFSET p)
      (d.modSm p fun s => { s with code := off, dds := .off, phase }).smcRestart p
    else
      let (code, clip) := d.ddsCode p phase
      let d := d.modSm p fun s => { s with code, phase, dds := if s.dds = .waits then .runs else s.dds }
      (if clip then d.bump (SMCG.DDS_CLIP (groupOf p)) else d).smcFollow p

/-! ### Conversions and monitors (R217 to R219) -/

/-- A monitor after a reading: the new state, and whether the flag was set or cleared. -/
def MonSt.judge (m : MonSt) (high : Bool) (thr hyst : Int) (deb : Nat) (x : Int) : MonSt × Option Bool :=
  let beyond := if high then thr < x else x < thr
  let back := if high then x ≤ thr - hyst else thr + hyst ≤ x
  let speaks := if m.flag then back else beyond
  if !speaks then ({ m with run := 0 }, none)
  else if m.run + 1 < deb then ({ m with run := m.run + 1 }, none)
  else ({ m with run := 0, flag := !m.flag }, some (!m.flag))

/-- The bit of a channel in its group's maps. -/
def Dev.smcBit (d : Dev) (p : Nat) (f : Fld) : Fld :=
  ⟨f.addr, match d.smcLogicalOf p with | some l => l % 16 | none => smcPage p, 1⟩

/-- One monitor of a channel judges a reading (R218). -/
def Dev.smcMonitor (p j : Nat) (x : Int) (d : Dev) : Dev :=
  let g := groupOf p
  let m := (d.sm p).mons.getD j ⟨false, 0, false, 0⟩
  let thr := signedOf 18 (d.get (SMCG.TH g (smcPage p) j))
  let (m', ev) := m.judge (j % 2 == 0) thr (d.smcGet SMCG.MON_MON_HYST p) (max 1 (d.smcGet SMCG.MON_MON_DEB p)) x
  let (late, d) := match ev with | some _ => d.draw | none => (0, d)
  let m' := match ev with | some _ => { m' with shown := m.flag, arrive := d.elapsed + 24 + late % 9 } | none => m'
  let d := d.modSm p fun s => { s with mons := s.mons.set j m' }
  match ev with
  | none => d
  | some set =>
    let d := d.emitAt d.now 0 (0x40 + g) 0x42 (8 * bit (!set))
      (leBytes 1 (d.smcField p) ++ leBytes 2 p ++ leBytes 1 j ++ leBytes 4 (unsignedOf 32 x))
    if set then
      let f := d.smcBit p (SMCG.MON_EVT g)
      let d := if d.on f then d else (d.put f 1).when (d.on (SMCG.EVT_CFG g)) (Dev.signal (48 + g))
      let d := match d.smcLogicalOf p with | some l => d.aqMonitor l j d.now | none => d
      if bitsOf (d.smcGet SMCG.MON_MON_ACT p) (2 * j) 2 = 1 then d.smcOff p offMonitor else d
    else d.smcBegin (32 + g)

/-- The flag of a monitor as the engines see it (R80). -/
def Dev.monLine (d : Dev) (smc j : Nat) : Bool :=
  match (d.sm (d.smcPhysOf smc)).mons[j]? with
  | some m => if m.arrive ≤ d.elapsed then m.flag else m.shown
  | none => false

/-- Mean of a block in 1/16 LSB, half up (R217). -/
def meanOf (sum : Int) (n : Nat) : Int := (16 * sum * 2 + n) / (2 * n)

/-- The logical channel whose meter takes the charge of `p`: during an overlap both channels count (R228). -/
def Dev.meterOf (d : Dev) (p : Nat) : Option Nat :=
  match d.smcLogicalOf p with
  | some l => some l
  | none =>
    match (Tab.get (fun _ => BusSt.reset) d.cal.buses (32 + groupOf p)).overlap with
    | some (out, inn, _) => if out = p then d.smcLogicalOf inn else if inn = p then d.smcLogicalOf out else none
    | none => none

/-- Charge in fC that left a channel's output is added to its meter, in whole pC; the rest is carried (R228). -/
def Dev.smcCharge (p : Nat) (fc : Int) (d : Dev) : Dev :=
  match d.meterOf p with
  | none => d
  | some l =>
    let f := SMCG.CHARGE (l / 16) (l % 16)
    let x := (d.sm l).residual + fc
    let d := d.put f (unsignedOf 64 (d.get f + x / 1000))
    d.modSm l fun s => { s with residual := x % 1000 }

/-- A channel's monitors judge its readings (R218): not on the calibration bus, not isolated, not while it only mirrors. -/
def Dev.smcMonitors (d : Dev) (p : Nat) : Bool :=
  d.smcGet SMCG.CARRY_ON_BUS p == 0 &&
    ((d.smcLogicalOf p).isSome || (256 ≤ p && d.busState (32 + groupOf p) == calFree))

/-- The current of a channel's output: through an overlap the sum of both channels' (R264). -/
def Dev.smcTotal (d : Dev) (p : Nat) (i : Int) : Int :=
  match (d.bus (32 + groupOf p)).overlap with
  | some (out, inn, _) => if inn = p then i + (d.sm out).lastI else i
  | none => i

/-- CONVERSION (R217, R218). A gang member only meters its charge (R222). -/
def Dev.smcConversion (p : Nat) (v i : Int) (fc : Int) (d : Dev) : Dev :=
  let lead := d.leaderOf p
  let total := d.smcTotal p i
  let d := d.until ((d.sm p).convAt + 20 * d.smcGet SMCG.CONV_CONV_DIV lead)
  let d := (d.smcCharge p fc).modSm p fun s => { s with lastV := v, lastI := i, convAt := d.elapsed }
  if lead ≠ p then d
  else
    let n := 2 ^ min 10 (d.smcGet SMCG.CONV_AVG p)
    let s := d.sm p
    let sv := s.sumV + v
    let si := s.sumI + total
    let d :=
      if n ≤ s.avgN + 1 then
        let d := d.modSm p fun s => { s with sumV := 0, sumI := 0, avgN := 0 }
        ((d.smcPut SMCG.MEAS_V p (unsignedOf 24 (meanOf sv n))).smcPut SMCG.MEAS_I p
          (unsignedOf 24 (meanOf si n))).smcPut SMCG.MEAS_STAMP p d.now
      else d.modSm p fun s => { s with sumV := sv, sumI := si, avgN := s.avgN + 1 }
    if d.smcMonitors p then (((d.smcMonitor p 0 v).smcMonitor p 1 v).smcMonitor p 2 total).smcMonitor p 3 total else d

/-! ### Compliance clamp (R220) -/

/-- An engagement or release of the clamp has lasted 1 µs. It is inactive while the channel forces nothing; a gang's mode is its
leader's (R222). Its record shows the last reading of the limited quantity. -/
def Dev.smcClamp (p : Nat) (engaged : Bool) (d : Dev) : Dev :=
  let s := d.sm p
  if s.clamp.isSome = engaged || (engaged && d.smcForces (d.leaderOf p) == 2) then d
  else
    let since := d.elapsed - usTclk
    let f := d.smcBit p (SMCG.CLAMPED (groupOf p))
    let d :=
      match s.clamp with
      | some _ => d.each (d.smcPages p) fun i => Dev.bumpBy (SMCG.CLAMP_TIME (groupOf p) i) ((since - s.clampFrom) / usTclk)
      | none => d
    let d := (d.put f (bit engaged)).modSm p fun s => { s with clamp := if engaged then some since else none, clampFrom := since }
    let reading := if d.smcForces (d.leaderOf p) = 1 then s.lastV else s.lastI
    d.emitAt d.now 0 (smcBlock p) 0x43 (8 * bit (!engaged))
      (leBytes 1 (d.smcField p) ++ leBytes 2 p ++ leBytes 1 0 ++ leBytes 4 (unsignedOf 32 reading))

/-- A clamp engaged without a break for CLAMP_T, as the leader's page has it (R222). -/
def Dev.smcClampTimeout (p : Nat) (d : Dev) : Dev :=
  match (d.sm p).clamp with
  | some t =>
    let lead := d.leaderOf p
    if d.smcGet SMCG.CLAMP_CLAMP_ACT lead = 1 then
      (d.until (t + usTclk * d.smcGet SMCG.CLAMP_CLAMP_T lead)).smcOff p offClamp
    else d
  | none => d

/-! ### Gangs (R221) -/

/-- A completed write of GANG, judged as a whole. -/
def Dev.smcGang (g v : Nat) (d : Dev) : Dev :=
  let join := v % 2 ^ 15
  let d := d.put (SMCG.GANG g) join
  let old := d.joins g
  let changed := (List.range 16).filter fun s => runOf join s != runOf old s
  let refuse (r : Nat) (d : Dev) : Dev := (d.put (SMCG.GANG_STATUS_RESULT g) r).ignored (SMCG.GANG g).addr
  if (List.range 16).any fun s => 8 < (runOf join s).length then refuse 3 d
  else if changed.any fun s =>
      d.get (SMCG.OUT_OUT_STATE g s) != 0 || d.on (SMCG.OUT_PENDING_ON g s) then refuse 2 d
  else if changed.any fun s => d.get (SMCG.ACT_MODE_IRANGE g s) != 4 then refuse 4 d
  else
    let d := (d.put (SMCG.GANG_STATUS_ACTIVE g) join).put (SMCG.GANG_STATUS_RESULT g) 1
    d.emit (0x40 + g) 0x45 (leBytes 1 g ++ leBytes 2 join)

/-! ### SMC samples of an acquisition unit (R237) -/

/-- The word of one selected SMC (R237). `lastAt` is the elapsed time of the unit's previous sample: with no conversion completed
since then the word is STALE. -/
def Dev.smcWord (d : Dev) (smc qty lastAt : Nat) : Nat :=
  let p := d.smcPhysOf smc
  let s := d.sm p
  let q := if qty = 1 then 0 else if qty = 2 then 1 else (let mode := d.smcMode (d.leaderOf p); bit (!(mode == 1 || mode == 2 || mode == 4)))
  let code := if q = 1 then s.lastI else s.lastV
  unsignedOf 18 code + 2 ^ 18 * q + 2 ^ 19 * bit (decide (s.convAt ≤ lastAt)) + 2 ^ 20 * bit s.clamp.isSome +
    2 ^ 21 * d.smcGet SMCG.ACT_MODE_IRANGE p

end Sys2Proof.Machine
end

