-- ==== Sys2Proof/Machine/VectorOps.lean ====
section
/-! DEFINITION. From a vector to edges and compares: period grid, timing-set entries, symbols, formats and deskew
(R101 to R104, R128 to R146). -/

namespace Sys2Proof.Machine

/-! ### The period grid (R128 to R132) -/

/-- 2^24: grid instants are counted in units of 2^-24 TCLK. -/
abbrev unit24 : Nat := 16777216

/-- The first grid point of period `p` at or after `x`, both in 2^-24 TCLK, from an origin in TCLK (R129, R131). -/
def gridAt (origin p x : Nat) : Nat :=
  let o := origin * unit24
  if x ≤ o then o else o + ceilDiv (x - o) p * p

/-- A grid instant in placement steps of TCLK/256, halves rounding up (R130). -/
def stepOf (x : Nat) : Nat := (x + 32768) / 65536

/-- PHASE_OFS in placement steps (R47). -/
def Dev.phaseSteps (d : Dev) : Int := ((d.get PLN.PHASE_OFS + 8) / 16 : Nat)

/-- What turns a step on the Plain's grid into a step of elapsed time. -/
def Dev.stepShift (d : Dev) : Int := 256 * ((d.elapsed : Int) - d.now) - d.phaseSteps

/-- The TCLK in which a grid instant is placed (R130). -/
def gridStamp (x : Nat) : Nat := stepOf x / 256

/-- The elapsed TCLK in which a grid instant is placed. -/
def Dev.gridElapsed (d : Dev) (x : Nat) : Nat := d.elapsedOf (gridStamp x)

/-- Period of timing set `t` in a copy: 32 TCLK where nothing else was written. -/
def TsetCopy.period (c : TsetCopy) (t : Nat) : Nat := Tab.get (fun _ => 32 * unit24) c.periods t

/-! ### Timing-set entries (R135) -/

/-- The fields of a timing-set entry. -/
structure TEntry where
  d0 : Nat
  d1 : Nat
  d2 : Nat
  d3 : Nat
  s0 : Nat
  s1 : Nat
  format : Nat                     -- 0 OFF, 1 NRZ, 2 DNRZ, 3 RZ, 4 RO, 5 SBC
  window : Bool
deriving DecidableEq, Repr

/-- The fields of the 192 bits of an entry. -/
def TEntry.ofBits (e : BitVec 192) : TEntry :=
  let x := e.toNat
  { d0 := bitsOf x 0 25, d1 := bitsOf x 25 25, d2 := bitsOf x 50 25, d3 := bitsOf x 75 25, s0 := bitsOf x 100 25
    s1 := bitsOf x 125 25, format := bitsOf x 150 3, window := x.testBit 153 }

/-- The entry of a timing set at a pin position. -/
def TsetCopy.entry (c : TsetCopy) (t pos : Nat) : TEntry :=
  TEntry.ofBits (Tab.get (fun _ => 0) c.entries (256 * t + pos))

/-- Two's complement deskew of a 16-bit field in steps. -/
def deskewOf (x : Nat) : Int := signedOf 16 x

/-- Clamp an adjustment to ±40 TCLK (R142). -/
def clampAdjust (x : Int) : Int := clampInt 10240 x

/-- The drive and compare adjustments of a channel, before the clamp (R142). -/
def Dev.adjust (d : Dev) (c : TsetCopy) (site p : Nat) : Int × Int :=
  let sd := Tab.get (fun _ => (0 : Int)) c.deskew site
  let slew := d.pinGet PINB.CFG_SLEW p
  let cal (k : Nat) : Int := signedOf 32 (d.get (PINB.CAL (bankOf p) (pageOf p) k))
  (sd + deskewOf (d.pinGet PINB.DRV_DESKEW p) + cal slew, sd + deskewOf (d.pinGet PINB.CMP_DESKEW p) + cal 4)

/-! ### Symbols and formats (R101, R104, R139, R140) -/

/-- A drive request: what the vector asks of the driver. -/
inductive DriveReq where
  | bits (a b : Bool)              -- data; single data has a = b
  | pulse
  | term
  | off
deriving DecidableEq, Repr

/-- The request of a symbol; K stands for the channel's previous request. -/
def driveReq (sym : Nat) : DriveReq :=
  match sym with
  | 0 => .bits false false
  | 1 => .bits true true
  | 9 => .term
  | 10 => .pulse
  | 12 => .bits false false
  | 13 => .bits false true
  | 14 => .bits true false
  | 15 => .bits true true
  | _ => .off

/-- A symbol that a comparator judges or samples. -/
def isCompare (sym : Nat) : Bool := sym == 2 || sym == 3 || sym == 5 || sym == 6 || sym == 8

/-- An expect symbol or C plays as X where nothing may be compared (R119, R121). -/
def asX (sym : Nat) : Nat := if isCompare sym then 4 else sym

/-- The edges that a request schedules under an entry, as (offset, action) (R139, R140, R104). DESIGN CHOICE (log 104): double
data under RZ, RO or SBC has the shape that the format gives its first bit. -/
def driveEdges (e : TEntry) (r : DriveReq) : List (Nat × EdgeAct) :=
  match r with
  | .off => [(e.d3, .off)]
  | .term => if e.format = 0 then [(e.d3, .off)] else [(e.d0, .term)]
  | .bits a b =>
    match e.format with
    | 1 => [(e.d0, .on), (e.d1, .latch a)]
    | 2 => [(e.d0, .on), (e.d1, .latch a), (e.d2, .latch b)]
    | 3 => if a then [(e.d0, .onLatch false), (e.d1, .latch true), (e.d2, .latch false)] else [(e.d0, .onLatch false)]
    | 4 => if a then [(e.d0, .onLatch true)] else [(e.d0, .onLatch true), (e.d1, .latch false), (e.d2, .latch true)]
    | 5 => [(e.d0, .onLatch (!a)), (e.d1, .latch a), (e.d2, .latch (!a))]
    | _ => [(e.d3, .off)]
  | .pulse =>
    match e.format with
    | 0 => [(e.d3, .off)]
    | 4 => [(e.d0, .onLatch true), (e.d1, .latch false), (e.d2, .latch true)]
    | 6 => [(e.d3, .off)]
    | 7 => [(e.d3, .off)]
    | _ => [(e.d0, .onLatch false), (e.d1, .latch true), (e.d2, .latch false)]

/-- The offsets that decide whether a compare of a symbol can be placed. -/
def strobeSpan (e : TEntry) (sym : Nat) : Nat × Nat × Bool :=
  if e.window && sym != 8 then (e.s0, e.s1, true) else (e.s0, e.s0, false)

/-! ### Scheduling a vector on one channel -/

/-- What scheduling one channel yields beside its edges and its compare. -/
structure Sched where
  edges : List Edge
  cmp : Option Cmp
  req : Nat                        -- the drive request in force after it, as a symbol
  ranged : Nat                     -- edges not placed for range (R144)
  clamped : Nat                    -- adjustments clamped (R142)
deriving DecidableEq, Repr

/-- Insert an edge by effective instant, behind those not later: within one vector edges are placed in that order
(R145). -/
def insertEdge (x : Edge) : List Edge → List Edge
  | [] => [x]
  | y :: ys => if x.at_ < y.at_ then x :: y :: ys else y :: insertEdge x ys

/-- What every channel of a vector shares: engine, timing, and what its compares carry. -/
structure VecCtx where
  eng : Nat
  start : Nat                      -- in 2^-24 TCLK
  period : Nat
  sets : TsetCopy
  ts : Nat
  vec : Nat
  seg : Nat
  word : MicroWord
  mask : Nat                       -- effective site mask (R118)
  drop : Nat                       -- sites that play in drop-out (R120)
deriving DecidableEq, Repr

/-- Schedule symbol `sym` on physical channel `p` that carries logical channel `c` (R139 to R144). A site that has latched in the
WAIT_MATCH word has no compares (R85). -/
def Dev.schedule (d : Dev) (v : VecCtx) (p c sym : Nat) : Sched :=
  let s := d.pin p
  let e := v.sets.entry v.ts (d.chanPos c)
  let site := d.chanSite c
  let (drv, cmpA) := d.adjust v.sets site p
  let base : Int := (stepOf v.start : Int) + d.stepShift
  let limit := v.period + 64 * unit24
  let late (o : Nat) : Bool := decide (limit ≤ o * 65536)
  let req := if sym = 7 then s.req else sym
  let es := driveEdges e (driveReq req)
  let placed := es.filter fun (o, _) => !late o
  let edges := (placed.map fun (o, act) =>
      ({ at_ := base + o + clampAdjust drv, act, eng := v.eng, vec := v.vec } : Edge)).foldl
    (fun l x => insertEdge x l) []
  let latched := v.word.bop = 12 && (d.eng v.eng).mat.latched.testBit site
  let compares := isCompare sym && v.word.failOp.testBit 0 && !latched
  let (o0, o1, win) := strobeSpan e sym
  let skip := late o0 || (win && late o1)
  let cmp : Option Cmp :=
    if compares then
      some { eng := v.eng, sym, s0 := base + o0 + clampAdjust cmpA, s1 := base + o1 + clampAdjust cmpA, window := win,
             vec := v.vec, seg := v.seg, user := v.word.user, site, pos := d.chanPos c, failOp := v.word.failOp,
             isMatch := v.word.bop == 12, chan := c, mask := v.mask, drop := v.drop, skip }
    else none
  { edges, cmp, req
    ranged := (es.filter fun (o, _) => late o).length + (if compares then bit (late o0) + bit (win && late o1) else 0)
    clamped := bit (drv != clampAdjust drv) + (if compares then bit (cmpA != clampAdjust cmpA) else 0) }

/-- Put a channel's schedule behind what waits on it. -/
def Dev.addSched (p : Nat) (x : Sched) (d : Dev) : Dev :=
  d.modPin p fun s =>
    { s with edges := s.edges ++ x.edges, cmps := s.cmps ++ (match x.cmp with | some c => [c] | none => []), req := x.req }

/-! ### Edges at their instants (R139, R145) -/

/-- An edge would change the channel's state or its latch. -/
def PinSt.changes (s : PinSt) (a : EdgeAct) : Bool :=
  match a with
  | .on => s.out != .drive
  | .onLatch b => s.out != .drive || s.latch != b
  | .latch b => s.latch != b
  | .term => s.out != .term
  | .off => s.out != .off

/-- The edge acts. -/
def PinSt.applyEdge (s : PinSt) (e : Edge) : PinSt :=
  let s := { s with lastEdge := some e.at_ }
  match e.act with
  | .on => { s with out := .drive }
  | .onLatch b => { s with out := .drive, latch := b }
  | .latch b => { s with latch := b }
  | .term => { s with out := .term }
  | .off => { s with out := .off }

/-- The first event of a kind in a segment of an engine raises one FIRST_EVENT notice (R103, R146, R163). The layout
of its details is a choice (log). -/
def Dev.firstEvent (n kind vec arg : Nat) (d : Dev) : Dev :=
  if (d.eng n).firsts.testBit kind then d
  else
    let d := d.modEng n fun e => { e with firsts := setBitTo e.firsts kind true }
    d.notice 0x3005 (0x10 + n) (leBytes 5 vec ++ leBytes 1 kind ++ leBytes 2 arg)

/-- The channel's oldest scheduled edge that would change something is placed, or dropped (R145). Edges that would
change nothing are not scheduled and go before it. -/
def Dev.edgePlace (p : Nat) (d : Dev) : Dev :=
  let s := d.pin p
  let rest := s.edges.dropWhile fun e => !s.changes e.act
  match rest with
  | [] => d.modPin p fun s => { s with edges := [] }
  | e :: es =>
    let d := d.modPin p fun s => { s with edges := es }
    let d := d.until (e.at_ / 256).toNat
    let close := match s.lastEdge with | some t => decide (e.at_ < t + 128) | none => false
    if close then
      (d.bump (TSET.EDGE_DROP e.eng)).firstEvent e.eng 1 e.vec ((d.logicalOf p).getD 0)
    else d.modPin p fun s => s.applyEdge e

/-! ### Compares (R141, R146, R163) -/

/-- The symbol's test on the pair: at one instant of a window (R101), where V passes whichever of the two reads 1, and
on an edge sample (R155), where V fails with both at 1. -/
def symTest (window : Bool) (sym : Nat) (ch cl : Bool) : Bool :=
  match sym with
  | 2 => cl
  | 3 => ch
  | 5 => !ch && !cl
  | 6 => if window then ch || cl else ch != cl
  | _ => true

/-- The comparators a symbol needs: CH, CL (R163). -/
def symNeeds (sym : Nat) : Bool × Bool := if sym = 2 then (false, true) else if sym = 3 then (true, false) else (true, true)

/-- The comparators that showed an excursion in a window: those of the symbol's test that left what it asks (R180). -/
def excursions (sym : Nat) (span : List CmpSnap) : Bool × Bool :=
  match sym with
  | 2 => (false, span.any fun h => !h.cl)
  | 3 => (span.any fun h => !h.ch, false)
  | 5 => (span.any fun h => h.ch, span.any fun h => h.cl)
  | _ => let gap := span.any fun h => !h.ch && !h.cl; (gap, gap)

/-- Compares that an offset out of range keeps from being placed have no strobe (R144): they only take their turn of the compare
units (R146). -/
def PinSt.passSkipped (s : PinSt) : PinSt :=
  let n := (s.cmps.takeWhile fun c => c.skip).length
  { s with cmps := s.cmps.drop n, unit := s.unit != (n % 2 == 1) }

/-- The channel's oldest compare closes (R141, R146, R163, R168); results keep the order of their vectors (R168). One of a
site that has latched since is suppressed (R85). -/
def Dev.strobeClose (p : Nat) (d : Dev) : Dev :=
  let d := d.modPin p PinSt.passSkipped
  let s := d.pin p
  match s.cmps with
  | [] => d
  | c :: rest =>
    let d := d.until (c.s1 / 256).toNat
    let last := if s.unit then s.lastClose.2 else s.lastClose.1
    let busy := match last with | some t => decide (c.s0 < t + 128) | none => false
    let now := d.snapAt p 0
    let at0 := histAt now c.s0 s.hist
    let (needH, needL) := symNeeds c.sym
    let ready := (!needH || at0.okH) && (!needL || at0.okL)
    let d := d.modPin p fun s => { s with cmps := rest, unit := !s.unit }
    let put (r : CmpRes) (ch cl : Bool) (d : Dev) : Dev :=
      d.modPin p fun s => { s with res := s.res ++ [{ cmp := c, res := r, ch, cl, close := c.s1 }] }
    let m := (d.eng c.eng).mat
    if c.isMatch && m.from_ ≤ c.vec && m.latched.testBit c.site then d
    else if busy then
      put .notMade false false ((d.bump (TSET.STROBE_DROP c.eng)).firstEvent c.eng 2 c.vec c.chan)
    else
      if !ready then
        put .notMade false false ((d.bump (PINB.CMP_UNREADY (bankOf p))).firstEvent c.eng 4 c.vec c.chan)
      else
        let d := d.modPin p fun s' =>
          { s' with lastClose := if s.unit then (s'.lastClose.1, some c.s1) else (some c.s1, s'.lastClose.2) }
        if c.sym = 8 then put .capture at0.ch at0.cl d
        else if c.window then
          let span := histOver now c.s0 c.s1 s.hist
          let pass := span.all fun h => symTest true c.sym h.ch h.cl
          let (exH, exL) := excursions c.sym span
          put (if pass then .pass else .fail) exH exL d
        else put (if symTest false c.sym at0.ch at0.cl then .pass else .fail) at0.ch at0.cl d

end Sys2Proof.Machine
end

