-- ==== Sys2Proof/Machine/CalOps.lean ====
section
/-! DEFINITION. Calibration: references, passes, constants, handovers, committed spares (R250 to R275). -/

namespace Sys2Proof.Machine

/-! ### Conflicts (R270, R280) -/

/-- A CONFLICT record with its notice and its count. -/
def Dev.conflict (kind block phys off demanded left label : Nat) (d : Dev) : Dev :=
  let d := d.emit 11 0x54
    (leBytes 1 kind ++ leBytes 1 block ++ leBytes 2 phys ++ leBytes 4 off ++ leBytes 4 demanded ++ leBytes 4 left ++
      leBytes 2 label)
  (d.bump CAL.CONFLICT_COUNT).notice 0x300A block (leBytes 8 off)

/-! ### References (R252) -/

/-- REF_STATUS as a byte. -/
def Dev.refStatus (d : Dev) : Nat := (d.reg CAL.REF_STATUS_VREF_OK.addr).toNat % 8

/-- A bit of REF_STATUS takes a value: a change is recorded, a change to 0 raises a notice. -/
def Dev.refBit (f : Fld) (ok : Bool) (measured : Nat) (d : Dev) : Dev :=
  if d.on f = ok then d
  else
    let d := d.put f (bit ok)
    let d := d.emit 11 0x50 (leBytes 1 d.refStatus ++ leBytes 4 measured)
    if ok then d else d.notice 0x3004 11 []

/-- A measured value lies within 0.5 % of its declaration. -/
def refAgrees (measured declared : Nat) : Bool := 200 * ((measured : Int) - declared).natAbs ≤ declared

/-- REF_HOLD: a reference check is failing. -/
def Dev.refHold (d : Dev) : Dev :=
  d.put CAL.ROT_STATUS_REF_HOLD (bit (!d.on CAL.REF_STATUS_VREF_OK || !d.on CAL.REF_STATUS_RREF_OK))

/-- The check of the references, once a second (R252). -/
def Dev.referenceCheck (vref rref : Nat) (d : Dev) : Dev :=
  if d.blockDown 11 || d.st == stDormant then d
  else
    let d := d.until (d.cal.refAt + 1000 * msTclk)
    let quiet := if d.cal.trefSeen then 0 else d.cal.trefQuiet + 1
    let d := { d with cal := { d.cal with refAt := d.elapsed, trefSeen := false, trefQuiet := quiet } }
    let d := d.refBit CAL.REF_STATUS_VREF_OK (refAgrees vref (d.get CAL.VREF_UV)) vref
    let d := d.refBit CAL.REF_STATUS_RREF_OK (refAgrees rref (d.get CAL.RREF_MOHM)) rref
    let d := if d.on CAL.TREF_CFG_EN && 10 ≤ quiet then d.refBit CAL.REF_STATUS_TREF_SEEN false 0 else d
    d.refHold

/-- A CAL_TREF edge (R252). -/
def Dev.trefEdge (d : Dev) : Dev :=
  if d.on CAL.TREF_CFG_EN && !d.blockDown 11 && d.st != stDormant then
    ({ d with cal := { d.cal with trefSeen := true, trefQuiet := 0 } }).refBit CAL.REF_STATUS_TREF_SEEN true 0
  else d

/-! ### Mirroring and carriers (R259, R262, R264) -/

/-- Dword offsets of a pin page that a mirroring channel takes (R419): all but the calibration fields and counters. -/
def pinMirror : List Nat := [0x00, 0x04, 0x08, 0x0C, 0x10, 0x14] ++ (List.range 16).map fun j => 0x20 + 4 * j

/-- Dword offsets of an SMC page that a mirroring channel takes (R420). -/
def smcMirror : List Nat := (List.range 30).map (4 * ·) ++ [0x80, 0x84]

/-- Page `j` takes the settings of page `i`. -/
def Dev.copyPage (k i j : Nat) (d : Dev) : Dev :=
  let base (x : Nat) : Nat :=
    if isPinBus k then (PINB.CFG_ABORT_STATE k x).addr else (SMCG.MODE_MODE (k - 32) x).addr
  d.each (if isPinBus k then pinMirror else smcMirror) fun o d => d.setReg (base j + o) (d.reg (base i + o))

/-- The comparators of a mirroring pin channel start unresolved in its mode (R259, R160). -/
def Dev.mirrorComparators (p : Nat) (d : Dev) : Dev :=
  if (d.pin p).powered && d.pinOn PINB.CFG_CMP_EN p then
    d.startSettle p (d.pinGet PINB.CFG_CMP_SPEED p) (some 3)
  else d

/-- A mirror begins: the incoming channel of page `j` mirrors page `i` for 16,000 TCLK (R259; 800 MCLK, R264). -/
def Dev.beginMirror (k i j st : Nat) (d : Dev) : Dev :=
  let d := d.put (busStateF k) st
  let d := if j = sparePage k then d.copyPage k i j else d
  let d := if isPinBus k then d.mirrorComparators (busPhys k j) else d
  d.modBus k fun b => { b with mirrorEnd := some (d.elapsed + 16000), waitFrom := none, commit := none }

/-- The spare begins to mirror channel `i` (R259). -/
def Dev.mirrorOut (k i reason : Nat) (d : Dev) : Dev :=
  ((d.put (busCurF k) i).modBus k fun b => { b with reason }).beginMirror k i (sparePage k) calMirrorOut

/-- Channel CUR begins to mirror the spare that carries it (R259). -/
def Dev.mirrorBack (k : Nat) (d : Dev) : Dev := d.beginMirror k (sparePage k) (d.get (busCurF k)) calMirrorBack

/-- A mirror ends: the bus waits for an eligible instant (R259). -/
def Dev.mirrorEnd (k : Nat) (d : Dev) : Dev :=
  match (d.bus k).mirrorEnd with
  | none => d
  | some t =>
    if !d.calRuns k then d
    else
      let d := d.until t
      let st := if d.busState k = calMirrorOut then calWaitOut else calWaitBack
      let d := (d.put (busStateF k) st).modBus k fun b => { b with mirrorEnd := none, waitFrom := some d.elapsed, commit := none }
      if isPinBus k then d else d.smcBegin k

/-- CAL commits to a handover at the start of a HANDOVER_OK vector, at its issue (R260, R261). -/
def Dev.calCommit (n h : Nat) (d : Dev) : Dev :=
  d.each allBuses fun k d =>
    let mine := d.busEng k == n && (isPinBus k || d.get (CAL.SMC_HO_GATE (k - 32)) == 1)
    let since := match (d.bus k).waitFrom with | some t => decide (t ≤ d.elapsed) | none => false
    let free := match (d.bus k).commit with | some h => isPinBus k && decide (h < d.elapsed) | none => true
    if mine && free && since && d.busMay k && (isPinBus k || d.smcEligible k) then
      d.modBus k fun b => { b with commit := some h }
    else d

/-- The logical channel of page `i` of a bus. -/
def busLogical (k i : Nat) : Nat := if isPinBus k then 32 * k + i else 16 * (k - 32) + i

/-- A HANDOVER record (R261): direction 0 outward, 1 back. The codes of direction and reason are choices (log). -/
def Dev.handoverRecord (logical out inn dir reason : Nat) (d : Dev) : Dev :=
  (d.emit 11 0x52
    (leBytes 2 logical ++ leBytes 2 out ++ leBytes 2 inn ++ leBytes 1 dir ++ leBytes 1 reason)).bump CAL.HANDOVER_COUNT

/-- The spare carries nothing: what its CARRIER shows. -/
def noCarrier (k : Nat) : Nat := if isPinBus k then 0x7FF else 0x1FF

/-- The carrier of logical page `c` becomes the spare, or the channel itself. -/
def Dev.setCarrier (k c : Nat) (spare : Bool) (d : Dev) : Dev :=
  (d.put (carrierF k c) (busPhys k (if spare then sparePage k else c))).put (carrierF k (sparePage k))
    (if spare then busLogical k c else noCarrier k)

/-- How far the edges and the compares of a channel move where channel `inn` places them in place of `out`, each with its own
constants (R142, R254, R261): in steps. -/
def Dev.placeShift (d : Dev) (out inn : Nat) : Int × Int :=
  let eng := d.bankEng (bankOf out)
  let site := match d.logicalOf inn with | some c => d.chanSite c | none => 0
  let a := d.adjust (d.tset eng).view site out
  let b := d.adjust (d.tset eng).view site inn
  (clampAdjust b.1 - clampAdjust a.1, clampAdjust b.2 - clampAdjust a.2)

/-- At H the incoming pin channel takes what is on its way for the outgoing one, which it has mirrored with its own constants:
both place the edges of the overlap, and compares that close at or after H are the incoming channel's (R259, R261). -/
def Dev.movePin (out inn : Nat) (d : Dev) : Dev :=
  let s := d.pin out
  let h : Int := 256 * d.elapsed
  let (x, y) := d.placeShift out inn
  let d := d.modPin inn fun i =>
    { i with out := s.out, latch := s.latch, lastEdge := s.lastEdge, req := s.req
             edges := s.edges.map fun e => { e with at_ := e.at_ + x }
             cmps := (s.cmps.map fun c => { c with s0 := c.s0 + y, s1 := c.s1 + y }).filter fun c => decide (h ≤ c.s1)
             idleSince := s.idleSince, unit := s.unit, lastClose := (none, none) }
  d.modPin out fun o =>
    { o with edges := s.edges.filter fun e => decide (e.at_ < h + 28 * 256)
             cmps := s.cmps.filter fun c => decide (c.s1 + y < h) }

/-- An SMC takes what another one forces for its logical channel (R264). -/
def Dev.moveSmc (out inn : Nat) (d : Dev) : Dev :=
  let s := d.sm out
  d.modSm inn fun i =>
    { s with lastV := i.lastV, lastI := i.lastI, convAt := i.convAt, residual := i.residual }

/-- The carrier of the logical channel of page `c` changes from `out` to `inn`. -/
def Dev.moveChannel (k c : Nat) (spare : Bool) (out inn : Nat) (d : Dev) : Dev :=
  let d := d.setCarrier k c spare
  if isPinBus k then d.movePin out inn else d.moveSmc out inn

/-- H of a pin handover (R261). -/
def Dev.handover (k : Nat) (d : Dev) : Dev :=
  match d.eligible k with
  | none => d
  | some h =>
    let d := d.until h
    let c := d.get (busCurF k)
    let back := d.busState k == calWaitBack
    let out := busPhys k (if back then sparePage k else c)
    let inn := busPhys k (if back then c else sparePage k)
    let d := if back then d else d.copyPage k c (sparePage k)
    let d := d.moveChannel k c (!back) out inn
    let d := d.handoverRecord (busLogical k c) out inn (bit back) (d.bus k).reason
    d.modBus k fun b => { b with overlap := some (out, inn, d.elapsed), waitFrom := none, commit := none }

/-- The spare is lost to the bus (R271). -/
def Dev.spareFailed (k : Nat) (d : Dev) : Dev :=
  let d := ((d.put (busSpFailedF k) 1).put CAL.COMMITTED (setBitTo (d.get CAL.COMMITTED) k true)).put
    (failedF k (sparePage k)) 1
  (d.modBus k fun b => { b with failSpare := false }).replaceReq 0

/-- The spare carries channel `c` for good; its physical channel is isolated (R271). -/
def Dev.commitSpare (k c : Nat) (d : Dev) : Dev :=
  let d := (((d.put (busStateF k) calCommitted).put (busCommitF k) c).put (failedF k c) 1).put (onBusF k c) 0
  let d := d.put CAL.COMMITTED (setBitTo (d.get CAL.COMMITTED) k true)
  (d.modBus k fun b => { b with pass := none, fc2 := none, mirrorEnd := none, waitFrom := none, commit := none }).replaceReq 0

/-- A pass begins on the channel of page `i` (R254), with the declarations now in force (R251). -/
def Dev.beginPass (k i : Nat) (inPlace : Bool) (d : Dev) : Dev :=
  let d := d.put (onBusF k i) 1
  let p : Pass := ⟨busPhys k i, inPlace, d.on CAL.REF_STATUS_VREF_OK, d.on CAL.REF_STATUS_RREF_OK, d.get CAL.VREF_UV,
    d.get CAL.RREF_MOHM⟩
  d.modBus k fun b => { b with pass := some p }

/-- The outgoing channel of a handover is off the ball (R261, R264). -/
def Dev.handoverDone (k : Nat) (d : Dev) : Dev :=
  let back := d.busState k == calWaitBack
  let c := d.get (busCurF k)
  let d := d.modBus k fun b => { b with overlap := none }
  if back then
    let d := d.put (busStateF k) calFree
    if (d.bus k).failSpare then d.spareFailed k
    else
      match (d.bus k).fc2 with
      | some i => d.mirrorOut k i 1
      | none => d
  else if (d.bus k).failSpare then (d.put (busStateF k) calCarry).mirrorBack k
  else
    match (d.bus k).fc2 with
    | some i => d.commitSpare k i
    | none => (d.put (busStateF k) calCarry).beginPass k c false

/-- 28 TCLK after H the outgoing switch is open; a channel that leaves joins the bus at 32 (R261). -/
def Dev.overlapEnd (k : Nat) (d : Dev) : Dev :=
  match (d.bus k).overlap with
  | none => d
  | some (out, _, h) =>
    let d := d.until (h + 28)
    let d := d.modPin out fun s => { s with edges := [], out := .off }
    let d := if d.busState k = calWaitBack then d else d.until (h + 32)
    d.handoverDone k

/-- The incoming SMC's switch has closed, 800 MCLK after H: it becomes the carrier (R264, R265). A handover that has begun
completes, but for SAFE_HOLD, which freezes the carriers (R263). -/
def Dev.smcHandoverClose (g : Nat) (d : Dev) : Dev :=
  let k := 32 + g
  match (d.bus k).commit with
  | none => d
  | some h =>
    if !d.busWaits k || d.flt.safeHold || d.flt.fc0.isSome || d.blockDown (0x40 + g) then d
    else
      let d := d.until (h + 16000)
      let c := d.get (busCurF k)
      let back := d.busState k == calWaitBack
      let out := busPhys k (if back then sparePage k else c)
      let inn := busPhys k (if back then c else sparePage k)
      let d := if back then d else d.copyPage k c (sparePage k)
      let d := d.moveChannel k c (!back) out inn
      let d := d.handoverRecord (busLogical k c) out inn (bit back) (d.bus k).reason
      d.modBus k fun b => { b with overlap := some (out, inn, d.elapsed), waitFrom := none, commit := none }

/-- The outgoing SMC's switch is open (R264). -/
def Dev.smcHandoverOpen (g : Nat) (d : Dev) : Dev :=
  let k := 32 + g
  match (d.bus k).overlap with
  | none => d
  | some (out, _, h) =>
    let d := d.until (mclkAt (h + 20) + 16000)
    let d := d.modSm out fun s =>
      { SmcSt.reset with convAt := s.convAt, lastV := s.lastV, lastI := s.lastI, residual := s.residual }
    let lead := d.leaderOf (d.smcPhysOf (16 * g + d.get (busCurF k)))
    let d := d.handoverDone k
    match (d.sm lead).offHeld with
    | some cause => (d.modSm lead fun s => { s with offHeld := none }).smcOff lead cause
    | none => d

/-! ### Passes (R254 to R258, R266, R269, R272) -/

/-- Pages of a bus that rotation may work on: none that has failed; the spare while it is free, or where it carries
COMMIT_C as a working channel. A channel under R273 keeps its last accepted constants. -/
def Dev.passPages (d : Dev) (k : Nat) : List Nat :=
  let kept (i : Nat) : Bool := (d.bus k).noSpare.contains (busPhys k i)
  ((List.range (sparePage k)).filter fun i => !d.on (failedF k i) && !kept i) ++
    (if if d.busState k = calCommitted then kept (d.get (busCommitF k)) else d.noSpareFree k then [] else [sparePage k])

/-- Page of the logical channel that the channel of a page works for in place. -/
def Dev.inPlacePage (d : Dev) (k i : Nat) : Nat := if i = sparePage k then d.get (busCommitF k) else i

/-- A channel may be calibrated without a spare (R272). -/
def Dev.inPlaceOk (d : Dev) (k page : Nat) : Bool :=
  let i := d.inPlacePage k page
  if isPinBus k then
    d.get (SEQ.STATUS_STATE (d.bankEng k)) == 0 || !d.mapped (32 * k + i)
  else d.smcState (d.smcPhysOf (16 * (k - 32) + i)) == 0

/-- Elapsed end of the last clean pass of a page's channel: its age counts from there, whatever the Plain does (R53, R257). -/
def Dev.cleanEnd (d : Dev) (k i : Nat) : Nat := Tab.get (fun _ => 0) d.cal.ends (64 * k + i)

/-- A clean pass of a page's channel ends now. -/
def Dev.endClean (k i : Nat) (d : Dev) : Dev :=
  let d := d.put (calEndF k i) d.now
  { d with cal := { d.cal with ends := d.cal.ends.insert (64 * k + i) d.elapsed } }

/-- The page with the greatest age: the oldest end of a clean pass, the lower number among equals (R266). -/
def Dev.oldestPage (d : Dev) (k : Nat) (pages : List Nat) : Option Nat :=
  pages.foldl (fun best i =>
    match best with
    | none => some i
    | some j => if d.cleanEnd k i < d.cleanEnd k j then some i else some j) none

/-- The wait the governor adds between passes (R269). -/
def Dev.paceWait (d : Dev) : Nat := if d.on CAL.ROT_STATUS_PACED then msTclk * d.get CAL.PACE_MAX else 0

/-- Work on the next channel of a bus begins (R266, R272). -/
def Dev.passStart (k : Nat) (d : Dev) : Dev :=
  if !d.calRuns k || !d.on CAL.CTRL || (d.bus k).pass.isSome then d
  else
    let d := match (d.bus k).lastEnd with | some t => d.until (t + d.paceWait) | none => d
    if d.noSpareFree k then
      if d.busState k ≠ calFree && d.busState k ≠ calCommitted then d
      else
        match d.oldestPage k ((d.passPages k).filter (d.inPlaceOk k)) with
        | some i => (d.put (busCurF k) (if i = sparePage k then 0x3F else i)).beginPass k i true
        | none => d
    else if d.busState k ≠ calFree then d
    else
      match d.oldestPage k (d.passPages k) with
      | none => d
      | some i =>
        if i = sparePage k then ((d.put (busStateF k) calSpare).put (busCurF k) 0x3F).beginPass k i false
        else d.mirrorOut k i 0

/-- A pass is abandoned (R263, R272): neither age nor CAL_FAILS changes. -/
def Dev.abandonPass (k : Nat) (d : Dev) : Dev :=
  match (d.bus k).pass with
  | none => d
  | some p =>
    let i := if isPinBus k then pageOf p.phys else smcPage p.phys
    let d := d.dropPass k
    if p.inPlace then d
    else if i = sparePage k then d.put (busStateF k) calFree
    else d.mirrorBack k

/-- PLL-T loses lock: passes in progress are abandoned (R263). -/
def Dev.calUnlock (d : Dev) : Dev := d.each allBuses Dev.abandonPass

/-- A START of engine `n` abandons the passes that hold its channels without a spare (R272). -/
def Dev.calStart (n : Nat) (d : Dev) : Dev :=
  d.each (d.engBanks n) fun k d =>
    match (d.bus k).pass with
    | some p => if p.inPlace && d.mapped (32 * k + d.inPlacePage k (pageOf p.phys)) then d.abandonPass k else d
    | none => d

/-- FC1 reset of a bank or group (R263): every logical channel returns to its own physical channel, except one whose
spare is COMMITTED. A substitution that FC2 has asked for stays due (R274). -/
def Dev.calBankReset (k : Nat) (d : Dev) : Dev :=
  let st := d.busState k
  if st = calCommitted then
    match (d.bus k).pass with | some _ => d.abandonPass k | none => d
  else
    let c := d.get (busCurF k)
    let sp := busPhys k (sparePage k)
    let carries := d.get (carrierF k (sparePage k)) != noCarrier k
    let d := d.dropPass k
    let d :=
      if carries then
        let d := d.moveChannel k c false sp (busPhys k c)
        d.handoverRecord (busLogical k c) sp (busPhys k c) 1 2
      else d
    let fail := (d.bus k).failSpare
    let d := d.put (busStateF k) calFree
    let d := d.modBus k fun b =>
      { b with mirrorEnd := none, waitFrom := none, commit := none, overlap := none, pass := none }
    if fail then d.spareFailed k else d

/-- What feeds a constant (R252): 0 timing, 1 CAL_VREF, 2 CAL_RREF. -/
def constFeed (k j : Nat) : Nat :=
  if isPinBus k then
    if j < 5 then 0 else if 17 ≤ j && j < 21 then 2 else 1
  else if j < 2 || j == 12 || j == 13 || j == 24 || j == 25 then 1
  else 2

/-- Factory window and maximum change of a constant (R256, R406). -/
def Dev.window (d : Dev) (k j : Nat) : Int × Int × Nat :=
  Tab.get (fun _ => (0, 0, 0)) d.cal.windows (if isPinBus k then j else 32 + j)

/-- TRIM_PIN of a physical channel (R268). -/
def Dev.trimPinned (d : Dev) (k p : Nat) : Bool :=
  if isPinBus k then (d.get (CAL.TRIM_PIN_P (p / 32))).testBit (p % 32)
  else (d.get (CAL.TRIM_PIN_S (p / 32))).testBit (p % 32)

/-- The test a new constant fails (R256): 0 none, 1 window, 2 maximum change. -/
def Dev.constTest (d : Dev) (k j : Nat) (x x' : Int) : Nat :=
  let (lo, hi, delta) := d.window k j
  let band := d.get (if isPinBus k then CAL.BAND_PIN else CAL.BAND_SMC)
  if x' < lo || hi < x' then 1 else if delta * band < 16 * (x' - x).natAbs then 2 else 0

/-- One constant of a pass is judged; answers whether it was rejected. -/
def Dev.judgeConst (k i p j : Nat) (write : Bool) (x' : Int) (d : Dev) : Bool × Dev :=
  let x := signedOf 32 (d.get (constF k i j))
  match d.constTest k j x x' with
  | 0 => (false, if write then d.put (constF k i j) (unsignedOf 32 x') else d)
  | t =>
    let rej := if isPinBus k then PINB.CAL_REJ k i else SMCG.CAL_REJ (k - 32) i
    let d := (d.bump rej).bump CAL.REJECT_COUNT
    let d := d.emit 11 0x51
      (leBytes 2 p ++ leBytes 1 j ++ leBytes 4 (unsignedOf 32 x) ++ leBytes 4 (unsignedOf 32 x') ++ leBytes 1 t)
    (true, d.notice 0x3004 (busBlock k) (leBytes 2 p ++ leBytes 1 j))

/-- A channel's FC2 fault (R258). -/
def Dev.channelFault (k p det : Nat) (d : Dev) : Dev := d.alarm { plainDetection det (busBlock k) with detail := p }

/-- A pass ends (R254 to R258). -/
def Dev.passEnd (k : Nat) (values : List Int) (responsive : Bool) (d : Dev) : Dev :=
  match (d.bus k).pass with
  | none => d
  | some p =>
    if !d.calRuns k then d
    else
      let i := if isPinBus k then pageOf p.phys else smcPage p.phys
      let pinned := d.trimPinned k p.phys
      let vok := p.vref && d.on CAL.REF_STATUS_VREF_OK
      let rok := p.rref && d.on CAL.REF_STATUS_RREF_OK
      let fed (j : Nat) : Bool := match constFeed k j with | 1 => vok | 2 => rok | _ => true
      let all := List.range (constCount k)
      let (rejected, d) := all.foldl (fun (acc : Bool × Dev) j =>
        if fed j then
          let (r, d) := acc.2.judgeConst k i p.phys j (!pinned) (values.getD j 0)
          (acc.1 || r, d)
        else acc) (false, d)
      let clean := !rejected && all.all fed
      let fails := if isPinBus k then PINB.CAL_FAILS k i else SMCG.CAL_FAILS (k - 32) i
      let old := d.get fails
      let n := if clean then 0 else min 3 (old + 1)
      let d := (d.put fails n).bump CAL.PASS_COUNT
      let d := if clean && !pinned then d.endClean k i else d
      let d := (d.put (onBusF k i) 0).modBus k fun b => { b with pass := none, lastEnd := some d.elapsed }
      let d :=
        if p.inPlace then d
        else if i = sparePage k then d.put (busStateF k) calFree
        else d.mirrorBack k
      if !responsive then d.channelFault k p.phys 0x2002
      else if n = 3 && old ≠ 3 then d.channelFault k p.phys 0x2001
      else d

/-! ### FC2 faults and spares (R271 to R275) -/

/-- R273 applies to a physical channel: it stays in service with its last accepted constants. -/
def Dev.noSpareFor (k p : Nat) (d : Dev) : Dev :=
  (d.modBus k fun b => { b with noSpare := if b.noSpare.contains p then b.noSpare else b.noSpare ++ [p] }).replaceReq 1

/-- The reaction to an FC2 fault of the spare of a bus that is not COMMITTED (R271). -/
def Dev.spareFc2 (k : Nat) (d : Dev) : Dev :=
  let st := d.busState k
  let pending := (d.bus k).fc2
  let d := d.modBus k fun b => { b with failSpare := true, fc2 := none }
  let d := match pending with | some c => d.noSpareFor k (busPhys k c) | none => d
  if (d.bus k).overlap.isSome || st = calMirrorBack || st = calWaitBack then d
  else if st = calCarry then (if (d.bus k).pass.isSome then d.abandonPass k else d.mirrorBack k)
  else
    let d := (d.dropPass k).modBus k fun b => { b with mirrorEnd := none, waitFrom := none, commit := none }
    (d.put (busStateF k) calFree).spareFailed k

/-- In the overlap of a handback the spare takes channel `c` again, for good (R271). -/
def Dev.commitBack (k c : Nat) (d : Dev) : Dev :=
  let d := d.modBus k fun b => { b with overlap := none }
  let d := d.moveChannel k c true (busPhys k c) (busPhys k (sparePage k))
  (d.handoverRecord (busLogical k c) (busPhys k c) (busPhys k (sparePage k)) 0 1).commitSpare k c

/-- The spare is to take channel `i` for good: measurements bound to it end (R205). -/
def Dev.substitute (k i : Nat) (d : Dev) : Dev :=
  let d := if isPinBus k then d.tiaLoseChannel (busPhys k i) else d
  d.modBus k fun b => { b with fc2 := some i, reason := 1 }

/-- The reaction to an FC2 fault of physical channel `p` of a bus (R271). -/
def Dev.calFc2 (k p : Nat) (d : Dev) : Dev :=
  let i := if isPinBus k then pageOf p else smcPage p
  let st := d.busState k
  let mine := d.get (busCurF k) = i
  let overlap := (d.bus k).overlap.isSome
  if i = sparePage k then
    if st = calCommitted then d.noSpareFor k (busPhys k (d.get (busCommitF k))) else d.spareFc2 k
  else if st = calCommitted || (d.bus k).failSpare || d.noSpareFree k then d.noSpareFor k p
  else if st = calCarry || st = calMirrorBack || st = calWaitBack || overlap then
    if !mine then d.noSpareFor k p
    else if !overlap then (d.substitute k i).commitSpare k i
    else if st = calWaitBack then (d.substitute k i).commitBack k i
    else d.substitute k i
  else if (st = calMirrorOut || st = calWaitOut) && mine then d.substitute k i
  else
    let d := if st = calSpare then d.abandonPass k else d
    (d.substitute k i).mirrorOut k i 1

/-- A bank or group comes back from RESET with a substitution due (R271, R274). -/
def Dev.calResume (k : Nat) (d : Dev) : Dev :=
  match (d.bus k).fc2 with
  | some i => if d.busState k = calFree && !d.noSpareFree k then d.mirrorOut k i 1 else d
  | none => d

/-- SPARE_DIS of a bus is set (R275): a handover that has not begun does not take place; R273 applies to a channel that waits for
the spare. -/
def Dev.spareStop (k : Nat) (d : Dev) : Dev :=
  let st := d.busState k
  if (st = calMirrorOut || st = calWaitOut) && (d.bus k).overlap.isNone && (d.bus k).commit.isNone then
    let due := (d.bus k).fc2
    let d := (d.put (busStateF k) calFree).modBus k fun b => { b with mirrorEnd := none, waitFrom := none, fc2 := none }
    match due with
    | some c => d.noSpareFor k (busPhys k c)
    | none => d
  else d

/-- A completed write of SPARE_DIS (R275); a bit that is set asks for a replacement (R272, R274). -/
def Dev.spareDis (smc : Bool) (v : Nat) (d : Dev) : Dev :=
  let f := if smc then CAL.SPARE_DIS_S else CAL.SPARE_DIS_P
  let new := v % 2 ^ f.w
  let old := d.get f
  let set := (List.range f.w).filter fun i => new.testBit i && !old.testBit i
  let d := (d.put f new).each set fun i => Dev.spareStop (if smc then 32 + i else i)
  if d.get CAL.SPARE_DIS_P = 0 && d.get CAL.SPARE_DIS_S = 0 then
    { d with flt := { d.flt with replace := setBitTo d.flt.replace 2 false } }
  else d.replaceReq 2

/-- A write that would clear a bit of CAL.COMMITTED is refused with CONFLICT (R270, log 110). -/
def Dev.committedWrite (a : Nat) (v : W32) (d : Dev) : Dev :=
  let old := d.reg a
  if old &&& ~~~ v = 0 then d else d.conflict 4 11 0xFFFF a v.toNat old.toNat 270

/-- A write to CARRY that would make a committed spare or a failed channel carry otherwise is refused with CONFLICT (R270, log
110). -/
def Dev.carryWrite (k i a : Nat) (v : W32) (d : Dev) : Dev :=
  let w := (carrierF k i).w
  let fixed := d.on (failedF k i) || (d.busState k == calCommitted && (i == sparePage k || i == d.get (busCommitF k)))
  if fixed && v.toNat % 2 ^ w != d.get (carrierF k i) then
    d.conflict 4 (busBlock k) (busPhys k i) a v.toNat (d.reg a).toNat 270
  else d

/-- Bits of condition group SPARE of an engine (R78): a bus of it waits and the engine runs; a bank of it is overdue; a
channel of it has no spare. -/
def Dev.spareCond (d : Dev) (n : Nat) : Nat :=
  let banks := d.engBanks n
  bit (d.get (SEQ.STATUS_STATE n) == 2 && banks.any d.busWaits) +
  2 * bit (banks.any fun k => (d.bus k).overdue) + 4 * bit (banks.any fun k => !(d.bus k).noSpare.isEmpty)

/-! ### Age (R267) -/

/-- Pages of a bus whose physical channels carry a logical channel. -/
def Dev.carryingPages (d : Dev) (k : Nat) : List Nat :=
  ((List.range (sparePage k)).filter fun i => d.get (carrierF k i) == busPhys k i) ++
    (if d.get (carrierF k (sparePage k)) = noCarrier k then [] else [sparePage k])

/-- AGE_LIMIT in TCLK. -/
def Dev.ageLimit (d : Dev) : Nat := 1000 * msTclk * d.get CAL.AGE_LIMIT

/-- A bank or group becomes overdue, or stops being overdue. -/
def Dev.ageOverdue (k : Nat) (d : Dev) : Dev :=
  if d.blockDown 11 || d.st == stDormant then d
  else
    let ends := (d.carryingPages k).map (d.cleanEnd k)
    let oldest := ends.foldl min d.elapsed
    let was := (d.bus k).overdue
    let d := if was then d else d.until (oldest + d.ageLimit + 1)
    let now := decide (oldest + d.ageLimit < d.elapsed)
    if now = was then d
    else
      let d := (d.modBus k fun b => { b with overdue := now }).put CAL.OVERDUE (setBitTo (d.get CAL.OVERDUE) k now)
      d.emit 11 0x53 (leBytes 1 k ++ leBytes 1 (bit now))

/-! ### Host writes of constants and BAND (R268, R270) -/

/-- The constant a BAR0 offset names: bus, page and index. -/
def constOf (a : Nat) : Option (Nat × Nat × Nat) :=
  let pick (base pages n k0 : Nat) : Option (Nat × Nat × Nat) :=
    if a < base then none
    else
      let x := a - base
      let o := x % 0x400
      let i := x % 0x10000 / 0x400
      if i < pages && o % 4 = 0 && o / 4 < n then some (k0 + x / 0x10000, i, o / 4) else none
  if a < (SMCG.CAL 0 0 0).addr then
    if a < (PINB.CAL 31 32 22).addr + 4 then pick (PINB.CAL 0 0 0).addr 33 23 0 else none
  else if a < (SMCG.CAL 15 16 26).addr + 4 then pick (SMCG.CAL 0 0 0).addr 17 27 32
  else none

/-- A host write of a constant (R268). -/
def Dev.constantWrite (a : Nat) (v : W32) (d : Dev) : Dev :=
  match constOf a with
  | none => d
  | some (k, i, j) =>
    let (lo, hi, _) := d.window k j
    let x := signedOf 32 v.toNat
    if lo ≤ x && x ≤ hi then d.put (constF k i j) v.toNat
    else d.conflict 1 (busBlock k) (busPhys k i) a v.toNat (d.get (constF k i j)) 256

/-- A host write of CAL.BAND (R270). -/
def Dev.bandWrite (v : Nat) (d : Dev) : Dev :=
  let a := CAL.BAND_PIN.addr
  let ok (x : Nat) : Bool := 1 ≤ x && x ≤ 16
  if ok (bitsOf v 0 5) && ok (bitsOf v 8 5) then
    (d.put CAL.BAND_PIN (bitsOf v 0 5)).put CAL.BAND_SMC (bitsOf v 8 5)
  else d.conflict 2 11 0xFFFF a v (d.reg a).toNat 270

end Sys2Proof.Machine
end

