-- ==== Sys2Proof/Machine/FcapOps.lean ====
section
/-! DEFINITION. Fail capture and fail memory (R168, R172 to R186). -/

namespace Sys2Proof.Machine

/-! ### Withheld records (R183) -/

/-- The FAIL_WITHHELD record of an open span, which closes. -/
def Dev.closeWithheld (n : Nat) (d : Dev) : Dev :=
  match (d.fc n).withheld with
  | none => d
  | some w =>
    let d := (d.modFc n fun f => { f with withheld := none }).put (FCAP.ENG_STATUS_WITHHOLDING n) 0
    d.emit (0x14 + n) 0x31
      (leBytes 8 w.num ++ leBytes 8 w.sites ++ leBytes 8 w.first ++ leBytes 8 w.last ++ leBytes 1 w.reason ++
        leBytes 4 w.mapBits)

/-- Withhold a record of engine `n` for a reason: 1 NO_TOKEN, 2 RESET, 3 ECC. -/
def Dev.withhold (n reason : Nat) (r : FRec) (d : Dev) : Dev :=
  let site := r.site
  let stamp := r.stamp
  let isMap := r.map.isSome
  let d := match (d.fc n).withheld with | some w => if w.reason = reason then d else d.closeWithheld n | none => d
  let w : Withheld := ((d.fc n).withheld).getD ⟨0, 0, stamp, stamp, reason, 0⟩
  let w := { w with num := w.num + 1, sites := setBitTo w.sites site true, last := stamp, mapBits := w.mapBits + bit isMap }
  let d := d.modFc n fun f =>
    { f with withheld := some w, siteWithheld := f.siteWithheld.insert site (Tab.get (fun _ => 0) f.siteWithheld site + 1) }
  (d.put (FCAP.ENG_STATUS_WITHHOLDING n) 1).put (FCAP.ENG_WITHHELD n) (d.get (FCAP.ENG_WITHHELD n) + 1)

/-! ### Records (R179 to R181) -/

/-- The 32 bytes of a fail memory record (R180). -/
def FRec.bytes (r : FRec) : List Byte :=
  leBytes 8 r.vec ++ leBytes 4 r.user ++ leBytes 4 r.seg ++ leBytes 8 r.stamp ++ leBytes 1 (r.eng + 4 * r.kind) ++
  leBytes 1 r.site ++ leBytes 1 r.pos ++ leBytes 1 0 ++ leBytes 2 (r.chan + 1024 * bit r.spare) ++
  leBytes 1 r.flags ++ leBytes 1 0

/-- The FAIL record of the ledger with the same content (R280). -/
def Dev.failLedger (r : FRec) (d : Dev) : Dev :=
  d.emitAt r.stamp 0 (0x14 + r.eng) 0x30 (8 * bit r.spare + 16 * (r.flags % 16))
    (leBytes 8 r.vec ++ leBytes 4 r.user ++ leBytes 4 r.seg ++
      leBytes 3 (r.site + 64 * r.pos + 16384 * r.chan))

/-- A record enters the col (R182): results of one TCLK stand in the order of their channels, MATCH_TIMEOUT records first. -/
def enterCol (r : FRec) : List FRec → List FRec
  | [] => [r]
  | x :: xs => if x.at_ = r.at_ && x.kind ≠ 2 && (r.kind = 2 || r.chan < x.chan) then r :: x :: xs else x :: enterCol r xs

/-- A record that is due takes an FT token and enters the col, or is withheld; FULL copies a FAIL to the ledger. -/
def Dev.failRecord (r : FRec) (d : Dev) : Dev :=
  let n := r.eng
  if d.mayTake poolFT n 1 then
    let d := (d.take poolFT n 1).modFc n fun f => { f with col := enterCol r f.col }
    if r.kind = 0 && r.map.isNone && d.get (FCAP.ENG_CFG_MODE n) == 0 then d.failLedger r else d
  else (d.deny poolFT 1).withhold n 1 r

/-- The index of a FAIL in the fail map (R181). -/
def Dev.mapIndex (d : Dev) (n user : Nat) : Nat :=
  ((user + 2 ^ 32 - d.get (FCAP.ENG_MAP_BASE n)) % 2 ^ 32) / 2 ^ d.get (FCAP.ENG_MAP_SHIFT n)

/-- A FAIL in MAP mode passes through the col to the writer, which sets its bit of the fail map (R181, R183). -/
def Dev.mapFail (r : FRec) (d : Dev) : Dev :=
  let i := d.mapIndex r.eng r.user
  if 32768 * d.get (FCAP.PART_ENG_GRAN r.eng) ≤ i then d.bump (FCAP.ENG_MAP_RANGE r.eng)
  else d.failRecord { r with map := some i }

/-- What a FAIL with CP = 1 writes in the mode in force (R179). -/
def Dev.failDue (r : FRec) (d : Dev) : Dev :=
  let n := r.eng
  match d.get (FCAP.ENG_CFG_MODE n) with
  | 0 => d.failRecord r
  | 1 =>
    let c := Tab.get (fun _ => 0) (d.fc n).siteFails r.site
    let d := d.modFc n fun f => { f with siteFails := f.siteFails.insert r.site (c + 1) }
    if c < d.get (FCAP.ENG_FIRST_N n) then d.failRecord r else d.bump (FCAP.ENG_SKIPPED n)
  | 3 => d.mapFail r
  | _ => d

/-! ### Counts and drop-out (R172 to R177) -/

/-- A bit of a 64-bit site map register. -/
def Dev.siteBit (d : Dev) (f : Fld) (k : Nat) : Bool := (d.get f).testBit k
/-- Set or clear it. -/
def Dev.putSiteBit (f : Fld) (k : Nat) (b : Bool) (d : Dev) : Dev := d.put f (setBitTo (d.get f) k b)

/-- A site's drop-out takes effect at D = `at_`, with its cause: 1 LIMIT, 2 FAIL_STOP. -/
def Dev.dropNow (n k cause at_ : Nat) (d : Dev) : Dev :=
  let d := (d.putSiteBit FCAP.DROP k true).putSiteBit FCAP.PENDING k false
  d.modFc n fun f => { f with dropCause := f.dropCause.insert k cause, dropAt := f.dropAt.insert k at_ }

/-- The sites of engine `n` under whose drop-out a vector issued now plays: those whose D lies before (R120). -/
def Dev.dropMask (d : Dev) (n : Nat) : Nat :=
  maskOf ((List.range 64).filter fun k =>
    d.siteBit FCAP.DROP k && decide (Tab.get (fun _ => 0) (d.fc n).dropAt k < d.elapsed))

/-- A result arriving now comes after its site's D (R177). -/
def Dev.afterDrop (d : Dev) (n k : Nat) : Bool :=
  d.siteBit FCAP.DROP k && decide (Tab.get (fun _ => 0) (d.fc n).dropAt k < d.elapsed)

/-- A FAIL of site `k` counts, and decides its drop-out (R172 to R176); where the limit and FS meet in one TCLK, FS decides
(R185). -/
def Dev.countFail (n k seg : Nat) (fs : Bool) (stamp : Nat) (d : Dev) : Dev :=
  let after := d.afterDrop n k
  let count := d.get (FCAP.SITE_COUNT k) + 1
  let d := (d.put (FCAP.SITE_COUNT k) count).put (FCAP.ENG_TOTAL n) (d.get (FCAP.ENG_TOTAL n) + 1)
  let now := d.get (SEQ.SEG_NUM n)
  let d :=
    if seg = now then d.putSiteBit FCAP.SEGF k true
    else if now < seg then d.modEng n fun e => { e with segAhead := e.segAhead ++ [(seg, k)] }
    else d
  let d := if after then d else d.modEng n fun e => { e with newf := setBitTo e.newf k true }
  let limit := d.get (FCAP.SITE_LIMIT k)
  let d :=
    if d.siteBit FCAP.DROP k then (if fs && !after then d.dropNow n k 2 d.elapsed else d)
    else if fs then d.dropNow n k 2 d.elapsed
    else if limit ≠ 0 && limit ≤ count && !d.siteBit FCAP.PENDING k then
      if d.on (FCAP.ENG_CFG_DROP_TIMING n) then d.dropNow n k 1 d.elapsed
      else (d.putSiteBit FCAP.PENDING k true).modFc n fun f => { f with pendAt := f.pendAt.insert k d.elapsed }
    else d
  d.aqFail n k stamp

/-- Pending drop-outs of an engine have taken effect in the TCLK before this one, in which the next segment's first vector is
issued; one whose FAIL arrived in this TCLK waits for the segment after (R175). -/
def Dev.dropPending (n : Nat) (d : Dev) : Dev :=
  let due (k : Nat) : Bool := d.siteBit FCAP.PENDING k && decide (Tab.get (fun _ => 0) (d.fc n).pendAt k < d.elapsed)
  d.each ((d.engSites n).filter due) fun k => Dev.dropNow n k 1 (d.elapsed - 1)

/-- A result for the match logic (R84, R85): only compares of the word's own plays that closed after the start of its first
play, and none of a latched site. -/
def Dev.matchResult (c : Cmp) (close : Int) (fail : Bool) (d : Dev) : Dev :=
  d.modEng c.eng fun e =>
    if c.vec < e.mat.from_ || close ≤ e.mat.since || e.mat.latched.testBit c.site then e
    else
      { e with mat :=
          { e.mat with compared := setBitTo e.mat.compared c.site true
                       failed := if fail then setBitTo e.mat.failed c.site true else e.mat.failed } }

/-- Coarse stamp of the TCLK that contains an instant in steps of elapsed time. -/
def Dev.stampOfStep (d : Dev) (step : Int) : Nat := (((d.now : Int) - d.elapsed) + step / 256).toNat

/-- Fail capture receives a result of physical channel `p` (R172). -/
def Dev.takeResult (p : Nat) (x : Res) (d : Dev) : Dev :=
  let c := x.cmp
  let n := c.eng
  let stamp := d.stampOfStep x.close
  let rec_ : FRec :=
    { eng := n, kind := if x.res = .capture then 1 else 0, vec := c.vec, user := c.user, seg := c.seg, stamp
      site := c.site, pos := c.pos, chan := c.chan, spare := decide (1024 ≤ p)
      flags := bit x.ch + 2 * bit x.cl + 4 * bit c.window + 8 * bit (d.afterDrop n c.site)
      at_ := d.elapsed, map := none, spill := false }
  let cp := c.failOp.testBit 2
  match x.res with
  | .notMade => d
  | .pass => if c.isMatch then d.matchResult c x.close false else d
  | .capture =>
    if c.isMatch then d
    else if cp && d.get (FCAP.ENG_CFG_MODE n) ≤ 1 then d.failRecord rec_ else d.bump (FCAP.ENG_CAP_SKIPPED n)
  | .fail =>
    if c.isMatch then d.matchResult c x.close true
    else
      let d := d.countFail n c.site c.seg (c.failOp.testBit 1) stamp
      let d := d.bump (FCAP.CH_COUNT c.chan)
      let d := if d.get (FCAP.FIRST_FAIL c.chan) = 2 ^ 64 - 1 then d.put (FCAP.FIRST_FAIL c.chan) c.vec else d
      if cp then d.failDue rec_ else d

/-- A channel's oldest result reaches fail capture 40 TCLK after its close (R168). -/
def Dev.compareResult (p : Nat) (d : Dev) : Dev :=
  match (d.pin p).res with
  | [] => d
  | x :: rest =>
    let d := d.modPin p fun s => { s with res := rest }
    let d := d.until ((x.close / 256).toNat + 40)
    d.takeResult p x

/-- A MATCH_TIMEOUT charge (R86, R172): a FAIL for counts and drop-out, FS included (R176). -/
def Dev.chargeTimeout (n k vec seg : Nat) (w : MicroWord) (d : Dev) : Dev :=
  let r : FRec :=
    { eng := n, kind := 2, vec, user := w.user, seg, stamp := d.now, site := k, pos := 0, chan := 0, spare := false
      flags := 8 * bit (d.afterDrop n k), at_ := d.elapsed, map := none, spill := false }
  let d := d.countFail n k seg (w.failOp.testBit 1) d.now
  if d.get (FCAP.ENG_CFG_MODE n) ≤ 1 then d.failRecord r else d

/-! ### Fail memory (R182) -/

/-- Records an engine's queue holds. -/
def Dev.failRoom (d : Dev) (n : Nat) : Nat := 8192 * d.get (FCAP.PART_ENG_GRAN n)

/-- Records an engine's DRAM fail ring holds. -/
def Dev.failRing (d : Dev) (n : Nat) : Nat := 2048 * d.get (FCAP.ENG_DRING_SIZE n)

/-- The record leaves the count of those written: it is lost after all (R183). -/
def Dev.unwrite (n : Nat) (r : FRec) (d : Dev) : Dev :=
  (d.put (FCAP.ENG_WRITTEN n) (d.get (FCAP.ENG_WRITTEN n) - 1)).modFc n fun f =>
    { f with siteWritten := f.siteWritten.insert r.site (Tab.get (fun _ => 0) f.siteWritten r.site - 1) }

/-- Records lost from the col, with reason RESET (R183). -/
def Dev.failDiscard (n : Nat) (rs : List FRec) (d : Dev) : Dev := d.each rs (Dev.withhold n 2)

/-- Stored records lost for a reason: they were written and are now withheld (R182, R183). -/
def Dev.failLost (n reason : Nat) (rs : List FRec) (d : Dev) : Dev :=
  d.each rs fun r d => (d.unwrite n r).withhold n reason r

/-- The engine of a fail memory share is IDLE. -/
def Dev.engIdle (d : Dev) (n : Nat) : Bool := d.get (SEQ.STATUS_STATE n) == 0

/-- A write to FCAP.PART_ENGn (R182, R107). -/
def Dev.failPartition (n v : Nat) (d : Dev) : Dev :=
  let range := (bitsOf v 0 5, bitsOf v 8 6)
  let others := (List.range 4).filter fun m =>
    m != n && rangesMeet range (d.get (FCAP.PART_ENG_BASE m), d.get (FCAP.PART_ENG_GRAN m))
  let refuse (r : Nat) (d : Dev) : Dev := (d.put (FCAP.PART_ENG_PART_RESULT n) r).ignored (FCAP.PART_ENG_BASE n).addr
  if !d.engIdle n then refuse 2 d
  else if 32 < range.1 + range.2 then refuse 3 d
  else if !others.isEmpty then refuse 4 d
  else
    let d := d.failLost n 2 (d.fc n).queue
    let d := d.modFc n fun f => { f with queue := [], map := [] }
    ((d.put (FCAP.PART_ENG_BASE n) range.1).put (FCAP.PART_ENG_GRAN n) range.2).put (FCAP.PART_ENG_PART_RESULT n) 1

/-- A write to FCAP.ENGn.CFG (R179). -/
def Dev.fcapCfg (n v : Nat) (d : Dev) : Dev :=
  let mode := bitsOf v 0 2
  let clr := bitsOf v 9 1
  let moves := mode != d.get (FCAP.ENG_CFG_MODE n) || clr != d.get (FCAP.ENG_CFG_MAP_CLR n)
  let d := (d.put (FCAP.ENG_CFG_DROP_TIMING n) (bitsOf v 4 1)).put (FCAP.ENG_CFG_SPILL_EN n) (bitsOf v 8 1)
  if d.engIdle n then (d.put (FCAP.ENG_CFG_MODE n) mode).put (FCAP.ENG_CFG_MAP_CLR n) clr
  else if moves then d.ignored (FCAP.ENG_CFG_MODE n).addr
  else d

/-! ### Runs (R173, R184) -/

/-- What START clears of its engine's sites and channels (R173, R181). -/
def Dev.fcapStart (n : Nat) (d : Dev) : Dev :=
  let d := d.each (d.engSites n) fun k d =>
    ((((d.put (FCAP.SITE_COUNT k) 0).putSiteBit FCAP.DROP k false).putSiteBit FCAP.PENDING k false)).putSiteBit FCAP.SEGF k
      false
  let d := d.each ((d.engBanks n).flatMap fun b => (List.range 32).map (32 * b + ·)) fun c d =>
    (d.put (FCAP.CH_COUNT c) 0).put (FCAP.FIRST_FAIL c) (2 ^ 64 - 1)
  let d := ((d.put (FCAP.ENG_TOTAL n) 0).put (FCAP.ENG_WITHHELD n) 0).put (FCAP.ENG_WRITTEN n) 0
  let d := ((d.put (FCAP.ENG_SKIPPED n) 0).put (FCAP.ENG_CAP_SKIPPED n) 0).put (FCAP.ENG_MAP_RANGE n) 0
  let clear := d.on (FCAP.ENG_CFG_MAP_CLR n)
  d.modFc n fun f =>
    { f with siteFails := [], siteWritten := [], siteWithheld := [], dropCause := [], dropAt := [], pendAt := []
             map := if clear then [] else f.map }

/-- The run of an engine has ended: its drain begins (R184). -/
def Dev.fcapEnd (n : Nat) (d : Dev) : Dev :=
  (d.modFc n fun f => { f with ended := true }).put (FCAP.ENG_STATUS_DRAINING n) 1

/-- Drop-out state of a site as FAIL_FINAL shows it. -/
def Dev.dropState (d : Dev) (n k : Nat) : Nat :=
  if d.siteBit FCAP.DROP k then Tab.get (fun _ => 0) (d.fc n).dropCause k
  else if d.siteBit FCAP.PENDING k then 3 else 0

/-- The FAIL_FINAL record of a site (R184). -/
def Dev.failFinal (n k : Nat) (d : Dev) : Dev :=
  let firsts := ((d.engChans n).filter fun c => d.chanSite c == k).map fun c => d.get (FCAP.FIRST_FAIL c)
  d.emit (0x14 + n) 0x32
    (leBytes 1 k ++ leBytes 8 (d.get (FCAP.SITE_COUNT k)) ++ leBytes 8 (firsts.foldl min (2 ^ 64 - 1)) ++
      leBytes 1 (d.dropState n k) ++ leBytes 8 (Tab.get (fun _ => 0) (d.fc n).siteWritten k) ++
      leBytes 8 (Tab.get (fun _ => 0) (d.fc n).siteWithheld k))

/-- No compare or result of an engine is on its way. -/
def Dev.resultsDone (d : Dev) (n : Nat) : Bool :=
  d.pins.all fun (_, s) => (s.cmps.all fun c => c.skip || c.eng != n) && s.res.all fun r => r.cmp.eng != n

/-- The end marker arrives behind the run's last result: FAIL_WITHHELD, FAIL_FINAL, and the counts are final (R183,
R184). -/
def Dev.runDrain (n : Nat) (d : Dev) : Dev :=
  if (d.fc n).ended && d.resultsDone n && (d.fc n).col.isEmpty then
    let d := (d.closeWithheld n).each (d.engSites n) (Dev.failFinal n)
    (d.modFc n fun f => { f with ended := false }).put (FCAP.ENG_STATUS_DRAINING n) 0
  else d

/-- MAP_CTRL.DUMP (R181). -/
def Dev.mapDump (n : Nat) (d : Dev) : Dev :=
  if d.engIdle n && !(d.fc n).ended then
    (d.modFc n fun f => { f with dumpAt := some (f.dumpAt.getD 0) }).put (FCAP.ENG_STATUS_DUMP_BUSY n) 1
  else d.ignored (FCAP.ENG_MAP_CTRL n).addr

/-- A map dump finishes once every word of the region has been sent. -/
def Dev.mapDumpDone (n : Nat) (d : Dev) : Dev :=
  match (d.fc n).dumpAt with
  | some i =>
    if 32768 * d.get (FCAP.PART_ENG_GRAN n) ≤ i then
      (d.modFc n fun f => { f with dumpAt := none }).put (FCAP.ENG_STATUS_DUMP_BUSY n) 0
    else d
  | none => d

end Sys2Proof.Machine
end

