-- ==== Sys2Proof/Machine/AcqSample.lean ====
section
/-! DEFINITION. Samples of acquisition units and the way of stamps to their consumers (R190, R191, R235 to R240). -/

namespace Sys2Proof.Machine

/-- Steps from a grid instant to the instant at which a channel's comparators are sampled (R142, R236). -/
def Dev.cmpShift (d : Dev) (p : Nat) : Int :=
  deskewOf (d.pinGet PINB.CMP_DESKEW p) + signedOf 32 (d.get (PINB.CAL (bankOf p) (pageOf p) 4))

/-- What logical channel `c` shows for a grid instant, in elapsed steps, at its reference plane (R236). -/
def Dev.cmpSample (d : Dev) (c : Nat) (at_ : Int) : CmpSnap :=
  let p := d.physOf c
  histAt (d.snapAt p 0) (at_ + d.cmpShift p) (d.pin p).hist

/-- Logical channels of a CMP unit (R234). -/
def Dev.aqLogical (d : Dev) (u : Nat) : List Nat :=
  (List.range (d.aqChannels u)).map fun j => (d.get (AQ.CFG_CMP_FIRST u) + j) % 1024

/-- Elapsed TCLK of the grid instant of sample `k`. -/
def Dev.aqGrid (d : Dev) (u k : Nat) : Int := d.aqInstant u k - d.now + d.elapsed

/-- Elapsed TCLK at which sample `k` is complete: that of its grid instant, or, in a CMP unit, of the last sampled instant of a
channel where that is later (R236). -/
def Dev.aqSampledAt (d : Dev) (u k : Nat) : Nat :=
  let shift := if d.aqKind u = 0 then (d.aqLogical u).foldl (fun m c => max m (d.cmpShift (d.physOf c))) 0 else 0
  (d.aqGrid u k + (shift + 255) / 256).toNat

/-- A CMP sample (R236). -/
def Dev.cmpSampleOf (d : Dev) (u k : Nat) : AqSample :=
  let xs := (d.aqLogical u).map fun c => d.cmpSample c (256 * d.aqGrid u k)
  let bits := xs.zipIdx.foldl (fun acc (x, j) => acc + bit x.ch * 4 ^ j + 2 * bit x.cl * 4 ^ j) 0
  let unres := maskOf ((xs.zipIdx.filter fun (x, _) => !(x.readyH && x.readyL)).map (·.2))
  { k, bytes := leBytes (xs.length / 4) bits, unres, slow := xs.any fun x => !x.fast, lost := false }

/-- Enabled SMC_SEL entries of a unit, in order. -/
def Dev.aqSmcs (d : Dev) (u : Nat) : List Nat := (List.range 16).filter fun j => d.on (AQ.SMC_SEL_EN u j)

/-- An SMC sample (R237). -/
def Dev.smcSampleOf (d : Dev) (u k : Nat) : AqSample :=
  let words := (d.aqSmcs u).map fun j =>
    leBytes 4 (d.smcWord (d.get (AQ.SMC_SEL_SMC u j)) (d.get (AQ.SMC_SEL_QTY u j)) (d.aq u).lastAt)
  { k, bytes := words.flatten, unres := 0, slow := false, lost := false }

/-- Samples that a trigger not yet judged may still reach back to: PRE and what fits in the 176 TCLK of delivery, judgement
and skew. -/
def Dev.aqKeep (d : Dev) (u : Nat) : Nat := d.get (AQ.PRE u) + 176 / d.aqPeriod u + 2

/-- The unit takes its next sample (R235 to R240, R245). Samples of the dead time are not stored. -/
def Dev.aqSample (u : Nat) (d : Dev) : Dev :=
  if !d.aqRuns u then d
  else
    let k := (d.aq u).next
    let d := d.until (d.aqSampledAt u k)
    let kind := d.aqKind u
    let stored := kind != 2 && ((d.aq u).seg.isSome || (d.aq u).dead.any fun dd => decide (dd + 32 ≤ k))
    let d :=
      if !stored then d
      else
        let x := if kind = 1 then d.smcSampleOf u k else d.cmpSampleOf u k
        let (x, d) := match d.aqEnter u x.bytes.length with
          | some d => (x, d)
          | none => ({ x with bytes := x.bytes.map fun _ => 0, lost := true }, d.deny poolAT 1)
        let keep := match (d.aq u).seg with | some s => k + 1 - (s.k - d.get (AQ.PRE u)) | none => d.aqKeep u
        d.modAq u fun a => { a with samples := keepLast (max keep (d.aqKeep u)) (a.samples ++ [x]) }
    let d := d.modAq u fun a => { a with next := k + 1, lastAt := (d.aqGrid u k).toNat }
    let d := if kind = 2 && (d.aq u).seg.isNone then d.aqPrune u k else d
    d.aqAdvance u k

/-- The unit that takes the stamps of bank `b` (R238). -/
def Dev.stampUnit (d : Dev) (b : Nat) : Option Nat :=
  (List.range 8).find? fun u => d.aqRuns u && d.aqKind u == 2 && (d.get (AQ.CLAIM u)).testBit b

/-- Channels of a bank in the order of their turns (R190). -/
def turnOrder (turn : Nat) : List Nat := (List.range 33).map fun i => (turn + i) % 33

/-- The oldest stamp of the channel whose turn it is enters the bank buffer against an ST token (R190). -/
def Dev.stampAdmit (b : Nat) (d : Dev) : Dev :=
  let s := d.bank b
  match (turnOrder s.turn).find? fun i => !(d.pin (physOfPage b i)).queue.isEmpty with
  | none => d
  | some i =>
    if s.buffer.length < 1024 && d.mayTake poolST b 1 then
      match (d.pin (physOfPage b i)).queue with
      | e :: rest =>
        ((d.take poolST b 1).modPin (physOfPage b i) fun p => { p with queue := rest }).modBank b fun s =>
          { s with buffer := s.buffer ++ [e], turn := (i + 1) % 33 }
      | [] => d
    else d

end Sys2Proof.Machine
end

