-- ==== Sys2Proof/Machine/Sha.lean ====
section
/-! DEFINITION. The hashes and checksums the device computes: SHA-256 of ledger blocks (R287), SHA-384 of signed
messages and of the owner's key (R288, R408), and CRC-32C of image sections and microcode stores (R99, R400). -/

namespace Sys2Proof.Machine

/-! ### Constants

FIPS 180-4 takes its constants from the fractional parts of the roots of the first primes; so do these. -/

/-- A number from 2 to 440 is prime: nothing up to 21 divides it but itself. -/
def smallPrime (p : Nat) : Bool := (List.range' 2 20).all fun q => p % q != 0 || p == q

/-- The first 80 primes. -/
def shaPrimes : List Nat := (List.range' 2 408).filter smallPrime

/-- The greatest number that adds lower bits than `2 ^ n` to `r` and whose `k`-th power does not exceed `x`. -/
def rootFrom (k x : Nat) : Nat → Nat → Nat
  | 0, r => r
  | n + 1, r => rootFrom k x n (if (r + 2 ^ n) ^ k ≤ x then r + 2 ^ n else r)

/-- The first `w` bits behind the point of the `k`-th root of a number below 512. -/
def rootFraction (k w p : Nat) : BitVec w := BitVec.ofNat w (rootFrom k (p * 2 ^ (k * w)) (w + 5) 0)

/-- Round constants of SHA-256: cube roots. -/
def sha256K : List (BitVec 32) := (shaPrimes.take 64).map (rootFraction 3 32)
/-- Round constants of SHA-384: cube roots. -/
def sha512K : List (BitVec 64) := shaPrimes.map (rootFraction 3 64)
/-- Initial hash of SHA-256: square roots of the first eight primes. -/
def sha256Init : List (BitVec 32) := (shaPrimes.take 8).map (rootFraction 2 32)
/-- Initial hash of SHA-384: square roots of the next eight. -/
def sha384Init : List (BitVec 64) := ((shaPrimes.drop 8).take 8).map (rootFraction 2 64)

/-! ### Rounds -/

/-- The rotation and shift amounts of one member of the SHA-2 family. -/
structure ShaParams where
  s0 : Nat × Nat × Nat
  s1 : Nat × Nat × Nat
  e0 : Nat × Nat × Nat
  e1 : Nat × Nat × Nat
deriving DecidableEq, Repr

/-- FIPS 180-4 amounts for SHA-256. -/
def sha256Params : ShaParams := ⟨(7, 18, 3), (17, 19, 10), (2, 13, 22), (6, 11, 25)⟩

/-- FIPS 180-4 amounts for SHA-384. -/
def sha512Params : ShaParams := ⟨(1, 8, 7), (19, 61, 6), (28, 34, 39), (14, 18, 41)⟩

/-- Two rotations and a shift, combined. -/
def shaSmall {w : Nat} (k : Nat × Nat × Nat) (x : BitVec w) : BitVec w :=
  x.rotateRight k.1 ^^^ x.rotateRight k.2.1 ^^^ (x >>> k.2.2)

/-- Three rotations, combined. -/
def shaBig {w : Nat} (k : Nat × Nat × Nat) (x : BitVec w) : BitVec w :=
  x.rotateRight k.1 ^^^ x.rotateRight k.2.1 ^^^ x.rotateRight k.2.2

/-- One round; the state lists a to h. -/
def shaRound {w : Nat} (p : ShaParams) (k m : BitVec w) : List (BitVec w) → List (BitVec w)
  | [a, b, c, d, e, f, g, h] =>
    let t1 := h + shaBig p.e1 e + ((e &&& f) ^^^ (~~~e &&& g)) + k + m
    let t2 := shaBig p.e0 a + ((a &&& b) ^^^ (a &&& c) ^^^ (b &&& c))
    [t1 + t2, a, b, c, d + t1, e, f, g]
  | st => st

/-- The next schedule word from the last sixteen, oldest first. -/
def shaNext {w : Nat} (p : ShaParams) (win : List (BitVec w)) : BitVec w :=
  shaSmall p.s1 (win.getD 14 0) + win.getD 9 0 + shaSmall p.s0 (win.getD 1 0) + win.getD 0 0

/-- The rounds over the constants, with the sliding schedule window. -/
def shaRounds {w : Nat} (p : ShaParams) :
    List (BitVec w) → List (BitVec w) → List (BitVec w) → List (BitVec w)
  | [], _, st => st
  | k :: ks, win, st =>
    shaRounds p ks (win.drop 1 ++ [shaNext p win]) (shaRound p k (win.getD 0 0) st)

/-- Compress one message block, given as sixteen words. -/
def shaCompress {w : Nat} (p : ShaParams) (ks st win : List (BitVec w)) : List (BitVec w) :=
  List.zipWith (· + ·) st (shaRounds p ks win st)

/-- Big-endian words of `n` bytes each, `cnt` of them. -/
def beWords (w n : Nat) : Nat → List Byte → List (BitVec w)
  | 0, _ => []
  | cnt + 1, bs => BitVec.ofNat w (ofBeBytes (bs.take n)) :: beWords w n cnt (bs.drop n)

/-- Compress `cnt` blocks of sixteen words of `n` bytes. -/
def shaBlocks {w : Nat} (p : ShaParams) (ks : List (BitVec w)) (n : Nat) :
    Nat → List Byte → List (BitVec w) → List (BitVec w)
  | 0, _, st => st
  | cnt + 1, bs, st => shaBlocks p ks n cnt (bs.drop (16 * n)) (shaCompress p ks st (beWords w n 16 bs))

/-- The padding of a message of `len` bytes for blocks of `blk` bytes with a length field of `lf` bytes. -/
def shaPad (blk lf len : Nat) : List Byte :=
  0x80 :: (List.replicate ((blk - (len + 1 + lf) % blk) % blk) 0 ++ beBytes lf (8 * len))

/-- SHA-256 of a message: 32 bytes. -/
def sha256 (msg : List Byte) : List Byte :=
  let m := msg ++ shaPad 64 8 msg.length
  ((shaBlocks sha256Params sha256K 4 (m.length / 64) m sha256Init).map (fun x => beBytes 4 x.toNat)).flatten

/-- SHA-384 of a message: 48 bytes. -/
def sha384 (msg : List Byte) : List Byte :=
  let m := msg ++ shaPad 128 16 msg.length
  (((shaBlocks sha512Params sha512K 8 (m.length / 128) m sha384Init).map
    (fun x => beBytes 8 x.toNat)).flatten).take 48

/-- One bit of the reflected CRC-32C (polynomial 0x1EDC6F41). -/
def crcBits : Nat → BitVec 32 → BitVec 32
  | 0, c => c
  | k + 1, c => crcBits k (if c.getLsbD 0 then (c >>> 1) ^^^ 0x82F63B78 else c >>> 1)

/-- Fold bytes into a CRC-32C register. -/
def crcFold : List Byte → BitVec 32 → BitVec 32
  | [], c => c
  | b :: bs, c => crcFold bs (crcBits 8 (c ^^^ b.setWidth 32))

/-- CRC-32C with initial value 0xFFFF_FFFF and final complement (R99, R400). -/
def crc32c (bs : List Byte) : BitVec 32 := ~~~ (crcFold bs 0xFFFFFFFF)

end Sys2Proof.Machine
end

