-- ==== Sys2Proof/Machine/LedgerOps.lean ====
section
/-! DEFINITION. LDG: the merger, the block packer, the hash chain, collapse and SUMMARY (R276 to R300). -/

namespace Sys2Proof.Machine

/-! ### Bytes of records and blocks -/

/-- Pad with zeros to a length, or cut to it. -/
def padTo (n : Nat) (l : List Byte) : List Byte := (l ++ List.replicate n 0).take n

/-- The 32-byte records of a group (R276, R278). -/
def Rec.bytes (r : Rec) : List (List Byte) :=
  (List.range (recordsOf r.payload)).map fun i =>
    let fine := if r.nt then (r.pseq + i) % 4096 else r.fine % 4096
    leBytes 8 r.coarse ++
    leBytes 2 (fine + 2 ^ 12 * (r.qual % 4) + 2 ^ 14 * bit r.nt + 2 ^ 15 * bit r.late) ++
    leBytes 1 r.typ ++ leBytes 1 (setBitTo r.flags 2 (decide (0 < i))) ++ leBytes 1 r.path ++
    padTo 19 (r.payload.drop (19 * i))

/-- The 4,096 bytes of a block (R281). -/
def Blk.bytes (b : Blk) : List Byte :=
  leBytes 4 0x4C525956 ++ leBytes 1 1 ++ leBytes 1 b.flags ++ leBytes 2 b.count ++ leBytes 8 b.num ++
  leBytes 8 b.firstSeq ++ leBytes 8 b.front ++ padTo 32 b.prev ++ padTo 4032 (b.slots.map (padTo 32)).flatten

/-- ASCII bytes. -/
def ascii (s : List Nat) : List Byte := s.map (BitVec.ofNat 8)

/-- "VYRL". -/
def vyrl : List Byte := ascii [0x56, 0x59, 0x52, 0x4C]
/-- "VYRS". -/
def vyrs : List Byte := ascii [0x56, 0x59, 0x52, 0x53]

/-! ### Front and free blocks -/

/-- Length of the merge horizon in TCLK. -/
abbrev mergeHorizon : Nat := 6400

/-- The released front F (R284). Where the Plain has not yet run for the horizon it is 0. -/
def Dev.front (d : Dev) : Nat :=
  d.now - ((d.ldg.jumps.filter fun (_, at_) => decide (d.elapsed < at_ + mergeHorizon)).map (·.1)).sum - mergeHorizon

/-- Free blocks of the ledger buffer, LDG.STATUS.FREE. -/
def Dev.ldgFree (d : Dev) : Nat := 512 - d.ldg.buffer.length

/-- Change LDG. -/
def Dev.modLdg (f : LdgSt → LdgSt) (d : Dev) : Dev := { d with ldg := f d.ldg }

/-- A full stamp in fine ticks. -/
def Rec.full (r : Rec) : Nat := 4096 * r.coarse + r.fine % 4096

/-! ### Blocks -/

/-- The digest as eight dwords in LDG.LAST_DIGEST (R287). -/
def Dev.putDigest (g : List Byte) (d : Dev) : Dev :=
  d.each (List.range 8) fun j => Dev.put (LDG.LAST_DIGEST j) (ofLeBytes ((g.drop (4 * j)).take 4))

/-- The span placeholder of lost blocks takes their place once a surviving block has closed (R297). -/
def LdgSt.span (l : LdgSt) (chainStart : List Byte) : LdgSt :=
  match l.lost, l.buffer with
  | some (first, last, firstSeq, records), b :: _ =>
    let p : Blk :=
      { num := first, firstSeq, count := 0, flags := 0x28, front := 0
        prev := match l.accepted with | some (_, _, g) => g | none => chainStart
        slots := [b.prev, leBytes 8 last ++ leBytes 8 records], digest := b.prev }
    { l with dring := l.dring ++ [p], lost := none }
  | _, _ => l

/-- PREV_DIGEST of the first block of a chain (R287). -/
def Dev.chainStart (d : Dev) : List Byte := sha256 (vyrl ++ leBytes 8 (d.get LDG.CHAIN_ID))

/-- Close the block under construction (R283): hash it, put it into the buffer, begin the next one. A block without a
record is not closed; with no free buffer block the close stays due. -/
def Dev.closeBlock (extra : Nat) (d : Dev) : Dev :=
  let l := d.ldg
  if l.cur.isEmpty then d
  else if d.ldgFree = 0 then
    { d with ldg := { l with closeDue := true, closeSign := l.closeSign || extra.testBit 4 } }
  else
    let sign := l.closeSign || extra.testBit 4
    let flags := l.curFlags + 2 * bit (extra.testBit 1) + 4 * bit (d.on FLT.STATUS_FACTORY) + 16 * bit sign
    let b : Blk :=
      { num := d.get LDG.NEXT_BLOCK, firstSeq := l.curFirst, count := l.cur.length, flags, front := d.front,
        prev := l.prev, slots := l.cur, digest := [] }
    let g := sha256 b.bytes
    let b := { b with digest := g }
    let l' : LdgSt :=
      { l with
        buffer := l.buffer ++ [b]
        recent := (l.recent ++ [b]).drop (l.recent.length + 1 - 8)
        cur := [], relLen := 0, curFlags := 0, prev := g, curFirst := l.curFirst + l.cur.length
        closeDue := false, closeSign := false
        collapsed := l.collapsed || decide (d.ldgFree ≤ 9) }
    (({ d with ldg := l'.span d.chainStart }).putDigest g).put LDG.NEXT_BLOCK (d.get LDG.NEXT_BLOCK + 1)

/-- A close at an instant of its own: FLUSH_T, a signing tick, a flush (R283). Records released in this CCLK period enter the
next block (R286). -/
def Dev.closeTimed (extra : Nat) (d : Dev) : Dev :=
  let l := d.ldg
  let tail := if l.relAt = d.cclk then l.cur.drop l.relLen else []
  if tail.isEmpty || d.ldgFree = 0 then d.closeBlock extra
  else if l.relLen = 0 then d
  else
    let d := ({ d with ldg := { l with cur := l.cur.take l.relLen } }).closeBlock extra
    { d with ldg := { d.ldg with cur := tail, curSince := d.elapsed } }

/-- Store a group in the block under construction; it opens the next block where it does not fit (R283). The caller
has seen that a buffer block is free. -/
def Dev.storeGroup (r : Rec) (d : Dev) : Dev :=
  let bs := r.bytes
  let d := if 126 < d.ldg.cur.length + bs.length then d.closeBlock 0 else d
  let l := d.ldg
  let d := { d with ldg := { l with cur := l.cur ++ bs, curSince := if l.cur.isEmpty then d.elapsed else l.curSince } }
  let d := d.put LDG.NEXT_SEQ (d.get LDG.NEXT_SEQ + bs.length)
  if 126 ≤ d.ldg.cur.length then d.closeBlock 0 else d

/-- A record of LDG's own, numbered as R337 says and stamped F (R284). -/
def Dev.ownRecord (path typ : Nat) (payload : List Byte) (d : Dev) : Rec :=
  { coarse := d.front, fine := 0, qual := d.qualAt d.front, nt := d.tokenDisc 0, late := false, typ, flags := 0,
    path, payload, pseq := d.ldg.ownPseq, ovf := (0, 0, 0) }

/-- Place one of LDG's own groups now. -/
def Dev.placeOwn (path typ : Nat) (payload : List Byte) (d : Dev) : Dev :=
  let d' := d.storeGroup (d.ownRecord path typ payload)
  { d' with ldg := { d'.ldg with ownPseq := (d'.ldg.ownPseq + recordsOf payload) % 2 ^ 32 } }

/-! ### Collapse and SUMMARY (R293 to R295) -/

/-- The tally of a PATH. -/
def Dev.tally (d : Dev) (p : Nat) : Tally := Tab.get (fun _ => .zero) d.ldg.tallies p

/-- Change the tally of a PATH. -/
def Dev.setTally (p : Nat) (t : Tally) (d : Dev) : Dev :=
  { d with ldg := { d.ldg with tallies := d.ldg.tallies.insert p t } }

/-- Add `n` records with these stamps to a tally. -/
def Tally.add (t : Tally) (n first last : Nat) : Tally :=
  if t.count = 0 then { t with count := n, first, last }
  else { t with count := t.count + n, first := min t.first first, last := max t.last last }

/-- Payload of the SUMMARY group of a tally (R294). -/
def Tally.summary (t : Tally) : List Byte :=
  leBytes 8 t.count ++ leBytes 8 t.first ++ leBytes 1 t.classes ++
  leBytes 1 (if t.atZero then 2 else if t.atLow then 1 else 3) ++ leBytes 3 0 ++ leBytes 8 t.last ++ leBytes 8 t.late

/-- Place the SUMMARY of a PATH with a non-zero tally, and clear the tally (R294). The group carries the PATH it
reports on. -/
def Dev.placeSummary (p : Nat) (d : Dev) : Dev :=
  let t := d.tally p
  if t.count = 0 then d
  else ((d.placeOwn p 0x02 t.summary).setTally p .zero).bump LDG.SUMMARY_COUNT

/-- A record of PATH `p` is placed at this number of free blocks, and not collapsed (R293). -/
def Dev.placeable (d : Dev) (p : Nat) : Bool :=
  0 < d.ldgFree && (p == 2 || (8 < d.ldgFree && !d.ldg.collapsed))

/-- A record collapses into its PATH's tally (R293). -/
def Dev.collapse (r : Rec) (d : Dev) : Dev :=
  let n := recordsOf r.payload
  let t := (d.tally r.path).add n r.coarse r.coarse
  d.setTally r.path
    { t with
      classes := setBitTo t.classes (r.typ / 16 % 8) true
      late := t.late + (if r.late then n else 0)
      atZero := t.atZero || d.ldgFree == 0
      atLow := t.atLow || d.ldgFree != 0 }

/-- What the merger does with a record whose turn has come (R293, R294); its LT tokens return. -/
def Dev.mergeRecord (r : Rec) (d : Dev) : Dev :=
  let n := recordsOf r.payload
  let d :=
    if d.placeable r.path then
      let d := d.placeSummary r.path
      if 0 < d.ldgFree then d.storeGroup r else d.collapse r
    else d.collapse r
  if r.path = 0 then d else d.give poolLT r.path n

/-- Place LDG's own waiting records, stamped F, in order (R284, R295). -/
def Dev.placeOwnWaiting (d : Dev) : Dev :=
  if d.ldgFree = 0 then
    { d with ldg := { d.ldg with ownFirst := d.ldg.ownFirst || !d.ldg.own.isEmpty } }
  else
    ({ d with ldg := { d.ldg with own := [], ownFirst := false } }).each d.ldg.own fun r d =>
      let d' := d.storeGroup { r with coarse := d.front, fine := 0, pseq := d.ldg.ownPseq }
      { d' with ldg := { d'.ldg with ownPseq := (d'.ldg.ownPseq + recordsOf r.payload) % 2 ^ 32 } }

/-! ### Arrival and release -/

/-- Insert a record behind those that precede it or tie with it (R284). -/
def insertRec (r : Rec) : List Rec → List Rec
  | [] => [r]
  | x :: xs =>
    if r.full < x.full || (r.full == x.full && decide (r.path < x.path)) then r :: x :: xs
    else x :: insertRec r xs

/-- Ascending by stamp, then PATH, then arrival. -/
def sortRecs (rs : List Rec) : List Rec := rs.foldl (fun acc r => insertRec r acc) []

/-- The merger still takes records: step 1 of the seal is not over (R299). -/
def Dev.merging (d : Dev) : Bool :=
  match d.ldg.sealSt with
  | .none => true
  | .merging since => decide (d.elapsed < since + msTclk)
  | .done => false

/-- LDG runs: a chain exists, CCLK runs and LDG is not held by a fault. -/
def Dev.ldgRuns (d : Dev) : Bool := d.ldg.chain && d.st != stDormant && !d.blockDown 0

/-- The overflow tally a record brings joins its PATH's tally (R334). -/
def Dev.takeOvf (r : Rec) (d : Dev) : Dev :=
  if r.ovf.1 = 0 then d else d.setTally r.path ((d.tally r.path).add r.ovf.1 r.ovf.2.1 r.ovf.2.2)

/-- A record reaches the merger (R285, R33, R299). -/
def Dev.arrive (r : Rec) (d : Dev) : Dev :=
  let n := recordsOf r.payload
  if !d.merging then (d.bumpBy LDG.POST_SEAL n).give poolLT r.path n
  else
    let d := d.takeOvf r
    if !d.ldg.chain then d.modLdg fun l => { l with held := l.held ++ [r] }
    else if r.nt then d.mergeRecord r
    else if r.full < 4096 * d.front then (d.bumpBy LDG.LATE_COUNT n).mergeRecord { r with late := true }
    else d.modLdg fun l => { l with held := l.held ++ [r] }

/-- The releases of one CCLK (R284, R293, R295). -/
def Dev.release (d : Dev) : Dev :=
  let d := if d.ldg.relAt = d.cclk then d else d.modLdg fun l => { l with relAt := d.cclk, relLen := l.cur.length }
  let d := if d.ldg.collapsed && 16 ≤ d.ldgFree then d.modLdg fun l => { l with collapsed := false } else d
  let d := if d.ldg.ownFirst then d.placeOwnWaiting else d
  let f := 4096 * d.front
  let held := d.ldg.held
  let go := held.filter fun r => r.nt || decide (r.full < f)
  let stay := held.filter fun r => !(r.nt || decide (r.full < f))
  let d := d.modLdg fun l => { l with held := stay }
  let d := d.each (sortRecs (go.filter fun r => !r.nt)) Dev.mergeRecord
  let d := d.each (go.filter fun r => r.nt) Dev.mergeRecord
  d.placeOwnWaiting

/-! ### Signatures (R288, R289) -/

/-- The SIGNATURE payload for a block (R288). -/
def Dev.signature (d : Dev) (b : Nat) (digest : List Byte) : List Byte :=
  let id := leBytes 8 (d.get LDG.CHAIN_ID)
  let msg := vyrs ++ id ++ leBytes 8 b ++ digest
  leBytes 8 b ++ id ++ [0, 0, 0] ++ (List.range 96).map (Config.ledgerSign msg) ++ List.replicate 18 0

/-- Sign the newest closed block of the chain, unless it is signed already (R289) or the ledger key row failed its check (R423). -/
def Dev.signNewest (d : Dev) : Dev :=
  match d.ldg.recent.getLast? with
  | some b =>
    if d.get LDG.NEXT_BLOCK = 0 || d.ldg.signed == some b.num || (d.get GLB.OTP_STATUS_ROW_ERR).testBit 1 then d
    else
      let d := d.modLdg fun l => { l with signWait := some (b.num, b.digest) }
      if d.ldgFree = 0 then d.put LDG.STATUS_SIGN_PENDING 1 else d
  | none => d

/-- A signing tick (R289). -/
def Dev.signTick (d : Dev) : Dev :=
  let d := d.modLdg fun l => { l with lastTick := d.elapsed }
  (d.closeTimed 16).signNewest

/-- Place the SIGNATURE group that waits (R289); with no free block it is deferred (R293). -/
def Dev.placeSignature (d : Dev) : Dev :=
  match d.ldg.signWait with
  | some (b, g) =>
    if d.ldgFree = 0 then d.put LDG.STATUS_SIGN_PENDING 1
    else
      let d := (d.placeOwn 0 0x01 (d.signature b g)).modLdg fun l => { l with signWait := none, signed := some b }
      (d.bump LDG.SIGN_COUNT).put LDG.STATUS_SIGN_PENDING 0
  | none => d

/-- A signature that was deferred is placed once a block is free (R289): after LDG's own waiting records and the SUMMARY groups
(R294, R295), over a block that holds every record placed up to then. DEDUCED (log 113): the block under construction closes for
it as at a signing tick. -/
def Dev.placeDeferred (d : Dev) : Dev :=
  if d.ldgFree = 0 then d
  else
    let d := d.placeOwnWaiting
    let d := d.each (allPaths.filter d.placeable) Dev.placeSummary
    ((d.closeBlock 16).signNewest).placeSignature

/-- The SIGNATURE group in preparation is ready (R289, R293). -/
def Dev.signatureReady (d : Dev) : Dev := if d.on LDG.STATUS_SIGN_PENDING then d.placeDeferred else d.placeSignature

/-! ### Chains -/

/-- A chain begins (R282). -/
def Dev.startChain (d : Dev) : Dev :=
  let id := (Config.chainDraw d.ldg.chains).toNat
  let d := ((d.put LDG.CHAIN_ID id).put LDG.NEXT_BLOCK 0).put LDG.NEXT_SEQ 0
  d.modLdg fun l =>
    { l with chain := true, chains := l.chains + 1, cur := [], curFirst := 0, curFlags := 1, prev := d.chainStart,
             closeDue := false, closeSign := false, signed := none, signWait := none, lastTick := d.elapsed,
             accepted := none, lost := none, recent := l.recent }

/-- Ledger blocks in DRAM are lost (R297): those the host has not accepted become one span. -/
def Dev.loseLedgerBlocks (bs rest : List Blk) (d : Dev) : Dev :=
  match bs.head?, bs.getLast? with
  | some a, some z =>
    let records := (bs.map fun b => b.count).sum
    let lost :=
      match d.ldg.lost with
      | some (f, _, q, n) => (f, z.num, q, n + records)
      | none => (a.num, z.num, a.firstSeq, records)
    { d with ldg := ({ d.ldg with dring := rest, lost := some lost }).span d.chainStart }
  | _, _ => d

/-- An FC1 reset of LDG (R296): records in the merger and in the block under construction are discarded, and the
chain goes on from the last closed block. Answers how many records were discarded, and the stamps of the first and last. -/
def Dev.resetLdg (d : Dev) : (Nat × Nat × Nat) × Dev :=
  let l := d.ldg
  let n := slotsOf l.held + slotsOf l.own + l.cur.length
  let stamps := (l.held ++ l.own).map (fun r => r.coarse) ++ l.cur.map fun s => ofLeBytes (s.take 8)
  let d := d.each l.held fun r => if r.path = 0 then id else Dev.give poolLT r.path (recordsOf r.payload)
  let d := d.put LDG.NEXT_SEQ l.curFirst
  ((n, stamps.foldl min (stamps.headD 0), stamps.foldl max 0), d.modLdg fun l =>
    { l with held := [], own := [], ownFirst := false, cur := [], relLen := 0, closeDue := false, closeSign := false,
             signWait := none })

end Sys2Proof.Machine
end

