-- ==== Sys2Proof/Machine/EngineOps.lean ====
section
/-! DEFINITION. Vector engines: fetch, issue, decision, start, and the ways a run ends or stops (R59 to R96, R101 to
R127). -/

namespace Sys2Proof.Machine

/-! ### States and addresses -/

/-- Engine states (R87). -/
abbrev seqIdle : Nat := 0
/-- A load is in progress. -/
abbrev seqLoading : Nat := 1
/-- RUNNING. -/
abbrev seqRunning : Nat := 2
/-- HOLDING. -/
abbrev seqHolding : Nat := 3
/-- PAUSED. -/
abbrev seqPaused : Nat := 4
/-- RESET. -/
abbrev seqReset : Nat := 5

/-- State of engine `n`. -/
def Dev.engState (d : Dev) (n : Nat) : Nat := d.get (SEQ.STATUS_STATE n)

/-- A change of an engine's state signals its MSI-X vector (R384). What calibration may do depends on it (R264, R272). -/
def Dev.engGo (n st : Nat) (d : Dev) : Dev :=
  if d.engState n = st then d
  else
    let d := if st = seqLoading then d.calStart n else d
    (((d.put (SEQ.STATUS_STATE n) st).signal (4 + n)).stateSignal d).smcBeginAll

/-- Address of microcode word `w` of engine `n` (R301). -/
def microAddr (n w : Nat) : Nat := 0x1C80000 + 0x58000 * n + 22 * w

/-- The fields of a microword (R60). -/
def MicroWord.ofNat (x : Nat) : MicroWord :=
  { next := bitsOf x 162 14, bop := bitsOf x 158 4, csel := bitsOf x 154 4, cntOp := bitsOf x 150 4
    cntImm := bitsOf x 134 16, rep := bitsOf x 118 16, tsel := bitsOf x 113 5, tsCommit := x.testBit 112
    vsrc := bitsOf x 108 4, vaddr := bitsOf x 84 24, smaskOp := bitsOf x 80 4, smaskImm := bitsOf x 64 16
    trig := bitsOf x 60 4, segStart := x.testBit 59, failOp := bitsOf x 56 3, capOp := bitsOf x 52 4
    stamp := bitsOf x 48 4, dacOp := bitsOf x 44 4, tiaOp := bitsOf x 40 4, atomic := x.testBit 39
    handoverOk := x.testBit 38, matchSel := bitsOf x 32 6, user := bitsOf x 0 32 }

/-- Microword `w` of engine `n` (R61). -/
def Mem.word (m : Mem) (n w : Nat) : MicroWord := MicroWord.ofNat (ofLeBytes (m.sramBytes (microAddr n w) 22))

/-- Stride of an engine's vectors in bytes (R102). -/
def strideOf (posCount : Nat) : Nat :=
  if posCount ≤ 16 then 8 else if posCount ≤ 32 then 16 else if posCount ≤ 64 then 32 else if posCount ≤ 128 then 64 else 128

/-- Position count of an engine. -/
def Dev.posCount (d : Dev) (n : Nat) : Nat := d.get (SEQ.CONFIG_POS_COUNT n)
/-- Stride of engine `n`. -/
def Dev.stride (d : Dev) (n : Nat) : Nat := strideOf (d.posCount n)

/-- Bytes of a granule of the vector cache (R106). -/
abbrev granule : Nat := 0x40000

/-- Start and size in bytes of the stream ring of an engine. -/
def Dev.ringRange (d : Dev) (n : Nat) : Nat × Nat :=
  (granule * d.get (SEQ.CACHE_PART_S_BASE n), granule * d.get (SEQ.CACHE_PART_S_GRAN n))
/-- Start and size in bytes of its pinned region. -/
def Dev.pinnedRange (d : Dev) (n : Nat) : Nat × Nat :=
  (granule * d.get (SEQ.CACHE_PART_P_BASE n), granule * d.get (SEQ.CACHE_PART_P_GRAN n))

/-- The symbols of a vector in memory, one a position (R102). -/
def Mem.symbols (m : Mem) (a posCount : Nat) : List Nat :=
  (List.range posCount).map fun p => bitsOf (Tab.get ramByte m.sram (a + p / 2)).toNat (4 * (p % 2)) 4

/-! ### Stream level (R113, R114) -/

/-- Lines of a buffer (R111). -/
def Buf.lines (b : Buf) (stride : Nat) : Nat := ceilDiv (b.vcount * stride) 64
/-- Vectors of a buffer wholly in the ring. -/
def Buf.inRing (b : Buf) (stride : Nat) : Nat := min b.vcount (64 * b.linesIn / stride)
/-- A buffer is wholly in the ring. -/
def Buf.whole (b : Buf) (stride : Nat) : Bool := b.lines stride ≤ b.linesIn
/-- Bytes of a buffer in the ring that are not yet issued. -/
def Buf.bytesIn (b : Buf) (stride : Nat) : Nat := min (64 * b.linesIn) (b.vcount * stride) - b.issued * stride

/-- STREAM_LEVEL (R114). -/
def Dev.streamLevel (d : Dev) (n : Nat) : Nat :=
  ((d.eng n).stream.bufs.map fun b => b.inRing (d.stride n) - b.issued).sum

/-- The host stream ring holds a descriptor the device has not fetched, or an accepted buffer is not wholly in the ring:
bit 3 of group STREAM is 0 (R114). -/
def Dev.streamAllIn (d : Dev) (n : Nat) : Bool :=
  ((d.eng n).stream.bufs.all fun b => b.whole (d.stride n)) &&
    (d.on (SEQ.STREAM_STATUS_DESC_ERR n) || d.get (HDMA.RING_HOST_PTR n) == d.get (HDMA.RING_DEV_PTR n))

/-! ### Sites (R70, R118, R119) -/

/-- The effective site mask for vectors issued now (R118). DESIGN CHOICE (log 100): at a decision point, too, the program mask
is that of the vectors already issued. -/
def Dev.effMask (d : Dev) (n : Nat) : Nat := (d.eng n).prog &&& d.get (SEQ.SITE_ENABLE n)

/-- The active sites of an engine (R70). -/
def Dev.activeSites (d : Dev) (n : Nat) : List Nat :=
  (d.carriedSites n).filter fun k => (d.effMask n).testBit k && !d.siteBit FCAP.DROP k

/-- What a channel of site `k` plays of symbol `sym` (R119); `idle` is the IDLE vector's symbol at its position. -/
def Dev.siteSymbol (d : Dev) (n mask drop k sym idle : Nat) : Nat :=
  let mode :=
    if drop.testBit k then some (d.get (SEQ.SITE_CFG_DROP_MODE n))
    else if !mask.testBit k then some (d.get (SEQ.SITE_CFG_MASK_MODE n))
    else none
  match mode with
  | none => sym
  | some 1 => asX idle
  | some 2 => 4
  | some _ => asX sym

/-- The IDLE vector's symbol at a position, as it plays (R121). -/
def EngSt.idleSym (e : EngSt) (p : Nat) : Nat := asX (e.idleVec.getD p 4)

/-! ### Conditions (R72, R78 to R80) -/

/-- Sites that pass the ALL_PASS test in the window (R72, R84). -/
def MatchSt.passes (m : MatchSt) (k : Nat) : Bool := m.compared.testBit k && !m.failed.testBit k

/-- Level of a trigger line as a decision sees it: the sample at T − 104, 40 TCLK before the decision point (R79). -/
def Dev.trigSeen (d : Dev) (n : Nat) : Bool := (d.line n).levelAt (d.elapsed - 40)

/-- The measurement that field `k` of TIA_SEL names. -/
def Dev.tiaNamed (d : Dev) (n k : Nat) : Nat := bitsOf (d.get (SEQ.TIA_SEL n)) (8 * k) 8

/-- Monitor line `k` of an engine (R80). -/
def Dev.monSel (d : Dev) (n k : Nat) : Bool :=
  let x := bitsOf (d.reg (SEQ.MON_SEL_K0 n).addr).toNat (8 * k) 8
  x.testBit 7 && (List.range 16).any fun s => d.monLine (16 * (x % 16) + s) (bitsOf x 4 2)

/-- Hottest junction reading in 1/16 °C. -/
def Dev.hottest (d : Dev) : Int :=
  ((List.range 16).map fun i => signedOf 16 (d.get (GOV.TJ i))).foldl max (signedOf 16 (d.get (GOV.TJ 0)))

/-- Bits of a number from a list of truth values, bit 0 first. -/
def bitsFrom (l : List Bool) : Nat := maskOf ((l.zipIdx.filter fun (b, _) => b).map (·.2))

/-- A condition group but MATCH (R78). -/
def Dev.condBase (d : Dev) (n g : Nat) : Nat :=
  let e := d.eng n
  let act := d.activeSites n
  let segf (k : Nat) : Bool := d.siteBit FCAP.SEGF k
  let tia (f : Fld) : Nat := bitsFrom ((List.range 4).map fun k => (d.get f).testBit (d.tiaNamed n k))
  let units (s : Nat) : List Nat := (List.range 8).filter s.testBit
  let setA := units (d.get (SEQ.CAP_SET_SET_A n))
  let setB := units (d.get (SEQ.CAP_SET_SET_B n))
  match g with
  | 0 => 1
  | 1 => bitsFrom (e.regs.cnt.map (· == 0))
  | 2 =>
    bitsFrom [act.any segf, !act.isEmpty && act.all segf, (d.engSites n).any fun k => d.siteBit FCAP.DROP k,
      act.any fun k => e.newf.testBit k]
  | 3 => bitsFrom [!act.any segf, act.any fun k => !segf k, act.isEmpty]
  | 5 =>
    let l := d.streamLevel n
    bitsFrom [l ≤ d.get (SEQ.STREAM_LOWWATER n), l == 0, e.eosDone, d.streamAllIn n]
  | 6 => bitsFrom ((List.range 4).map d.trigSeen)
  | 7 => bitsFrom ((List.range 4).map fun i => d.trigSeen (4 + i))
  | 8 => bitsFrom ((List.range 4).map (d.monSel n))
  | 9 => d.get (SEQ.SW_FLAGS n)
  | 10 => tia TIA.DONE
  | 11 => tia TIA.TMO
  | 12 =>
    let allDone (s : List Nat) : Bool := !s.isEmpty && s.all fun u => d.on (AQ.STATUS_POST_DONE u)
    bitsFrom [allDone setA, allDone setB,
      (setA ++ setB).any fun u => d.on (AQ.STATUS_SUPP u)]
  | 13 => d.spareCond n
  | 14 => bitsFrom ((List.range 4).map fun m => d.engState m != seqIdle)
  | 15 => bitsFrom [decide (105 * 16 ≤ d.hottest), d.get GOV.STATE_ACTIONS != 0 || d.on GOV.STATE_THERM_HOLD]
  | _ => 0

/-- The match condition of a word (R72). DESIGN CHOICE (log 101): in a word that is not WAIT_MATCH, codes 0x00 to 0x02 judge the
compares that the last WAIT_MATCH word has left since the last decision. -/
def Dev.matchTrue (d : Dev) (n sel : Nat) : Bool :=
  let m := (d.eng n).mat
  let act := d.activeSites n
  match sel with
  | 0 => act.all m.passes
  | 1 => act.any m.passes
  | 2 => act.all fun k => m.latched.testBit k
  | s => if s < 0x18 then d.trigSeen (s - 0x10) else (d.condBase n (s - 0x20)).testBit 0

/-- The condition group a word selects (R78). -/
def Dev.cond (d : Dev) (n : Nat) (w : MicroWord) : Nat :=
  if w.csel = 4 then
    let m := (d.eng n).mat
    let act := d.activeSites n
    bitsFrom [d.matchTrue n w.matchSel, (d.eng n).timeoutBit, act.any fun k => m.latched.testBit k,
      act.all fun k => m.latched.testBit k]
  else d.condBase n w.csel

/-! ### The resume record (R95) -/

/-- RES_EFFECTS at an instant: the first-play effects of the word in play have acted; the decision effects where `done`. -/
def resEffects (started done : Bool) : Nat := (if started then 0xFF else 0) + (if done then 0x300 else 0)

/-- The engine's resume registers take what stands at the landing instant `at_`, with a cause (R95). `ended`: the vector in
play has ended, and with it its word where it was the last play. DESIGN CHOICE (log 102): an abort before the first vector
gives PC = START_ADDR, and PLAYED, RES_EFFECTS and VEC 0. -/
def Dev.captureRes (n cause : Nat) (ended : Bool) (at_ : Nat) (d : Dev) : Dev :=
  let e := d.eng n
  let p := e.play
  let done := (ended || e.stopped) && (match p with | some p => p.last | none => false)
  let pc := match p with | some p => p.addr | none => d.get (SEQ.START_ADDR n)
  let a := e.arch
  let next := match e.issued, e.after with | q :: _, _ => some q.word.atomic | [], _ => none
  let inAtomic := match p with | some p => p.word.atomic && (!done || next == some true) | none => false
  let d := ((((d.put (SEQ.RES_INFO_PC n) pc).put (SEQ.RES_INFO_DEPTH n) a.stack.length).put (SEQ.RES_INFO_TS n) e.lastTs).put
    (SEQ.RES_INFO_ATOMIC n) (bit inAtomic)).put (SEQ.RES_INFO_CAUSE n) cause
  let d := d.put (SEQ.RES_PLAYED n) (match p with | some p => p.idx + 1 | none => 0)
  let c (i : Nat) : Nat := a.cnt.getD i 0
  let d := (((d.put (SEQ.RES_CNT_CLO n 0) (c 0)).put (SEQ.RES_CNT_CHI n 0) (c 1)).put (SEQ.RES_CNT_CLO n 1) (c 2)).put
    (SEQ.RES_CNT_CHI n 1) (c 3)
  let d := d.each (List.range 8) fun k => Dev.put (SEQ.RES_STACK n k) (a.stack.getD k 0)
  let d := (((d.put (SEQ.RES_MASK n) e.mask).put (SEQ.RES_VEC n) (match p with | some p => p.vec | none => 0)).put
    (SEQ.RES_STAMP n) at_).setReg (SEQ.RES_EFFECTS_FIRST n).addr (BitVec.ofNat 32 (resEffects p.isSome done))
  d.put (SEQ.STATUS_RES_VALID n) 1

/-- Payload of the ABORT group: the resume registers (R279). -/
def Dev.resPayload (d : Dev) (n : Nat) : List Byte :=
  let dw (a : Nat) : List Byte := leBytes 4 (d.reg a).toNat
  dw (SEQ.RES_INFO_PC n).addr ++ dw (SEQ.RES_PLAYED n).addr ++ dw (SEQ.RES_CNT_CLO n 0).addr ++
  dw (SEQ.RES_CNT_CLO n 1).addr ++ ((List.range 8).flatMap fun k => leBytes 2 (d.get (SEQ.RES_STACK n k))) ++
  leBytes 8 (d.get (SEQ.RES_MASK n)) ++ leBytes 8 (d.get (SEQ.RES_VEC n)) ++
  leBytes 2 (d.reg (SEQ.RES_EFFECTS_FIRST n).addr).toNat

/-! ### Flush (R116, R117) -/

/-- Vectors that a flush discards: those of accepted buffers not yet issued. -/
def Dev.streamDiscards (d : Dev) (n : Nat) : Nat := ((d.eng n).stream.bufs.map fun b => b.vcount - b.issued).sum

/-- The device's pointer of a ring advances by `k`; its writeback falls due (R373). -/
def Dev.advanceRing (r k : Nat) (d : Dev) : Dev :=
  if k = 0 then d
  else
    let d := d.put (HDMA.RING_DEV_PTR r) ((d.get (HDMA.RING_DEV_PTR r) + k) % 2 ^ 32)
    { d with host := { d.host with wbDue := setBitTo d.host.wbDue r true } }

/-- The ring is emptied and its descriptors discarded, with a STREAM_FLUSH record (R116); CI moves past them
(R375). -/
def Dev.streamFlush (n : Nat) (keepPos : Bool) (d : Dev) : Dev :=
  let old := d.get (SEQ.STREAM_POS n)
  let gone := d.streamDiscards n
  let back := ((d.eng n).stream.bufs.filter fun b => !b.past).length
  let d := d.advanceRing n back
  let d := d.modEng n fun e => { e with stream := { StreamSt.reset with posStale := keepPos }, eosIn := false, eosDone := false }
  let d := d.put (SEQ.STREAM_STATUS_DESC_ERR n) 0
  let d := if keepPos then d else d.put (SEQ.STREAM_POS n) 0
  d.emit (0x10 + n) 0x2C (leBytes 8 old ++ leBytes 8 gone)

/-! ### Ends of a run (R89, R94, R122) -/

/-- The physical channels that carry an engine's mapped channels. -/
def Dev.engPins (d : Dev) (n : Nat) : List Nat := (d.engChans n).map d.physOf

/-- The abort state becomes the channel's state proper: START follows an abort (R94, R105). -/
def Dev.leaveAbort (p : Nat) (d : Dev) : Dev :=
  match d.pinGet PINB.CFG_ABORT_STATE p with
  | 0 => d
  | 2 => d.modPin p fun s => { s with out := .term }
  | _ => d.modPin p fun s => { s with out := .off }

/-- The drive request that a channel's output amounts to, for a K that follows (R105). -/
def PinSt.asReq (s : PinSt) : Nat :=
  match s.out with
  | .off => 4
  | .term => 9
  | .drive => if s.latch then 1 else 0

/-- The word in play has ended: counters, stack and STATUS.DEPTH take what its decision left (R76). -/
def Dev.landDecision (n : Nat) (d : Dev) : Dev :=
  let d := d.modEng n fun e => { e with arch := e.regs }
  d.put (SEQ.STATUS_DEPTH n) (d.eng n).arch.stack.length

/-- An abort lands with a cause (R94, R95, R117). `ended`: the vector in play has ended with it, as at an under-run. -/
def Dev.engAbort (n cause : Nat) (ended : Bool) (d : Dev) : Dev :=
  let st := d.engState n
  if st = seqRunning || st = seqHolding || st = seqPaused then
    let d := if ended && !(d.eng n).stopped then d.landDecision n else d
    let d := d.captureRes n cause ended d.now
    let d := d.each allPins fun p d =>
      let s := d.pin p
      if s.edges.any (fun e => e.eng == n) || s.cmps.any (fun c => c.eng == n) then
        d.modPin p fun s => { s with edges := s.edges.filter fun e => e.eng != n, cmps := s.cmps.filter fun c => c.eng != n }
      else d
    let d := d.modEng n fun e =>
      { e with issued := [], play := none, after := .idle, under := none, hold := none, holdDue := none, stopped := false, abortReq := none, aborted := true
               thermal := false, idleNext := none }
    let d := d.modTset n fun t => { t with view := t.active }
    let d := ((d.engGo n seqIdle).put (SEQ.STATUS_LAST_END n) 2).put (SEQ.STATUS_PAUSE_PENDING n) 0
    let d := d.emit (0x10 + n) 0x29 (d.resPayload n)
    ((d.streamFlush n true).fcapEnd n).smcEngineAbort n
  else d

/-- The cause of an abort that is on its way (R20, R94). The earliest request decides. -/
def Dev.requestAbort (n cause : Nat) (d : Dev) : Dev :=
  let st := d.engState n
  if st = seqRunning || st = seqHolding || st = seqPaused then
    d.modEng n fun e => { e with abortReq := some (e.abortReq.getD cause) }
  else d

/-- END_STATE acts on an idle engine's channels (R122). -/
def Dev.applyEndState (n from_ : Nat) (d : Dev) : Dev :=
  if (d.eng n).aborted || !(d.eng n).started || d.engState n ≠ seqIdle then d
  else
    match d.get (SEQ.IDLE_CFG_END_STATE n) with
    | 1 =>
      let d := d.each (d.engPins n) fun p d => d.modPin p fun s => { s with edges := [], out := .off, req := 4 }
      d.modEng n fun e => { e with idleNext := none, idleStop := false }
    | 2 => d.modEng n fun e => { e with idleNext := some (e.idleNext.getD from_) }
    | _ => d.modEng n fun e => { e with idleNext := none, idleStop := false }

/-- The program has ended (R89). -/
def Dev.programEnd (n : Nat) (d : Dev) : Dev :=
  match (d.eng n).after with
  | .halt allDrop =>
    if d.engState n ≠ seqRunning || !(d.eng n).issued.isEmpty then d
    else
      let d := d.until (d.gridElapsed (d.eng n).earliest)
      let b := (d.eng n).earliest
      let d := (d.landDecision n).modEng n fun e => { e with play := none, after := .idle, abortReq := none, holdDue := none }
      let d := ((d.engGo n seqIdle).put (SEQ.STATUS_LAST_END n) (if allDrop then 3 else 1)).put (SEQ.STATUS_PAUSE_PENDING n) 0
      let d := d.emit (0x10 + n) 0x21
        (leBytes 2 (if allDrop then 3 else 1) ++ leBytes 8 (d.get (SEQ.PROG_ID n)) ++ leBytes 8 (d.get (SEQ.VEC_NUM n)))
      (d.fcapEnd n).applyEndState n b
  | _ => d

/-! ### Issue (R14, R118 to R120) -/

/-- Program mask after a word's SMASK_OP (R69). -/
def smaskApply (mask op imm : Nat) : Nat :=
  let s := op / 4
  let old := bitsOf mask (16 * s) 16
  let new :=
    match op % 4 with
    | 0 => old ||| imm
    | 1 => imm
    | 2 => old &&& imm
    | _ => old &&& (0xFFFF - imm)
  mask - old * 2 ^ (16 * s) + new * 2 ^ (16 * s)

/-- The sets a word's vectors play with: a TS_COMMIT takes the shadow as it stands (R137). -/
def TsetSt.forWord (t : TsetSt) (commit : Bool) : TsetCopy := if commit then t.before.getD t.shadow else t.view

/-- The start of the vector that is due, and the sets it plays with (R129, R131). -/
def Dev.nextStart (m : Mem) (n : Nat) (t : Todo) (d : Dev) : Nat × TsetCopy :=
  let w := m.word n t.addr
  let c := (d.tset n).forWord (t.first && w.tsCommit)
  (gridAt (d.get (TSET.ORIGIN n)) (c.period w.tsel) (d.eng n).earliest, c)

/-- What fetching a vector yields. -/
inductive Fetch where
  | ok (syms : List Nat)
  | illegal                        -- outside the pinned region (R109)
  | bad                            -- an uncorrectable error in its line (R110)
deriving DecidableEq, Repr

/-- Bytes of the vector cache overlap a span in error. -/
def Dev.cacheSpoilt (d : Dev) (a len : Nat) : Bool :=
  d.hks.cacheBad.any fun (o, l) => decide (a < o + l) && decide (o < a + len)

/-- Fetch the vector of a play (R68, R108). DESIGN CHOICE (log 99): SAME before any vector has played since START plays X at
every position. -/
def Dev.fetchVector (m : Mem) (n : Nat) (w : MicroWord) (idx : Nat) (d : Dev) : Fetch :=
  let e := d.eng n
  let stride := d.stride n
  let pos := d.posCount n
  match w.vsrc with
  | 2 => .ok ((List.range pos).map fun p => e.lastSyms.getD p 4)
  | 5 => .ok ((List.range pos).map fun p => asX (e.idleVec.getD p 4))
  | 3 => pinned m d stride pos w.vaddr
  | 4 => pinned m d stride pos (w.vaddr + idx)
  | _ =>
    let (base, size) := d.ringRange n
    let head := e.stream.head % max 1 size
    if d.cacheSpoilt (base + head) stride then .bad else .ok (m.symbols (base + head) pos)
where
  /-- A pinned vector. -/
  pinned (m : Mem) (d : Dev) (stride pos v : Nat) : Fetch :=
    let (base, size) := d.pinnedRange n
    if size < (v + 1) * stride then .illegal
    else if d.cacheSpoilt (base + v * stride) stride then .bad
    else .ok (m.symbols (base + v * stride) pos)

/-- The data address from which a play's vector is read, where it comes from the vector cache. -/
def Dev.fetchAddr (d : Dev) (n : Nat) (w : MicroWord) (idx : Nat) : Option Nat :=
  match w.vsrc with
  | 2 => none
  | 5 => none
  | 3 => some ((d.pinnedRange n).1 + w.vaddr * d.stride n)
  | 4 => some ((d.pinnedRange n).1 + (w.vaddr + idx) * d.stride n)
  | _ => some ((d.ringRange n).1 + (d.eng n).stream.head % max 1 (d.ringRange n).2)

/-- A consumer of on-chip SRAM meets a correctable error: it is corrected, counted and reported (R305). -/
def Dev.sramCorrected (region block a : Nat) (d : Dev) : Dev :=
  (d.bump (HKS.SRAM_CE region)).noticeOf ⟨0x3001, block, block, 5, a, 0, false⟩ (leBytes 8 a)

/-- It meets an uncorrectable one in a region that R305 makes FC1. -/
def Dev.sramUncorrected (region block a : Nat) (d : Dev) : Dev :=
  (d.bump (HKS.SRAM_UE region)).alarm ⟨0x1002, block, block, 5, a, region, false⟩

/-- The head of the stream moves past one vector: its buffer's record when it was the last (R111, R114), and the
end of the stream on MSI-X (R383). -/
def Dev.streamTake (n : Nat) (d : Dev) : Dev :=
  let stride := d.stride n
  let (_, size) := d.ringRange n
  match (d.eng n).stream.bufs with
  | [] => d
  | b :: rest =>
    let b' := { b with issued := b.issued + 1 }
    let fin := b.vcount ≤ b'.issued
    let head := ((d.eng n).stream.head + stride) % max 1 size
    let d := d.modEng n fun e =>
      { e with stream := { e.stream with bufs := if fin then rest else b' :: rest, head }, eosDone := e.eosDone || (fin && b.eos) }
    let d := d.when (fin && b.eos) (Dev.signal (4 + n))
    if fin then d.emit (0x10 + n) 0x2B (b.tag.toNat |> leBytes 8 |> (· ++ leBytes 4 b.seq ++ leBytes 4 b.vcount)) else d

/-- The comparators of an engine's banks that the governor lowered return to their configured mode (R164). -/
def Dev.returnComparators (n : Nat) (d : Dev) : Dev :=
  d.each ((d.engBanks n).flatMap bankPins) fun p d =>
    if (d.pin p).lowered then
      (d.modPin p fun s => { s with lowered := false }).startSettle p (d.pinGet PINB.CFG_CMP_SPEED p) none
    else d

/-- Every channel of the engine schedules its symbol; answers the edges out of range and the clamped channels. -/
def Dev.scheduleAll (v : VecCtx) (syms : List Nat) (only : Nat → Bool) (d : Dev) :
    List (Nat × Nat) × List Nat × Dev :=
  (d.engChans v.eng).foldl (fun (acc : List (Nat × Nat) × List Nat × Dev) c =>
    let d := acc.2.2
    let pos := d.chanPos c
    if !only pos then acc
    else
      let sym := syms.getD pos 4
      let sym := if sym = 11 then 4 else sym
      let idle := (d.eng v.eng).idleSym pos
      let sym := d.siteSymbol v.eng v.mask v.drop (d.chanSite c) sym (if idle = 11 then 4 else idle)
      let p := d.physOf c
      let x := d.schedule v p c sym
      let d := d.addSched p x
      let d := if sym = 4 then d else d.modPin p fun s => { s with idleSince := d.elapsed }
      (if x.ranged = 0 then acc.1 else acc.1 ++ [(c, x.ranged)], if x.clamped = 0 then acc.2.1 else acc.2.1 ++ [c], d))
    ([], [], d)

/-- The last vector issued and the one due both belong to atomic words: no pause may land between them (R92). -/
def Dev.insideAtomic (m : Mem) (n : Nat) (t : Todo) (d : Dev) : Bool :=
  let prev := match (d.eng n).issued.getLast?, (d.eng n).play with
    | some p, _ => p.word.atomic
    | none, some p => p.word.atomic
    | none, none => false
  prev && (m.word n t.addr).atomic

/-- The vector that is due is issued at `start`, with these sets and symbols. DESIGN CHOICE (log 103): a 0xB of the IDLE vector
that only a masked or dropped-out site plays is not counted in SYMBOL_ERR. -/
def Dev.issueVector (m : Mem) (n : Nat) (t : Todo) (start : Nat) (sets : TsetCopy) (syms : List Nat) (d : Dev) : Dev :=
  let w := m.word n t.addr
  let e := d.eng n
  let stream := w.vsrc ≤ 1
  let d := if stream then d.streamTake n else d
  let newSeg := t.first && w.segStart
  let d := if newSeg then d.dropPending n else d
  let d := if w.failOp.testBit 0 then d.returnComparators n else d
  let d := if w.handoverOk then d.calCommit n (d.gridElapsed start) else d
  let prog := if t.first then smaskApply e.prog w.smaskOp w.smaskImm else e.prog
  let seg := if newSeg then e.seg + 1 else e.seg
  let mat : MatchSt :=
    if t.first && w.bop = 12 then { MatchSt.none with from_ := e.vec, since := stepOf start + d.stepShift } else e.mat
  let d := d.modEng n fun e => { e with prog, seg, mat }
  let d := if t.first && w.tsCommit then d.modTset n fun x => { x with view := sets } else d
  let mask := d.effMask n
  let drop := d.dropMask n
  let period := sets.period w.tsel
  let v : VecCtx := { eng := n, start, period, sets, ts := w.tsel, vec := e.vec, seg, word := w, mask, drop }
  let (ranged, clamped, d) := d.scheduleAll v syms (fun _ => true)
  let last := w.rep ≤ t.idx
  let symErr := (syms.zipIdx.filter fun (s, _) => s == 11).map (·.2)
  let p : Play :=
    { addr := t.addr, word := w, idx := t.idx, first := t.first, last, start, vec := e.vec, seg, stream
      progMask := prog, commit := if t.first && w.tsCommit then some sets else none
      shadow := if t.first && w.dacOp ≠ 0 then some d.regs else none
      symErr, ranged, clamped, arch := if t.idx = 0 then some e.regs else none }
  (d.put (SEQ.SITE_MASK n) mask).modEng n fun e =>
    { e with
      issued := e.issued ++ [p], vec := e.vec + 1, lastSyms := syms, earliest := start + period
      after := if last then .decide else .issue ⟨t.addr, t.idx + 1, false⟩ }

/-- VECTOR_ISSUE: the vector that is due is issued 64 TCLK ahead of its start, or an under-run or an illegal fetch is found
(R14, R109, R123). `errors` bytes of the line fetched are in error: it is corrected and reported, or not used (R110, R303). -/
def Dev.vectorIssue (m : Mem) (n errors : Nat) (d : Dev) : Dev :=
  match (d.eng n).after with
  | .issue t =>
    if d.engState n ≠ seqRunning || (d.eng n).under.isSome || (d.eng n).abortReq.isSome then d
    else if d.on (SEQ.STATUS_PAUSE_PENDING n) && !d.insideAtomic m n t then d
    else
      let (start, _) := d.nextStart m n t
      let d := d.until (d.gridElapsed start - 64)
      let (start, sets) := d.nextStart m n t
      let w := m.word n t.addr
      if w.vsrc ≤ 1 && d.streamLevel n = 0 then
        let d := d.modEng n fun e => { e with under := some start }
        if w.vsrc = 1 then d.requestAbort n 3
        else if d.get (SEQ.HOLD_LIMIT n) = 0 then d.requestAbort n 4
        else d
      else
        match d.fetchVector m n w t.idx, d.fetchAddr n w t.idx with
        | .illegal, _ => (d.requestAbort n 5).fault 0x1003 (0x10 + n)
        | .bad, a => (d.requestAbort n 5).sramUncorrected 0 (0x10 + n) (a.getD 0)
        | .ok syms, none => d.issueVector m n t start sets syms
        | .ok syms, some a =>
          if errors = 0 then d.issueVector m n t start sets syms
          else if errors ≤ 3 then (d.sramCorrected 0 (0x10 + n) a).issueVector m n t start sets syms
          else (d.requestAbort n 5).sramUncorrected 0 (0x10 + n) a
  | _ => d

/-! ### Decision (R62 to R67, R78 to R86) -/

/-- Step of a counter. -/
def SeqRegs.setCnt (r : SeqRegs) (i v : Nat) : SeqRegs := { r with cnt := r.cnt.set i v }

/-- CNT_OP (R65). -/
def SeqRegs.count (r : SeqRegs) (w : MicroWord) : SeqRegs :=
  let i := w.cntOp / 4
  let c := r.cnt.getD i 0
  match w.cntOp % 4 with
  | 0 => r
  | 1 => r.setCnt i w.cntImm
  | 2 => r.setCnt i (c - 1)
  | _ => r.setCnt i (min 0xFFFF (c + 1))

/-- What a decision does. -/
inductive Decision where
  | go (addr : Nat) (r : SeqRegs)
  | again (r : SeqRegs)            -- another pass of a WAIT_MATCH word
  | timeout (addr : Nat)
  | leave (addr : Nat)             -- a match
  | halt
  | stack                          -- an illegal call or return (R64)
deriving DecidableEq, Repr

/-- BOP under a condition (R62, R63, R83). -/
def decideBop (w : MicroWord) (pc cond : Nat) (r : SeqRegs) (matched : Bool) : Decision :=
  let inc := (pc + 1) % 16384
  let c0 := cond.testBit 0
  let call : Decision := if 8 ≤ r.stack.length then .stack else .go w.next { r with stack := r.stack ++ [inc] }
  match w.bop with
  | 0 => .go inc r
  | 1 => .go w.next r
  | 2 => .go (if c0 then w.next else inc) r
  | 3 => .go (if c0 then inc else w.next) r
  | 4 => call
  | 5 => if c0 then call else .go inc r
  | 6 =>
    match r.stack.getLast? with
    | some a => .go a { r with stack := r.stack.dropLast }
    | none => .stack
  | 7 => .go (w.next ||| cond % 16) r
  | 12 =>
    let i := w.cntOp / 4
    let c := r.cnt.getD i 0
    if matched then .leave inc else if c = 0 then .timeout w.next else .again (r.setCnt i (c - 1))
  | 13 => .halt
  | 14 => if c0 then .halt else .go inc r
  | b =>
    let i := b - 8
    let c := r.cnt.getD i 0
    if b < 12 && c ≠ 0 then .go w.next (r.setCnt i (c - 1)) else .go inc r

/-- The play that a decision belongs to: the last one issued. -/
def EngSt.lastPlay (e : EngSt) : Option Play := match e.issued.getLast? with | some p => some p | none => e.play

/-- The sites that a timeout charges (R86). -/
def Dev.unmatched (d : Dev) (n sel : Nat) : List Nat :=
  let m := (d.eng n).mat
  match sel with
  | 0 => (d.activeSites n).filter fun k => !m.passes k
  | 1 => (d.activeSites n).filter fun k => !m.passes k
  | 2 => (d.activeSites n).filter fun k => !m.latched.testBit k
  | _ => []

/-- The engine's decision side goes on to an address. -/
def Dev.goTo (n addr : Nat) (r : SeqRegs) (d : Dev) : Dev :=
  d.modEng n fun e => { e with regs := r, after := .issue ⟨addr, 0, true⟩ }

/-- Under ALL_LATCHED a site latches at the first decision at which it passes (R85). -/
def Dev.latchSites (n : Nat) (w : MicroWord) (d : Dev) : Dev :=
  if w.bop = 12 && w.matchSel = 2 then
    let pass := maskOf ((d.activeSites n).filter (d.eng n).mat.passes)
    d.modEng n fun e => { e with mat := { e.mat with latched := e.mat.latched ||| pass } }
  else d

/-- The outcome of the decision of play `p`, under the conditions as they stand. -/
def Dev.outcome (d : Dev) (n : Nat) (p : Play) : Decision :=
  let w := p.word
  let d := d.latchSites n w
  decideBop w p.addr (d.cond n w) (d.eng n).regs (d.matchTrue n w.matchSel)

/-- Start of the vector that a decision selects (R79); where it selects none, the end of the last play. -/
def Dev.selected (m : Mem) (n : Nat) (p : Play) (x : Decision) (d : Dev) : Nat :=
  match x with
  | .go a _ => (d.nextStart m n ⟨a, 0, true⟩).1
  | .leave a => (d.nextStart m n ⟨a, 0, true⟩).1
  | .timeout a => (d.nextStart m n ⟨a, 0, true⟩).1
  | .again _ => (d.nextStart m n ⟨p.addr, 0, false⟩).1
  | _ => (d.eng n).earliest

/-- DECISION_POINT (R66, R83 to R86, R89), 64 TCLK before the start of the vector that it selects (R79). DEDUCED (log 107): where
that vector has another period, the conditions are judged once more at its own decision point, and that judgement holds. -/
def Dev.decisionPoint (m : Mem) (n : Nat) (d : Dev) : Dev :=
  match (d.eng n).after, (d.eng n).lastPlay with
  | .decide, some p =>
    if d.engState n ≠ seqRunning then d
    else
      let d := d.until (d.gridElapsed (d.eng n).earliest - 64)
      let d := d.until (d.gridElapsed (d.selected m n p (d.outcome n p)) - 64)
      let w := p.word
      let res := d.outcome n p
      let d := d.latchSites n w
      let r := (d.eng n).regs
      let halting := match res with | .halt => true | _ => false
      if !halting && d.on (SEQ.CONFIG_ALLDROP_HALT n) && !w.atomic && (d.activeSites n).isEmpty then
        d.modEng n fun e => { e with after := .halt true }
      else
        let d := match res with
          | .go a r => d.goTo n a (r.count w)
          | .again r => d.modEng n fun e => { e with regs := r, after := .issue ⟨p.addr, 0, false⟩ }
          | .leave a => (d.goTo n a r).modEng n fun e => { e with timeoutBit := false }
          | .timeout a =>
            let ks := d.unmatched n w.matchSel
            let d := (d.goTo n a r).modEng n fun e => { e with timeoutBit := true }
            d.each ks fun k => Dev.chargeTimeout n k p.vec p.seg w
          | .halt => d.modEng n fun e => { e with regs := r.count w, after := .halt false }
          | .stack => (d.requestAbort n 6).fault 0x1003 (0x10 + n)
        d.modEng n fun e => { e with newf := 0, mat := { e.mat with compared := 0, failed := 0 } }
  | _, _ => d

/-! ### Start of a vector (R73 to R77, R81) -/

/-- A new segment begins (R77, R81). -/
def Dev.segmentStart (n : Nat) (p : Play) (d : Dev) : Dev :=
  let e := d.eng n
  let old := d.get (SEQ.SEG_NUM n)
  let d :=
    if e.segBegun then
      d.emit (0x10 + n) 0x24 (leBytes 4 old ++ leBytes 8 (p.vec - 1) ++ leBytes 4 e.segUser)
    else d
  let d := d.put (SEQ.SEG_NUM n) p.seg
  let d := d.emit (0x10 + n) 0x23 (leBytes 4 p.seg ++ leBytes 8 p.vec ++ leBytes 4 p.word.user)
  let d := d.modEng n fun e => { e with segBegun := true, segUser := p.word.user, firsts := 0 }
  let d := d.each (d.engSites n) fun k => Dev.putSiteBit FCAP.SEGF k false
  let d := d.each (e.segAhead.filter fun (g, _) => g == p.seg) fun (_, k) => Dev.putSiteBit FCAP.SEGF k true
  d.modEng n fun e => { e with segAhead := e.segAhead.filter fun (g, _) => decide (p.seg < g) }

/-- Acquisition units of a set. -/
def unitsOf (s : Nat) : List Nat := (List.range 8).filter s.testBit

/-- CAP_OP (R73). -/
def Dev.capOp (n op stamp : Nat) (d : Dev) : Dev :=
  let a := unitsOf (d.get (SEQ.CAP_SET_SET_A n))
  let b := unitsOf (d.get (SEQ.CAP_SET_SET_B n))
  let trig (l : List Nat) (d : Dev) : Dev := d.each l fun u => Dev.aqTrigger u 1 (stamp : Int) 4096
  match op with
  | 0 => d
  | 1 => d.each a Dev.aqArm
  | 2 => trig a d
  | 3 => d.each a Dev.aqDisarm
  | 4 => d.each b Dev.aqArm
  | 5 => trig b d
  | 6 => d.each b Dev.aqDisarm
  | 7 => d
  | o => trig [o - 8] d

/-- TIA_OP (R73). -/
def Dev.tiaOp (n op : Nat) (d : Dev) : Dev :=
  match op with
  | 0 => d
  | 9 => d.each (List.range 4) fun k => Dev.tiaByName n k true
  | 10 => d.each (List.range 4) fun k => Dev.tiaByName n k false
  | o => if o ≤ 4 then d.tiaByName n (o - 1) true else if o ≤ 8 then d.tiaByName n (o - 5) false else d

/-- DAC_OP as a set of load strobe groups (R73). -/
def dacGroups (op : Nat) : Nat := if op = 1 then 0xFF else if 8 ≤ op then 2 ^ (op - 8) else 0

/-- The first-play effects of a word, in their order (R76, R77). -/
def Dev.firstEffects (n : Nat) (p : Play) (d : Dev) : Dev :=
  let w := p.word
  let d :=
    match p.commit with
    | some c => (d.modTset n fun t => { t with active := c }).bump (TSET.COMMIT_COUNT n)
    | none => d
  let d := if w.segStart then d.segmentStart n p else d
  let d := d.modEng n fun e => { e with mask := p.progMask }
  let d := if w.stamp = 0 then d else d.emit (0x10 + n) 0x22 (leBytes 1 w.stamp ++ leBytes 8 p.vec ++ leBytes 2 p.addr)
  let d :=
    if w.segStart && d.on (SEQ.SEG_TRIG_EN n) then d.trigFromEngine n p.addr (d.get (SEQ.SEG_TRIG_LINE n)) else d
  let d := if 8 ≤ w.trig then d.trigFromEngine n p.addr (w.trig - 8) else d
  let d := d.capOp n w.capOp (16 * stepOf p.start)
  let d := if w.dacOp = 0 then d else d.strobe (dacGroups w.dacOp) (p.shadow.getD d.regs)
  d.tiaOp n w.tiaOp

/-- Counts of what the vector's scheduling found (R103, R142, R144). -/
def Dev.playCounts (n : Nat) (p : Play) (d : Dev) : Dev :=
  let d := d.each p.symErr fun pos d => (d.bump (SEQ.SYMBOL_ERR n)).firstEvent n 0 p.vec pos
  let d := d.each p.ranged fun (c, k) d => (d.bumpBy (TSET.EDGE_RANGE n) k).firstEvent n 3 p.vec c
  d.each p.clamped fun c d => (d.bump (TSET.EDGE_CLAMP n)).firstEvent n 5 p.vec c

/-! ### Hold, pause and resume (R92, R93, R124 to R127) -/

/-- HOLD_BEGIN (R124). A pause that is pending lands at T instead (R92). -/
def Dev.holdBegin (m : Mem) (n : Nat) (d : Dev) : Dev :=
  match (d.eng n).under, (d.eng n).after with
  | some t, .issue todo =>
    if d.engState n ≠ seqRunning || (d.eng n).abortReq.isSome || !(d.eng n).issued.isEmpty ||
        (m.word n todo.addr).vsrc ≠ 0 || d.on (SEQ.STATUS_PAUSE_PENDING n) then d
    else
      let d := d.until (d.gridElapsed t)
      let d := ((d.engGo n seqHolding).landDecision n).bump (SEQ.HOLD_COUNT n)
      let vec := d.get (SEQ.VEC_NUM n)
      let d := d.modEng n fun e =>
        { e with under := none, idleNext := some t, stopped := true
                 hold := some { since := gridStamp t, sinceElapsed := d.elapsed, vec } }
      d.emitAt (gridStamp t) 0 (0x10 + n) 0x25 0 (leBytes 2 todo.addr ++ leBytes 8 vec)
  | _, _ => d

/-- PC of what the engine issues next. -/
def EngSt.nextPc (e : EngSt) : Nat := match e.after with | .issue t => t.addr | _ => 0

/-- The HOLD_END record of a hold that ends now at address `pc` (R126). -/
def Dev.holdRecord (n pc : Nat) (h : Option HoldSt) (d : Dev) : Dev :=
  match h with
  | none => d
  | some h => d.emit (0x10 + n) 0x26 (leBytes 2 pc ++ leBytes 8 h.vec ++ leBytes 8 (d.now - h.since))

/-- The stream has recovered (R126). -/
def Dev.streamRecovered (d : Dev) (n : Nat) : Bool :=
  let l := d.streamLevel n
  d.get (SEQ.STREAM_LOWWATER n) < l || ((d.eng n).eosIn && 1 ≤ l)

/-- The hold has lasted HOLD_LIMIT (R127). -/
def Dev.holdExpired (d : Dev) (n : Nat) : Bool :=
  match (d.eng n).hold with
  | some h => decide (h.sinceElapsed + usTclk * d.get (SEQ.HOLD_LIMIT n) ≤ d.elapsed)
  | none => false

/-- HOLD_END (R126): the missing vector starts at the first grid point at or after L + 128 TCLK. An abort that is due in the
same TCLK wins (R127). -/
def Dev.holdEnd (n : Nat) (d : Dev) : Dev :=
  match (d.eng n).after with
  | .issue _ =>
    if d.engState n ≠ seqHolding || !d.streamRecovered n || (d.eng n).abortReq.isSome || d.holdExpired n then d
    else
      (d.modEng n fun e =>
        { e with earliest := (d.now + 128) * unit24, idleNext := none, holdDue := e.hold, hold := none }).engGo n seqRunning
  | _ => d

/-- VECTOR_START (R76). Behind the segment and MARK records of the instant comes the HOLD_END record of a hold that this vector
ends (R77, R126). -/
def Dev.vectorStart (n : Nat) (d : Dev) : Dev :=
  match (d.eng n).issued with
  | [] => d
  | p :: rest =>
    if d.engState n ≠ seqRunning then d
    else
      let d := d.until (d.gridElapsed p.start)
      let h := (d.eng n).holdDue
      let d := d.modEng n fun e =>
        { e with issued := rest, play := some p, arch := p.arch.getD e.arch, lastTs := p.word.tsel, holdDue := none
                 stopped := false }
      let d := (d.put (SEQ.VEC_NUM n) p.vec).put (SEQ.STATUS_PC n) p.addr
      let d := d.put (SEQ.STATUS_DEPTH n) (d.eng n).arch.stack.length
      let d := if p.stream then d.put (SEQ.STREAM_POS n) (d.get (SEQ.STREAM_POS n) + 1) else d
      let d := if p.first then d.firstEffects n p else d
      (d.holdRecord n p.addr h).playCounts n p

/-- HOLD_LIMIT_EXPIRY (R127). -/
def Dev.holdLimit (n : Nat) (d : Dev) : Dev :=
  match (d.eng n).hold with
  | some h =>
    if d.engState n = seqHolding then
      (d.until (h.sinceElapsed + usTclk * d.get (SEQ.HOLD_LIMIT n))).engAbort n 4 true
    else d
  | none => d

/-- A pause lands at the boundary of Plain stamp `at_`: the engine stops there with its resume record (R93, R95); a hold that
has just ended, or that the pause ends, has its HOLD_END record (R90). -/
def Dev.pauseHere (n at_ : Nat) (d : Dev) : Dev :=
  let d := if (d.eng n).stopped then d else d.landDecision n
  let d := d.captureRes n 8 true at_
  let e := d.eng n
  let d := d.holdRecord n e.nextPc (if e.hold.isSome then e.hold else e.holdDue)
  let d := (d.engGo n seqPaused).put (SEQ.STATUS_PAUSE_PENDING n) 0
  let d := d.modEng n fun e =>
    { e with idleNext := some (e.idleNext.getD e.earliest), under := none, hold := none, holdDue := none, stopped := true }
  d.emit (0x10 + n) 0x27 (leBytes 2 (d.eng n).nextPc ++ leBytes 8 (d.get (SEQ.VEC_NUM n)))

/-- A pause request, from the host or from a thermal hold (R90, R359). In a hold it lands at T (R127). -/
def Dev.engPause (n : Nat) (thermal : Bool) (d : Dev) : Dev :=
  match d.engState n with
  | 2 =>
    if d.on (SEQ.STATUS_PAUSE_PENDING n) then
      if thermal then d else d.modEng n fun e => { e with thermal := false }
    else (d.put (SEQ.STATUS_PAUSE_PENDING n) 1).modEng n fun e => { e with thermal }
  | 3 => (d.modEng n fun e => { e with thermal }).pauseHere n (((d.eng n).hold.map (·.since)).getD d.now)
  | 4 => if thermal then d else d.modEng n fun e => { e with thermal := false }
  | _ => if thermal then d else d.ignored (SEQ.CTRL_PAUSE n).addr

/-- PAUSE_LAND (R92): at the first eligible boundary whose following vector is not issued; one that an under-run has left
without its vector is such a boundary. -/
def Dev.pauseLand (m : Mem) (n : Nat) (d : Dev) : Dev :=
  match (d.eng n).after with
  | .issue t =>
    if d.engState n ≠ seqRunning || !d.on (SEQ.STATUS_PAUSE_PENDING n) || !(d.eng n).issued.isEmpty ||
        (d.eng n).abortReq.isSome || d.insideAtomic m n t then d
    else
      let d := d.until (d.gridElapsed ((d.eng n).under.getD (d.eng n).earliest))
      d.pauseHere n d.now
  | _ => d

/-- A paused engine goes on (R93). -/
def Dev.resumeNow (n : Nat) (d : Dev) : Dev :=
  let d := d.modEng n fun e => { e with thermal := false, earliest := (d.now + 256) * unit24, idleNext := none }
  (d.engGo n seqRunning).emit (0x10 + n) 0x28 (leBytes 2 (d.eng n).nextPc ++ leBytes 8 (d.get (SEQ.VEC_NUM n)))

/-- A host RESUME (R90, R359). -/
def Dev.engResume (n : Nat) (d : Dev) : Dev :=
  if d.on GOV.STATE_THERM_HOLD then d.ignored (SEQ.CTRL_RESUME n).addr
  else if d.on (SEQ.STATUS_PAUSE_PENDING n) then d.put (SEQ.STATUS_PAUSE_PENDING n) 0
  else if d.engState n = seqPaused then d.resumeNow n
  else d.ignored (SEQ.CTRL_RESUME n).addr

/-! ### Start (R88, R90) -/

/-- A START is refused with a result (R88). -/
def Dev.startRefused (n r : Nat) (d : Dev) : Dev := (d.put (SEQ.CTRL_START_RESULT n) r).ignored (SEQ.CTRL_START n).addr

/-- Commits and origins held back by an IDLE_VEC player act now (R134, R137). -/
def Dev.tsetRelease (n : Nat) (d : Dev) : Dev :=
  let t := d.tset n
  let d :=
    if t.commitHeld then
      (d.modTset n fun t =>
        { t with active := t.before.getD t.shadow, view := t.before.getD t.shadow, commitHeld := false }).bump
        (TSET.COMMIT_COUNT n)
    else d
  match t.originHeld with
  | some o => (d.put (TSET.ORIGIN n) o).modTset n fun t => { t with originHeld := none }
  | none => d

/-- They have acted once the vector in play has ended, whether or not the next one has started (R134, R137). -/
def Dev.tsetDue (n : Nat) (d : Dev) : Dev :=
  match (d.eng n).idleNext with
  | some x => if d.gridElapsed x ≤ d.elapsed then d.tsetRelease n else d
  | none => d

/-- A START is judged, and its effects (R88). -/
def Dev.startNow (n : Nat) (d : Dev) : Dev :=
  let at_ := d.get (SEQ.START_AT n)
  if d.engState n ≠ seqIdle then d.startRefused n 2
  else if !d.on (SEQ.STATUS_PROG_VALID n) then d.startRefused n 3
  else if at_ ≠ 0 && at_ < d.now + 256 then d.startRefused n 4
  else
    let d := (d.calStart n).tsetRelease n
    let pins := d.engPins n
    let d := if (d.eng n).aborted then d.each pins Dev.leaveAbort else d
    let d := d.each pins fun p d => d.modPin p fun s => { s with req := s.asReq }
    let d := d.put (SEQ.CTRL_START_RESULT n) 1
    let d := (((d.put (SEQ.VEC_NUM n) 0).put (SEQ.SEG_NUM n) 0).put (SEQ.STATUS_RES_VALID n) 0).put (SEQ.STATUS_DEPTH n) 0
    let d := d.put (SEQ.STATUS_PC n) (d.get (SEQ.START_ADDR n))
    let d := if (d.eng n).stream.posStale then d.put (SEQ.STREAM_POS n) 0 else d
    let ones := 2 ^ 64 - 1
    let d := d.modEng n fun e =>
      { e with regs := .zero, arch := .zero, prog := ones, mask := ones, seg := 0, segBegun := false, segUser := 0, vec := 0
               after := .issue ⟨d.get (SEQ.START_ADDR n), 0, true⟩, earliest := max (d.now + 256) at_ * unit24
               issued := [], play := none, lastSyms := [], under := none, hold := none, holdDue := none, stopped := false, abortReq := none, thermal := false
               timeoutBit := false, mat := .none, newf := 0, segAhead := [], firsts := 0, idleNext := none, idleStop := false, started := true, aborted := false
               stream := { e.stream with posStale := false } }
    let d := d.modTset n fun t => { t with view := t.active }
    let d := (d.fcapStart n).engGo n seqRunning
    d.emit (0x10 + n) 0x20
      (leBytes 2 (d.get (SEQ.START_ADDR n)) ++ leBytes 8 (d.get (SEQ.PROG_ID n)) ++ leBytes 8 0)

/-- A START is held behind an end-of-run drain (R184) or a thermal hold (R359). -/
def Dev.startHeld (d : Dev) (n : Nat) : Bool :=
  d.engState n == seqIdle && (d.on GOV.STATE_THERM_HOLD || (d.fc n).ended)

/-- START reaches the engine (R28, R49, R88, R90). -/
def Dev.engStart (n : Nat) (d : Dev) : Dev :=
  let d := d.cancelArm
  if d.startHeld n then
    { d with maps := { d.maps with heldStarts := if d.maps.heldStarts.contains n then d.maps.heldStarts
                                                   else d.maps.heldStarts ++ [n] } }
  else d.startNow n

/-- A START that was held is no longer waited for. -/
def Dev.dropHeldStart (n : Nat) (d : Dev) : Dev :=
  { d with maps := { d.maps with heldStarts := d.maps.heldStarts.filter (· != n) } }

/-- A START that was held is acted on (R28). It cancels an arming, and waits once more where an epoch is loading (R49). -/
def Dev.heldStart (n : Nat) (d : Dev) : Dev :=
  if d.maps.heldStarts.contains n && !d.startHeld n then
    let d := d.dropHeldStart n
    match d.holdForEpoch (.start (Fin.ofNat 4 n)) with
    | some d' => d'
    | none => d.cancelArm.startNow n
  else d

/-! ### Abort lands -/

/-- ABORT_LAND (R94, R123): an UNDERRUN abort and one for a HOLD_LIMIT of 0 land at T. -/
def Dev.abortLand (n : Nat) (d : Dev) : Dev :=
  match (d.eng n).abortReq with
  | none => d
  | some c =>
    match (d.eng n).under with
    | some t => if c = 3 || c = 4 then (d.until (d.gridElapsed t)).engAbort n c true else d.engAbort n c false
    | none => d.engAbort n c false

/-! ### The IDLE vector (R121, R122, R125) -/

/-- The IDLE vector plays once from `start` on the positions selected. -/
def Dev.playIdle (n ts start : Nat) (only : Nat → Bool) (d : Dev) : Dev :=
  let e := d.eng n
  let sets := (d.tset n).active
  let w : MicroWord := MicroWord.ofNat 0
  let syms := (List.range 256).map e.idleSym
  let idle := d.engState n = seqIdle
  let mask := if idle then 2 ^ 64 - 1 else d.get (SEQ.SITE_MASK n)
  let drop := if idle then 0 else d.get FCAP.DROP
  let v : VecCtx :=
    { eng := n, start, period := sets.period ts, sets, ts, vec := d.get (SEQ.VEC_NUM n), seg := e.seg, word := w, mask, drop }
  let (ranged, clamped, d) := d.scheduleAll v syms only
  let bad := (List.range (d.posCount n)).filter fun p => only p && (e.idleVec.getD p 4) == 11
  let p : Play :=
    { addr := 0, word := w, idx := 0, first := false, last := false, start, vec := v.vec, seg := v.seg
      stream := false, progMask := mask, commit := none, shadow := none, symErr := bad, ranged, clamped
      arch := none }
  d.playCounts n p

/-- KEEPALIVE_PLAY (R125). -/
def Dev.keepalive (n : Nat) (d : Dev) : Dev :=
  let st := d.engState n
  match (d.eng n).idleNext with
  | some x =>
    if st = seqHolding || st = seqPaused then
      let ts := (d.eng n).lastTs
      let period := (d.tset n).active.period ts
      let start := gridAt (d.get (TSET.ORIGIN n)) period x
      let d := d.until (d.gridElapsed start)
      let keep (p : Nat) : Bool := (d.get (SEQ.KEEPALIVE n (p / 32))).testBit (p % 32)
      (d.playIdle n ts start keep).modEng n fun e => { e with idleNext := some (start + period) }
    else d
  | none => d

/-- IDLE_VEC_PLAY (R122, R134). -/
def Dev.idleVecPlay (n : Nat) (d : Dev) : Dev :=
  match (d.eng n).idleNext with
  | some x =>
    if d.engState n = seqIdle && !(d.eng n).aborted && d.get (SEQ.IDLE_CFG_END_STATE n) == 2 && d.byTclk then
      let d := (d.until (d.gridElapsed x)).tsetRelease n
      let ts := d.get (SEQ.IDLE_CFG_IDLE_TS n)
      let period := (d.tset n).active.period ts
      let start := gridAt (d.get (TSET.ORIGIN n)) period x
      let d := d.until (d.gridElapsed start)
      (d.playIdle n ts start (fun _ => true)).modEng n fun e => { e with idleNext := some (start + period), idleStop := false }
    else d
  | none => d

/-- IDLE_COMMIT (R121): the 32 shadow dwords become the active IDLE vector. -/
def Dev.idleCommit (n : Nat) (d : Dev) : Dev :=
  let v := (List.range 256).map fun p => bitsOf (d.get (SEQ.IDLE_VEC n (p / 8))) (4 * (p % 8)) 4
  d.modEng n fun e => { e with idleVec := v }

end Sys2Proof.Machine
end

