-- ==== Sys2Proof/Machine/SeqCfgOps.lean ====
section
/-! DEFINITION. Configuration of engines and timing sets from the host, program checks, maps (R24 to R28, R97 to R100,
R106, R107, R116, R128, R134 to R137, R142). -/

namespace Sys2Proof.Machine

/-! ### CONFIG and CACHE_PART (R100, R107) -/

/-- The lowest mapped channel of an engine whose position a position count would not hold (R25). -/
def Dev.positionBad (d : Dev) (n pos : Nat) : Option Nat := (d.engChans n).find? fun c => decide (pos ≤ d.chanPos c)

/-- The stride of an engine changes: its stream is flushed (R100). -/
def Dev.strideChanged (n old : Nat) (d : Dev) : Dev :=
  if d.stride n = old then d else d.streamFlush n false

/-- A write to SEQn.CONFIG (R100). -/
def Dev.configWrite (n v : Nat) (d : Dev) : Dev :=
  let a := (SEQ.CONFIG_POS_COUNT n).addr
  let pos := bitsOf v 0 9
  if d.engState n ≠ seqIdle || 256 < pos then d.ignored a
  else
    match d.positionBad n pos with
    | some c => d.noticeOf ⟨0x3003, 0x10 + n, hostMaster, 2, a, 0, false⟩ (leBytes 2 c)
    | none =>
      let old := d.stride n
      ((d.put (SEQ.CONFIG_POS_COUNT n) pos).put (SEQ.CONFIG_ALLDROP_HALT n) (bitsOf v 9 1)).strideChanged n old

/-- A write to SEQn.CACHE_PART (R107). What the cache holds stays, spans in error included. DESIGN CHOICE (log 105): a range of
no granules whose base lies above granule 56 ends beyond granule 55. -/
def Dev.cachePart (n v : Nat) (d : Dev) : Dev :=
  let a := (SEQ.CACHE_PART_S_BASE n).addr
  let s := (bitsOf v 0 6, bitsOf v 8 6)
  let p := (bitsOf v 16 6, bitsOf v 24 6)
  let refuse (r : Nat) (d : Dev) : Dev := (d.put (SEQ.STREAM_STATUS_PART_RESULT n) r).ignored a
  let others := ((List.range 4).filter (· != n)).flatMap fun m =>
    [(d.get (SEQ.CACHE_PART_S_BASE m), d.get (SEQ.CACHE_PART_S_GRAN m)),
     (d.get (SEQ.CACHE_PART_P_BASE m), d.get (SEQ.CACHE_PART_P_GRAN m))]
  if d.engState n ≠ seqIdle then refuse 2 d
  else if 56 < s.1 + s.2 || 56 < p.1 + p.2 || rangesMeet s p then refuse 3 d
  else if others.any fun o => rangesMeet o s || rangesMeet o p then refuse 4 d
  else
    let d := d.streamFlush n true
    let d := d.setReg a (BitVec.ofNat 32 (s.1 + 2 ^ 8 * s.2 + 2 ^ 16 * p.1 + 2 ^ 24 * p.2))
    d.put (SEQ.STREAM_STATUS_PART_RESULT n) 1

/-- STREAM_CTRL.FLUSH (R116). -/
def Dev.hostFlush (n : Nat) (d : Dev) : Dev :=
  let a := (SEQ.STREAM_CTRL n).addr
  if d.engState n ≠ seqIdle then d.ignored a
  else (d.streamFlush n false).put (SEQ.STREAM_STATUS_FLUSH_BUSY n) 1

/-! ### Program check (R91, R98, R99) -/

/-- Reserved codes of the side-effect fields and of MATCH_SEL (R72, R73). -/
def MicroWord.reserved (w : MicroWord) : Bool :=
  (1 ≤ w.trig && w.trig ≤ 7) || w.capOp == 7 || (2 ≤ w.dacOp && w.dacOp ≤ 7) || 0xB ≤ w.tiaOp ||
  (3 ≤ w.matchSel && w.matchSel ≤ 0xF) || (0x18 ≤ w.matchSel && w.matchSel ≤ 0x1F) || w.matchSel == 0x24 ||
  0x30 ≤ w.matchSel

/-- Addresses that may follow a word of an atomic run (R62). -/
def MicroWord.successors (w : MicroWord) (a : Nat) : List Nat :=
  match w.bop with
  | 0 => [a + 1]
  | 1 => [w.next]
  | 2 => [w.next, a + 1]
  | 3 => [w.next, a + 1]
  | 7 => (List.range 16).map (w.next ||| ·)
  | _ => []

/-- How many of the next `fuel` addresses, going by `next`, hold atomic words without a break. -/
def Mem.atomicRun (m : Mem) (n : Nat) (next : Nat → Option Nat) : Nat → Nat → Nat
  | 0, _ => 0
  | fuel + 1, a =>
    match next a with
    | none => 0
    | some b => if (m.word n b).atomic then m.atomicRun n next fuel b + 1 else 0

/-- Length of the run of consecutive atomic addresses around `a`, as far as 65. -/
def Mem.atomicSpan (m : Mem) (n a : Nat) : Nat :=
  m.atomicRun n (fun x => if x + 1 < 16384 then some (x + 1) else none) 64 a +
  m.atomicRun n (fun x => if 0 < x then some (x - 1) else none) 64 a + 1

/-- The lowest REASON among the checks that the word at an address fails (R98); 0 where it fails none. -/
def Mem.wordReason (m : Mem) (n a : Nat) : Nat :=
  let w := m.word n a
  let higher := (w.successors a).all fun b => a < b || !(m.word n b).atomic
  if w.bop = 15 || 6 ≤ w.vsrc then 1
  else if w.reserved then 2
  else if w.atomic && w.rep ≠ 0 then 3
  else if w.atomic &&
      (w.vsrc < 2 || !(w.bop ≤ 3 || w.bop == 7) || !higher || 64 < m.atomicSpan n a) then 4
  else if w.bop = 12 && w.cntOp % 4 ≠ 2 then 5
  else if 8 ≤ w.bop && w.bop ≤ 11 && w.cntOp % 4 ≠ 0 && w.cntOp / 4 = w.bop - 8 then 6
  else if a = 16383 && [0, 2, 3, 4, 5, 8, 9, 10, 11, 12, 14].contains w.bop then 7
  else 0

/-- The lowest failing address of an engine's store, with its REASON. -/
def Mem.firstBad (m : Mem) (n : Nat) : Option (Nat × Nat) :=
  ((List.range 16384).find? fun a => m.wordReason n a != 0).map fun a => (a, m.wordReason n a)

/-- The end of a program load whose last descriptor has been taken (R97 to R99). -/
def Dev.programLoadEnd (m : Mem) (n : Nat) (d : Dev) : Dev :=
  if (d.eng n).loading || d.engState n ≠ seqLoading then d
  else
    let bad := m.firstBad n
    let reason := match bad with | some (_, r) => r | none => 0
    let first := match bad with | some (a, _) => a | none => 0
    let crc := crc32c ((List.range 16384).flatMap fun a => m.sramBytes (microAddr n a) 22)
    let d := ((d.put (SEQ.STATUS_PROG_VALID n) (bit bad.isNone)).put (SEQ.LOAD_STATUS_REASON n) reason).put
      (SEQ.LOAD_STATUS_FIRST_BAD n) first
    let d := (d.put (SEQ.PROG_CRC n) crc.toNat).engGo n seqIdle
    let d := d.emit (0x10 + n) 0x2A
      (leBytes 8 (d.get (SEQ.PROG_ID n)) ++ leBytes 4 crc.toNat ++ leBytes 1 (bit bad.isNone) ++ leBytes 1 reason)
    if bad.isSome then d.notice 0x300D (0x10 + n) (leBytes 1 n ++ leBytes 1 reason ++ leBytes 2 first) else d

/-! ### Timing sets (R128, R134 to R137, R142) -/

/-- The first check that a staged entry fails (R136): 1 where it fails none. -/
def stageResult (e : TEntry) (first last : Nat) : Nat :=
  let lim := 16793344
  if last < first then 2
  else if 6 ≤ e.format then 3
  else if [e.d0, e.d1, e.d2, e.d3, e.s0, e.s1].any (lim ≤ ·) then 4
  else if (2 ≤ e.format && e.d2 < e.d1 + 128) || (e.format == 5 && e.d1 < e.d0 + 128) then 5
  else if e.window && e.s1 < e.s0 + 128 then 6
  else 1

/-- STAGE_WRITE (R136). -/
def Dev.stageWrite (n v : Nat) (d : Dev) : Dev :=
  let d := d.tsetDue n
  let a := (TSET.STAGE_WRITE_TS n).addr
  let bits := (List.range 6).foldl (fun x j => x + d.get (TSET.STAGE n j) * 2 ^ (32 * j)) 0
  let ts := bitsOf v 0 5
  let first := bitsOf v 8 8
  let last := bitsOf v 16 8
  let r := stageResult (TEntry.ofBits (BitVec.ofNat 192 bits)) first last
  let d := d.put (TSET.WRITE_STATUS_RESULT n) r
  if r ≠ 1 then d.ignored a
  else
    let e : BitVec 192 := BitVec.ofNat 192 (bits % 2 ^ 154)
    let d := d.modTset n fun t =>
      { t with
        before := some (t.before.getD t.shadow)
        shadow := { t.shadow with
          entries := (List.range' first (last + 1 - first)).foldl (fun tab p => tab.insert (256 * ts + p) e) t.shadow.entries } }
    d.put (TSET.WRITE_STATUS_BUSY n) 1

/-- A range write into the shadow is complete (R136). -/
def Dev.stageDone (n : Nat) (d : Dev) : Dev :=
  (d.modTset n fun t => { t with before := none }).put (TSET.WRITE_STATUS_BUSY n) 0

/-- A write to SH_PERIOD_t_HI (R128, R389). -/
def Dev.periodWrite (n t hi : Nat) (d : Dev) : Dev :=
  let d := d.tsetDue n
  let a := (TSET.SH_PERIOD_HI n t).addr
  let s := d.tset n
  let int := hi % 65536
  let frac := Tab.get (fun _ => s.shadow.period t % unit24) s.held t
  let p := int * unit24 + frac
  let d := d.modTset n fun s => { s with held := s.held.erase t }
  if 2 * unit24 ≤ p && p ≤ 65535 * unit24 then
    (d.modTset n fun s =>
      { s with shadow := { s.shadow with periods := s.shadow.periods.insert t p }
               before := s.before.map fun b => { b with periods := b.periods.insert t p } }).put (TSET.WRITE_STATUS_RESULT n) 1
  else (d.put (TSET.WRITE_STATUS_RESULT n) 7).ignored a

/-- A write to SH_PERIOD_t_LO is held until HI commits the pair (R389). -/
def Dev.periodLoWrite (n t lo : Nat) (d : Dev) : Dev :=
  (d.tsetDue n).modTset n fun s => { s with held := s.held.insert t (lo % unit24) }

/-- A write to SH_SITE_DESKEWk (R142). -/
def Dev.siteDeskewWrite (n k v : Nat) (d : Dev) : Dev :=
  let d := d.tsetDue n
  let a := (TSET.SH_SITE_DESKEW n k).addr
  let x := signedOf 16 v
  if -4096 ≤ x && x ≤ 4095 then
    (d.modTset n fun s =>
      { s with shadow := { s.shadow with deskew := s.shadow.deskew.insert k x }
               before := s.before.map fun b => { b with deskew := b.deskew.insert k x } }).put (TSET.WRITE_STATUS_RESULT n) 1
  else (d.put (TSET.WRITE_STATUS_RESULT n) 8).ignored a

/-- An IDLE_VEC player of an idle engine runs (R122). -/
def Dev.idlePlayer (d : Dev) (n : Nat) : Bool := d.engState n == seqIdle && (d.eng n).idleNext.isSome

/-- TSETn.COMMIT (R137). -/
def Dev.tsetCommit (n : Nat) (d : Dev) : Dev :=
  let d := d.tsetDue n
  let a := (TSET.COMMIT_COMMIT n).addr
  if d.engState n ≠ seqIdle then (d.put (TSET.COMMIT_COMMIT_RESULT n) 2).ignored a
  else
    let d := (d.put (TSET.COMMIT_COMMIT_RESULT n) 1).modTset n fun t => { t with commitHeld := true }
    if d.idlePlayer n then d else d.tsetRelease n

/-- A write to one half of TSETn.ORIGIN (R134, R389). -/
def Dev.originWrite (n : Nat) (hi : Bool) (v : Nat) (d : Dev) : Dev :=
  let d := d.tsetDue n
  let f := TSET.ORIGIN n
  let a := if hi then f.addr + 4 else f.addr
  if d.engState n ≠ seqIdle then d.ignored a
  else
    let old := (d.tset n).originHeld.getD (d.get f)
    let o := if hi then old % 2 ^ 32 + 2 ^ 32 * v else old / 2 ^ 32 * 2 ^ 32 + v
    let d := d.modTset n fun t => { t with originHeld := some o }
    if d.idlePlayer n then d else (d.put f o).modTset n fun t => { t with originHeld := none }

/-! ### Maps (R24 to R28) -/

/-- The engine the shadow map gives a bank. -/
def Dev.shadowBank (d : Dev) (b : Nat) : Nat := bitsOf (d.get (GLB.BANK_ENGINE (b / 16))) (2 * (b % 16)) 2
/-- The engine the shadow map gives a site. -/
def Dev.shadowSite (d : Dev) (k : Nat) : Nat := bitsOf (d.get (GLB.SITE_ENGINE (k / 16))) (2 * (k % 16)) 2
/-- Shadow site, position and UNMAPPED of a logical channel. -/
def Dev.shadowChan (d : Dev) (c : Nat) : Nat × Nat × Bool :=
  (d.get (PINB.MAP_SITE (c / 32) (c % 32)), d.get (PINB.MAP_POS (c / 32) (c % 32)), d.on (PINB.MAP_UNMAPPED (c / 32) (c % 32)))
/-- The same of the map in force. -/
def Dev.activeChan (d : Dev) (c : Nat) : Nat × Nat × Bool := (d.chanSite c, d.chanPos c, !d.mapped c)

/-- Engines that a commit of the shadow maps would affect (R28): old and new owner of each change. -/
def Dev.mapAffected (d : Dev) : List Nat :=
  let banks := (List.range 32).flatMap fun b => if d.shadowBank b = d.bankEng b then [] else [d.bankEng b, d.shadowBank b]
  let sites := (List.range 64).flatMap fun k => if d.shadowSite k = d.siteEng k then [] else [d.siteEng k, d.shadowSite k]
  let chans := (List.range 1024).flatMap fun c =>
    if d.shadowChan c = d.activeChan c then [] else [d.chanEng c, d.shadowBank (c / 32)]
  (List.range 4).filter fun n => banks.contains n || sites.contains n || chans.contains n

/-- The lowest logical channel that the shadow maps leave inconsistent (R25). -/
def Dev.mapFirstBad (d : Dev) : Option Nat :=
  let mapped := (List.range 1024).filter fun c => !(d.shadowChan c).2.2
  let key (c : Nat) : Nat × Nat × Nat := (d.shadowBank (c / 32), (d.shadowChan c).1, (d.shadowChan c).2.1)
  let keys := mapped.map key
  mapped.find? fun c =>
    let (n, k, p) := key c
    d.shadowSite k != n || decide (d.posCount n ≤ p) || decide (1 < keys.count (key c))

/-- The shadow maps become the maps in force. -/
def Dev.applyMaps (d : Dev) : Dev :=
  let d := { d with maps := { d.maps with
    bank := (List.range 32).foldl (fun t b => t.insert b (d.shadowBank b)) d.maps.bank
    site := (List.range 64).foldl (fun t k => t.insert k (d.shadowSite k)) d.maps.site } }
  d.each (List.range 1024) fun c d =>
    d.setReg (PINB.MAP_ACT_SITE (c / 32) (c % 32)).addr (d.reg (PINB.MAP_SITE (c / 32) (c % 32)).addr)

/-- GLB.MAP_COMMIT (R28). DESIGN CHOICE (log 106): where an affected engine is not IDLE and the map is inconsistent as well, the
result is 0x2. -/
def Dev.mapCommit (d : Dev) : Dev :=
  let a := GLB.MAP_COMMIT.addr
  let affected := d.mapAffected
  let refuse (r : Nat) (d : Dev) : Dev := (d.put GLB.MAP_STATUS_LAST_RESULT r).ignored a
  if affected.any fun n => d.engState n != seqIdle then refuse 2 d
  else
    match d.mapFirstBad with
    | some c => refuse 3 (d.put GLB.MAP_STATUS_FIRST_BAD c)
    | none =>
      (d.applyMaps.put GLB.MAP_STATUS_LAST_RESULT 1).emit 5 0x2D (leBytes 1 1 ++ leBytes 1 (maskOf affected))

end Sys2Proof.Machine
end

