-- ==== Sys2Proof/Machine/HostOps.lean ====
section
/-! DEFINITION. HDMA and the link: rings, descriptors, stream refill, outbound blocks and MSI-X (R111 to R116, R364 to
R385). -/

namespace Sys2Proof.Machine

/-! ### The link (R364, R365, R385) -/

/-- Change HDMA's side of the host interface. -/
def Dev.modHost (f : HostSt → HostSt) (d : Dev) : Dev := { d with host := f d.host }

/-- HDMA may issue requests: bus mastering in D0, the link up, HDMA in service (R365, R385). -/
def Dev.hdmaRuns (d : Dev) : Bool :=
  d.host.master && !d.host.d3 && (d.on HDMA.LINK_STATUS_L0 || d.on HDMA.LINK_STATUS_L1) && !d.blockDown 7 &&
    d.st != stDormant

/-- Traffic brings the link back from L1. -/
def Dev.linkUse (d : Dev) : Dev :=
  if d.on HDMA.LINK_STATUS_L1 then (d.put HDMA.LINK_STATUS_L1 0).put HDMA.LINK_STATUS_L0 1 else d

/-- A posted write leaves for the host. -/
def Dev.post (w : Posted) (d : Dev) : Dev := d.linkUse.modHost fun h => { h with posted := h.posted ++ [w] }

/-- What HDMA keeps of ring `r`. -/
def Dev.ring (d : Dev) (r : Nat) : RingRt := Tab.get (fun _ => .reset) d.host.rings r
/-- Change it. -/
def Dev.modRing (r : Nat) (f : RingRt → RingRt) (d : Dev) : Dev :=
  d.modHost fun h => { h with rings := h.rings.insert r (f (d.ring r)) }

/-- Entries of a ring (R371). -/
def Dev.ringCount (d : Dev) (r : Nat) : Nat :=
  if r < 5 then (d.get (HDMA.RING_HOST_PTR r) + 2 ^ 32 - d.get (HDMA.RING_DEV_PTR r)) % 2 ^ 32
  else (d.get (HDMA.RING_DEV_PTR r) + 2 ^ 32 - d.get (HDMA.RING_HOST_PTR r)) % 2 ^ 32

/-- A ring is enabled and not stopped by an error. -/
def Dev.ringLive (d : Dev) (r : Nat) : Bool :=
  d.on (HDMA.RING_CTRL_EN r) && !d.on (HDMA.RING_STATUS_HOST_ERR r) && !d.on (HDMA.RING_STATUS_DESC_ERR r)

/-- The pending HDMA error signal. -/
abbrev vecHdma : Nat := 15

/-- A requester error stops the ring at its item (R367). -/
def Dev.hostErr (r : Nat) (d : Dev) : Dev :=
  ((d.put (HDMA.RING_STATUS_HOST_ERR r) 1).noticeOf ⟨0x300C, 7, 7, 3, 0, 0, false⟩ []).signal vecHdma

/-! ### Doorbells and ring control (R369 to R374) -/

/-- A doorbell value keeps to R372. -/
def Dev.bellOk (d : Dev) (r v : Nat) : Bool :=
  let host := d.get (HDMA.RING_HOST_PTR r)
  let dev := d.get (HDMA.RING_DEV_PTR r)
  let diff (a b : Nat) : Nat := (a + 2 ^ 32 - b) % 2 ^ 32
  d.on (HDMA.RING_CTRL_EN r) &&
    (if r < 5 then diff v dev ≤ d.get (HDMA.RING_SIZE r) && diff host dev ≤ diff v dev
     else diff dev v ≤ diff dev host)

/-- The host's pointer of ring `r` (R372). -/
def Dev.bell (r v : Nat) (d : Dev) : Dev :=
  if d.bellOk r v then d.put (HDMA.RING_HOST_PTR r) v
  else
    ((d.put (HDMA.RING_STATUS_PTR_ERR r) 1).noticeOf ⟨0x3003, 7, hostMaster, 2, 0x1000 * r, 0, false⟩
      (leBytes 8 (0x1000 * r))).signal vecHdma

/-- A BAR2 write (R369, R350, R365). -/
def Dev.doorbell (off v : Nat) (full : Bool) (d : Dev) : Dev :=
  let r := off / 0x1000
  let named := full && off % 0x1000 == 0 && decide (r ≤ 8)
  if !d.host.memEn then d
  else if d.flt.safeHold && !(named && r == 8) then d.safeHoldDiscard 7 off
  else if named then d.bell r v
  else d.noticeOf ⟨0x3006, 7, hostMaster, 2, off, 0, false⟩ (leBytes 8 off)

/-- CTRL.EN 0 → 1 (R374). -/
def Dev.ringEnable (r : Nat) (d : Dev) : Dev :=
  if d.on (HDMA.RING_CTRL_EN r) then d
  else
    let d := ((d.put (HDMA.RING_CTRL_EN r) 1).put (HDMA.RING_HOST_PTR r) 0).put (HDMA.RING_DEV_PTR r) 0
    d.modRing r fun x => { x with bseq := 0 }

/-- CTRL.EN 1 → 0 (R374). -/
def Dev.ringDisable (r : Nat) (d : Dev) : Dev := d.put (HDMA.RING_CTRL_EN r) 0

/-- CTRL.SKIP (R374, R379). -/
def Dev.ringSkip (r : Nat) (d : Dev) : Dev :=
  let ok :=
    if r < 4 then d.engState r == seqIdle
    else r == 4 && (List.range 4).all fun n => d.engState n != seqLoading
  if !ok then d.ignored (HDMA.RING_CTRL_SKIP r).addr
  else
    let d := d.advanceRing r (d.ringCount r)
    if r = 4 then d.put (HDMA.RING_STATUS_DESC_ERR 4) 0
    else d.modEng r fun e =>
      { e with stream := { e.stream with bufs := e.stream.bufs.map fun b => { b with past := true } } }

/-- CTRL.RETRY (R374). -/
def Dev.ringRetry (r : Nat) (d : Dev) : Dev :=
  if d.on (HDMA.RING_STATUS_HOST_ERR r) || (r == 4 && d.on (HDMA.RING_STATUS_DESC_ERR r)) then
    (d.put (HDMA.RING_STATUS_HOST_ERR r) 0).put (HDMA.RING_STATUS_DESC_ERR r) 0
  else d.ignored (HDMA.RING_CTRL_RETRY r).addr

/-- The pointer writeback of ring `r` is sent (R373). -/
def Dev.writeback (r : Nat) (d : Dev) : Dev :=
  if d.host.wbDue.testBit r && d.hdmaRuns then
    (d.post (.pointer r (BitVec.ofNat 32 (d.get (HDMA.RING_DEV_PTR r))))).modHost fun h =>
      { h with wbDue := setBitTo h.wbDue r false }
  else d

/-! ### Streams (R111 to R114, R375) -/

/-- A DESC_INVALID notice (R112, R379): ring, condition and index. DEDUCED: its block is the engine for a stream ring and
HDMA for ring 4. -/
def Dev.descInvalid (ring cond index : Nat) (d : Dev) : Dev :=
  (d.notice 0x300E (if ring < 4 then 0x10 + ring else 7) (leBytes 1 ring ++ leBytes 1 cond ++ leBytes 4 index)).signal vecHdma

/-- The stream of engine `n` stops at a descriptor (R112). -/
def Dev.streamStop (n cond index : Nat) (d : Dev) : Dev := (d.put (SEQ.STREAM_STATUS_DESC_ERR n) 1).descInvalid n cond index

/-- Accepted buffers that CI has not passed. -/
def Dev.bufsAhead (d : Dev) (n : Nat) : Nat := ((d.eng n).stream.bufs.filter fun b => !b.past).length

/-- The condition a stream descriptor breaks, if any (R112). -/
def Dev.streamCond (d : Dev) (n : Nat) (x : StreamDesc) : Nat :=
  let bytes := 64 * ceilDiv (x.vcount.toNat * d.stride n) 64
  if x.seq.toNat ≠ d.get (SEQ.STREAM_SEQ n) then 1
  else if x.vcount.toNat = 0 || 16777216 < x.vcount.toNat then 2
  else if x.addr.toNat % 64 ≠ 0 then 3
  else if 8 ≤ x.flags.toNat || !x.reservedZero then 4
  else if x.flags.getLsbD 2 && (!d.on DRC.STATUS_AVAIL || d.get DRC.USABLE < x.addr.toNat + bytes) then 5
  else 0

/-- The next descriptor of a stream ring is fetched and judged (R112, R375). -/
def Dev.streamDescriptor (n : Nat) (x : StreamDesc) (d : Dev) : Dev :=
  if d.hdmaRuns && d.ringLive n && !d.on (SEQ.STREAM_STATUS_DESC_ERR n) && d.bufsAhead n < min 16 (d.ringCount n) then
    let index := (d.get (HDMA.RING_DEV_PTR n) + d.bufsAhead n) % 2 ^ 32
    let cond := d.streamCond n x
    if cond ≠ 0 then d.linkUse.streamStop n cond index
    else
      let b : Buf :=
        { addr := x.addr.toNat, vcount := x.vcount.toNat, seq := x.seq.toNat, eos := x.flags.getLsbD 0,
          irq := x.flags.getLsbD 1, dram := x.flags.getLsbD 2, tag := x.tag, linesIn := 0, issued := 0, past := false }
      (d.linkUse.put (SEQ.STREAM_SEQ n) ((x.seq.toNat + 1) % 2 ^ 32)).modEng n fun e =>
        { e with stream := { e.stream with bufs := e.stream.bufs ++ [b] } }
  else d

/-- Ring index of the descriptor of accepted buffer number `i` (R112): CI stands at the first that it has not passed. -/
def Dev.descIndex (d : Dev) (n i : Nat) : Nat :=
  (d.get (HDMA.RING_DEV_PTR n) + (((d.eng n).stream.bufs.take i).filter fun b => !b.past).length) % 2 ^ 32

/-- The buffer whose line comes next, with its place among the accepted ones. -/
def StreamSt.fetching (s : StreamSt) (stride : Nat) : Option (Buf × Nat) :=
  s.bufs.zipIdx.find? fun (b, _) => !b.whole stride

/-- Bytes of the ring in use. -/
def Dev.ringUsed (d : Dev) (n : Nat) : Nat := ((d.eng n).stream.bufs.map fun b => b.bytesIn (d.stride n)).sum

/-- The ring has room for a line and the refill may run (R113). -/
def Dev.refillOpen (d : Dev) (n : Nat) : Bool :=
  let s := d.engState n
  (s == seqIdle || s == seqRunning || s == seqHolding || s == seqPaused) &&
    d.ringUsed n + 64 ≤ (d.ringRange n).2 && d.mayTake poolVT n 1

/-- Where in SRAM the next bytes of the ring go: address and offset in the ring. -/
def Dev.refillAt (d : Dev) (n : Nat) : Nat × Nat :=
  let (base, size) := d.ringRange n
  let o := (d.eng n).stream.tail % max 1 size
  (base + o, o)

/-- What is left of a span of addresses once `len` bytes from `a` have been stored. -/
def spanLess (a len : Nat) (x : Nat × Nat) : List (Nat × Nat) :=
  let lo := (x.1, min (x.1 + x.2) a - x.1)
  let from_ := max x.1 (a + len)
  let hi := (from_, x.1 + x.2 - from_)
  [lo, hi].filter fun y => decide (0 < y.2)

/-- Bytes of the vector cache are stored: they are good, or as bad as they came (R110). -/
def Dev.cacheWritten (a len : Nat) (bad : Bool) (d : Dev) : Dev :=
  { d with hks := { d.hks with
      cacheBad := d.hks.cacheBad.flatMap (spanLess a len) ++ (if bad && 0 < len then [(a, len)] else []) } }

/-- The spans of addresses that `k` bytes from offset `o` of a ring take. -/
def ringSpans (base size o k : Nat) : List (Nat × Nat) :=
  if o + k ≤ size then [(base + o, k)] else [(base + o, size - o), (base, min size (o + k - size))]

/-- A line of buffer number `i` has entered the ring with `k` bytes of vectors (R113, R114, R375). -/
def Dev.lineIn (n i k : Nat) (b : Buf) (bad : Bool) (d : Dev) : Dev :=
  let stride := d.stride n
  let (base, size) := d.ringRange n
  let (_, o) := d.refillAt n
  let d := (d.take poolVT n 1).give poolVT n 1
  let b' := { b with linesIn := b.linesIn + 1 }
  let whole := b'.whole stride
  let newVector := b.inRing stride < b'.inRing stride
  let d := d.modEng n fun e =>
    { e with
      stream := { e.stream with
        bufs := e.stream.bufs.set i { b' with past := b.past || whole }
        tail := (o + k) % max 1 size }
      eosIn := if whole && b.eos then true else if newVector && e.eosDone then false else e.eosIn
      eosDone := e.eosDone && !newVector }
  let d := d.each (ringSpans base size o k) fun (a, l) => Dev.cacheWritten a l bad
  let d := if whole && !b.past then d.advanceRing n 1 else d
  d.when (whole && b.irq) (Dev.signal (4 + n))

/-- Bytes of vectors in the next line of a buffer. -/
def Buf.nextBytes (b : Buf) (stride : Nat) : Nat := min 64 (b.vcount * stride - 64 * b.linesIn)

/-- The next line of the buffer that engine `n` is fetching enters its ring (R113). -/
def enterLine (n i : Nat) (b : Buf) (line : List Byte) (bad : Bool) (m : Mem) (d : Dev) : Dev × Mem :=
  let k := b.nextBytes (d.stride n)
  let (base, size) := d.ringRange n
  let (_, o) := d.refillAt n
  (d.lineIn n i k b bad, m.writeRing base size o ((padTo 64 line).take k))

/-- The next line of a host buffer enters the ring of engine `n` (R113); accepted buffers before an invalid descriptor go on
(R112, R114). -/
def refillLine (n : Nat) (line : List Byte) (bad : Bool) (m : Mem) (d : Dev) : Dev × Mem :=
  match (d.eng n).stream.fetching (d.stride n) with
  | none => (d, m)
  | some (b, i) =>
    if d.refillOpen n && !b.dram && d.hdmaRuns && d.ringLive n && d.mayTake poolHT n 1 then
      enterLine n i b line bad m d.linkUse
    else (d, m)

/-! ### The program-load ring (R377 to R379) -/

/-- TYPE of a descriptor. -/
def loadType (x : LoadDesc) : Nat := bitsOf x.ctrl.toNat 0 2
/-- ENG of a descriptor. -/
def loadEng (x : LoadDesc) : Nat := bitsOf x.ctrl.toNat 2 2
/-- LAST of a descriptor. -/
def loadLast (x : LoadDesc) : Bool := x.ctrl.getLsbD 4

/-- The condition a ring 4 descriptor breaks, if any (R379). -/
def Dev.loadCond (d : Dev) (x : LoadDesc) : Nat :=
  let t := loadType x
  if x.seq.toNat ≠ d.get HDMA.PL_SEQ then 1
  else if x.count.toNat = 0 then 2
  else if x.hostAddr.toNat % 64 ≠ 0 || (2 ≤ t && x.devAddr.toNat % 64 ≠ 0) then 3
  else if 64 ≤ x.ctrl.toNat || (!(t == 0 && loadLast x) && x.ident != 0) then 4
  else if t = 0 && 16384 < x.devAddr.toNat + x.count.toNat then 6
  else 0

/-- A ring 4 descriptor is fetched, judged, and carried out by `f`, which answers its STATUS (R377, R379). -/
def loadDescriptor (typ : Nat) (x : LoadDesc) (f : Dev → Mem → Nat × Dev × Mem) (m : Mem) (d : Dev) : Dev × Mem :=
  if d.hdmaRuns && d.ringLive 4 && 0 < d.ringCount 4 && d.mayTake poolHT 4 1 && loadType x == typ then
    let index := d.get (HDMA.RING_DEV_PTR 4)
    let d := d.linkUse
    let cond := d.loadCond x
    if cond ≠ 0 then ((d.put (HDMA.RING_STATUS_DESC_ERR 4) 1).descInvalid 4 cond index, m)
    else
      let d := d.put HDMA.PL_SEQ ((x.seq.toNat + 1) % 2 ^ 32)
      let (status, d, m) := f d m
      let d := (d.post (.status (index % max 1 (d.get (HDMA.RING_SIZE 4))) status)).advanceRing 4 1
      (d.when (x.ctrl.getLsbD 5) (Dev.signal 8), m)
  else (d, m)

/-- PROGRAM (R97, R378): the words go to the store of the engine. -/
def loadProgram (x : LoadDesc) (words : List (BitVec 176)) (d : Dev) (m : Mem) : Nat × Dev × Mem :=
  let n := loadEng x
  let e := d.eng n
  if e.loadRefused || (!e.loading && d.engState n ≠ seqIdle) then
    (2, d.modEng n fun e => { e with loadRefused := !loadLast x }, m)
  else
    let d := if d.engState n = seqIdle then d.engGo n seqLoading else d
    let d := d.modEng n fun e => { e with loading := !loadLast x }
    let d := if loadLast x then d.put (SEQ.PROG_ID n) x.ident.toNat else d
    let m := (List.range x.count.toNat).foldl
      (fun m i => m.writeSram (microAddr n (x.devAddr.toNat + i)) (leBytes 22 (words.getD i 0).toNat)) m
    (1, d, m)

/-- PINNED (R108, R378). -/
def loadPinned (x : LoadDesc) (bytes : List Byte) (d : Dev) (m : Mem) : Nat × Dev × Mem :=
  let n := loadEng x
  let stride := d.stride n
  let (base, size) := d.pinnedRange n
  let first := x.devAddr.toNat
  if d.engState n ≠ seqIdle then (2, d, m)
  else if size / stride < first + x.count.toNat then (3, d, m)
  else
    (1, d.cacheWritten (base + first * stride) (x.count.toNat * stride) false,
      m.writeSram (base + first * stride) (padTo (x.count.toNat * stride) bytes))

/-! ### Outbound rings (R380 to R382) -/

/-- Room in an outbound ring, and HDMA may send. -/
def Dev.outOpen (d : Dev) (r : Nat) : Bool :=
  d.hdmaRuns && d.on (HDMA.RING_CTRL_EN r) && d.ringCount r < d.get (HDMA.RING_SIZE r) && d.mayTake poolHT r 64

/-- The 32-byte header of a block (R380). -/
def blockHeader (magic kind bytes bseq source offset total flags : Nat) : List Byte :=
  leBytes 4 magic ++ leBytes 1 1 ++ leBytes 1 kind ++ leBytes 2 bytes ++ leBytes 8 bseq ++ leBytes 4 source ++
    leBytes 4 offset ++ leBytes 4 total ++ leBytes 1 flags ++ leBytes 3 0

/-- A block is sent to its slot; PI advances past it and signals (R381, R383). -/
def Dev.sendBlock (r : Nat) (bytes : List Byte) (d : Dev) : Dev :=
  let slot := d.get (HDMA.RING_DEV_PTR r) % max 1 (d.get (HDMA.RING_SIZE r))
  let d := (((d.take poolHT r 64).post (.block r slot bytes)).give poolHT r 64).advanceRing r 1
  (d.modRing r fun x => { x with bseq := x.bseq + 1, openSince := none }).signal (4 + r)

/-- The block under assembly on a ring has its first item (R381). -/
def Dev.openBlock (r : Nat) (d : Dev) : Dev :=
  d.modRing r fun x => { x with openSince := some (x.openSince.getD d.elapsed) }

/-- Fail records of engine `n` on their way to the host, oldest first (R182): those in the DRAM ring, then those of the queue up to
the first that must pass through the ring. While DRC is out of service all go directly (R355). -/
def Dev.failItems (d : Dev) (n : Nat) : List FRec :=
  (d.fc n).dring ++ (d.fc n).queue.takeWhile fun r => !r.spill || d.drcOos

/-- Take the first `k` of them away. -/
def FcapSt.drop (f : FcapSt) (k : Nat) : FcapSt :=
  { f with dring := f.dring.drop k, queue := f.queue.drop (k - f.dring.length) }

/-- The engine's drain has ended with records still to send (R381). -/
def Dev.failDrained (d : Dev) (n : Nat) : Bool :=
  d.engIdle n && !(d.fc n).ended && !(d.failItems n).isEmpty

/-- Ring 5: the engine whose records or map go next, from the turn on. -/
def Dev.failSource (d : Dev) (ready : Nat → Bool) : Option Nat :=
  ((List.range 4).map fun i => ((d.ring 5).source + i) % 4).find? ready

/-- Words of the map region of engine `n` (R181). -/
def Dev.mapWords (d : Dev) (n : Nat) : Nat := 32768 * d.get (FCAP.PART_ENG_GRAN n)

/-- A block of map words (R381). -/
def Dev.sendMap (n at_ : Nat) (d : Dev) : Dev :=
  let words := (List.range' at_ (min 508 (d.mapWords n - at_))).map fun i => leBytes 8 (Tab.get (fun _ => 0) (d.fc n).map i)
  let bytes := words.flatten
  let total := 8 * d.mapWords n
  let last := at_ + words.length ≥ d.mapWords n
  let d := d.sendBlock 5
    (blockHeader 0x46525956 1 bytes.length (d.ring 5).bseq n (8 * at_) total (bit last) ++ bytes)
  d.modFc n fun f => { f with dumpAt := some (at_ + words.length) }

/-- A block of fail records (R381). -/
def Dev.sendFails (n : Nat) (d : Dev) : Dev :=
  let rs := (d.failItems n).take 127
  let bytes := (rs.map FRec.bytes).flatten
  let d := d.sendBlock 5 (blockHeader 0x46525956 0 bytes.length (d.ring 5).bseq n 0 0 0 ++ bytes)
  (d.modFc n fun f => f.drop rs.length).modRing 5 fun x => { x with source := (n + 1) % 4 }

/-- Ring 6: the next block of a segment (R381). -/
def Dev.sendSegment (d : Dev) : Dev :=
  let x := d.ring 6
  match ((List.range 8).map fun i => (x.source + i) % 8).find? fun u => !(d.aq u).out.isEmpty with
  | none => d
  | some u =>
    match (d.aq u).out with
    | [] => d
    | seg :: rest =>
      let part := (seg.drop x.offset).take 4064
      let last := seg.length ≤ x.offset + part.length
      let d := d.sendBlock 6
        (blockHeader 0x41525956 0 part.length x.bseq u x.offset seg.length (bit last) ++ part)
      if last then
        (d.modAq u fun a => { a with out := rest }).modRing 6 fun x => { x with source := (u + 1) % 8, offset := 0 }
      else d.modRing 6 fun x => { x with source := u, offset := x.offset + part.length }

/-- Banks whose buffers drain directly to ring 7: stamp ring banks while DRC is out of service (R355). -/
def Dev.directBanks (d : Dev) : List Nat :=
  if !d.drcOos then []
  else (List.range 32).filter fun b => d.get (PINB.STAMP_CFG b) == 1 && !(d.bank b).buffer.isEmpty

/-- Stream entries on their way to ring 7. -/
def Dev.stampItems (d : Dev) : List (List Byte) :=
  (d.tia.sring ++ d.directBanks.flatMap fun b => (d.bank b).buffer).map fun e => e.bytes

/-- Take the first `k` of them away; an entry that leaves a bank buffer returns its token. -/
def Dev.dropStamps (k : Nat) (d : Dev) : Dev :=
  let fromRing := min k d.tia.sring.length
  let d' := d.modTia fun t => { t with sring := t.sring.drop fromRing }
  (d.directBanks.foldl
    (fun (x : Nat × Dev) b =>
      let j := min x.1 (x.2.bank b).buffer.length
      (x.1 - j, (x.2.modBank b fun s => { s with buffer := s.buffer.drop j }).give poolST b j))
    (k - fromRing, d')).2

/-- A block of stream entries (R381). -/
def Dev.sendStamps (d : Dev) : Dev :=
  let es := d.stampItems.take 254
  let bytes := es.flatten
  (d.sendBlock 7 (blockHeader 0x54525956 0 bytes.length (d.ring 7).bseq 0xFFFFFFFF 0 0 0 ++ bytes)).dropStamps es.length

/-- The oldest closed ledger block goes to the host ledger ring, which accepts it (R291, R382). It comes from the DRAM
ring, or from the buffer while DRC is out of service (R355). -/
def Dev.sendLedger (d : Dev) : Dev :=
  let go (b : Blk) (d : Dev) : Dev :=
    (d.sendBlock 8 b.bytes).modLdg fun l => { l with accepted := some (b.num, b.firstSeq + b.count, b.digest) }
  match d.ldg.dring with
  | b :: rest => (go b d).modLdg fun l => { l with dring := rest, dringHead := l.dringHead + 1 }
  | [] =>
    match d.ldg.buffer with
    | b :: rest => if !d.drcOos then d else (go b d).modLdg fun l => { l with buffer := rest }
    | [] => d

/-- A full block of ring `r` is sent (R381). -/
def Dev.outboundBlock (r : Nat) (d : Dev) : Dev :=
  if !d.outOpen r then d
  else
    match r with
    | 5 =>
      match d.failSource fun n => ((d.fc n).dumpAt.any fun i => decide (i < d.mapWords n)) ||
          127 ≤ (d.failItems n).length || d.failDrained n with
      | some n =>
        match (d.fc n).dumpAt with
        | some i => if i < d.mapWords n then d.sendMap n i else d.sendFails n
        | none => d.sendFails n
      | none => d
    | 6 => d.sendSegment
    | 7 => if 254 ≤ d.stampItems.length then d.sendStamps else d
    | 8 => d.sendLedger
    | _ => d

/-- FLUSH_US has passed since the first item of the open block of ring `r` (R381). -/
def Dev.flushExpiry (r : Nat) (d : Dev) : Dev :=
  match (d.ring r).openSince with
  | none => d
  | some t =>
    let d := d.until (t + usTclk * d.get HDMA.FLUSH_US)
    if !d.outOpen r then d
    else
      match r with
      | 5 => match d.failSource fun n => !(d.failItems n).isEmpty with | some n => d.sendFails n | none => d
      | 7 => if d.stampItems.isEmpty then d else d.sendStamps
      | _ => d

/-! ### MSI-X (R383, R384) -/

/-- A vector is masked. -/
def Dev.msixMasked (d : Dev) (v : Nat) : Bool := (Tab.get msixReset d.host.msix (4 * v + 3)).getLsbD 0

/-- Every posted write that a message on vector `v` reports has been sent. -/
def Dev.reported (d : Dev) (v : Nat) : Bool := if 9 ≤ v && v ≤ 12 then !d.host.wbDue.testBit (v - 4) else true

/-- A message that is due is sent, no sooner than its interval allows (R384). -/
def Dev.sendMessage (v : Nat) (d : Dev) : Dev :=
  if d.host.due.testBit v && !d.msixMasked v && d.reported v && d.hdmaRuns then
    let mod := d.get (HDMA.VEC_MOD v)
    let d := match d.host.lastMsg.find? (fun (k, _) => k == v) with
      | some (_, t) => d.until (t + usTclk * mod)
      | none => d
    (d.post (.message v)).modHost fun h =>
      { h with due := setBitTo h.due v false, lastMsg := h.lastMsg.insert v d.elapsed }
  else d

/-- A write to the MSI-X table in BAR4 (R368, R384). -/
def Dev.msixWrite (v dword : Nat) (value : W32) (d : Dev) : Dev :=
  if d.host.memEn && !d.flt.safeHold then
    d.modHost fun h => { h with msix := h.msix.insert (4 * v + dword) value }
  else if d.host.memEn then d.safeHoldDiscard 7 (16 * v + 4 * dword)
  else d

/-- Every ring is idle and nothing waits to be sent (R364). -/
def Dev.linkIdle (d : Dev) : Bool :=
  d.host.wbDue == 0 && d.host.due == 0 &&
    ((List.range 5).all fun r => !d.on (HDMA.RING_CTRL_EN r) || d.ringCount r == 0) &&
    ((List.range' 5 4).all fun r => (d.ring r).openSince.isNone && (d.ring r).offset == 0)

/-- A hot reset or a PERST# after READY (R366): the PCIe core and its configuration space, and every ring's EN. -/
def Dev.pcieReset (d : Dev) : Dev :=
  let d := d.modHost fun h => { h with memEn := false, master := false, d3 := false, msix := [] }
  let d := (d.put HDMA.LINK_STATUS_L0 0).put HDMA.LINK_STATUS_L1 0
  d.each (List.range 9) Dev.ringDisable

end Sys2Proof.Machine
end

