-- ==== Sys2Proof/Machine/DrcOps.lean ====
section
/-! DEFINITION. DRC and the SRAM scrub of HKS (R301 to R330). -/

namespace Sys2Proof.Machine

/-! ### Geometry and address maps (R308 to R312) -/

/-- Change DRC. -/
def Dev.modDrc (f : DrcSt → DrcSt) (d : Dev) : Dev := { d with drc := f d.drc }

/-- Data rows of a bank (R308). -/
def Dev.dataRows (d : Dev) : Nat :=
  match d.get DRC.CONFIG_DENSITY with
  | 0 => 14563
  | 1 => 29127
  | _ => 58254

/-- The pairs in service, in ascending order. -/
def Dev.pairsIn (d : Dev) : List Nat := (List.range 4).filter (d.get DRC.STATUS_IN_SERVICE).testBit

/-- Data bytes of one pair. -/
def Dev.pairBytes (d : Dev) : Nat := d.dataRows * 0x10000

/-- The usable data size (R308, R312). -/
def Dev.usableBytes (d : Dev) : Nat := d.pairsIn.length * d.pairBytes

/-- An address with the digit of base `n` above unit `u` taken out: the digit and the rest (R312). -/
def takeDigit (u n a : Nat) : Nat × Nat := (a / u % max 1 n, a / u / max 1 n * u + a % u)

/-- Pair, bank, data row and column of a data address (R310 to R312). -/
def Dev.decodeDram (d : Dev) (a : Nat) : Nat × Nat × Nat × Nat :=
  let ps := d.pairsIn
  match d.get DRC.CONFIG_MAP with
  | 0 =>
    let (k, r) := takeDigit 4096 ps.length a
    (ps.getD k 0, r / 4096 % 16, r / 65536, r / 64 % 64)
  | 3 =>
    let q := max 1 d.pairBytes
    let r := a % q
    (ps.getD (a / q) 0, r / 4096 % 16, r / 65536, r / 64 % 64)
  | m =>
    let (k, r) := takeDigit 64 ps.length a
    let row := r / 65536
    let bank := r / 4096 % 16
    (ps.getD k 0, if m = 1 then bank else bank ^^^ (row % 16), row, r / 64 % 64)

/-- The block that a port's address error is charged to (R311 to R313). -/
def portBlock (port : Nat) : Nat :=
  if port ≤ 3 then 0x10 + port
  else match port with
    | 4 => 7
    | 5 => 0x14
    | 6 => 0x18
    | 7 => 0
    | _ => 8

/-- A data address that a port may use (R311, R312). -/
def Dev.dramAllowed (d : Dev) (port a : Nat) : Bool :=
  a + 64 ≤ d.get DRC.USABLE &&
    (d.get DRC.CONFIG_MAP != 3 || (d.get (DRC.MAP3_PORT port)).testBit (d.decodeDram a).1)

/-- DRC is in service. -/
def Dev.dramUp (d : Dev) : Bool := d.on DRC.STATUS_AVAIL

/-! ### Requests and urgency (R313 to R316) -/

/-- Latency target of a port in TCLK. -/
def Dev.target (d : Dev) (port : Nat) : Nat := 16 * d.get (DRC.PORT_TARGET port)

/-- Urgency of an age against a target (R314). -/
def urgencyOf (age t : Nat) : Nat :=
  if t ≤ age then 3 else if 3 * t ≤ 4 * age then 2 else if t ≤ 2 * age then 1 else 0

/-- A request's own urgency. -/
def Dev.ownUrgency (d : Dev) (r : DrcReq) : Nat := urgencyOf (d.elapsed - r.at_) (d.target r.port)

/-- `a` entered before `b`, where both are for one line (R318 to R320): in one DCLK a write goes before a read, and of
two writes the lower port's. -/
def DrcReq.before (a b : DrcReq) : Bool :=
  if a.port = b.port || a.at_ ≠ b.at_ then decide (a.seq < b.seq)
  else if a.write && b.write then decide (a.port < b.port)
  else a.write || (!b.write && decide (a.seq < b.seq))

/-- The write queue of a pair. -/
def Dev.writeQueue (d : Dev) (p : Nat) : List DrcReq := Tab.get (fun _ => []) d.drc.writes p

/-- Change the write queue of a pair. -/
def Dev.setWrites (p : Nat) (l : List DrcReq) (d : Dev) : Dev := d.modDrc fun c => { c with writes := c.writes.insert p l }

/-- Reads that wait on a write (R318). -/
def Dev.waiters (d : Dev) (w : DrcReq) : List DrcReq := d.drc.reads.filter fun r => r.addr == w.addr && w.before r

/-- Urgency of a write with what it inherits (R318). -/
def Dev.writeUrgency (d : Dev) (w : DrcReq) : Nat := ((d.waiters w).map d.ownUrgency).foldl max (d.ownUrgency w)

/-- Writes that a read waits on (R318). -/
def Dev.blockers (d : Dev) (r : DrcReq) : List DrcReq := (d.writeQueue r.pair).filter fun w => w.addr == r.addr && w.before r

/-- Reads that a later write from another port lets go first (R319). -/
def Dev.ahead (d : Dev) (w : DrcReq) : List DrcReq :=
  d.drc.reads.filter fun r => r.addr == w.addr && r.before w && r.port != w.port

/-- Urgency of a read, with that of a write it must go before (R319). -/
def Dev.readUrgency (d : Dev) (r : DrcReq) : Nat :=
  (((d.writeQueue r.pair).filter fun w => w.addr == r.addr && r.before w && w.port != r.port).map d.writeUrgency).foldl max
    (d.ownUrgency r)

/-- A row below the initialisation front of its bank, or initialised ahead of it (R309). -/
def Dev.rowReady (d : Dev) (p bank row : Nat) : Bool :=
  row < Tab.get (fun _ => 0) d.drc.front (16 * p + bank) || (Tab.get (fun _ => []) d.drc.ahead p).contains (bank, row)

/-- A write may be issued: its row is initialised, or can be entered in the table of rows ahead (R309). -/
def Dev.writeOpen (d : Dev) (w : DrcReq) : Bool :=
  (d.rowReady w.pair w.bank w.row || (Tab.get (fun _ => []) d.drc.ahead w.pair).length < 64) && (d.ahead w).isEmpty &&
    (d.writeQueue w.pair).all fun v => v.addr != w.addr || v.seq == w.seq || w.before v

/-- Requests that have reached urgency 3 are counted, once each (R314). -/
def Dev.countOverdue (d : Dev) : Dev :=
  let mark (l : List DrcReq) (d : Dev) : List DrcReq :=
    l.map fun r => { r with overdue := r.overdue || d.ownUrgency r == 3 }
  let fresh (l : List DrcReq) (d : Dev) : List DrcReq := l.filter fun r => !r.overdue && d.ownUrgency r == 3
  let all := d.drc.reads ++ d.drc.ported ++ (d.drc.writes.flatMap fun (_, l) => l)
  let d := d.each (fresh all d) fun r => Dev.bump (DRC.PORT_OVERDUE r.port)
  d.modDrc fun c =>
    { c with reads := mark c.reads d, ported := mark c.ported d, writes := c.writes.map fun (p, l) => (p, mark l d) }

/-- The latency of a finished request (PORTn_MAXLAT). -/
def Dev.noteLatency (r : DrcReq) (d : Dev) : Dev :=
  d.put (DRC.PORT_MAXLAT r.port) (max (d.get (DRC.PORT_MAXLAT r.port)) (min (2 ^ 32 - 1) ((d.elapsed - r.at_) / 16)))

/-- Writes that wait in their ports enter the write queue while it has room and a DT token is free (R315, R331). -/
def Dev.admitWrites (d : Dev) : Dev :=
  d.each d.drc.ported fun w d =>
    if (d.writeQueue w.pair).length < 64 && d.mayTake poolDT (w.port - 4) 1 then
      ((d.take poolDT (w.port - 4) 1).setWrites w.pair (d.writeQueue w.pair ++ [w])).modDrc fun c =>
        { c with ported := c.ported.filter fun v => v.seq != w.seq }
    else d

/-- An address error (R311, R312): FC1 of the requesting block. -/
def Dev.addrErr (port a : Nat) (write : Bool) (d : Dev) : Dev :=
  d.alarm ⟨0x1009, portBlock port, portBlock port, if write then 6 else 5, a, 0, false⟩

/-- A 64-byte line request enters its port's queue (R313). -/
def Dev.portRequest (port : Nat) (write : Bool) (a : Nat) (data : List Byte) (d : Dev) : Dev :=
  let a := a / 64 * 64
  if !d.dramUp && d.drc.retiring.isNone then d
  else if port ≤ 3 && write then d
  else if !d.dramAllowed port a then d.addrErr port a write
  else
    let (p, bank, row, col) := d.decodeDram a
    let r : DrcReq :=
      { port, write, addr := a, pair := p, bank, row, col, data := padTo 64 data, at_ := d.elapsed,
        seq := d.drc.next, overdue := false }
    let d := d.modDrc fun c =>
      { c with next := c.next + 1, asleep := setBitTo c.asleep p false, lastUse := c.lastUse.insert p d.elapsed,
               reads := if write then c.reads else c.reads ++ [r], ported := if write then c.ported ++ [r] else c.ported }
    d.admitWrites

/-! ### Refresh (R321 to R323) -/

/-- Refresh interval in force in halves of a TCLK (R321). -/
def Dev.interval (d : Dev) (p : Nat) : Int :=
  match d.get (DRC.REF_PAIR_F p) with
  | 0 => 25000
  | 1 => 12500
  | 2 => 6250
  | _ => 3125

/-- Refresh debt of a bank now, in halves of a TCLK. -/
def Dev.debt (d : Dev) (p bank : Nat) : Int :=
  let (v, t) := Tab.get (fun _ => ((0 : Int), 0)) d.drc.debt (16 * p + bank)
  v + 2 * ((d.elapsed : Int) - t)

/-- Urgency of a refresh (R322). -/
def Dev.refreshUrgency (d : Dev) (p bank : Nat) : Nat :=
  let i := d.interval p
  let x := d.debt p bank
  if 7 * i ≤ x then 3 else if 6 * i ≤ x then 2 else if 4 * i ≤ x then 1 else 0

/-- The largest debt of a pair is noted, in units of 16 TCLK. -/
def Dev.noteDebt (p : Nat) (d : Dev) : Dev :=
  let m := ((List.range 16).map fun b => d.debt p b).foldl max 0
  d.put (DRC.REF_PAIR_MAX_DEBT p) (max (d.get (DRC.REF_PAIR_MAX_DEBT p)) (min 0xFFFF (m / 32).toNat))

/-- A refresh command goes to a bank (R321): its debt falls by the interval, not below minus the allowance. -/
def Dev.refreshBank (p bank : Nat) (d : Dev) : Dev :=
  let i := d.interval p
  let x := d.debt p bank
  let d := d.noteDebt p
  let d := if 8 * i < x then d.bump DRC.REF_URGENT else d
  d.modDrc fun c =>
    { c with debt := c.debt.insert (16 * p + bank) (max (-(8 * i)) (x - i), d.elapsed)
             openRow := c.openRow.insert (16 * p + bank) none }

/-! ### The command slot (R315) -/

/-- What a pair may do at a slot. -/
inductive SlotAct where
  | refresh (bank : Nat)
  | read (r : DrcReq)
  | write (w : DrcReq)
deriving DecidableEq, Repr

/-- A candidate with what R315 compares. -/
structure SlotCand where
  act : SlotAct
  urgency : Nat
  hit : Bool
  age : Nat                        -- refreshes count as the oldest
  port : Nat
deriving DecidableEq, Repr

/-- `a` goes before `b` by rules 2 to 5 of R315. -/
def SlotCand.beats (a b : SlotCand) : Bool :=
  if a.urgency ≠ b.urgency then decide (b.urgency < a.urgency)
  else if a.hit ≠ b.hit && a.urgency ≠ 3 then a.hit
  else if a.age ≠ b.age then decide (b.age < a.age)
  else decide (a.port < b.port)

/-- The first of the best. -/
def bestCand : List SlotCand → Option SlotCand
  | [] => none
  | x :: xs => some (xs.foldl (fun m y => if y.beats m then y else m) x)

/-- The request hits the open row of its bank. -/
def Dev.rowHit (d : Dev) (r : DrcReq) : Bool := Tab.get (fun _ => none) d.drc.openRow (16 * r.pair + r.bank) == some r.row

/-- A write's urgency is at least that of every pending read of its pair (R315). -/
def Dev.writeStands (d : Dev) (p : Nat) : Bool :=
  let reads := d.drc.reads.filter fun r => r.pair == p
  (d.writeQueue p).any fun w => reads.all fun r => decide (d.ownUrgency r ≤ d.writeUrgency w)

/-- Whether the pair is in a write burst (R315). -/
def Dev.burstNow (d : Dev) (p : Nat) : Bool :=
  let n := (d.writeQueue p).length
  d.writeStands p || 48 ≤ n || (d.drc.burst.testBit p && 16 < n)

/-- The candidates of a pair that are requests. -/
def Dev.requestCands (d : Dev) (p : Nat) : List SlotCand :=
  let reads := (d.drc.reads.filter fun r => r.pair == p && (d.blockers r).isEmpty).map fun r =>
    (⟨.read r, d.readUrgency r, d.rowHit r, d.elapsed - r.at_, r.port⟩ : SlotCand)
  let writes := ((d.writeQueue p).filter d.writeOpen).map fun w =>
    (⟨.write w, d.writeUrgency w, d.rowHit w, d.elapsed - w.at_, w.port⟩ : SlotCand)
  if d.burstNow p then
    if 64 ≤ (d.writeQueue p).length && !writes.isEmpty then writes else reads ++ writes
  else reads

/-- What a pair does at a command slot (R315, R322). -/
def Dev.choose (d : Dev) (p : Nat) : Option SlotAct :=
  let banks := (List.range 16).map fun b =>
    (⟨.refresh b, d.refreshUrgency p b, false, 2 ^ 64 + (d.debt p b).toNat, 16⟩ : SlotCand)
  let must := banks.filter fun c => match c.act with | .refresh b => decide (8 * d.interval p < d.debt p b) | _ => false
  let idle := banks.filter fun c => match c.act with | .refresh b => decide (-(7 * d.interval p) ≤ d.debt p b) | _ => false
  match bestCand must with
  | some c => some c.act
  | none => (bestCand (idle ++ d.requestCands p)).map fun c => c.act

/-- A request opens its row. -/
def Dev.openRowOf (r : DrcReq) (d : Dev) : Dev :=
  d.modDrc fun c => { c with openRow := c.openRow.insert (16 * r.pair + r.bank) (some r.row), lastUse := c.lastUse.insert r.pair d.elapsed }

/-- A pair is held by a drift check (R326). -/
def Dev.pairHeld (d : Dev) (p : Nat) : Bool :=
  match d.drc.held.find? fun (k, _) => k == p with
  | some (_, t) => decide (d.elapsed < t + 6400)
  | none => false

/-- A command slot of a pair (R315): a refresh, a read, or a write with its bytes. -/
def commandSlot (p : Nat) (m : Mem) (d : Dev) : Dev × Mem :=
  if !d.dramUp || !d.pairsIn.contains p || d.pairHeld p || d.drc.retiring.isSome || d.drc.selfRefresh ||
      d.flt.supplyOut.contains .dramPhy then (d, m)
  else
    let d := d.countOverdue
    let d := d.modDrc fun c => { c with burst := setBitTo c.burst p (d.burstNow p) }
    match d.choose p with
    | none => (d, m)
    | some (.refresh b) => (d.refreshBank p b, m)
    | some (.read r) =>
      let r := { r with data := m.dramBytes r.addr 64 }
      ((d.openRowOf r).modDrc fun c =>
        { c with reads := c.reads.filter fun x => x.seq != r.seq
                 issued := c.issued.insert r.port (Tab.get (fun _ => []) c.issued r.port ++ [r]) }, m)
    | some (.write w) =>
      let d := (d.openRowOf w).noteLatency w
      let d := (d.setWrites p ((d.writeQueue p).filter fun x => x.seq != w.seq)).give poolDT (w.port - 4) 1
      let d :=
        if d.rowReady p w.bank w.row then d
        else d.modDrc fun c => { c with ahead := c.ahead.insert p (Tab.get (fun _ => []) c.ahead p ++ [(w.bank, w.row)]) }
      (d.admitWrites, m.writeDram w.addr w.data)

/-! ### Errors (R303, R329) -/

/-- A correctable DRAM error (R329): corrected, counted and reported. -/
def Dev.dramCe (a access : Nat) (d : Dev) : Dev := (d.bump DRC.CE_COUNT).noticeOf ⟨0x3001, 8, 8, access, a, 0, false⟩ (leBytes 8 a)

/-- An uncorrectable DRAM error is counted and its address kept (R329). -/
def Dev.dramUe (a : Nat) (d : Dev) : Dev := (d.bump DRC.UE_COUNT).put DRC.LAST_UE a

/-- Bytes of the DRAM ring of the ledger that hold block number `i` of the ring. -/
def Dev.ledgerSlotAt (d : Dev) (i : Nat) : Nat :=
  let slots := 256 * d.get LDG.DRING_SIZE
  d.get LDG.DRING_BASE + 4096 * ((d.ldg.dringHead + i) % max 1 slots)

/-- A block of the DRAM ring becomes a placeholder (R296, R329): with its header, or as a span of one block. -/
def LdgSt.spoil (l : LdgSt) (i : Nat) (header : Bool) : LdgSt :=
  match l.dring[i]? with
  | none => l
  | some b =>
    let slots := [b.digest] ++ List.replicate 125 []
    let p : Blk :=
      if header then
        { b with flags := if b.flags.testBit 3 then b.flags else b.flags + 8, slots }
      else
        { b with flags := 0x28, count := 0, front := 0, slots := [b.digest, leBytes 8 b.num ++ leBytes 8 b.count] }
    { l with dring := l.dring.set i p }

/-- An uncorrectable line read by a port (R329). -/
def Dev.portUe (r : DrcReq) (d : Dev) : Dev :=
  let a := r.addr
  let fc1 (b : Nat) (d : Dev) : Dev := d.alarm ⟨0x1001, b, portBlock r.port, 5, a, 0, false⟩
  match r.port with
  | 4 => d.noticeOf ⟨0x300C, 7, 7, 5, a, 0, false⟩ (leBytes 8 a)
  | 5 =>
    let n := ((List.range 4).find? fun n =>
      d.get (FCAP.ENG_DRING_BASE n) ≤ a && a < d.get (FCAP.ENG_DRING_BASE n) + 65536 * d.get (FCAP.ENG_DRING_SIZE n)).getD 0
    let gone := (d.fc n).dring.take 2
    ((d.failLost n 3 gone).modFc n fun f => { f with dring := f.dring.drop 2 }) |> fc1 0x14
  | 6 =>
    let d := d.noticeOf ⟨0x300C, 0x18, 0x18, 5, a, 0, false⟩ (leBytes 8 a)
    if d.get TIA.SRING_BASE ≤ a && a < d.get TIA.SRING_BASE + 65536 * d.get TIA.SRING_SIZE then
      let gone := d.tia.sring.take 4
      (d.each gone fun e => Dev.loseStamp (entryPhys e) (entryStamp e)).modTia fun t =>
        { t with sring := t.sring.drop 4 }
    else
      match (List.range 8).find? fun u =>
          d.get (AQ.DRING_BASE u) ≤ a && a < d.get (AQ.DRING_BASE u) + 65536 * d.get (AQ.DRING_SIZE u) with
      | some u =>
        let l := (a - d.get (AQ.DRING_BASE u)) / 64 % max 1 (d.get (AQ.SLOT u))
        let size := d.aqItemSize u
        d.modAq u fun s =>
          { s with out := match s.out with | x :: rest => spoilLine size l x :: rest | [] => [] }
      | none => d
  | 7 =>
    let i := ((List.range d.ldg.dring.length).find? fun i => d.ledgerSlotAt i ≤ a && a < d.ledgerSlotAt i + 4096).getD 0
    (d.modLdg fun l => l.spoil i (decide (d.ledgerSlotAt i + 64 ≤ a))) |> fc1 0
  | _ => d

/-- Read data returns to its port and is decoded (R303, R318, R329). -/
def readDataReturn (port errors : Nat) (m : Mem) (d : Dev) : Dev × Mem :=
  match Tab.get (fun _ => []) d.drc.issued port with
  | [] => (d, m)
  | r :: rest =>
    let d := (d.modDrc fun c => { c with issued := c.issued.insert port rest }).noteLatency r
    let d :=
      if errors = 0 then d
      else if errors ≤ 3 then d.dramCe r.addr 5
      else (d.dramUe r.addr).portUe r
    if port ≤ 3 then
      match (d.eng port).stream.fetching (d.stride port) with
      | some (b, i) =>
        if b.dram && b.addr + 64 * b.linesIn == r.addr && d.refillOpen port then
          enterLine port i b r.data (decide (4 ≤ errors)) m d
        else (d, m)
      | none => (d, m)
    else (d, m)

/-- A line is still to come back to a port. -/
def Dev.readPending (d : Dev) (port a : Nat) : Bool :=
  (d.drc.reads ++ Tab.get (fun _ => []) d.drc.issued port).any fun r => r.port == port && r.addr == a

/-- Engine `n` refills its ring by a line (R113): the line given for a host buffer; for a SRC_DRAM buffer a read through port Pn,
whose data enters the ring as it returns. A DRAM line that can no longer be read stops the fetching (R112). -/
def streamRefill (n : Nat) (line : List Byte) (bad : Bool) (m : Mem) (d : Dev) : Dev × Mem :=
  match (d.eng n).stream.fetching (d.stride n) with
  | none => (d, m)
  | some (b, i) =>
    if !b.dram then refillLine n line bad m d
    else
      let a := b.addr + 64 * b.linesIn
      if !d.refillOpen n || d.readPending n a then (d, m)
      else if !d.dramUp || !d.dramAllowed n a then
        (if d.on (SEQ.STREAM_STATUS_DESC_ERR n) then d else d.streamStop n 5 (d.descIndex n i), m)
      else (d.portRequest n false a [], m)

/-! ### MR4, drift and retirement (R323, R325 to R328) -/

/-- MR4 of the dies of a pair (R323). -/
def Dev.mr4 (p rate : Nat) (hot : Bool) (d : Dev) : Dev :=
  if !d.pairsIn.contains p || d.drc.selfRefresh then d
  else
    let f := if hot then 3 else rate
    let d := d.noteDebt p
    let d := if d.get (DRC.REF_PAIR_F p) = f then d
      else (d.put (DRC.REF_PAIR_F p) f).modDrc fun c => { c with fChanged := c.fChanged.insert p (some d.elapsed) }
    if hot then d.notice 0x3007 8 [] else d

/-- A DISCARDED record (R351, R279): what path `p` lost, written by FLT. -/
def Dev.discardedRecord (p n first last : Nat) (d : Dev) : Dev :=
  d.emit 2 0x04 (leBytes 1 p ++ leBytes 8 n ++ leBytes 4 first ++ leBytes 4 last)

/-- The contents of DRAM are lost (R328): what each client makes of it. -/
def Dev.loseDram (d : Dev) : Dev :=
  let d := d.each (List.range 4) fun n d =>
    match (d.eng n).stream.bufs.zipIdx.find? fun (b, _) => b.dram && !b.whole (d.stride n) with
    | some (_, i) => if d.on (SEQ.STREAM_STATUS_DESC_ERR n) then d else d.streamStop n 5 (d.descIndex n i)
    | none => d
  let d := d.each (List.range 4) fun n d =>
    (d.failLost n 2 (d.fc n).dring).modFc n fun f => { f with dring := [] }
  let discarded (path n first last : Nat) (d : Dev) : Dev :=
    if n = 0 then d else d.discardedRecord path n first last
  let d := d.each (List.range 8) fun u d =>
    let segs := if d.on (AQ.SPILL u) then (d.aq u).out else []
    let at_ (x : List Byte) : Nat := ofLeBytes ((x.drop 8).take 8)
    (discarded (0x18 + u) segs.length ((segs.head?.map at_).getD 0) ((segs.getLast?.map at_).getD 0) d).modAq u fun a =>
      if d.on (AQ.SPILL u) then { a with out := [] } else a
  let es := d.tia.sring
  let d := (discarded 0x0A es.length ((es.head?.map fun e => entryStamp e / 4096).getD 0)
    ((es.getLast?.map fun e => entryStamp e / 4096).getD 0) d).modTia fun t => { t with sring := [] }
  d.loseLedgerBlocks d.ldg.dring []

/-- DRC goes out of service (R327, R328, R352): held out until power-on. DEDUCED: what DRAM holds is lost then. -/
def Dev.drcOut (d : Dev) : Dev :=
  let d := d.loseDram
  let d := ((d.put DRC.STATUS_AVAIL 0).bump FLT.STATUS_OOS_COUNT).replaceReq 3
  (d.modBlk 8 fun r => { r with state := 3, lastDet := 0x100A, intrinsic := true }).signal 14

/-- A pair with no working setting is retired, or DRC is held out of service (R328). -/
def Dev.retire (p : Nat) (d : Dev) : Dev :=
  if d.pairsIn.length ≤ 2 then d.drcOut
  else
    let d := d.put DRC.STATUS_IN_SERVICE (setBitTo (d.get DRC.STATUS_IN_SERVICE) p false)
    let d := (d.put DRC.STATUS_RETIRED (setBitTo (d.get DRC.STATUS_RETIRED) p true)).replaceReq 4
    ((d.modDrc fun c => { c with retiring := some d.elapsed }).signal 14).fault 0x100A 8

/-- The centre that R325 leaves for a lane, as a number of steps of W: none where no setting works. -/
def laneCentre (t : Bool × Bool × Bool × Bool × Bool) : Option Int :=
  match t with
  | (a2, a1, a0, b1, b2) =>
    if a1 && a0 && b1 then some 0
    else if a2 && a1 && a0 then some (-1)
    else if a0 && b1 && b2 then some 1
    else none

/-- The delay register of lane item `i` of a pair: channel, lane and direction. -/
def laneField (p i : Nat) : Fld :=
  let ch := 2 * p + i / 4 % 2
  if i % 2 = 0 then DRC.DLY_RD ch (i / 2 % 2) else DRC.DLY_WR ch (i / 2 % 2)

/-- The verification of one lane item; answers whether it has a working setting (R325). -/
def Dev.checkLane (p i : Nat) (t : Bool × Bool × Bool × Bool × Bool) (d : Dev) : Bool × Dev :=
  match laneCentre t with
  | none => (false, d)
  | some 0 => (true, d)
  | some s =>
    let w : Int := d.get DRC.VERIFY_W
    let key := 8 * p + i % 8
    let total := Tab.get (fun _ => (0 : Int)) d.drc.shift key + s * w
    if 4 * w < total ∨ total < -(4 * w) then (false, d)
    else
      let f := laneField p i
      let d := (d.put f (unsignedOf 14 ((d.get f : Int) + s * w))).modDrc fun c => { c with shift := c.shift.insert key total }
      (true, (d.bump DRC.DRIFT_COUNT).notice 0x3004 8 [])

/-- A drift check of a pair (R326). -/
def Dev.driftCheck (p : Nat) (lanes : List (Bool × Bool × Bool × Bool × Bool)) (d : Dev) : Dev :=
  if !d.dramUp || !d.pairsIn.contains p || d.drc.retiring.isSome || d.drc.selfRefresh then d
  else
    let due := (Tab.get (fun _ => none) d.drc.fChanged p).getD
      (Tab.get (fun _ => 0) d.drc.lastCheck p + msTclk * d.get DRC.VERIFY_PERIOD)
    let d := d.until due
    let urgent := (d.drc.reads ++ d.drc.ported ++ d.writeQueue p).any fun r => r.pair == p && d.ownUrgency r == 3
    if urgent && d.elapsed < due + 16000000 then d
    else
      let d := d.modDrc fun c =>
        { c with held := c.held.insert p d.elapsed, lastCheck := c.lastCheck.insert p d.elapsed
                 fChanged := c.fChanged.insert p none }
      let (ok, d) := lanes.zipIdx.foldl
        (fun (x : Bool × Dev) (t, i) => let (b, d) := x.2.checkLane p i t; (x.1 && b, d)) (true, d)
      if ok then d else d.retire p

/-- A retirement ends (R328): the map changes, the sweep restarts, and what was stored is lost. -/
def retirementEnd (m : Mem) (d : Dev) : Dev × Mem :=
  match d.drc.retiring with
  | none => (d, m)
  | some t =>
    let d := d.until (t + 3200000)
    let d := (d.put DRC.USABLE d.usableBytes).put DRC.STATUS_INIT_DONE 0
    let d := d.modDrc fun c => { c with retiring := none, front := [], ahead := [], scrubAt := 0, openRow := [], issued := [] }
    let again (r : DrcReq) (d : Dev) : DrcReq :=
      let (p, bank, row, col) := d.decodeDram r.addr
      { r with pair := p, bank, row, col }
    let all := d.drc.reads ++ d.drc.ported ++ (d.drc.writes.flatMap fun (_, l) => l)
    let d := d.each (all.filter fun r => !d.dramAllowed r.port r.addr && 4 ≤ r.port) fun r => Dev.addrErr r.port r.addr r.write
    let keep := fun (r : DrcReq) => d.dramAllowed r.port r.addr
    let lostWrites := (d.drc.writes.flatMap fun (_, l) => l).filter fun w => !keep w
    let d := d.each lostWrites fun w => Dev.give poolDT (w.port - 4) 1
    let ws := ((d.drc.writes.flatMap fun (_, l) => l).filter keep).map fun r => again r d
    let d := d.modDrc fun c =>
      { c with reads := (c.reads.filter keep).map fun r => again r d
               ported := (c.ported.filter keep).map fun r => again r d
               writes := [] }
    let d := d.each ws fun w d => d.setWrites w.pair (d.writeQueue w.pair ++ [w])
    (d.loseDram, m.dropDram)

/-! ### Initialisation, scrub and power-down (R309, R316, R330) -/

/-- The front of a bank moves up by one row (R309): its bytes read as zeros, as the memory already holds them; a row
initialised ahead of the front keeps its bytes and leaves the table. -/
def Dev.initRow (p bank : Nat) (d : Dev) : Dev :=
  let row := Tab.get (fun _ => 0) d.drc.front (16 * p + bank)
  if !d.dramUp || !d.pairsIn.contains p || d.dataRows ≤ row then d
  else
    let d := d.modDrc fun c =>
      { c with front := c.front.insert (16 * p + bank) (row + 1)
               ahead := c.ahead.insert p ((Tab.get (fun _ => []) c.ahead p).filter fun x => x != (bank, row)) }
    let done := d.pairsIn.all fun q => (List.range 16).all fun b =>
      decide (d.dataRows ≤ Tab.get (fun _ => 0) d.drc.front (16 * q + b))
    d.when done fun d => d.put DRC.STATUS_INIT_DONE 1

/-- P8 scrubs the next usable line (R329, R330). -/
def Dev.dramScrub (errors : Nat) (d : Dev) : Dev :=
  if !d.dramUp || d.drc.retiring.isSome || d.drc.selfRefresh then d
  else
    let a := d.drc.scrubAt
    let d := d.modDrc fun c => { c with scrubAt := if d.get DRC.USABLE ≤ a + 64 then 0 else a + 64 }
    if errors = 0 then d else if errors ≤ 3 then d.dramCe a 7 else d.dramUe a

/-- A pair with nothing to do enters power-down (R316). -/
def Dev.powerDownPair (p : Nat) (d : Dev) : Dev :=
  let busy := (d.drc.reads ++ d.drc.ported ++ d.writeQueue p).any fun r => r.pair == p
  if d.on DRC.CONFIG_PD_EN && d.dramUp && d.pairsIn.contains p && !busy && !d.drc.selfRefresh then
    let d := d.until (Tab.get (fun _ => 0) d.drc.lastUse p + 16 * d.get DRC.CONFIG_PD_IDLE)
    d.modDrc fun c => { c with asleep := setBitTo c.asleep p true }
  else d

/-! ### SRAM scrub (R301, R305, R306) -/

/-- Regions of R301 in the order of a sweep (R306): number, start, bytes, data bytes of a codeword. -/
def sweepRegions : List (Nat × Nat × Nat × Nat) :=
  [(5, 0x1C80000, 0x160000, 22), (6, 0x1DE0000, 0x180000, 64), (0, 0, 0xE00000, 64), (1, 0xE00000, 0x800000, 64),
   (2, 0x1600000, 0x400000, 64), (3, 0x1A00000, 0x200000, 64), (4, 0x1C00000, 0x80000, 64),
   (7, 0x1F60000, 0x40000, 64), (8, 0x1FA0000, 0x40000, 64), (9, 0x1FE0000, 0x10000, 64), (10, 0x1FF0000, 0x10000, 64)]

/-- Codewords of a sweep. -/
def sweepLength : Nat := (sweepRegions.map fun (_, _, len, k) => len / k).sum

/-- Region and address of codeword `i` of a sweep. -/
def sweepAt (i : Nat) : List (Nat × Nat × Nat × Nat) → Nat × Nat
  | [] => (0, 0)
  | (r, base, len, k) :: rest => if i < len / k then (r, base + k * i) else sweepAt (i - len / k) rest

/-- An uncorrectable error found by the scrub (R305). A line of a typed queue is the one the next free value names. -/
def Dev.sramUe (region a : Nat) (d : Dev) : Dev :=
  let grave (d : Dev) : Dev := d.alarm ⟨0x0002, 12, 12, 7, a, region, false⟩
  let fc1 (b : Nat) (d : Dev) : Dev := d.alarm ⟨0x1002, b, 12, 7, a, region, false⟩
  let lost (b : Nat) (d : Dev) : Dev := d.noticeOf ⟨0x300C, b, 12, 7, a, 0, false⟩ (leBytes 8 a)
  match region with
  | 0 =>
    d.cacheWritten a 64 true
  | 1 =>
    let g := (a - 0xE00000) / granule
    match (List.range 4).find? fun n =>
        d.get (FCAP.PART_ENG_BASE n) ≤ g && g < d.get (FCAP.PART_ENG_BASE n) + d.get (FCAP.PART_ENG_GRAN n) with
    | some n =>
      let (x, d) := d.draw
      let k := 2 * (x % (1 + (d.fc n).queue.length / 2))
      let gone := ((d.fc n).queue.drop k).take 2
      fc1 0x14 ((d.failLost n 3 gone).modFc n fun f =>
        { f with queue := f.queue.take k ++ f.queue.drop (k + 2) })
    | none => fc1 0x14 d
  | 2 =>
    let g := (a - 0x1600000) / 0x10000
    match (List.range 8).find? fun u => d.get (AQ.PART_BASE u) ≤ g && g < d.get (AQ.PART_BASE u) + d.get (AQ.PART_GRAN u) with
    | some u =>
      let (x, d) := d.draw
      let m := (d.aq u).done.length
      let x' := x / (m + 1)
      let size := d.aqItemSize u
      let k := x' % max 1 (d.aq u).samples.length
      let e := 4 * (x' % (1 + (d.aq u).entries.length / 4))
      if x % (m + 1) < m then
        lost 0x18 (d.modAq u fun s =>
          { s with done := s.done.zipIdx.map fun (y, i) =>
              if i = x % (m + 1) then spoilLine size (1 + x' % max 1 ((y.length - 1) / 64)) y else y })
      else if d.aqKind u = 2 then
        lost 0x18 (d.modAq u fun s =>
          { s with entries := s.entries.zipIdx.map fun (y, i) => if e ≤ i && i < e + 4 then { y with bytes := y.bytes.map fun _ => 0 } else y
                   lostEntries := s.lostEntries + min 4 (s.entries.length - e) })
      else lost 0x18 (d.modAq u fun s =>
          { s with samples := s.samples.zipIdx.map fun (y, i) =>
              if i = k then { y with bytes := y.bytes.map fun _ => 0, lost := true } else y })
    | none => lost 0x18 d
  | 3 =>
    fc1 0 (d.modLdg fun l =>
      { l with buffer := l.buffer.zipIdx.map fun (b, i) =>
          if i = (a - 0x1A00000) / 4096 then
            { b with flags := if b.flags.testBit 3 then b.flags else b.flags + 8
                     slots := [b.digest] ++ List.replicate 125 [] }
          else b })
  | 4 =>
    let b := (a - 0x1C00000) / 0x4000
    let (x, d) := d.draw
    let k := 4 * (x % (1 + (d.bank b).buffer.length / 4))
    let gone := ((d.bank b).buffer.drop k).take 4
    let d := d.each gone fun e => Dev.loseStamp (entryPhys e) (entryStamp e)
    lost (0x20 + b) ((d.modBank b fun s => { s with buffer := s.buffer.take k ++ s.buffer.drop (k + 4) }).give poolST b gone.length)
  | 7 => fc1 11 d
  | 8 => fc1 7 d
  | 10 => fc1 12 d
  | _ => grave d

/-- HKS scrubs the next codeword (R303, R305, R306). A correction that another write has overtaken is not written back;
either way the codeword holds what was written to it. -/
def Dev.sramScrub (errors : Nat) (_overtaken : Bool) (d : Dev) : Dev :=
  if d.blockDown 12 || d.st == stDormant then d
  else
    let (region, a) := sweepAt d.hks.scrubAt sweepRegions
    let d := { d with hks := { d.hks with scrubAt := if sweepLength ≤ d.hks.scrubAt + 1 then 0 else d.hks.scrubAt + 1 } }
    if errors = 0 then d
    else if errors ≤ 3 then (d.bump (HKS.SRAM_CE region)).noticeOf ⟨0x3001, 12, 12, 7, a, 0, false⟩ (leBytes 8 a)
    else (d.bump (HKS.SRAM_UE region)).sramUe region a

end Sys2Proof.Machine
end

