-- ==== Sys2Proof/Machine/TokOps.lean ====
section
/-! DEFINITION. TOK: grants, the audit and reconciliation (R331 to R343). -/

namespace Sys2Proof.Machine

/-! ### Grants to waiting holders (R332, R333, R335) -/

/-- Tokens that the oldest waiting item of a holder needs; 0 where none waits. -/
def Dev.wants (d : Dev) (p h : Nat) : Nat :=
  match p with
  | 2 => bit ((List.range 33).any fun i => !(d.pin (physOfPage h i)).queue.isEmpty)
  | 4 => match (d.path h).pend with | [] => 0 | r :: _ => recordsOf r.payload
  | 5 => bit (d.drc.ported.any fun w => w.port == h + 4)
  | _ => 0

/-- A grant to the holder takes shared tokens (R332). -/
def Dev.needsShared (d : Dev) (p h : Nat) : Bool := poolReserve p < d.tok.outOf p h + d.wants p h

/-- Distance in the rotation that starts after the holder that last received a shared token (R332). -/
def Dev.turnOf (d : Dev) (p h : Nat) : Nat :=
  let last := Tab.get (fun _ => 127) d.tok.lastShared p
  (h + 128 - (last + 1) % 128) % 128

/-- Another holder that waits for shared tokens comes first (R332). -/
def Dev.outranked (d : Dev) (p h : Nat) : Bool :=
  d.needsShared p h && (poolHolders p).any fun k =>
    k != h && 0 < d.wants p k && d.needsShared p k && d.mayTake p k (d.wants p k) && d.turnOf p k < d.turnOf p h

/-- Count a grant that waited (POOLp.WAITS). -/
def Dev.waited (p n : Nat) (d : Dev) : Dev := { d with tok := d.tok.waited p n }

/-- The owner of pool `p` grants the oldest waiting item of holder `h` its tokens (R332); the item enters its stretch. -/
def Dev.tokenGrant (p h : Nat) (d : Dev) : Dev :=
  let n := d.wants p h
  if n = 0 || !(poolHolders p).contains h || !d.mayTake p h n || d.outranked p h then d
  else
    match p with
    | 2 => (d.stampAdmit h).waited 2 1
    | 4 =>
      match (d.path h).pend with
      | [] => d
      | r :: rest =>
        let d := (d.take 4 h n).waited 4 n
        d.setPath h (({ d.path h with pend := rest }).enter r)
    | 5 => d.admitWrites.waited 5 1
    | _ => d

/-! ### Audit (R341) -/

/-- Tokens of pool `p` that items of holder `h` hold in the stretch now. -/
def Dev.inFlight (d : Dev) (p h : Nat) : Nat :=
  match p with
  | 1 => (d.fc h).col.length
  | 2 => (d.bank h).buffer.length
  | 3 => (d.acq.lines.filter fun u => u == h).length + bit (0 < (d.aq h).fill)
  | 4 => slotsOf (d.path h).col + slotsOf (d.ldg.held.filter fun r => r.path == h)
  | 5 => (d.drc.writes.map fun (_, l) => (l.filter fun w => w.port == h + 4).length).sum
  | _ => 0

/-- FREE plus every OUT of a pool equals its size. -/
def TokSt.sums (t : TokSt) (p : Nat) : Bool := t.freeOf p + ((poolHolders p).map (t.outOf p)).sum == poolSizeOf p

/-- A token conservation violation (R337, R341). -/
def Dev.tokenFault (d : Dev) : Dev := (d.alarm ⟨0x0001, 6, 0xFF, 8, 0, 0, false⟩).signal 14

/-- The check of every CCLK (R341). -/
def Dev.tokenAudit (selfError : Bool) (d : Dev) : Dev :=
  let d := d.aqDrain
  let bad := (List.range 7).filter fun p => !d.tok.sums p || d.tok.auditBad.testBit p
  let ok := maskOf ((List.range 7).filter fun p => !bad.contains p)
  let d := d.put TOK.STATUS_AUDIT_OK ok
  let d := { d with tok := { d.tok with auditBad := 0 } }
  if selfError || !bad.isEmpty then d.tokenFault else d

/-- The block whose reset leaves a holder out of reconciliation (R341). -/
def holderBlock (p h : Nat) : Nat :=
  match p with
  | 0 => 0x10 + h
  | 1 => 0x14
  | 2 => 0x20 + h
  | 3 => 0x18
  | 4 => blockOfPath h
  | 5 => if h = 0 then 7 else if h = 1 then 0x14 else if h = 2 then 0x18 else if h = 3 then 0 else 8
  | _ => 7

/-- A holder is left out of the round: its block is in RESET. -/
def Dev.excluded (d : Dev) (p h : Nat) : Bool := (d.blk (holderBlock p h)).state == 1

/-- Every pool and holder of it. -/
def poolPairs : List (Nat × Nat) := (List.range 7).flatMap fun p => (poolHolders p).map fun h => (p, h)

/-- TOK sends its markers (R341); rounds pause in DORMANT. -/
def Dev.reconStart (d : Dev) : Dev :=
  if d.st = stDormant || d.tok.round.isSome then d
  else
    let d := d.aqDrain
    let free := (List.range 7).map fun p => (p, d.tok.freeOf p)
    let outs := (poolPairs.filter fun (p, h) => !d.excluded p h).map fun (p, h) => (128 * p + h, (d.tok.outOf p h, d.inFlight p h))
    { d with tok := { d.tok with round := some (free, outs) } }

/-- A round completes (R341): the counts as of the marker are compared and shown (R343). After a supply gap its end is
reported (R342). -/
def Dev.reconEnd (d : Dev) : Dev :=
  match d.tok.round with
  | none => d
  | some (free, outs) =>
    let bad := (List.range 7).filter fun p => outs.any fun (k, o, i) => k / 128 == p && o != i
    let shown (p : Nat) : Nat × Nat × Nat :=
      (Tab.get poolSizeOf free p, 0, ((outs.filter fun (k, _) => k / 128 == p).map fun (_, _, i) => i).sum)
    let recon := (List.range 7).map fun p => (p, shown p)
    let d := { d with tok := { d.tok with round := none, recon } }
    let d := d.bump TOK.RECON_COUNT
    let d := d.put TOK.STATUS_AUDIT_OK
      (maskOf ((List.range 7).filter fun p => (d.get TOK.STATUS_AUDIT_OK).testBit p && !bad.contains p))
    let d := if bad.isEmpty then d else d.tokenFault
    match d.flt.gapCheck with
    | some (a, z) =>
      ({ d with flt := { d.flt with gapCheck := none } }).notice 0x3008 6 (leBytes 4 a ++ leBytes 4 z)
    | none => d

/-- TOK.CTRL.MIN_CLR for a set of pools (R343). -/
def Dev.minClr (pools : Nat) (d : Dev) : Dev :=
  let ps := (List.range 7).filter pools.testBit
  { d with tok := { d.tok with
      minFree := d.tok.minFree.filter fun (p, _) => !ps.contains p
      out := d.tok.out.map fun (k, o, peak) => if ps.contains (k / 128) then (k, (o, o)) else (k, (o, peak)) } }

/-- A holder's tokens come back in the reset of its block (R341): items are already gone. -/
def Dev.returnTokens (p h : Nat) (d : Dev) : Dev :=
  let n := d.tok.outOf p h
  (d.give p h n).bumpBy TOK.RESET_RETURNED n

end Sys2Proof.Machine
end

