-- ==== Sys2Proof/Machine/Faults.lean ====
section
/-! DEFINITION. FLT: what a detection does to the device (R344 to R356), and the resets of blocks (R11, R351 to R354). -/

namespace Sys2Proof.Machine

/-- Change FLT. -/
def Dev.modFlt (f : FltSt → FltSt) (d : Dev) : Dev := { d with flt := f d.flt }

/-! ### Dependents (R353) -/

/-- Blocks that have an FC1 (R353). -/
def hasFc1 (b : Nat) : Bool :=
  b == 0 || b == 1 || b == 3 || b == 4 || (7 ≤ b && b ≤ 0xC) || (0x10 ≤ b && b ≤ 0x14) || b == 0x18 ||
    (0x20 ≤ b && b ≤ 0x53)

/-- Codes of a range of blocks. -/
def blockRange (first count : Nat) : List Nat := List.range' first count

/-- The pin blocks of engine `n` under the maps in force. -/
def Dev.enginePinbs (d : Dev) (n : Nat) : List Nat := (d.engBanks n).map (0x20 + ·)

/-- The dependent blocks of `b` under the maps in force (R353). -/
def Dev.dependents (d : Dev) (b : Nat) : List Nat :=
  let seqs := blockRange 0x10 4
  if b = 0 then blockRange 1 12 ++ blockRange 0x10 68
  else if b = 1 then seqs ++ blockRange 0x50 4 ++ blockRange 0x20 32 ++ [0x14, 9, 10, 0x18, 11]
  else if b = 8 then seqs ++ [0x14, 0x18, 0, 7, 10, 11, 12]
  else if b = 7 then seqs ++ [0x14, 0x18, 0, 10, 4]
  else if 0x10 ≤ b && b ≤ 0x13 then [0x40 + b, 0x14, 0x18] ++ d.enginePinbs (b - 0x10)
  else if 0x50 ≤ b then [b - 0x40] ++ d.enginePinbs (b - 0x50)
  else if b = 0x14 then seqs
  else if 0x20 ≤ b && b ≤ 0x3F then [0x10 + d.bankEng (b - 0x20), 0x14, 10, 0x18, 11]
  else if 0x40 ≤ b && b ≤ 0x4F then [0x18, 11] ++ seqs
  else if b = 9 || b = 10 || b = 0x18 then seqs
  else if b = 11 then blockRange 0x20 48
  else if b = 12 then [11, 8]
  else [11]

/-- A fault counts in U unless it came from outside the device (R362). -/
def Dev.isIntrinsic (d : Dev) (det : Nat) : Bool :=
  det != 0x1005 && det != 0x1006 && det != 0x1008 && det != 0x0004 && det != 0x0006 && !d.on FLT.STATUS_FACTORY

/-! ### Reset of a block's registers and ledger path (R11, R351) -/

/-- Registers of a block after its reset: kept bits stay, the others take their reset value (R11). -/
def resetRegs (b : Nat) (regs : Tab W32) : Tab W32 :=
  regs.map fun (a, v) =>
    match decodeReg a with
    | .reg r w n i j _ _ =>
      if w.block + w.blockStep * n = b then
        let k := BitVec.ofNat 32 r.kept
        (a, (v &&& k) ||| (BitVec.ofNat 32 (r.reset.at n i j) &&& ~~~ k))
      else (a, v)
    | _ => (a, v)

/-- The converters of a group that are not OPEN: the shutdown sequencer lies outside the reset (R226). -/
def Dev.liveSmcPages (d : Dev) (g : Nat) : List Nat := (List.range 17).filter fun i => d.get (SMCG.OUT_OUT_STATE g i) != 0

/-- Fields that show what lies outside a block's reset: live inputs, the quality that R43 governs, shutdowns that R226
keeps going, a thermal hold. -/
def Dev.liveFields (d : Dev) (b : Nat) : List Fld :=
  if b = 1 then
    [PLN.QUALITY_QUAL, PLN.QUALITY_REF_WARM, PLN.QUALITY_PLLT_LOCK, PLN.QUALITY_REFCLK_OK, PLN.QUALITY_REFSTEP]
  else if 0x40 ≤ b && b ≤ 0x4F then
    (d.liveSmcPages (b - 0x40)).flatMap fun i =>
      let g := b - 0x40
      [SMCG.OUT_OUT_STATE g i, SMCG.OUT_OFF_CAUSE g i, SMCG.ACT_MODE_MODE g i, SMCG.ACT_MODE_IRANGE g i, SMCG.ACT_FORCE g i]
  else if b = 7 then [HDMA.LINK_STATUS_WIDTH, HDMA.LINK_STATUS_SPEED, HDMA.LINK_STATUS_L0, HDMA.LINK_STATUS_L1] ++
    (List.range 9).map HDMA.RING_STATUS_DESC_ERR
  else if b = 3 then [GOV.STATE_THERM_HOLD]
  else []

/-- The registers of a block take their values after an FC1 reset. -/
def Dev.resetBlockRegs (b : Nat) (d : Dev) : Dev :=
  if b = 0x18 then
    (d.each (List.range 8) fun u d => (d.setReg (AQ.STATUS_STATE u).addr 0).put (AQ.STATUS_STATE u) aqReset
      |>.put (AQ.PART_PART_RESULT u) 0).stateSignal d
  else
    let live := (d.liveFields b).map fun f => (f, d.get f)
    let d := { d with regs := resetRegs b d.regs }
    d.each live fun (f, v) => Dev.put f v

/-- What a path has lost so far in this reset: records, first and last stamps. -/
def lostOf (rs : List Rec) (ovf : Nat × Nat × Nat) : Nat × Nat × Nat :=
  let n := slotsOf rs + ovf.1
  let stamps := rs.map (fun r => r.coarse) ++ (if ovf.1 = 0 then [] else [ovf.2.1, ovf.2.2])
  (n, stamps.foldl min (stamps.headD 0), stamps.foldl max 0)

/-- A path of block `b` has lost `n` records in this reset; what it lost before counts with them (R351). -/
def Dev.noteDiscarded (b p n first last : Nat) (d : Dev) : Dev :=
  if n = 0 then d
  else d.modBlk b fun r =>
    let had := r.discarded.filter fun x => x.1 == p
    let all := had ++ [(p, n, first, last)]
    { r with discarded := (r.discarded.filter fun x => x.1 != p) ++
        [(p, (all.map fun x => x.2.1).foldl (· + ·) 0, (all.map fun x => x.2.2.1).foldl min first,
          (all.map fun x => x.2.2.2).foldl max last)] }

/-- The records of a path are discarded and their tokens return (R341, R351). DEDUCED: a record stamped at the TCLK of the
detection belongs to the reactions of its chapter and leaves after the path was emptied. -/
def Dev.discardPath (b p : Nat) (d : Dev) : Dev :=
  if p = 0 then d
  else
    let q := d.path p
    let own (r : Rec) : Bool := decide (d.now ≤ r.coarse)
    let goneCol := q.col.filter fun r => !own r
    let gone := goneCol ++ q.pend.filter fun r => !own r
    let kept := q.col.filter own ++ q.pend.filter own
    let (n, first, last) := lostOf gone q.ovf
    let d := (d.give poolLT p (slotsOf goneCol)).bumpBy TOK.RESET_RETURNED (slotsOf goneCol)
    let d := d.setPath p
      { q with col := q.col.filter own, pend := q.pend.filter own, ovf := (0, 0, 0)
               rx := (kept.head?.map fun r => r.pseq).getD q.pseq }
    d.noteDiscarded b p n first last

/-! ### What the reset of each block does (R351, R353) -/

/-- An engine stops (R87, R95, R117): an abort with cause FAULT, its stream flushed, a load given up. The channels of one that
was idle are off (R105, R122). -/
def Dev.resetEngine (n : Nat) (d : Dev) : Dev :=
  let running := d.engState n == seqRunning || d.engState n == seqHolding || d.engState n == seqPaused
  let d := if running then d.engAbort n ((d.eng n).abortReq.getD 5) false else d.streamFlush n true
  let d := d.modEng n fun e =>
    { e with loading := false, loadRefused := e.loading || e.loadRefused, idleVec := List.replicate 256 4, idleNext := none,
             regs := .zero, arch := .zero, started := false }
  let d :=
    if (d.eng n).aborted then d
    else d.each (d.engPins n) fun p => Dev.modPin p fun s => { s with edges := [], cmps := [], out := .off, latch := false, req := 4 }
  let pos := d.get (SEQ.STREAM_POS n)
  (((d.dropHeldStart n).resetBlockRegs (0x10 + n)).put (SEQ.STREAM_POS n) pos).engGo n seqReset

/-- Timing sets (R135): the copies, their periods and deskews are kept; a staged commit is dropped. -/
def Dev.resetTset (n : Nat) (d : Dev) : Dev :=
  (d.modTset n fun t => { t with held := [], commitHeld := false, originHeld := none }).resetBlockRegs (0x50 + n)

/-- Fail capture (R186): the writer, the queues, the spill path and the dump. -/
def Dev.resetFcap (d : Dev) : Dev :=
  let d := d.each (List.range 4) fun n d =>
    let f := d.fc n
    let lost := f.dring ++ f.queue ++ f.col
    let stamps := lost.map fun r => r.stamp
    let d := ((d.failLost n 2 (f.dring ++ f.queue)).failDiscard n f.col).returnTokens poolFT n
    let d := d.noteDiscarded 0x14 (0x14 + n) lost.length (stamps.foldl min (stamps.headD 0)) (stamps.foldl max 0)
    d.modFc n fun f => { f with col := [], queue := [], dring := [], dumpAt := none }
  d.resetBlockRegs 0x14

/-- A pin bank (R148, R159, R205, R271): outputs off, comparators unresolved, stamps lost, handovers undone. -/
def Dev.resetBank (b : Nat) (d : Dev) : Dev :=
  let d := (d.calBankReset b).each (bankPins b) Dev.tiaLoseChannel
  let lostNow := (bankPins b).flatMap fun p => (d.pin p).queue.map fun e => (p, entryStamp e)
  let inBuffer := (d.bank b).buffer.map fun e => (entryPhys e, entryStamp e)
  let d := (d.modBank b fun _ => .reset).returnTokens poolST b
  let d := d.each (bankPins b) fun p => Dev.modPin p fun s =>
    { s with queue := [], out := .off, latch := false, edges := [], lastEdge := none, req := 4, unit := false, lowered := false }
  let d := (d.resetBlockRegs (0x20 + b)).each (inBuffer ++ lostNow) fun (p, t) => Dev.loseStamp p t
  d.each (bankPins b) Dev.unpowerCmp

/-- A source-measure group (R226, R227): shutdowns with cause GROUP_RESET, handovers undone. -/
def Dev.resetGroup (g : Nat) (d : Dev) : Dev := ((d.smcGroupOff g 5).calBankReset (32 + g)).resetBlockRegs (0x40 + g)

/-- Trigger lines (R232): a pulse in progress ends at once. -/
def Dev.resetTrg (d : Dev) : Dev :=
  (d.each (List.range 8) fun n d =>
    d.modLine n fun l => if l.driven then { l with driven := false, pulseEnd := d.elapsed, checks := l.checks ++ [d.elapsed] } else l)
    |>.resetBlockRegs 9

/-- TIA (R205): results not yet read are dropped, armed measurements end ABORTED. -/
def Dev.resetTia (d : Dev) : Dev :=
  ((d.modTia fun t => { t with results := [], fifo := [], popped := 0 }).resetBlockRegs 10).tiaAbortAll

/-- A unit's segments have a way out: its DRAM ring, or the host ring (R240). -/
def Dev.aqDeliverable (d : Dev) (u : Nat) : Bool := (d.on (AQ.SPILL u) && d.dramUp) || d.on (HDMA.RING_CTRL_EN 6)

/-- Acquisition units (R248): open segments close with TRUNC, or are counted where they have no way out (log 112);
held entries and lines are discarded with their tokens back; every unit shows RESET. -/
def Dev.resetAqu (d : Dev) : Dev :=
  let d := { d.aqDrain with acq := ⟨[], d.cclk⟩ }
  let d := d.each (List.range 8) fun u d =>
    let d :=
      match (d.aq u).seg with
      | none => d.bumpBy (AQ.OUTSIDE u) (d.aq u).entries.length
      | some s =>
        if d.aqDeliverable u then d.aqCloseSeg u true
        else let c := (s.trig.stamp / 4096).toNat; d.noteDiscarded 0x18 (0x18 + u) 1 c c
    (d.modAq u fun a => { a with trigs := [], samples := [], entries := [], dead := none, seg := none, fill := 0 })
      |>.returnTokens poolAT u
  d.resetBlockRegs 0x18

/-- CAL: passes end without a result; commitments and failures stay (R274). -/
def Dev.resetCal (d : Dev) : Dev := d.calUnlock.resetBlockRegs 11

/-- DRC without a retirement (R353): its queues are emptied, its content stays in self-refresh. -/
def Dev.resetDrc (d : Dev) : Dev :=
  let d :=
    if d.drc.retiring.isSome then d
    else
      let d := d.each (List.range 5) fun h => Dev.returnTokens poolDT h
      d.modDrc fun c => { c with reads := [], ported := [], writes := [], issued := [], openRow := [], selfRefresh := true }
  d.resetBlockRegs 8

/-- PLN (R45, R51): the SYNC, check and quality logic; the counter and PHASE_OFS stay. An epoch on its way is given up, with
the requests that wait for it (log 89). -/
def Dev.resetPln (d : Dev) : Dev :=
  (d.modPln fun p => { p with epoch := none, held := [], lastPass := false, tagLo := 0 }).resetBlockRegs 1

/-- LDG (R296). -/
def Dev.resetLdgBlock (d : Dev) : Dev :=
  let (gone, d) := d.resetLdg
  (d.modBlk 0 fun r => { r with discarded := r.discarded ++ [(0, gone)] }).resetBlockRegs 0

/-- A block stops: its chapter's reactions, its paths emptied, token discipline for its paths (R30, R351). -/
def Dev.stopBlock (b : Nat) (d : Dev) : Dev :=
  let d := d.each (pathsOfBlock b) (Dev.discardPath b)
  let d :=
    if b = 0 then d.resetLdgBlock
    else if b = 1 then d.resetPln
    else if b = 8 then d.resetDrc
    else if b = 9 then d.resetTrg
    else if b = 10 then d.resetTia
    else if b = 11 then d.resetCal
    else if 0x10 ≤ b && b ≤ 0x13 then d.resetEngine (b - 0x10)
    else if b = 0x14 then d.resetFcap
    else if b = 0x18 then d.resetAqu
    else if 0x20 ≤ b && b ≤ 0x3F then d.resetBank (b - 0x20)
    else if 0x40 ≤ b && b ≤ 0x4F then d.resetGroup (b - 0x40)
    else if 0x50 ≤ b then d.resetTset (b - 0x50)
    else d.resetBlockRegs b
  d.each (pathsOfBlock b) Dev.toToken

/-! ### Reactions (R348 to R352, R356) -/

/-- A grave fault (R349): its first detector is kept; every engine aborts with cause SAFE_HOLD and plays no idle vector;
every pin is high-impedance. -/
def Dev.reactFc0 (a : Detection) (d : Dev) : Dev :=
  if d.flt.fc0.isSome then d
  else
    let d := d.modFlt fun f => { f with fc0 := some (a.det, d.now) }
    d.each (List.range 4) fun n d => ((d.engAbort n 7 false).dropHeldStart n).modEng n fun e => { e with idleNext := none }

/-- A thermal hold (R359): every running engine pauses or, with THOT_ABORT, aborts; SMCs hold. It counts as a recovery of
GOV, and at the limit it lasts until power-on. -/
def Dev.thermalHold (d : Dev) : Dev :=
  if d.on GOV.STATE_THERM_HOLD then d
  else
    let limit := d.atLimit 3
    let d := d.modBlk 3 fun r =>
      { r with lastDet := 0x1006, recovs := if limit then r.recovs else r.recovs ++ [d.elapsed]
               state := if limit then 3 else r.state, intrinsic := false }
    let d := d.put GOV.STATE_THERM_HOLD 1
    let d := { d with gov := { d.gov with coolFrom := none, permanent := d.gov.permanent || limit } }
    let d := if limit then ((d.bump FLT.STATUS_OOS_COUNT).replaceReq 3).each (pathsOfBlock 3) Dev.toToken else d
    (d.each (List.range 4) fun n d =>
      if d.engState n = seqRunning || d.engState n = seqHolding then
        if d.on FLT.REACT_THOT_ABORT then d.requestAbort n 5 else d.engPause n true
      else d).signal 3

/-- A block fault (R348, R351, R352). -/
def Dev.reactFc1 (a : Detection) (d : Dev) : Dev :=
  let b := a.block
  let r := d.blk b
  if d.flt.fc0.isSome || !hasFc1 b then d
  else if a.det = 0x1006 then d.thermalHold
  else if r.state = 3 then d
  else if r.state = 1 then
    d.modBlk b fun r => if r.resetAt = d.now then { r with lastDet := min r.lastDet a.det } else { r with lastDet := a.det }
  else if d.atLimit b then
    let d := d.modBlk b fun r => { r with state := 3, lastDet := a.det, intrinsic := d.isIntrinsic a.det, deps := [], resetEnd := none }
    let d := ((d.bump FLT.STATUS_OOS_COUNT).replaceReq 3).stopBlock b
    if b = 8 then d.loseDram else d
  else
    let deps := d.dependents b
    let rs := d.recovs b
    let d := d.modBlk b fun r =>
      { r with state := 1, lastDet := a.det, resetAt := d.now, resetEnd := none, recovs := rs ++ [d.elapsed], discarded := []
               deps, intrinsic := d.isIntrinsic a.det }
    d.stopBlock b

/-- The calibration bus of a pin bank or group, by its block code. -/
def busOfBlock (b : Nat) : Option Nat :=
  if 0x20 ≤ b && b ≤ 0x3F then some (b - 0x20) else if 0x40 ≤ b && b ≤ 0x4F then some (b - 0x40 + 32) else none

/-- A channel fault (R271, R356), with a CONFLICT where its constants are pinned (R270); in a block held out of service it has no reaction. -/
def Dev.reactFc2 (a : Detection) (d : Dev) : Dev :=
  if d.flt.fc0.isSome || (d.blk a.block).state == 3 then d
  else match busOfBlock a.block with
    | some k =>
      let d := d.calFc2 k a.detail
      if d.trimPinned k a.detail then d.conflict 3 a.block a.detail 0 0 0 271 else d
    | none => d

/-- The reaction of a detection by its class. -/
def Dev.react (a : Detection) (d : Dev) : Dev :=
  match d.classOf a with
  | 0 => d.reactFc0 a
  | 1 => d.reactFc1 a
  | _ => d.reactFc2 a

/-- A detection that must wait: an FC2 on a channel of a block in RESET (R348). -/
def Dev.mustWait (d : Dev) (a : Detection) : Bool := 0x2000 ≤ a.det && (d.blk a.block).state == 1 && d.flt.fc0.isNone

/-- The detection whose reaction comes next: an FC0 before any other (R348). -/
def Dev.nextAlarm (d : Dev) : Option Detection :=
  match d.flt.alarms.find? fun a => d.classOf a == 0 with
  | some a => some a
  | none => d.flt.alarms.find? fun a => !d.mustWait a

/-- Reactions to the detections of this command, and to those they bring, up to a number. -/
def Dev.settleN : Nat → Dev → Dev
  | 0, d => d
  | k + 1, d =>
    match d.nextAlarm with
    | none => d
    | some a => (({ d with flt := { d.flt with alarms := d.flt.alarms.erase a } }).react a).settleN k

/-- Every detection made in this command takes its reaction. -/
def Dev.settle (d : Dev) : Dev := d.settleN 256

/-! ### Commands and events of FLT -/

/-- A detection made by a block, as an event. -/
def Dev.detect (det block master access addr detail : Nat) (d : Dev) : Dev :=
  (d.alarm ⟨det, block, master, access, addr, detail, false⟩).settle

/-- SAFE_HOLD begins (R349, R299): GLB shows it, FAULT_N and REPLACE_REQ_N assert, SMC shutdowns and the seal start,
acquisition and measurements end. -/
def Dev.safeHoldBegin (d : Dev) : Dev :=
  if d.flt.fc0.isNone || d.flt.safeHold then d
  else
    let d := ((d.put GLB.STATE_STATE stSafeHold).put FLT.STATUS_SAFE_HOLD 1).modFlt fun f => { f with safeHold := true }
    let d := d.each allPaths Dev.toToken
    let d := (((d.replaceReq 5).smcAllOff 6).aqStopAll.tiaAbortAll.signal 0).signal 2
    (d.modLdg fun l => { l with sealSt := .merging d.elapsed }).put LDG.STATUS_SEALING 1

/-- An FC1 RESET phase ends (R351): the block is back in service under token discipline; what its paths lost is
recorded. PLN waits for lock, HDMA for the link, DRC for a retirement (R353). -/
def Dev.resetPhaseEnd (b : Nat) (d : Dev) : Dev :=
  let r := d.blk b
  let wait := (b == 1 && !d.on PLN.QUALITY_PLLT_LOCK) || (b == 7 && !d.on HDMA.LINK_STATUS_L0) ||
    (b == 8 && d.drc.retiring.isSome)
  if r.state ≠ 1 || wait || d.flt.fc0.isSome then d
  else
    let d := d.modBlk b fun r => { r with state := 2, resetEnd := some d.elapsed, quietFrom := d.elapsed, discarded := [] }
    let d := d.each r.discarded fun (p, n, first, last) d =>
      if p = 0 then d.emit 0 0x04 (leBytes 1 0 ++ leBytes 8 n ++ leBytes 4 first ++ leBytes 4 last)
      else d.discardedRecord p n first last
    let d :=
      if 0x10 ≤ b && b ≤ 0x13 then d.engGo (b - 0x10) seqIdle
      else if b = 0x18 then d.each (List.range 8) fun u => Dev.aqGo u aqIdle
      else if 0x20 ≤ b && b ≤ 0x3F then (d.each (bankPins (b - 0x20)) (Dev.powerCmp 2)).calResume (b - 0x20)
      else if 0x40 ≤ b && b ≤ 0x4F then d.calResume (32 + (b - 0x40))
      else if b = 11 then d.smcBeginAll
      else if b = 8 then
        let d := (d.put DRC.STATUS_AVAIL 1).modDrc fun c =>
          { c with selfRefresh := false, debt := (List.range 64).map fun k => (k, ((0 : Int), d.elapsed)) }
        d.when (d.pairsIn.all fun q => (List.range 16).all fun k =>
          decide (d.dataRows ≤ Tab.get (fun _ => 0) d.drc.front (16 * q + k))) fun d => d.put DRC.STATUS_INIT_DONE 1
      else d
    d.settle

/-- QUIET_T passes in RECOVERING (R351). -/
def Dev.quietExpiry (b : Nat) (d : Dev) : Dev :=
  if (d.blk b).state = 2 && d.flt.fc0.isNone then
    let d := d.until ((d.blk b).quietFrom + msTclk * d.get FLT.QUIET_T)
    d.modBlk b fun r => { r with state := 0 }
  else d

/-- The shadow of a reset ends (R354): conditions that still hold are judged again as primary detections. -/
def Dev.shadowEnd (b : Nat) (persisting : List (Nat × Nat)) (d : Dev) : Dev :=
  match (d.blk b).resetEnd with
  | none => d
  | some t =>
    let d := d.until (t + msTclk)
    let deps := (d.blk b).deps
    let d := d.modBlk b fun r => { r with resetEnd := none, deps := [] }
    (d.each (persisting.filter fun (x, _) => deps.contains x) fun (x, det) d =>
      if 0x3000 ≤ det then d.noticeOf ⟨det, x, 0xFF, 8, 0, 0, false⟩ [] else d.alarm ⟨det, x, 0xFF, 8, 0, 0, false⟩).settle

/-- Recoveries that have passed out of the window no longer count (R352). -/
def Dev.recovExpiry (b : Nat) (d : Dev) : Dev :=
  match (d.blk b).recovs with
  | [] => d
  | t :: _ =>
    let d := d.until (t + 1000 * msTclk * d.get FLT.RECOV_WINDOW)
    let rs := d.recovs b
    d.modBlk b fun r => { r with recovs := rs }

/-- Writing 1 to FECc_CTRL.VALID clears the capture set (R347). -/
def Dev.fecClear (c : Nat) (d : Dev) : Dev := d.modFlt fun f => { f with fec := f.fec.insert c .reset }

/-- The detectors of R345. -/
def detectorListed (det : Nat) : Bool :=
  (1 ≤ det && det ≤ 7) || (0x1001 ≤ det && det ≤ 0x100A) || (0x2001 ≤ det && det ≤ 0x2002) || (0x3001 ≤ det && det ≤ 0x3010)

/-- FLT.INJECT.GO (R361): as if the block had detected it. The channel of an injected FC2 is left open by the spec. -/
def Dev.inject (det block : Nat) (d : Dev) : Dev :=
  if !d.on FLT.STATUS_FACTORY || !detectorListed det then d.ignored FLT.INJECT_GO.addr
  else if 0x3000 ≤ det then d.noticeOf ⟨det, block, 0xFF, 0, 0, 0, true⟩ []
  else
    let (x, d) := if det / 4096 = 2 then d.draw else (0, d)
    let ch := match busOfBlock block with
      | some k => if k < 32 then physOfPage k (x % 33) else smcOfPage (k - 32) (x % 17)
      | none => 0
    (d.alarm ⟨det, block, 0xFF, 0, 0, if det / 4096 = 2 then ch else 0, true⟩).settle

end Sys2Proof.Machine
end

