-- ==== Sys2Proof/Machine/SpillOps.lean ====
section
/-! DEFINITION. What leaves the on-chip memories for DRAM: fail records through port P5, stamps and segments through P6, ledger
blocks through P7 (R182, R189, R240, R291). -/

namespace Sys2Proof.Machine

/-- A client stores bytes from a DRAM address on, as whole lines through its port (R313). A line it may not address is an FC1
fault of the client, and nothing is stored (R311); the answer says whether the bytes went. -/
def Dev.portStore (port a : Nat) (bytes : List Byte) (d : Dev) : Bool × Dev :=
  let lines := List.range (ceilDiv bytes.length 64)
  match lines.find? fun i => !d.dramAllowed port (a + 64 * i) with
  | some i => (false, d.addrErr port (a + 64 * i) true)
  | none => (true, d.each lines fun i => Dev.portRequest port true (a + 64 * i) ((bytes.drop (64 * i)).take 64))

/-- A port takes a further burst: none of its writes waits for room or a token (R333). -/
def Dev.portFree (d : Dev) (port : Nat) : Bool := !d.drc.ported.any fun w => w.port == port

/-- The DRAM line that holds slot `slot` of a ring with `per` slots a line, once `item` stands there: the items still held that
came before it in the line, in their slots, `item` in its own, and zeros. -/
def ringLine (per slot : Nat) (earlier : List (List Byte)) (item : List Byte) : List Byte :=
  let held := keepLast (slot % per) earlier
  padTo 64 (List.replicate ((slot % per - held.length) * (64 / per)) 0 ++ held.flatten ++ item)

/-! ### Fail records (R179, R182, R183) -/

/-- The oldest record of the queue moves through P5 into the DRAM fail ring, if its way leads there and the ring has room. One
that P5 may not store is withheld with reason RESET (R183). -/
def Dev.failSpill (n : Nat) (d : Dev) : Dev :=
  match (d.fc n).queue with
  | r :: rest =>
    if r.spill && d.dramUp && d.portFree 5 && (d.fc n).dring.length < d.failRing n then
      let slot := (d.fc n).dringNext % d.failRing n
      let line := ringLine 2 slot ((d.fc n).dring.map FRec.bytes) r.bytes
      let (ok, d) := d.portStore 5 (d.get (FCAP.ENG_DRING_BASE n) + 64 * (slot / 2)) line
      let d := d.modFc n fun f => { f with queue := rest }
      if ok then d.modFc n fun f => { f with dring := f.dring ++ [r], dringNext := slot + 1 } else d.failLost n 2 [r]
    else d
  | [] => d

/-- A record takes its place in the engine's queue (R182, R183). -/
def Dev.failQueue (n : Nat) (r : FRec) (d : Dev) : Dev :=
  let d := d.modFc n fun f =>
    { f with queue := f.queue ++ [{ r with spill := d.on (FCAP.ENG_CFG_SPILL_EN n) }]
             queueNext := (f.queueNext + 1) % max 1 (d.failRoom n)
             siteWritten := f.siteWritten.insert r.site (Tab.get (fun _ => 0) f.siteWritten r.site + 1) }
  d.put (FCAP.ENG_WRITTEN n) (d.get (FCAP.ENG_WRITTEN n) + 1)

/-- Data address of the codeword that the next record is merged into (R301, R304). -/
def Dev.failAddr (d : Dev) (n : Nat) : Nat :=
  0xE00000 + granule * d.get (FCAP.PART_ENG_BASE n) + 64 * ((d.fc n).queueNext / 2)

/-- The writer stores the oldest record of the col, or sets its map bit; its token returns (R181, R182). It waits while there is
no room. `errors` bytes of the codeword that it merges into are in error (R303 to R305): an uncorrectable one loses the line's
records. -/
def Dev.failStore (n errors : Nat) (d : Dev) : Dev :=
  let d := d.failSpill n
  match (d.fc n).col with
  | [] => d
  | r :: rest =>
    let room := r.map.isSome || decide ((d.fc n).queue.length < d.failRoom n)
    if d.blockDown 0x14 || !room then d
    else
      let a := d.failAddr n
      let d := (d.modFc n fun f => { f with col := rest }).give poolFT n 1
      if 4 ≤ errors then
        let keep := (d.fc n).queue.length - (d.fc n).queueNext % 2
        let gone := (d.fc n).queue.drop keep
        let d := (d.failLost n 3 gone).modFc n fun f => { f with queue := f.queue.take keep }
        (d.withhold n 3 r).sramUncorrected 1 0x14 a
      else
        let d := if errors = 0 then d else d.sramCorrected 1 0x14 a
        match r.map with
        | some i =>
          d.modFc n fun f => { f with map := f.map.insert i (setBitTo (Tab.get (fun _ => 0) f.map i) r.site true) }
        | none => d.failQueue n r

/-! ### Stamps (R189, R190, R238) -/

/-- A stamp moves on: first from a channel queue into the bank buffer, and where that holds an entry, the oldest goes to the
consumer that DEST names: the DRAM stamp ring through P6, or the claiming unit against an AT token. -/
def Dev.stampTransfer (b : Nat) (d : Dev) : Dev :=
  let d := d.stampAdmit b
  match (d.bank b).buffer with
  | [] => d
  | e :: rest =>
    let take (d : Dev) : Dev := (d.modBank b fun s => { s with buffer := rest }).give poolST b 1
    match d.get (PINB.STAMP_CFG b) with
    | 1 =>
      let size := 4096 * d.get TIA.SRING_SIZE
      if d.dramUp && d.portFree 6 && d.tia.sring.length < size then
        let slot := d.tia.sringNext % size
        let line := ringLine 4 slot (d.tia.sring.map fun x => x.bytes) e.bytes
        let (ok, d) := (take d).portStore 6 (d.get TIA.SRING_BASE + 64 * (slot / 4)) line
        if ok then d.modTia fun t => { t with sring := t.sring ++ [e], sringNext := slot + 1 }
        else d.loseStamp (entryPhys e) (entryStamp e)
      else d
    | 2 =>
      match d.stampUnit b with
      | some u =>
        match if d.aqHolds u e then d.aqEnter u 16 else some d with
        | some d => (take d).aqEntry u e
        | none => d
      | none => d
    | _ => d

/-! ### Segments (R240, R355) -/

/-- A segment leaves its slot for the DRAM ring through P6, or for the host ring where it does not spill or DRC is out of
service (R355); the slot is free (R240). The DRAM ring must have room. -/
def Dev.aqSegmentOut (u : Nat) (d : Dev) : Dev :=
  let a := d.aq u
  match a.done with
  | [] => d
  | s :: rest =>
    let slotBytes := 64 * d.get (AQ.SLOT u)
    let slots := 65536 * d.get (AQ.DRING_SIZE u) / max 1 slotBytes
    let spills := d.on (AQ.SPILL u) && !d.drcOos
    let room :=
      if spills then d.dramUp && d.portFree 6 && decide (a.out.length < slots)
      else d.on (HDMA.RING_CTRL_EN 6) && a.out.isEmpty
    if !room then d
    else
      let slot := a.dringNext % max 1 slots
      let (ok, d) := if spills then d.portStore 6 (d.get (AQ.DRING_BASE u) + slotBytes * slot) s else (true, d)
      if !ok then d
      else
        let d := d.modAq u fun a =>
          { a with done := rest, out := a.out ++ [s], dringNext := if spills then slot + 1 else a.dringNext }
        if d.aqState u = aqDead && (d.aq u).dead.isNone && d.aqFree u then
          let k := d.aqTrigSample u (4096 * d.now)
          d.modAq u fun a => { a with dead := some k, next := max a.next k }
        else d

/-! ### Ledger blocks (R291, R296) -/

/-- The DRAM ledger ring has room for a block (R291). -/
def Dev.ledgerRingRoom (d : Dev) : Bool := d.ldg.dring.length < 256 * d.get LDG.DRING_SIZE

/-- The placeholder of a stored block that is uncorrectable (R296). -/
def Blk.placeholder (b : Blk) : Blk :=
  { b with flags := if b.flags.testBit 3 then b.flags else b.flags + 8, slots := [b.digest] }

/-- The oldest closed block is copied through P7 into the DRAM ring (R291). `errors` bytes of one of its codewords are in error:
where they are uncorrectable the copy is a placeholder, an FC1 fault of LDG (R296, R303, R305). -/
def Dev.blockToDram (errors : Nat) (d : Dev) : Dev :=
  match d.ldg.buffer with
  | [] => d
  | b :: rest =>
    if !d.dramUp || !d.portFree 7 || !d.ledgerRingRoom then d
    else
      let x := if 4 ≤ errors then b.placeholder else b
      let (ok, d) := d.portStore 7 (d.ledgerSlotAt d.ldg.dring.length) x.bytes
      if !ok then d
      else
        let d := d.modLdg fun l => { l with buffer := rest, dring := l.dring ++ [x] }
        if errors = 0 then d
        else if errors ≤ 3 then d.sramCorrected 3 0 0x1A00000
        else d.sramUncorrected 3 0 0x1A00000

end Sys2Proof.Machine
end

