-- ==== Sys2Proof/Machine/LdgCmd.lean ====
section
/-! DEFINITION. Operations on the ledger as a whole: a close that was deferred, the copy of blocks to DRAM, the reset of
the chain and the seal (R283, R289, R291, R294, R296, R298 to R300). -/

namespace Sys2Proof.Machine

/-- A block whose close fell due while the buffer was full closes (R283); what waited for a free block follows (R294,
R295). -/
def Dev.closeDeferred (d : Dev) : Dev :=
  if !d.ldg.closeDue || d.ldgFree = 0 then d
  else
    let sign := d.ldg.closeSign
    let d := d.closeBlock 0
    let d := if sign then d.signNewest else d
    if d.on LDG.STATUS_SIGN_PENDING then d.placeDeferred
    else if d.ldgFree = 0 then d
    else (d.placeOwnWaiting).each (allPaths.filter d.placeable) Dev.placeSummary

/-- A closed block of the chain is not yet in the host ring (R298). -/
def Dev.undelivered (d : Dev) : Bool := !d.ldg.buffer.isEmpty || !d.ldg.dring.isEmpty || d.ldg.lost.isSome

/-- A completed write of LDG.RESET (R298): bit 0 asks for it, the reserved bits are ignored (R10). The last block of the chain holds the signature alone. -/
def Dev.ldgReset (v : Nat) (d : Dev) : Dev :=
  let refuse (r : Nat) (d : Dev) : Dev := (d.put LDG.RESET_RESULT r).ignored LDG.RESET.addr
  let sealing := match d.ldg.sealSt with | .none => false | _ => true
  if v % 2 = 0 then d
  else if d.flt.safeHold || sealing then refuse 2 d
  else if d.ldg.collapsed || d.undelivered then refuse 3 d
  else
    let d := d.placeOwnWaiting
    let d := if 126 ≤ d.ldg.cur.length then d.closeBlock 0 else d
    let keyed := !(d.get GLB.OTP_STATUS_ROW_ERR).testBit 1
    let d := d.placeOwn 0 0x07 (leBytes 8 (d.get LDG.NEXT_SEQ) ++ leBytes 8 (d.get LDG.NEXT_BLOCK + 1 + bit keyed))
    let d := ((d.closeBlock 0).signNewest.placeSignature).closeBlock 0
    d.startChain.put LDG.RESET_RESULT 1

/-- A SEAL group of `n` records (R300). -/
def Dev.sealGroup (n : Nat) (payload : List Byte) (d : Dev) : Dev := d.placeOwn 0 0x05 (padTo (19 * n) payload)

/-- FREE, HELD and INFLIGHT of a pool at the last reconciliation (R343). -/
def Dev.poolShown (d : Dev) (p : Nat) : Nat × Nat × Nat := Tab.get (fun p => (poolSizeOf p, 0, 0)) d.tok.recon p

/-- The pool audit of the seal (R300): the counts of the last reconciliation. -/
def Dev.sealPool (p : Nat) (d : Dev) : Dev :=
  let (free, held, flight) := d.poolShown p
  d.sealGroup 1 (leBytes 1 p ++ leBytes 4 (poolSizeOf p) ++ leBytes 4 free ++ leBytes 4 held ++ leBytes 4 flight ++
    leBytes 1 (bit ((d.get TOK.STATUS_AUDIT_OK).testBit p)))

/-- The meter of a logical SMC as the seal states it. -/
def Dev.sealMeter (d : Dev) (l : Nat) : List Byte := leBytes 1 l ++ leBytes 8 (d.get (SMCG.CHARGE (l / 16) (l % 16)))

/-- The SEAL groups (R300): head, pools, fail totals, charge, acquisition. -/
def Dev.sealGroups (open_ : Nat) (d : Dev) : Dev :=
  let (det, stamp) := d.flt.fc0.getD (0, 0)
  let d := if 126 ≤ d.ldg.cur.length then d.closeBlock 0 else d
  let d := d.sealGroup 1 (leBytes 2 det ++ leBytes 8 stamp ++ leBytes 1 open_ ++ leBytes 8 (d.get LDG.NEXT_SEQ))
  let d := d.each (List.range 7) Dev.sealPool
  let d := d.each (List.range 4) fun n d =>
    d.sealGroup 1 (leBytes 1 n ++ leBytes 8 (d.get (FCAP.ENG_TOTAL n)) ++ leBytes 1 (d.get (FCAP.ENG_STATUS_DRAINING n)))
  let d := d.each (List.range 128) fun i d => d.sealGroup 2 (d.sealMeter (2 * i) ++ d.sealMeter (2 * i + 1))
  d.sealGroup 1 ((List.range 8).flatMap fun u => leBytes 2 ((d.aq u).done.length + (d.aq u).out.length))

/-- The last part of the seal (R299): after 1 ms of merging the ledger is closed and signed, or the seal has failed. -/
def Dev.sealClose (ok : Bool) (d : Dev) : Dev :=
  match d.ldg.sealSt with
  | .merging since =>
    if !ok then
      ((d.modLdg fun l => { l with sealSt := .done }).put LDG.STATUS_SEAL_FAILED 1).put LDG.STATUS_SEALING 0
    else if d.ldgFree < 8 then d
    else
      let d := (d.until (since + msTclk)).release
      let held := d.ldg.held
      let d := ((d.modLdg fun l => { l with held := [] }).each held Dev.mergeRecord).closeBlock 0
      let open_ := (allPaths.filter fun p => (d.tally p).count != 0).length
      let d := (d.each allPaths Dev.placeSummary).sealGroups open_
      let d := (d.closeBlock 0).signNewest.placeSignature
      let d := d.placeOwn 0 0x06 (leBytes 8 (d.get LDG.NEXT_SEQ) ++ leBytes 8 (d.get LDG.NEXT_BLOCK + 1))
      let d := d.closeBlock 2
      ((d.modLdg fun l => { l with sealSt := .done }).put LDG.STATUS_SEALED 1).put LDG.STATUS_SEALING 0
  | _ => d

end Sys2Proof.Machine
end

