-- ==== Sys2Proof/Machine/NvmOps.lean ====
section
/-! DEFINITION. NVM commands through the page buffer (R411). -/

namespace Sys2Proof.Machine

/-- Bytes of a copy of the configuration image (R399). -/
abbrev copyBytes : Nat := 0x2000000

/-- A command of NVM_CMD or NVM_ERASE: 0 READ, 1 PROGRAM, 2 sector erase, 3 copy erase. -/
def nvmUnit (cmd : Nat) : Nat :=
  match cmd with
  | 1 => 256
  | 2 => 65536
  | _ => 1

/-- The RESULT with which a command is refused, by the first row of R411 that applies; 0 where it is executed. -/
def Dev.nvmRefusal (d : Dev) (cmd : Nat) : Nat :=
  let a := d.get BOOT.NVM_ADDR
  if d.boot.busy.isSome then 6
  else if d.inBoot || d.st == stDormant || d.st == stSafeHold then 2
  else if d.st == stReady && d.get BOOT.STATUS_LOADED == a / copyBytes + 1 then 3
  else if a % nvmUnit cmd ≠ 0 then 4
  else 0

/-- A command for the NVM arrives in the register at `addr` (R411). -/
def Dev.nvmCommand (addr cmd : Nat) (d : Dev) : Dev :=
  let r := d.nvmRefusal cmd
  if r ≠ 0 then (d.put BOOT.NVM_STATUS_RESULT r).ignored addr
  else
    ({ d with boot := { d.boot with busy := some (cmd, d.get BOOT.NVM_ADDR) } }).put BOOT.NVM_STATUS_BUSY 1

/-- NVM_CMD.GO with the OP it carries (R411); a reserved OP executes nothing. -/
def Dev.nvmGo (d : Dev) : Dev :=
  let a := BOOT.NVM_CMD_GO.addr
  match d.get BOOT.NVM_CMD_OP with
  | 1 => d.nvmCommand a 0
  | 2 => d.nvmCommand a 1
  | _ => d.ignored a

/-- A completed guarded write of NVM_ERASE (R411). -/
def Dev.nvmErase (v : Nat) (d : Dev) : Dev :=
  let a := BOOT.NVM_ERASE.addr
  match v % 4 with
  | 1 => d.nvmCommand a 2
  | 2 => d.nvmCommand a 3
  | _ => d.ignored a

/-- Drop every entry whose key lies in `[lo, hi)`: those bytes read as erased. -/
def Tab.clearRange {α : Type} (lo hi : Nat) (t : Tab α) : Tab α := t.filter fun e => !(decide (lo ≤ e.1) && decide (e.1 < hi))

/-- The address byte `i` of a page operation meets. -/
def nvmAt (a i : Nat) : Nat := (a + i) % 0x4000000

/-- A page in NVM as four bytes a dword. -/
def nvmDword (m : Mem) (a k : Nat) : Nat := ofLeBytes ((List.range 4).map fun i => Tab.get nvmByte m.nvm (nvmAt a (4 * k + i)))

/-- Program one byte: an erased byte takes the value; what any other byte becomes is open. -/
def programByte (a i v : Nat) (m : Mem) (d : Dev) : Dev × Mem :=
  let old := Tab.get nvmByte m.nvm (nvmAt a i)
  let new : Byte := BitVec.ofNat 8 v
  if old = 0xFF || old = new then (d, { m with nvm := Tab.set nvmByte m.nvm (nvmAt a i) new })
  else
    let (x, d) := d.draw
    (d, { m with nvm := Tab.set nvmByte m.nvm (nvmAt a i) (BitVec.ofNat 8 x) })

/-- The data effect of a command that the NVM has executed (R411). -/
def nvmEffect (cmd a : Nat) (m : Mem) (d : Dev) : Dev × Mem :=
  match cmd with
  | 0 => (d.each (List.range 64) fun k => Dev.put (BOOT.NVM_BUF k) (nvmDword m a k), m)
  | 1 =>
    (List.range 256).foldl (fun (d, m) i => programByte a i (bitsOf (d.get (BOOT.NVM_BUF (i / 4))) (8 * (i % 4)) 8) m d) (d, m)
  | 2 => (d, { m with nvm := m.nvm.clearRange a (a + 65536) })
  | _ => (d, { m with nvm := m.nvm.clearRange (a / copyBytes * copyBytes) (a / copyBytes * copyBytes + copyBytes) })

/-- The command in progress completes (R411). On an error the contents stay as they were. -/
def nvmDone (ok : Bool) (m : Mem) (d : Dev) : Dev × Mem :=
  match d.boot.busy with
  | none => (d, m)
  | some (cmd, a) =>
    let d := ({ d with boot := { d.boot with busy := none } }).put BOOT.NVM_STATUS_BUSY 0
    if ok then nvmEffect cmd a m (d.put BOOT.NVM_STATUS_RESULT 1) else (d.put BOOT.NVM_STATUS_RESULT 5, m)

end Sys2Proof.Machine
end

