-- ==== Sys2Proof/Machine/SysOps.lean ====
section
/-! DEFINITION. The clocks and quality of the Plain as events, disciplines, the governor, supplies, DORMANT and wake (R30,
R34 to R57, R357 to R359, R395, R396, R412 to R416). -/

namespace Sys2Proof.Machine

/-! ### REFCLK and PLL-T (R36, R37, R45) -/

/-- A window of 64 ACLK periods ends with a count of REFCLK edges (R36). -/
def Dev.refclkWindow (edges : Nat) (d : Dev) : Dev :=
  let good := decide (230 ≤ edges) && decide (edges ≤ 282)
  let d := d.modPln fun p =>
    { p with goodRun := if good then p.goodRun + 1 else 0, badRun := if good then 0 else p.badRun + 1 }
  if d.on PLN.QUALITY_REFCLK_OK then
    if 2 ≤ d.pln.badRun then
      let d := d.put PLN.QUALITY_REFCLK_OK 0
      if d.pln.everLocked then (d.fault 0x0006 1).settle else d
    else d
  else if 2 ≤ d.pln.goodRun then (d.put PLN.QUALITY_REFCLK_OK 1).qualRise
  else d

/-- The next REFCLK edge: a whole multiple of 16 TCLK. -/
def Dev.toRefclkEdge (d : Dev) : Dev := d.until (16 * ceilDiv d.elapsed 16)

/-- The device enters UNCONFIGURED (R402, R410). -/
def Dev.enterUnconfigured (d : Dev) : Dev := (d.put GLB.STATE_STATE stUnconfigured).signal 2

/-- The IDLE_VEC players of idle engines start again 256 TCLK after counting by TCLK has resumed (R134). -/
def Dev.restartIdle (d : Dev) : Dev :=
  d.each (List.range 4) fun n d =>
    if (d.eng n).idleNext.isSome && d.engState n == seqIdle then
      d.modEng n fun e => { e with idleNext := some ((d.now + 256) * unit24) }
    else d

/-- PLL-T reports lock (R37, R38, R43): counting by TCLK starts, or resumes at a REFCLK edge; idle vectors play again. With
no valid copy, start-up ends here in UNCONFIGURED (R402). -/
def Dev.pllLock (d : Dev) : Dev :=
  if d.on PLN.QUALITY_PLLT_LOCK || !d.on PLN.QUALITY_REFCLK_OK || d.st == stDormant then d
  else
    let d := if d.pln.everLocked then d.toRefclkEdge else d
    let d := (d.put PLN.QUALITY_PLLT_LOCK 1).put PLN.QUALITY_REFSTEP 0
    let d := ((d.modPln fun p => { p with everLocked := true }).qualRise).restartIdle.smcBeginAll
    if d.inBoot && d.boot.chosen == 0 && d.get GLB.STATE_STEP == 5 then d.enterUnconfigured else d

/-- PLL-T loses lock while REFCLK_OK holds (R39, R45): counting in REFCLK steps from the next REFCLK edge on (log 98), UNLOCKED,
an FC1 of PLN; engines abort with cause FAULT, idle vectors stop, units and measurements end, passes are abandoned, all at the
detection (R134). -/
def Dev.pllLoss (d : Dev) : Dev :=
  if !d.on PLN.QUALITY_PLLT_LOCK || !d.on PLN.QUALITY_REFCLK_OK || d.st == stDormant then d
  else
    let d := if d.qual = 0 then d else d.setQual 0 2
    let d := d.fault 0x1007 1
    let d := d.each (List.range 4) fun n d =>
      if d.engState n = seqIdle && (d.eng n).idleNext.isSome then
        (d.each (d.engPins n) fun p => Dev.modPin p fun s => { s with edges := [], cmps := [], out := .off }).modEng n fun e =>
          { e with idleStop := true }
      else d.engAbort n 5 false
    (d.tiaAbortAll.aqStopAll.calUnlock).settle.toRefclkEdge.enterSteps

/-- A REFCLK rising edge while the counter counts in REFCLK steps (R39). -/
def Dev.refclkStep (d : Dev) : Dev := if d.on PLN.QUALITY_REFSTEP then d.until (16 * (d.elapsed / 16 + 1)) else d

/-- The two Plain counters differ (R38). -/
def Dev.plainCorrupt (d : Dev) : Dev := d.detect 0x0003 1 1 8 0 0

/-- A REF_WARM level has been held for 1 ms (R43, R44). -/
def Dev.refWarm (level : Bool) (d : Dev) : Dev :=
  if d.on PLN.QUALITY_REF_WARM = level then d
  else
    let d := d.put PLN.QUALITY_REF_WARM (bit level)
    let d := d.modPln fun p => { p with warmSince := if level then some d.elapsed else none }
    if level then (if d.get PLN.WARM_SETTLE = 0 then d.qualRise else d)
    else if 2 ≤ d.qual then d.setQual 1 5 else d

/-- REF_WARM has been high for WARM_SETTLE (R43). -/
def Dev.warmExpiry (d : Dev) : Dev :=
  match d.pln.warmSince with
  | some t => (d.until (t + msTclk * d.get PLN.WARM_SETTLE)).qualRise
  | none => d

/-! ### SYNC and epochs (R46 to R50) -/

/-- Some engine, unit or measurement stands against arming (R48). -/
def Dev.armBusy (d : Dev) : Bool :=
  ((List.range 4).any fun n => let s := d.engState n; s == seqRunning || s == seqHolding || s == seqPaused) ||
    ((List.range 8).any fun u => d.aqRuns u) || !d.tiaActive.isEmpty

/-- A write of ARM is judged (R48). -/
def Dev.armJudge (d : Dev) : Dev :=
  let refuse (r : Nat) (d : Dev) : Dev := (d.put PLN.SYNC_CTRL_ARM_RESULT r).ignored PLN.SYNC_CTRL_ARM.addr
  if d.qual = 0 then refuse 2 d
  else if d.armBusy then refuse 3 d
  else if 2 ^ 63 ≤ d.get PLN.SYNC_LOAD then refuse 4 d
  else (d.put PLN.SYNC_CTRL_ARM 1).put PLN.SYNC_CTRL_ARM_RESULT 1

/-- A write of ARM reaches PLN (R48, R49). -/
def Dev.armWrite (d : Dev) : Dev :=
  match d.holdForEpoch .arm with
  | some d' => d'
  | none => d.armJudge

/-- A write of DISARM (R49). -/
def Dev.disarmWrite (d : Dev) : Dev :=
  if d.on PLN.SYNC_CTRL_ARM then (d.put PLN.SYNC_CTRL_ARM 0).put PLN.SYNC_CTRL_ARM_RESULT 8 else d

/-- A START, held while an epoch is loading (R49). -/
def Dev.startRequest (n : Nat) (d : Dev) : Dev :=
  match d.holdForEpoch (.start (Fin.ofNat 4 n)) with
  | some d' => d'
  | none => d.engStart n

/-- ARM of an acquisition unit, held while an epoch is loading (R49). -/
def Dev.aqArmRequest (u : Nat) (d : Dev) : Dev :=
  match d.holdForEpoch (.acq (Fin.ofNat 8 u)) with
  | some d' => d'
  | none => d.cancelArm.aqArm u

/-- ARM of a TIA measurement, held while an epoch is loading (R49). -/
def Dev.tiaArmRequest (k : Nat) (d : Dev) : Dev :=
  match d.holdForEpoch (.tia (Fin.ofNat 64 k)) with
  | some d' => d'
  | none => d.cancelArm.tiaArm k

/-- A request that waited for an epoch load is acted on (R49). -/
def Dev.heldRequest (r : HeldReq) (d : Dev) : Dev :=
  match r with
  | .start n => d.engStart n.val
  | .acq u => d.cancelArm.aqArm u.val
  | .tia k => d.cancelArm.tiaArm k.val
  | .arm => d.armJudge

/-- 32 TCLK after its edge, an epoch is loaded; requests held for it follow (R46, R49). -/
def Dev.epochLoad (d : Dev) : Dev :=
  match d.pln.epoch with
  | none => d
  | some e =>
    let d := (d.until e.due).loadEpoch e
    let held := d.pln.held
    (d.modPln fun p => { p with held := [] }).each held Dev.heldRequest

/-- A write to EPOCH_TAG_HI commits the tag and marks the epoch (R54). -/
def Dev.epochMark (hi : Nat) (d : Dev) : Dev :=
  let tag := hi * 2 ^ 32 + d.pln.tagLo.toNat
  (d.put PLN.EPOCH_TAG tag).emit 1 0x13 (leBytes 8 tag ++ leBytes 4 (d.get PLN.EPOCH_NUM))

/-! ### Discipline (R34) -/

/-- The engine's next vector boundary (R34): the start of the vector now in play, or of the next one issued; at once where the
engine is neither running nor stopped inside a run; none where no vector is on its way. -/
def Dev.nextBoundary (d : Dev) (n : Nat) : Option Nat :=
  let e := d.eng n
  let s := d.engState n
  if s ≠ seqRunning && s ≠ seqHolding && s ≠ seqPaused then some d.elapsed
  else if (e.play.any fun p => d.gridElapsed p.start == d.elapsed) then some d.elapsed
  else e.issued.head?.map fun p => d.gridElapsed p.start

/-- The paths a DISCIPLINE_TO_STAMP names: a block's, and of FCAP the path of one engine (log 95). -/
def disciplinePaths (b : Nat) : List Nat := if b = 0x18 then List.range' 0x18 8 else if allPaths.contains b then [b] else []

/-- A block whose token condition has ended returns to stamp discipline (R34): the paths of engine `n` at the engine's next
vector boundary, every other at once. -/
def Dev.disciplineEvent (b : Nat) (d : Dev) : Dev :=
  let due := if 0x10 ≤ b && b ≤ 0x17 then d.nextBoundary (b % 4) else some d.elapsed
  match due with
  | none => d
  | some t =>
    let ps := (disciplinePaths b).filter fun p => !d.tokenCond p
    if ps.isEmpty then d else (d.until t).each ps Dev.toStamp

/-! ### The governor (R164, R269, R270, R357 to R359) -/

/-- A bank is idle: every channel has played X, or has been unmapped, for IDLE_T (R357). -/
def Dev.bankIdle (d : Dev) (b : Nat) : Bool :=
  (bankPins b).all fun p =>
    match d.logicalOf p with
    | some c => !d.mapped c || decide ((d.pin p).idleSince + msTclk * d.get GOV.IDLE_T ≤ d.elapsed)
    | none => true

/-- Channels of a bank whose comparators the governor may lower (R205, R269). -/
def Dev.lowerable (d : Dev) (b : Nat) : List Nat :=
  (bankPins b).filter fun p =>
    d.cmpLive p && (d.pin p).mode < d.get (PINB.GOV_POLICY b) && (d.pin p).measure.isNone && (d.tiaBound p).isEmpty

/-- An idle bank that can still be lowered. -/
def Dev.nextIdleBank (d : Dev) : Option Nat := (List.range 32).find? fun b => d.bankIdle b && !(d.lowerable b).isEmpty

/-- The governor's record (R357, R279). -/
def Dev.govRecord (action target : Nat) (reading : Int) (d : Dev) : Dev :=
  (d.emit 3 0x62 (leBytes 1 action ++ leBytes 1 target ++ leBytes 2 (unsignedOf 16 reading))).signal 3

/-- Set or clear a bit of GOV.STATE.ACTIONS. -/
def Dev.govAction (i : Nat) (b : Bool) (d : Dev) : Dev := d.put GOV.STATE_ACTIONS (setBitTo (d.get GOV.STATE_ACTIONS) i b)

/-- No action is left (R270, R357). -/
def Dev.govExhausted (d : Dev) : Bool :=
  d.nextIdleBank.isNone && (d.on CAL.ROT_STATUS_PACED || d.get CAL.PACE_MAX == 0) && d.on DRC.CONFIG_PD_EN

/-- One action of the governor, the next in its order (R357). -/
def Dev.govTake (reading : Int) (d : Dev) : Dev :=
  match d.nextIdleBank with
  | some b =>
    let floor := d.get (PINB.GOV_POLICY b)
    let d := d.each (d.lowerable b) fun p d =>
      (d.modPin p fun s => { s with lowered := true }).startSettle p floor none
    (d.govAction 0 true).govRecord 1 b reading
  | none =>
    if !d.on CAL.ROT_STATUS_PACED && 0 < d.get CAL.PACE_MAX then
      ((d.put CAL.ROT_STATUS_PACED 1).govAction 1 true).govRecord 2 0 reading
    else if !d.on DRC.CONFIG_PD_EN then ((d.put DRC.CONFIG_PD_EN 1).govAction 2 true).govRecord 3 0 reading
    else d

/-- The governor releases its newest kind of action (R357). -/
def Dev.govRelease (reading : Int) (d : Dev) : Dev :=
  let acts := d.get GOV.STATE_ACTIONS
  let d := { d with gov := { d.gov with lastRelease := d.elapsed } }
  if acts.testBit 2 then ((d.put DRC.CONFIG_PD_EN 0).govAction 2 false).govRecord 3 0 reading
  else if acts.testBit 1 then ((d.put CAL.ROT_STATUS_PACED 0).govAction 1 false).govRecord 2 0 reading
  else if acts.testBit 0 then
    let lowered := (List.range 32).filter fun b => (bankPins b).any fun p => (d.pin p).lowered
    match lowered.getLast? with
    | some b =>
      let d := d.each ((bankPins b).filter fun p => (d.pin p).lowered) fun p d =>
        (d.modPin p fun s => { s with lowered := false }).startSettle p (d.pinGet PINB.CFG_CMP_SPEED p) none
      (d.govAction 0 (decide (1 < lowered.length))).govRecord 1 b reading
    | none => d.govAction 0 false
  else d

/-- The THERM_CONFLICT record and its notice (R270, R280). -/
def Dev.thermConflict (sensor : Nat) (reading : Int) (d : Dev) : Dev :=
  let floors := maskOf ((List.range 32).filter fun b => (bankPins b).any fun p => (d.pin p).lowered)
  let d := d.emit 11 0x55
    (leBytes 2 (unsignedOf 16 reading) ++ leBytes 1 sensor ++ leBytes 1 (d.get GOV.STATE_ACTIONS) ++ leBytes 4 floors ++
      leBytes 2 (d.paceWait / msTclk) ++ leBytes 1 (d.get DRC.CONFIG_PD_EN) ++ leBytes 8 0)
  (d.notice 0x300A 11 []).bump CAL.CONFLICT_COUNT

/-- A thermal detection with its reading (R346). -/
def thermalAlarm (det : Nat) (reading : Int) : Detection := ⟨det, 3, 3, 8, 0, unsignedOf 32 reading, false⟩

/-- The thresholds of R358, crossed by the hottest sensor. -/
def Dev.thresholds (before reading : Int) (sensor : Nat) (d : Dev) : Dev :=
  let d :=
    if 105 * 16 ≤ reading && !d.gov.warned then
      let d := { d with gov := { d.gov with warned := true } }
      let d := (d.notice 0x3007 3 []).signal 3
      if d.govExhausted then d.thermConflict sensor reading else d
    else if reading < 102 * 16 then { d with gov := { d.gov with warned := false } }
    else d
  let d := if 115 * 16 ≤ reading && before < 115 * 16 then (d.alarm (thermalAlarm 0x1006 reading)).signal 3 else d
  if 125 * 16 ≤ reading && before < 125 * 16 then (d.alarm (thermalAlarm 0x0004 reading)).signal 3 else d

/-- A tick of GOV (R357, R358): sensors, power, one action, thresholds, and how long every sensor has been cool. -/
def Dev.govTick (temps : List Nat) (power : Nat) (d : Dev) : Dev :=
  let d := d.until (msTclk * (d.elapsed / msTclk + 1))
  let before := d.hottest
  let d := d.each ((List.range 16).map fun k => (k, temps.getD k 0)) fun (k, t) => Dev.put (GOV.TJ k) t
  let d := d.put GOV.POWER power
  let reading := d.hottest
  let sensor := ((List.range 16).find? fun k => signedOf 16 (d.get (GOV.TJ k)) == reading).getD 0
  let acts := d.st != stDormant && !d.blockDown 3 && !d.inBoot
  let hot := ((16 * d.get GOV.TARGET : Nat) : Int) ≤ reading || 10 * d.get GOV.PWR_LIMIT ≤ power
  let cool := reading < ((16 * (d.get GOV.TARGET - 3) : Nat) : Int) && power < 10 * (d.get GOV.PWR_LIMIT - 5)
  let d :=
    if !acts then d
    else if hot then d.govTake reading
    else if cool && d.get GOV.STATE_ACTIONS != 0 && d.gov.lastRelease + 100 * msTclk ≤ d.elapsed then d.govRelease reading
    else d
  let d := d.put GOV.STATE_EXHAUSTED (bit d.govExhausted)
  let d := { d with gov := { d.gov with
    coolFrom := if reading < 110 * 16 then some (d.gov.coolFrom.getD d.elapsed) else none } }
  (d.thresholds before reading sensor).settle

/-- Every sensor has read below 110 °C for QUIET_T (R359): SMC holds are released, engines that the hold paused resume. -/
def Dev.thermalEnd (d : Dev) : Dev :=
  match d.gov.coolFrom with
  | some t =>
    if d.on GOV.STATE_THERM_HOLD && !d.gov.permanent && d.flt.fc0.isNone then
      let d := (d.until (t + msTclk * d.get FLT.QUIET_T)).put GOV.STATE_THERM_HOLD 0
      (d.each (List.range 4) fun n d =>
        if (d.eng n).thermal then
          if d.engState n = seqPaused then d.resumeNow n
          else (d.put (SEQ.STATUS_PAUSE_PENDING n) 0).modEng n fun e => { e with thermal := false }
        else d).signal 3
    else d
  | none => d

/-! ### Link and supplies (R385, R396) -/

/-- The link leaves L0 other than by ASPM or a host reset (R345, R385). -/
def Dev.linkLoss (d : Dev) : Dev :=
  if d.on HDMA.LINK_STATUS_L0 || d.on HDMA.LINK_STATUS_L1 then
    let d := ((d.put HDMA.LINK_STATUS_L0 0).put HDMA.LINK_STATUS_L1 0).bump HDMA.LINK_STATUS_DOWNS
    d.detect 0x1005 7 7 0 0 0
  else d

/-- The link trains and reaches L0. -/
def Dev.linkUp (width speed : Nat) (d : Dev) : Dev :=
  ((((d.put HDMA.LINK_STATUS_WIDTH width).put HDMA.LINK_STATUS_SPEED speed).put HDMA.LINK_STATUS_L1 0).put HDMA.LINK_STATUS_L0 1)

/-- The device after a power-on reset: nothing kept but what has left it and what indexes its open choices. -/
def Dev.powerCycle (d : Dev) : Dev :=
  { Dev.reset with
    draws := d.draws
    host := { HostSt.reset with posted := d.host.posted }
    ldg := { LdgSt.reset with chains := d.ldg.chains } }

/-- A supply monitor reads out of range (R148, R227, R396). -/
def supplyOut (w : Supply) (m : Mem) (d : Dev) : Dev × Mem :=
  match w with
  | .powerOnReset => (d.powerCycle, m.dropRam)
  | _ =>
    let d := d.modFlt fun f =>
      { f with supplyOut := if f.supplyOut.contains w then f.supplyOut else f.supplyOut ++ [w]
               gapFrom := some (f.gapFrom.getD d.now) }
    let d := d.each (allPins.filter fun p => (d.pin p).powered) Dev.unpowerCmp
    let d := if w = .core || w = .smcSupply then d.smcAllOff 7 else d
    let d := d.each (List.range 4) fun n => Dev.engAbort n 5 false
    if w = .pcieAnalog then (d.linkLoss, m) else (d, m)

/-- Every supply monitor reads in range again (R159, R342, R396). -/
def supplyReturn (m : Mem) (d : Dev) : Dev × Mem :=
  match d.flt.gapFrom with
  | none => (d, m)
  | some t =>
    let phy := d.flt.supplyOut.contains .dramPhy
    let d := d.modFlt fun f => { f with supplyOut := [], gapFrom := none, gapCheck := some (t, d.now) }
    let d := d.each allPins (Dev.powerCmp 1)
    if phy && d.dramUp then
      let d := (d.put DRC.STATUS_INIT_DONE 0).modDrc fun c =>
        { c with front := [], ahead := [], openRow := [], issued := [], scrubAt := 0
                 debt := (List.range 64).map fun k => (k, ((0 : Int), d.elapsed)) }
      (d.loseDram, m.dropDram)
    else (d, m)

/-! ### Power states (R412 to R416) -/

/-- A write of POWER_CTRL.DORMANT (R413). -/
def Dev.dormantRequest (d : Dev) : Dev :=
  let a := GLB.POWER_CTRL_DORMANT.addr
  let refuse (r : Nat) (d : Dev) : Dev := (d.put GLB.POWER_CTRL_DORMANT_RESULT r).ignored a
  if d.st ≠ stReady || d.running then refuse 2 d
  else if !d.on GLB.WAKE_CFG_DB_EN && !d.on GLB.WAKE_CFG_CMP_EN && d.get GLB.WAKE_CFG_TRIG_EN == 0 then refuse 3 d
  else
    let d := (d.put GLB.STATE_STATE stDormant).signal 2
    { d with boot := { d.boot with dormEntry := true, wake := false, wakeBells := [] } }

/-- Closed blocks leave the ledger buffer for the DRAM ring while that has room (R291). -/
def Dev.spillBlocks (d : Dev) : Dev :=
  if !d.dramUp then d
  else
    let room := 256 * d.get LDG.DRING_SIZE - d.ldg.dring.length
    d.modLdg fun l => { l with dring := l.dring ++ l.buffer.take room, buffer := l.buffer.drop room }

/-- Entry to DORMANT completes (R171, R323, R413): the ledger is signed and moved out, comparators that may wake the device
are in mode W and the others unpowered, DRAM is in self-refresh, the PLLs stop. -/
def Dev.dormantDone (d : Dev) : Dev :=
  if !d.boot.dormEntry then d
  else
    let d := ((d.closeBlock 16).signNewest.placeSignature).spillBlocks
    let d := d.each allPins fun p d =>
      if d.pinGet PINB.SEL_WAKE_SEL p != 0 then d.modPin p fun s => { s with mode := 3, lowered := false }
      else d.unpowerCmp p
    let d := d.modDrc fun c => { c with selfRefresh := true }
    let d := d.toRefclkEdge.enterSteps.put GLB.POWER_CTRL_DORMANT_RESULT 1
    { d with boot := { d.boot with dormEntry := false } }

/-- A wake source as WAKE_STATUS shows it, if it is enabled (R415). -/
def Dev.wakeCode (d : Dev) (w : WakeSource) : Option (Nat × Nat × Nat) :=
  match w with
  | .comparator ch t =>
    if d.on GLB.WAKE_CFG_CMP_EN && (d.pinGet PINB.SEL_WAKE_SEL ch.val).testBit t.val &&
        d.cmpReady ch.val (decide (2 ≤ t.val)) then some (1, 0, ch.val) else none
  | .trigger line rising =>
    if (d.get GLB.WAKE_CFG_TRIG_EN).testBit line.val && ((d.get GLB.WAKE_CFG_TRIG_FALL).testBit line.val != rising)
    then some (2, line.val, 0) else none
  | .doorbell ring _ => if d.on GLB.WAKE_CFG_DB_EN then some (3, ring.val, 0) else none
  | .graveFault => if d.flt.fc0.isSome then some (4, 0, 0) else none

/-- Doorbell values received in DORMANT are applied (R415). -/
def Dev.applyBells (d : Dev) : Dev :=
  let bells := d.boot.wakeBells
  ({ d with boot := { d.boot with wakeBells := [] } }).each bells fun (r, v) => Dev.bell r v

/-- An event in DORMANT that may wake the device (R415, R416). -/
def Dev.wakeEvent (w : WakeSource) (d : Dev) : Dev :=
  if d.st ≠ stDormant then d
  else
    let d := match w with
      | .doorbell ring v => { d with boot := { d.boot with wakeBells := d.boot.wakeBells.insert ring.val v.toNat } }
      | _ => d
    match d.wakeCode w with
    | none => d
    | some (src, line, ch) =>
      if d.boot.wake then d
      else
        let d := ((d.put GLB.WAKE_STATUS_SOURCE src).put GLB.WAKE_STATUS_LINE line).put GLB.WAKE_STATUS_CHAN ch
        let d := (d.put GLB.WAKE_STAMP d.now).linkUse
        if d.boot.dormEntry then
          let d := (d.put GLB.STATE_STATE stReady).put GLB.POWER_CTRL_DORMANT_RESULT 4
          (({ d with boot := { d.boot with dormEntry := false } }).signal 2).applyBells
        else { d with boot := { d.boot with wake := true } }

/-- Wake completes (R57, R171, R415): counting by TCLK resumes at a REFCLK edge, comparators settle, DRAM leaves
self-refresh, the store of DORMANT goes on its way, GLB shows READY. -/
def Dev.wakeComplete (d : Dev) : Dev :=
  if d.st ≠ stDormant || !d.boot.wake then d
  else
    let d := (d.toRefclkEdge.put PLN.QUALITY_PLLT_LOCK 1).put PLN.QUALITY_REFSTEP 0
    let d := (if d.qual = 3 then (d.put PLN.QUALITY_WAKE_CAP 1).setQual 2 9 else d).qualRise
    let store := d.boot.dormStore
    let d := { d with boot := { d.boot with wake := false, dormStore := [] } }
    let d := (d.put GLB.STATE_STATE stReady).signal 2
    let d := (d.each allPins (Dev.powerCmp 1)).restartIdle.smcBeginAll
    let d := d.modDrc fun c =>
      { c with selfRefresh := false, debt := (List.range 64).map fun k => (k, ((0 : Int), d.elapsed)) }
    (d.each store Dev.produce).applyBells

end Sys2Proof.Machine
end

