-- ==== Sys2Proof/Machine/RegView.lean ====
section
/-! DEFINITION. What a host read of a register shows (R8, R9, R386 to R390): the stored dword, or what it is computed
from. -/

namespace Sys2Proof.Machine

/-! ### Dwords that stand for other state -/

/-- A dword with the fields of a list (lowest bit, width, value) put in. -/
def withFields (base : W32) (fs : List (Nat × Nat × Nat)) : W32 :=
  fs.foldl (fun v (lo, w, x) => spliceBits v.toNat lo w x) base

/-- One half of a 64-bit quantity. -/
def halfOf (x : Nat) (hi : Bool) : W32 := BitVec.ofNat 32 (if hi then x / 2 ^ 32 else x)

/-- An OTP dword; a row that failed its check reads as zeros (R422, R423). -/
def Dev.otpView (row addr : Nat) (d : Dev) : W32 := if (d.get GLB.OTP_STATUS_ROW_ERR).testBit row then 0 else Config.otp addr

/-- Bytes of the certificate: at most 2,048 (R290). -/
def Dev.certLen (d : Dev) : Nat := min 2048 ((d.otpView 1 LDG.CERT_LEN.addr).toNat % 4096)

/-- OWNER_HASH is programmed, or its row failed its check and counts as programmed (R408, R423). -/
def Dev.sigRequired (d : Dev) : Bool := Config.sigReq || (d.get GLB.OTP_STATUS_ROW_ERR).testBit 2

/-- Some field of the shadow maps differs from the maps in force (R24, R28). -/
def Dev.mapsPending (d : Dev) : Bool :=
  ((List.range 32).any fun b => d.shadowBank b != d.bankEng b) || ((List.range 64).any fun k => d.shadowSite k != d.siteEng k) ||
    ((List.range 1024).any fun c => d.shadowChan c != d.activeChan c)

/-- GLB (R274, R350, R412, R422). -/
def Dev.glbView (off addr : Nat) (d : Dev) : W32 :=
  let r := d.reg addr
  if off = 0x10 then (if d.st = stReady && d.running then withFields r [(0, 3, 3)] else r)
  else if off = 0x2C then withFields r [(0, 1, bit (d.flt.replace != 0)), (1, 1, bit d.flt.safeHold)]
  else if off = 0x5C then withFields r [(0, 1, bit d.mapsPending)]
  else if off = 0x04 || off = 0x08 || off = 0x0C || off = 0x100 then d.otpView 0 addr
  else if off = 0x104 then withFields (Config.otp addr) [(1, 1, bit d.sigRequired), (2, 6, 0), (8, 4, d.get GLB.OTP_STATUS_ROW_ERR), (12, 20, 0)]
  else if 0x110 ≤ off && off < 0x140 then d.otpView 2 addr
  else if 0x140 ≤ off then d.otpView 3 addr
  else r

/-- FLT (R347, R351, R362). -/
def Dev.fltView (off i addr : Nat) (d : Dev) : W32 :=
  let r := d.reg addr
  if off = 0x00 then withFields r [(0, 1, bit d.flt.safeHold), (2, 1, bit (d.flt.replace != 0))]
  else if off = 0x38 || off = 0x3C then
    let charge := match d.flt.fc0 with
      | some (det, _) => if d.isIntrinsic det then 10000 else 0
      | none => 0
    halfOf (d.flt.unavail / msTclk + charge) (off == 0x3C)
  else if 0x100 ≤ off && off < 0x180 then
    let f := Tab.get (fun _ => Fec.reset) d.flt.fec i
    match off % 0x20 with
    | 0x00 => BitVec.ofNat 32 (f.det + 2 ^ 16 * f.block + 2 ^ 24 * f.master)
    | 0x04 => halfOf f.addr false
    | 0x08 => halfOf f.addr true
    | 0x0C => halfOf f.stamp false
    | 0x10 => halfOf f.stamp true
    | 0x14 => BitVec.ofNat 32 f.count
    | _ => BitVec.ofNat 32 (f.access % 16 + 2 ^ 8 * bit f.valid)
  else if 0x400 ≤ off then
    let b := d.blk i
    BitVec.ofNat 32 (b.state + 2 ^ 8 * min 255 (d.recovs i).length + 2 ^ 16 * b.lastDet)
  else r

/-- LDG (R291, R293, R299). -/
def Dev.ldgView (off addr : Nat) (d : Dev) : W32 :=
  let r := d.reg addr
  if off = 0x1C then BitVec.ofNat 32 d.ldg.dring.length
  else if off = 0x20 then withFields r [(0, 1, bit d.ldg.collapsed), (16, 10, d.ldgFree)]
  else if off = 0x80 then BitVec.ofNat 32 d.certLen
  else if 0x100 ≤ off && off < 0x160 then d.otpView 1 addr
  else if 0x1000 ≤ off && off < 0x1800 then
    BitVec.ofNat 32 ((d.otpView 1 addr).toNat % 256 ^ min 4 (d.certLen - (off - 0x1000)))
  else if 0x8000 ≤ off then
    let o := off - 0x8000
    match d.ldg.recent[o / 4096]? with
    | some b => BitVec.ofNat 32 (ofLeBytes ((b.bytes.drop (o % 4096)).take 4))
    | none => 0
  else r

/-- TOK (R331, R332, R341, R343). -/
def Dev.tokView (off i j addr : Nat) (d : Dev) : W32 :=
  let d := d.aqDrain
  let r := d.reg addr
  if off = 0x00 then
    withFields r [(8, 7, maskOf ((List.range 7).filter fun p => (poolHolders p).any (d.excluded p)))]
  else if 0x100 ≤ off && off < 0x1E0 then
    let (free, held, flight) := d.poolShown i
    match off % 0x20 with
    | 0x04 => BitVec.ofNat 32 free
    | 0x08 => BitVec.ofNat 32 held
    | 0x0C => BitVec.ofNat 32 flight
    | 0x10 => BitVec.ofNat 32 (Tab.get poolSizeOf d.tok.minFree i)
    | 0x14 => BitVec.ofNat 32 (Tab.get (fun _ => 0) d.tok.waits i)
    | 0x18 => BitVec.ofNat 32 (Tab.get (fun _ => 0) d.tok.denied i)
    | _ => r
  else if 0x1000 ≤ off then
    if (poolHolders i).contains j then BitVec.ofNat 32 (d.tok.outOf i j % 65536 + 2 ^ 16 * (d.tok.peakOf i j % 65536)) else 0
  else r

/-- A ring has an item in progress: a buffer being fetched, a load under way, a block open. -/
def Dev.ringActive (d : Dev) (r : Nat) : Bool :=
  if r < 4 then (d.eng r).stream.bufs.any fun b => !b.past
  else if r = 4 then (List.range 4).any fun n => (d.eng n).loading
  else (d.ring r).openSince.isSome || (d.ring r).offset != 0

/-- TRG (R231). -/
def Dev.trgView (off addr : Nat) (d : Dev) : W32 :=
  let r := d.reg addr
  if off = 0x08 then
    withFields r [(0, 8, maskOf ((List.range 8).filter fun n => (d.line n).level)),
      (8, 8, maskOf ((List.range 8).filter fun n => d.ownsLine n && (d.line n).driven))]
  else r

/-- TIA (R203, R204). -/
def Dev.tiaView (off addr : Nat) (d : Dev) : W32 :=
  if off = 0x20 then (match d.tia.fifo with | x :: _ => x.getD d.tia.popped 0 | [] => 0)
  else if off = 0x24 then BitVec.ofNat 32 (d.tia.fifo.length + 2 ^ 9 * d.tia.popped)
  else d.reg addr

/-- STREAM_STATUS.STRIDE of a stride in bytes (R102). -/
def strideCode (s : Nat) : Nat := if s ≤ 8 then 0 else if s ≤ 16 then 1 else if s ≤ 32 then 2 else if s ≤ 64 then 3 else 4

/-- An engine (R102, R114). -/
def Dev.seqView (n off addr : Nat) (d : Dev) : W32 :=
  let r := d.reg addr
  if off = 0x10C then BitVec.ofNat 32 (d.streamLevel n)
  else if off = 0x110 then
    withFields r [(5, 1, bit (d.eng n).eosDone), (6, 1, bit (d.eng n).eosIn), (8, 3, strideCode (d.stride n))]
  else r

/-- A timing-set window (R128, R137, R138, R142). -/
def Dev.tsetView (n off addr : Nat) (d : Dev) : W32 :=
  let d := d.tsetDue n
  let t := d.tset n
  let entry (c : TsetCopy) (o : Nat) : W32 :=
    BitVec.ofNat 32 ((Tab.get (fun _ => 0) c.entries (o / 24)).toNat / 2 ^ (32 * (o % 24 / 4)))
  let period (c : TsetCopy) (o : Nat) : W32 :=
    let p := c.period (o / 8)
    BitVec.ofNat 32 (if o % 8 = 0 then p % unit24 else p / unit24)
  let deskew (c : TsetCopy) (o : Nat) : W32 := BitVec.ofNat 32 (unsignedOf 16 (Tab.get (fun _ => 0) c.deskew (o / 4)))
  if 0x100 ≤ off && off < 0x200 then period t.shadow (off - 0x100)
  else if 0x200 ≤ off && off < 0x300 then period t.active (off - 0x200)
  else if 0x300 ≤ off && off < 0x400 then deskew t.shadow (off - 0x300)
  else if 0x400 ≤ off && off < 0x500 then deskew t.active (off - 0x400)
  else if 0x80000 ≤ off then entry t.shadow (off - 0x80000)
  else if 0x40000 ≤ off then entry t.active (off - 0x40000)
  else d.reg addr

/-- A bank's registers (R159, R191). -/
def Dev.pinbView (b off addr : Nat) (d : Dev) : W32 :=
  let map (f : Nat → Bool) : W32 := BitVec.ofNat 32 (maskOf ((List.range 32).filter fun i => f (physOfPage b i)))
  let sp := physOfPage b 32
  match off with
  | 0x9020 => map fun p => !(d.pin p).high.resolved
  | 0x9024 => map fun p => !(d.pin p).low.resolved
  | 0x9028 => BitVec.ofNat 32 (bit (!(d.pin sp).high.resolved) + 2 * bit (!(d.pin sp).low.resolved))
  | 0x902C => map fun p => (d.pin p).settle.isSome
  | 0x9030 => BitVec.ofNat 32 (bit (d.pin sp).settle.isSome)
  | 0x9054 => BitVec.ofNat 32 (d.bank b).buffer.length
  | _ => d.reg addr

/-- An SMC group's registers (R220, R223, R224). -/
def Dev.smcgView (g off i addr : Nat) (d : Dev) : W32 :=
  let map (f : Nat → Bool) : W32 := BitVec.ofNat 32 (maskOf ((List.range 17).filter f))
  if off < 0x4400 && off % 0x400 = 0x78 then
    let s := d.sm (if i < 16 then d.smcPhysOf (16 * g + i) else 256 + g)
    if s.clamp.isSome then BitVec.ofNat 32 (min (2 ^ 32 - 1) ((d.reg addr).toNat + (d.elapsed - s.clampFrom) / usTclk))
    else d.reg addr
  else if off = 0x8018 then map fun j => let st := d.get (SMCG.OUT_OUT_STATE g j); st == 2 || st == 3
  else if off = 0x801C then map fun j => d.get (SMCG.OUT_PENDING_ON g j) == 1
  else d.reg addr

/-! ### Any register -/

/-- The dword of a register as a read shows it. -/
def Dev.regView (w : Window) (r : RegRow) (n i j addr : Nat) (d : Dev) : W32 :=
  let off := addr - (w.base + w.stride * n)
  if r.kind = .wo then 0
  else
    match w.block with
    | 0x05 => d.glbView off addr
    | 0x01 => if off = 0 then halfOf d.now false else if off = 4 then halfOf d.now true else d.reg addr
    | 0x02 => d.fltView off i addr
    | 0x04 => if off = 0 then withFields (d.reg addr) [(12, 1, bit d.sigRequired)] else d.reg addr
    | 0x00 => d.ldgView off addr
    | 0x06 => d.tokView off i j addr
    | 0x07 => if 0x100 ≤ off && off < 0x340 && off % 0x40 = 0x18 then withFields (d.reg addr) [(0, 1, bit (d.ringActive i))] else d.reg addr
    | 0x09 => d.trgView off addr
    | 0x0A => d.tiaView off addr
    | 0x0C => if off = 0 then withFields (d.reg addr) [(0, 16, Config.romLevel.toNat)] else d.reg addr
    | 0x10 => d.seqView n off addr
    | 0x50 => d.tsetView n off addr
    | 0x20 => d.pinbView n off addr
    | 0x40 => d.smcgView n off i addr
    | _ => d.reg addr

/-- What a host read of a BAR0 dword shows while its block is served; the complement word of a guarded register shows the
complement of the value in force (R390). -/
def Dev.view (d : Dev) (a : Nat) : W32 :=
  match decodeReg a with
  | .reg r w n i j addr comp => if comp then ~~~ (d.regView w r n i j (addr - 4)) else d.regView w r n i j addr
  | _ => 0

/-- The dword pairs of a block's window (R8): offset of NAME_LO, stride and count. -/
def pairsOf (block : Nat) : List (Nat × Nat × Nat) :=
  match block with
  | 0x05 => [(0x8, 0, 1), (0x20, 0, 1), (0x40, 0, 1)]
  | 0x01 => [(0x0, 0, 1), (0x18, 0, 1), (0x30, 0, 1), (0x50, 0, 1)]
  | 0x02 => [(0x38, 0, 1), (0x104, 0x20, 4), (0x10C, 0x20, 4)]
  | 0x00 => [(0x10, 0, 1), (0x28, 0, 1), (0x30, 0, 1), (0x38, 0, 1)]
  | 0x07 => [(0x0, 0, 1), (0x100, 0x40, 9)]
  | 0x08 => [(0x8, 0, 1), (0x138, 0, 1)]
  | 0x0A => [(0x8, 0, 1), (0x10, 0, 1), (0x18, 0, 1), (0x30, 0, 1), (0x100C, 0x80, 64)]
  | 0x18 => [(0x28, 0, 1)]
  | 0x0B => [(0x90, 0, 1), (0x98, 0, 1)]
  | 0x10 => [(0x8, 0, 1), (0x30, 0, 1), (0x40, 0, 1), (0xB0, 0, 1), (0xB8, 0, 1), (0xC0, 0, 1), (0x118, 0, 1), (0x130, 0, 1), (0x138, 0, 1)]
  | 0x14 => [(0x110, 0x100, 4), (0x118, 0x100, 4), (0x120, 0x100, 4), (0x140, 0x100, 4), (0x1000, 8, 64), (0x1300, 0, 1), (0x1308, 0, 1), (0x1310, 0, 1), (0x2000, 8, 1024)]
  | 0x50 => [(0x28, 0, 1), (0x100, 8, 32), (0x200, 8, 32)]
  | 0x20 => [(0x188, 0x400, 33)]
  | 0x40 => [(0x58, 0x400, 17), (0x88, 0x400, 17), (0x188, 0x400, 17), (0x10, 0x400, 17), (0x30, 0x400, 17)]
  | _ => []

/-- The register at a window offset is the LO half of a pair. -/
def isPairLo (block off : Nat) : Bool :=
  (pairsOf block).any fun (o, s, n) => o ≤ off && (if s = 0 then off == o else (off - o) % s == 0 && decide ((off - o) / s < n))

/-- What a host read returns: what a read of the register before it snapshotted, or the present value (R8). -/
def Dev.readBack (d : Dev) (a : Nat) : W32 := Tab.get (fun k => d.view k) d.snaps a

/-- Keep the present value of a register for the reads that follow (R8). -/
def Dev.snapshot (a : Nat) (d : Dev) : Dev := { d with snaps := d.snaps.insert a (d.view a) }

/-- Keep the present values of several registers, all of one instant. -/
def Dev.snapshotAll (as : List Nat) (d : Dev) : Dev := { d with snaps := as.foldl (fun t a => t.insert a (d.view a)) d.snaps }

/-- A host read of a BAR0 dword that is not served, or does not decode (R386, R393, R397, R410). -/
def Dev.readRefused (a : Nat) (d : Dev) : Dev := if d.inBoot && blockOfAddr a != 0xFF then d else d.regDecode false a

/-- A full host read of the register at `a`, where it is served: `f` is what it does. -/
def Dev.hostRead (a : Nat) (f : Dev → Dev) (d : Dev) : Dev :=
  if !d.host.memEn then d else if d.served (blockOfAddr a) then f d else d.readRefused a

/-- A read of NAME_LO of a pair snapshots NAME_HI (R8). -/
def Dev.snapshotRead (a : Nat) (d : Dev) : Dev :=
  match decodeReg a with
  | .reg _ w n _ _ addr _ =>
    d.hostRead addr fun d => if isPairLo w.block (addr - (w.base + w.stride * n)) then d.snapshot (addr + 4) else d
  | _ => if d.host.memEn then d.regDecode false (a / 4 * 4) else d

/-- A BAR0 access that R386 turns away; one that decodes is no such access. -/
def Dev.undecoded (write : Bool) (a : Nat) (d : Dev) : Dev :=
  match decodeReg a with
  | .reg _ _ _ _ _ _ _ => d
  | _ =>
    if !d.host.memEn then d
    else if write && d.flt.safeHold then d.safeHoldDiscard (blockOfAddr a) (a / 4 * 4)
    else d.regDecode write (a / 4 * 4)

end Sys2Proof.Machine
end

