-- ==== Sys2Proof/Machine/HostWrite.lean ====
section
/-! DEFINITION. What a write of a register does, for every register of the map (R9, R10, R19, R365, R386 to R391): the
effect on the register, block by block, and the way of a host write to it. -/

namespace Sys2Proof.Machine

/-! ### Plain stores -/

/-- Store a write under the access types of its row (R9, R10): RW bits are replaced, W1C bits that carry 1 clear. What the
dword held stays the shadow of the previous TCLK (R166). -/
def Dev.storeRow (r : RegRow) (addr : Nat) (v : W32) (d : Dev) : Dev :=
  let old := d.reg addr
  let rw := BitVec.ofNat 32 r.rw
  let cl := v &&& BitVec.ofNat 32 r.w1c
  (d.noteOld addr).setReg addr ((old &&& ~~~ rw &&& ~~~ cl) ||| (v &&& rw))

/-- Store a write where a condition holds; otherwise it is ignored with a notice. -/
def Dev.storeIf (ok : Bool) (r : RegRow) (addr : Nat) (v : W32) (d : Dev) : Dev :=
  if ok then d.storeRow r addr v else d.ignored addr

/-- A value with a field replaced by the one in force. -/
def keepField (v old : W32) (lo w : Nat) : W32 := spliceBits v.toNat lo w (bitsOf old.toNat lo w)

/-- Store a write; each listed field (lowest bit, width) whose value is not allowed keeps its value, with one notice. -/
def Dev.storeFields (fs : List (Nat × Nat × (Nat → Bool))) (r : RegRow) (addr : Nat) (v : W32) (d : Dev) : Dev :=
  let bad := fs.filter fun (lo, w, ok) => !ok (bitsOf v.toNat lo w)
  let v' := bad.foldl (fun v (lo, w, _) => keepField v (d.reg addr) lo w) v
  let d := d.storeRow r addr v'
  if bad.isEmpty then d else d.ignored addr

/-- A value lies in a range. -/
def between (lo hi x : Nat) : Bool := decide (lo ≤ x) && decide (x ≤ hi)

/-- The low `k` bits of a dword are reserved (R10). -/
def dropLow (k : Nat) (v : W32) : W32 := BitVec.ofNat 32 (v.toNat / 2 ^ k * 2 ^ k)

/-! ### Commands of one register -/

/-- A write of PLN.SYNC_CTRL. -/
def Dev.syncCtrl (v : Nat) (d : Dev) : Dev :=
  let d := d.put PLN.SYNC_CTRL_CHECK_EN (bitsOf v 2 1)
  let d := if v.testBit 0 then d.armWrite else d
  if v.testBit 1 then d.disarmWrite else d

/-- A write of SEQn.CTRL: the commands act in the order ABORT, PAUSE, RESUME, START, each judged against the state that the
previous one leaves (R90): beside another command the ABORT, which takes the shorter way (R20), has landed. -/
def Dev.seqCtrl (n v : Nat) (d : Dev) : Dev :=
  let d := if v.testBit 3 then d.requestAbort n 1 else d
  let d := if v.testBit 3 && v % 8 ≠ 0 then d.abortLand n else d
  let d := if v.testBit 1 then d.engPause n false else d
  let d := if v.testBit 2 then d.engResume n else d
  if v.testBit 0 then d.startRequest n else d

/-- GLB.ABORT_ALL (R90). -/
def Dev.abortAll (d : Dev) : Dev := d.each (List.range 4) fun n => Dev.requestAbort n 2

/-- TRG.SW_PULSE (R74, R232). -/
def Dev.swPulse (lines : Nat) (d : Dev) : Dev :=
  d.each ((List.range 8).filter lines.testBit) fun n d => if d.ownsLine n then d.trigPulse n else d.trigDenied n 0xFF 0

/-- A write of a TIA measurement's CTRL: STOP acts first, then ARM (R205). -/
def Dev.tiaCtrl (k v : Nat) (d : Dev) : Dev :=
  let d := if v.testBit 1 then d.tiaStop k else d
  if v.testBit 0 then d.tiaArmRequest k else d

/-- A write of an acquisition unit's CTRL: DISARM, ARM, TRIGGER in this order (R244). -/
def Dev.aqCtrl (u v : Nat) (d : Dev) : Dev :=
  let d := if v.testBit 2 then d.aqDisarm u else d
  let d := if v.testBit 0 then d.aqArmRequest u else d
  if v.testBit 1 then d.aqSoftware u else d

/-- A write of an acquisition configuration field: applied only while the unit is IDLE or DONE (R234). -/
def Dev.acqConfig (u : Nat) (r : RegRow) (addr : Nat) (v : W32) (d : Dev) : Dev := d.storeIf (d.aqQuiet u) r addr v

/-- A write of RINGr_CTRL (R374). -/
def Dev.ringCtrl (r v : Nat) (d : Dev) : Dev :=
  let en := d.on (HDMA.RING_CTRL_EN r)
  let d := if v.testBit 0 then (if en then d else d.ringEnable r) else if en then d.ringDisable r else d
  let d := if v.testBit 1 then d.ringSkip r else d
  if v.testBit 2 then d.ringRetry r else d

/-- A write of SIGN_INTERVAL (R289): out of range it is ignored; a tick that it makes overdue is taken at once. -/
def Dev.signInterval (v : W32) (d : Dev) : Dev :=
  let a := LDG.SIGN_INTERVAL.addr
  if between 100 60000 v.toNat then
    let d := d.setReg a v
    if d.ldgRuns && d.merging && d.ldg.lastTick + msTclk * v.toNat < d.elapsed then d.signTick else d
  else d.ignored a

/-- LDG.CTRL.FLUSH (R283). -/
def Dev.ldgFlush (d : Dev) : Dev := d.closeTimed 0

/-- A write of IDLE_CFG (R122). -/
def Dev.idleCfg (n : Nat) (r : RegRow) (addr : Nat) (v : W32) (d : Dev) : Dev :=
  let was := d.get (SEQ.IDLE_CFG_END_STATE n)
  let d := d.storeFields [(0, 2, fun x => x != 3)] r addr v
  if d.get (SEQ.IDLE_CFG_END_STATE n) = was then d else d.applyEndState n (d.now * unit24)

/-- A write of a fail capture field that keeps its value while the engine is not IDLE (R179). -/
def Dev.fcapKept (n : Nat) (r : RegRow) (addr : Nat) (v : W32) (d : Dev) : Dev :=
  if d.engIdle n || v &&& BitVec.ofNat 32 r.rw = d.reg addr then d.storeRow r addr v else d.ignored addr

/-! ### Channel pages (R262, R419, R420) -/

/-- A register of a pin page beyond its control dword: the pages a write reaches take it together (R262). -/
def Dev.pinPageWrite (b i : Nat) (off : Nat) (r : RegRow) (addr : Nat) (v : W32) (d : Dev) : Dev :=
  if d.spareBusy b i then d.ignored addr
  else if (off = 0x10 || off = 0x14) && !(let x := signedOf 16 v.toNat; decide (-4096 ≤ x) && decide (x ≤ 4095)) then
    d.ignored addr
  else
    let d := d.each (d.mirrorPages b i) fun j => Dev.storeRow r (addr + 0x400 * j - 0x400 * i) v
    if 0x20 ≤ off && off < 0x40 then d.latchNow b ((off - 0x20) / 4) (d.mirrorPages b i) else d

/-- A write anywhere in a pin bank's window. -/
def Dev.pinbWrite (b off i : Nat) (r : RegRow) (addr : Nat) (v : W32) (d : Dev) : Dev :=
  if off < 0x8400 then
    let o := off % 0x400
    if o = 0 then d.pinConfigWrite (physOfPage b i) v
    else if 0x100 ≤ o && o < 0x180 then d.constantWrite addr v
    else if o < 0x60 then d.pinPageWrite b i o r addr v
    else if o = 0x64 then d.carryWrite b i addr v
    else d.storeRow r addr v
  else if off = 0x9050 then d.storeIf (bitsOf v.toNat 0 2 != 3) r addr v
  else d.storeRow r addr v

/-- Pages a host write to page `i` of group `g` reaches: while the spare carries channel `i`, both (R262, R420). -/
def Dev.smcMirrorPages (d : Dev) (g i : Nat) : List Nat :=
  if i < 16 && d.get (SMCG.CARRY_CARRIER g 16) == 16 * g + i then [i, 16] else [i]

/-- The spare's page while it carries a channel takes no write of its own (R262). -/
def Dev.smcSpareBusy (d : Dev) (g i : Nat) : Bool := i == 16 && d.get (SMCG.CARRY_CARRIER g 16) != 0x1FF

/-- The physical SMC that page `i` of group `g` speaks for. -/
def Dev.smcOfHost (d : Dev) (g i : Nat) : Nat := if i < 16 then d.smcPhysOf (16 * g + i) else 256 + g

/-- The DDS_FTW pair is committed by its HI half (R213, R389). -/
def Dev.ftwCommit (g j : Nat) (v : W32) (d : Dev) : Dev :=
  let f := SMCG.DDS_FTW g j
  let key := 17 * g + j
  let lo := Tab.get (fun _ => d.get f) d.smc.ftwHeld key
  let hi := v.toNat % 65536
  let d := { d with smc := { d.smc with ftwHeld := d.smc.ftwHeld.erase key } }
  if hi * 2 ^ 32 + lo ≤ 0x0CCCCCCCCCCC then (d.put f lo).put (SMCG.DDS_FTW_HI g j) hi else d.ignored (f.addr + 4)

/-- The fields of an SMC page register that must lie in a range or must not take a reserved code (R207, R208, R212, R213,
R217 to R219). -/
def smcLimits (off : Nat) : List (Nat × Nat × (Nat → Bool)) :=
  match off with
  | 0x00 => [(0, 3, fun x => decide (x < 6)), (4, 3, fun x => decide (x < 5))]
  | 0x18 => [(0, 20, fun x => decide (x ≤ 0x80000))]
  | 0x44 => [(0, 16, fun x => x != 0)]
  | 0x48 => [(0, 21, between 1 2000000)]
  | 0x4C => [(0, 16, between 40 65535), (16, 4, fun x => decide (x ≤ 10))]
  | 0x70 =>
    [(0, 8, fun x => x != 0), (20, 2, fun x => x != 3), (22, 2, fun x => x != 3), (24, 2, fun x => x != 3),
     (26, 2, fun x => x != 3)]
  | _ => []

/-- The effect of a write on one SMC page. -/
def Dev.smcPageOne (g j off : Nat) (r : RegRow) (addr : Nat) (v : W32) (d : Dev) : Dev :=
  let p := smcOfPage g j
  let d :=
    if off = 0x10 then
      { d with smc := { d.smc with ftwHeld := d.smc.ftwHeld.insert (17 * g + j) v.toNat } }
    else if off = 0x14 then d.ftwCommit g j v
    else d.storeFields (smcLimits off) r addr v
  let d := if off = 0x4C then d.modSm p fun s => { s with sumV := 0, sumI := 0, avgN := 0 } else d
  if off < 0x20 && off ≠ 0x10 && d.on (SMCG.LS_LS_IMM g j) then
    d.smcQueueLatch p (mclkAt (d.elapsed + 1)) (if off = 0x14 then [4, 5] else [off / 4]) d.regs
  else d

/-- A write anywhere in an SMC group's window. -/
def Dev.smcgWrite (g off i : Nat) (r : RegRow) (addr : Nat) (v : W32) (d : Dev) : Dev :=
  if off < 0x4400 then
    let o := off % 0x400
    if 0x100 ≤ o && o < 0x180 then d.constantWrite addr v
    else if o = 0x78 then (d.storeRow r addr v).modSm (d.smcOfHost g i) fun s => { s with clampFrom := d.elapsed }
    else if o = 0x90 then d.carryWrite (32 + g) i addr v
    else if 0x88 ≤ o then d.storeRow r addr v
    else if d.smcSpareBusy g i then d.ignored addr
    else if o = 0x80 then
      let p := d.smcOfHost g i
      if v.getLsbD 0 then d.smcOn p else d.smcOff p offHost
    else d.each (d.smcMirrorPages g i) fun j d => d.smcPageOne g j o r (addr + 0x400 * j - 0x400 * i) v
  else if off = 0x802C then d.storeFields [(0, 16, fun x => x != 0), (16, 16, fun x => x != 0)] r addr v
  else if 0xC000 ≤ off then
    let busy := (List.range 17).any fun j => (d.sm (smcOfPage g j)).dds == .runs || (d.sm (smcOfPage g j)).dds == .stopping
    d.storeIf (!busy) r addr v
  else d.storeRow r addr v

/-! ### Each block -/

/-- GLB. -/
def Dev.glbWrite (off : Nat) (r : RegRow) (addr : Nat) (v : W32) (d : Dev) : Dev :=
  match off with
  | 0x14 => if v.getLsbD 0 then d.dormantRequest else d
  | 0x28 => if v.getLsbD 0 then d.abortAll else d
  | 0x58 => if v.getLsbD 0 then d.mapCommit else d
  | 0x60 => d.strobe (v.toNat % 256) d.shadowRegs
  | _ => d.storeRow r addr v

/-- PLN (R44, R52, R54). -/
def Dev.plnWrite (off : Nat) (r : RegRow) (addr : Nat) (v : W32) (d : Dev) : Dev :=
  match off with
  | 0x10 => d.syncCtrl v.toNat
  | 0x24 => d.storeIf (v.toNat % 16 == 0 && decide (16 ≤ v.toNat)) r addr v
  | 0x48 => d.storeIf (decide (v.toNat ≤ 3600000)) r addr v
  | 0x50 => d.modPln fun p => { p with tagLo := v }
  | 0x54 => d.epochMark v.toNat
  | _ => d.storeRow r addr v

/-- FLT (R347, R351, R352, R361). -/
def Dev.fltWrite (off i : Nat) (r : RegRow) (addr : Nat) (v : W32) (d : Dev) : Dev :=
  match off with
  | 0x10 => d.storeIf (between 10 10000 v.toNat) r addr v
  | 0x14 => d.storeIf (between 1 255 v.toNat) r addr v
  | 0x18 => d.storeIf (between 60 86400 v.toNat) r addr v
  | 0x30 =>
    if !d.on FLT.STATUS_FACTORY then d.ignored addr
    else
      let d := d.storeRow r addr v
      if v.getLsbD 31 then d.inject (bitsOf v.toNat 0 16) (bitsOf v.toNat 16 8) else d
  | _ => if 0x100 ≤ off && off < 0x180 && off % 0x20 = 0x18 then (if v.getLsbD 8 then d.fecClear i else d) else d.storeRow r addr v

/-- GOV (R357). -/
def Dev.govWrite (off : Nat) (r : RegRow) (addr : Nat) (v : W32) (d : Dev) : Dev :=
  match off with
  | 0x40 => d.storeIf (between 85 100 (v.toNat % 256)) r addr v
  | 0x44 => d.storeIf (between 60 135 (v.toNat % 256)) r addr v
  | 0x4C => d.storeIf (between 1 60000 (v.toNat % 65536)) r addr v
  | _ => d.storeRow r addr v

/-- BOOT (R411). -/
def Dev.bootWrite (off : Nat) (r : RegRow) (addr : Nat) (v : W32) (d : Dev) : Dev :=
  match off with
  | 0x14 =>
    let d := d.storeRow r addr v
    if v.getLsbD 31 then d.nvmGo else d
  | _ => d.storeRow r addr v

/-- LDG (R283, R289, R291). -/
def Dev.ldgWrite (off : Nat) (r : RegRow) (addr : Nat) (v : W32) (d : Dev) : Dev :=
  let empty := d.ldg.dring.isEmpty
  match off with
  | 0x00 => if v.getLsbD 0 then d.ldgFlush else d
  | 0x04 => d.signInterval v
  | 0x08 => d.storeIf (between 50 1000 (v.toNat % 65536)) r addr v
  | 0x10 => d.storeIf empty r addr (dropLow 20 v)
  | 0x14 => d.storeIf empty r addr v
  | 0x18 => d.storeIf (empty && between 4 16384 (v.toNat % 65536)) r addr v
  | _ => d.storeRow r addr v

/-- TOK (R343). -/
def Dev.tokWrite (off i : Nat) (r : RegRow) (addr : Nat) (v : W32) (d : Dev) : Dev :=
  if off = 0x04 then d.minClr (v.toNat % 128)
  else if 0x100 ≤ off && off < 0x1E0 && off % 0x20 = 0x14 then { d with tok := { d.tok with waits := d.tok.waits.insert i v.toNat } }
  else if 0x100 ≤ off && off < 0x1E0 && off % 0x20 = 0x18 then
    { d with tok := { d.tok with denied := d.tok.denied.insert i v.toNat } }
  else d.storeRow r addr v

/-- A legal ring size (R371). -/
def ringSizeOk (x : Nat) : Bool := (List.range' 4 13).any fun k => x == 2 ^ k

/-- HDMA (R371, R374, R381). -/
def Dev.hdmaWrite (off i : Nat) (r : RegRow) (addr : Nat) (v : W32) (d : Dev) : Dev :=
  if off = 0x00 then d.storeRow r addr (dropLow 6 v)
  else if off = 0x08 then d.storeIf (between 10 10000 (v.toNat % 65536)) r addr v
  else if 0x100 ≤ off && off < 0x340 then
    let off' := off % 0x40
    let off_ := !d.on (HDMA.RING_CTRL_EN i)
    match off' with
    | 0x00 => d.storeIf off_ r addr (dropLow 12 v)
    | 0x04 => d.storeIf off_ r addr v
    | 0x08 => d.storeIf (off_ && ringSizeOk (v.toNat % 2 ^ 17)) r addr v
    | 0x0C => d.ringCtrl i v.toNat
    | _ => d.storeRow r addr v
  else d.storeRow r addr v

/-- DRC (R313, R325, R326, R330): MAP, BIN_MAX and DENSITY take a value from REGINIT only. -/
def Dev.drcWrite (off i : Nat) (r : RegRow) (addr : Nat) (v : W32) (d : Dev) : Dev :=
  if off = 0x00 then
    if d.boot.loader then d.storeRow r addr v
    else d.storeFields [(0, 6, fun x => x == bitsOf (d.reg addr).toNat 0 6)] r addr v
  else if 0x40 ≤ off && off < 0x80 then d.storeIf (v.toNat % 65536 != 0) r addr v
  else if off = 0x120 then d.storeIf (between 60 86400 v.toNat) r addr v
  else if off = 0x130 then d.storeFields [(0, 6, between 1 32), (16, 16, between 10 60000)] r addr v
  else if 0x1000 ≤ off then d.storeIf (d.pairHeld (i / 2)) r addr v
  else d.storeRow r addr v

/-- TRG (R232). -/
def Dev.trgWrite (off : Nat) (r : RegRow) (addr : Nat) (v : W32) (d : Dev) : Dev :=
  if off = 0x04 then d.swPulse (v.toNat % 256)
  else if 0x10 ≤ off && off < 0x30 then d.storeIf (decide (8 ≤ v.toNat % 65536)) r addr v
  else d.storeRow r addr v

/-- Stamps are queued in a bank whose stream goes to the DRAM stamp ring. -/
def Dev.stampsQueued (d : Dev) : Bool :=
  (List.range 32).any fun b =>
    d.get (PINB.STAMP_CFG b) == 1 && (!(d.bank b).buffer.isEmpty || (bankPins b).any fun p => !(d.pin p).queue.isEmpty)

/-- TIA (R189, R199, R205). -/
def Dev.tiaWrite (off i : Nat) (r : RegRow) (addr : Nat) (v : W32) (d : Dev) : Dev :=
  if off = 0x00 then d.storeIf (between 1 10000000 v.toNat) r addr v
  else if off = 0x30 then d.storeIf (!d.stampsQueued) r addr (dropLow 16 v)
  else if off = 0x34 then d.storeIf (!d.stampsQueued) r addr v
  else if off = 0x38 then d.storeIf (v.toNat % 65536 != 0) r addr v
  else if 0x1000 ≤ off && off % 0x80 = 0x18 then d.tiaCtrl i v.toNat
  else if 0x1000 ≤ off && off % 0x80 < 0x18 then d.storeIf (!(d.meas i).armed) r addr v
  else d.storeRow r addr v

/-- An acquisition unit (R234, R239, R244). -/
def Dev.aqWrite (u off : Nat) (r : RegRow) (addr : Nat) (v : W32) (d : Dev) : Dev :=
  if off = 0x34 then d.aqPartWrite u v.toNat
  else if off = 0x80 then d.aqCtrl u v.toNat
  else if off = 0x18 then if d.aqQuiet u then d.storeFields [(5, 2, fun x => x != 3)] r addr v else d.ignored addr
  else if off = 0x28 then d.acqConfig u r addr (dropLow 16 v)
  else if off = 0x30 then d.storeIf (d.aqQuiet u && v.toNat % 65536 != 0) r addr v
  else if off < 0x80 then d.acqConfig u r addr v
  else d.storeRow r addr v

/-- CAL (R251, R264, R267 to R270). -/
def Dev.calWrite (off i : Nat) (r : RegRow) (addr : Nat) (v : W32) (d : Dev) : Dev :=
  if off = 0x20 then d.storeIf (between 2400000 2600000 v.toNat) r addr v
  else if off = 0x24 then d.storeIf (between 9900000 10100000 v.toNat) r addr v
  else if off = 0x30 then d.storeIf (between 10 86400 v.toNat) r addr v
  else if off = 0x34 then d.bandWrite v.toNat
  else if off = 0x38 then d.storeIf (decide (v.toNat % 65536 ≤ 60000)) r addr v
  else if 0x300 ≤ off && off < 0x324 then d.storeRow r addr (if i = 8 then v &&& 0xFFFF else v)
  else if 0x400 ≤ off && off < 0x440 then (d.storeFields [(0, 2, fun x => x != 3)] r addr v).smcBegin (32 + i)
  else if off = 0x98 || off = 0x9C then d.committedWrite addr v
  else d.storeRow r addr v

/-- HKS (R306). -/
def Dev.hksWrite (off : Nat) (r : RegRow) (addr : Nat) (v : W32) (d : Dev) : Dev :=
  if off = 0x800 then d.storeIf (between 1 3600 (v.toNat % 65536)) r addr v else d.storeRow r addr v

/-- An engine (R90, R100, R107, R112, R116, R119, R121, R122, R391). -/
def Dev.seqWrite (n off : Nat) (r : RegRow) (addr : Nat) (v : W32) (d : Dev) : Dev :=
  match off with
  | 0x00 => d.seqCtrl n v.toNat
  | 0x14 => d.configWrite n v.toNat
  | 0x18 =>
    let m := v >>> 16
    d.setReg addr (((d.reg addr &&& ~~~ m) ||| (v &&& m)) &&& 0xF)
  | 0x100 => d.cachePart n v.toNat
  | 0x104 => if v.getLsbD 0 then d.hostFlush n else d
  | 0x114 => d.storeIf (d.engState n == seqIdle) r addr v
  | 0x140 => d.storeFields [(0, 2, fun x => x != 3), (4, 2, fun x => x != 3)] r addr v
  | 0x144 => d.idleCfg n r addr v
  | 0x148 => if v.getLsbD 0 then d.idleCommit n else d
  | _ => d.storeRow r addr v

/-- Fail capture (R107, R175, R179, R181, R182). -/
def Dev.fcapWrite (off i : Nat) (r : RegRow) (addr : Nat) (v : W32) (d : Dev) : Dev :=
  if off < 0x10 then d.failPartition i v.toNat
  else if 0x100 ≤ off && off < 0x500 then
    match off % 0x100 with
    | 0x00 => d.fcapCfg i v.toNat
    | 0x04 => if v.toNat % 65536 = 0 then d.ignored addr else d.fcapKept i r addr v
    | 0x34 => d.fcapKept i r addr v
    | 0x38 => d.fcapKept i r addr v
    | 0x3C => if v.getLsbD 0 then d.mapDump i else d
    | 0x40 => d.storeIf (d.engIdle i) r addr (dropLow 16 v)
    | 0x44 => d.storeIf (d.engIdle i) r addr v
    | 0x48 => d.storeIf (v.toNat % 65536 != 0) r addr v
    | _ => d.storeRow r addr v
  else d.storeRow r addr v

/-- A timing-set window (R128, R134, R136, R137, R142). -/
def Dev.tsetWrite (n off i : Nat) (r : RegRow) (addr : Nat) (v : W32) (d : Dev) : Dev :=
  if off = 0x18 then d.stageWrite n v.toNat
  else if off = 0x20 then (if v.getLsbD 0 then d.tsetCommit n else d)
  else if off = 0x28 then d.originWrite n false v.toNat
  else if off = 0x2C then d.originWrite n true v.toNat
  else if 0x100 ≤ off && off < 0x200 then
    (if off % 8 = 0 then d.periodLoWrite n i v.toNat else d.periodWrite n i v.toNat)
  else if 0x300 ≤ off && off < 0x400 then d.siteDeskewWrite n i v.toNat
  else d.storeRow r addr v

/-- The effect of a full write of `v` to a register, whoever makes it. `n` is the copy of the window, `i` the register's
first index. -/
def Dev.regEffect (w : Window) (r : RegRow) (n i addr : Nat) (v : W32) (d : Dev) : Dev :=
  let off := addr - (w.base + w.stride * n)
  match w.block with
  | 0x05 => d.glbWrite off r addr v
  | 0x01 => d.plnWrite off r addr v
  | 0x02 => d.fltWrite off i r addr v
  | 0x03 => d.govWrite off r addr v
  | 0x04 => d.bootWrite off r addr v
  | 0x00 => d.ldgWrite off r addr v
  | 0x06 => d.tokWrite off i r addr v
  | 0x07 => d.hdmaWrite off i r addr v
  | 0x08 => d.drcWrite off i r addr v
  | 0x09 => d.trgWrite off r addr v
  | 0x0A => d.tiaWrite off i r addr v
  | 0x18 => d.aqWrite n off r addr v
  | 0x0B => d.calWrite off i r addr v
  | 0x0C => d.hksWrite off r addr v
  | 0x10 => d.seqWrite n off r addr v
  | 0x14 => d.fcapWrite off i r addr v
  | 0x50 => d.tsetWrite n off i r addr v
  | 0x20 => d.pinbWrite n off i r addr v
  | 0x40 => d.smcgWrite n off i r addr v
  | _ => d

/-! ### Guarded registers (R390) -/

/-- A completed write of FLT.REACT: a bit at 1 stays, where the write carries 0, with a notice (R360). -/
def Dev.reactWrite (v : Nat) (d : Dev) : Dev :=
  let a := FLT.REACT_LINK_FC0.addr
  let old := (d.reg a).toNat % 8
  let d' := d.setReg a (BitVec.ofNat 32 (old ||| v % 8))
  if old &&& v % 8 = old then d' else d'.ignored a

/-- A completed write of FLT.FACTORY (R361). -/
def Dev.factoryEnter (v : Nat) (d : Dev) : Dev :=
  if v % 2 = 0 then d
  else if d.on FLT.STATUS_STRAP then (d.put FLT.STATUS_FACTORY 1).put FLT.STATUS_FACT_RESULT 1
  else (d.put FLT.STATUS_FACT_RESULT 2).gdDiscard FLT.FACTORY.addr

/-- A completed write of a bank's HV_EN (R152): when it falls, the active driver levels are clamped at once. -/
def Dev.pinHvEn (b v : Nat) (d : Dev) : Dev :=
  let was := d.get (PINB.HV_EN b)
  let d := d.put (PINB.HV_EN b) v
  if was = 1 && v = 0 then d.latchPages (fun i j => d.get (PINB.ACT_LVL b i j)) b (List.range 33) (List.range 8) else d

/-- What a completed guarded write does, by the address of its primary. -/
def Dev.gdEffect (w : Window) (n addr v : Nat) (d : Dev) : Dev :=
  let off := addr - (w.base + w.stride * n)
  match w.block, off with
  | 0x20, _ => d.pinHvEn n (v % 2)
  | 0x40, 0x8000 => d.smcHvEn n (v % 2)
  | 0x40, _ => d.smcGang n v
  | 0x0B, 0x08 => d.spareDis false v
  | 0x0B, _ => d.spareDis true v
  | 0x00, _ => d.ldgReset v
  | 0x02, 0x20 => d.reactWrite v
  | 0x02, _ => d.factoryEnter v
  | 0x04, _ => d.nvmErase v
  | _, _ => d

/-- A full host write to a guarded primary (R390): the value waits for its complement, replacing any other. -/
def Dev.gdValue (addr : Nat) (v : W32) (d : Dev) : Dev :=
  if !d.hostOpen addr then d.hostStop addr
  else
    let b := blockOfAddr addr
    let d := d.gdBreak b
    { d with host := { d.host with gd := d.host.gd.insert b ⟨addr, v, d.elapsed⟩ } }

/-- More than 10 µs have passed without the complement (R390). -/
def Dev.gdExpiry (b : Nat) (d : Dev) : Dev :=
  match d.gdPending b with
  | some g => ((d.until (g.at_ + 16001)).gdForget b).gdDiscard g.addr
  | none => d

/-- A host write of the complement word of the guarded register at `addr`. -/
def Dev.gdComplement (w : Window) (n addr : Nat) (v : W32) (d : Dev) : Dev :=
  d.guarded addr v fun x d => d.gdEffect w n addr x

/-! ### Host writes (R386 to R389) -/

/-- Bytes of a dword by byte enables. -/
def mergeBytes (old new : W32) (be : Nat) : W32 :=
  BitVec.ofNat 32 (ofLeBytes ((List.range 4).map fun i =>
    if be.testBit i then BitVec.ofNat 8 (bitsOf new.toNat (8 * i) 8) else BitVec.ofNat 8 (bitsOf old.toNat (8 * i) 8)))

/-- One dword of a host write to BAR0, with its byte enables. -/
def Dev.dwordWrite (a : Nat) (v : W32) (be : Nat) (d : Dev) : Dev :=
  if be % 16 = 0 || !d.host.memEn then d
  else if d.flt.safeHold then d.safeHoldDiscard (blockOfAddr a) (a / 4 * 4)
  else
    match decodeReg a with
    | .reg r w n i _ addr comp =>
      if !d.served (blockOfAddr addr) then d.regDecode true addr
      else if be % 16 = 15 then
        if r.kind = .gd then (if comp then d.gdComplement w n (addr - 4) v else d.gdValue addr v)
        else d.hostWrite addr (Dev.regEffect w r n i addr v)
      else if r.kind = .plain then d.hostWrite addr (Dev.regEffect w r n i addr (mergeBytes (d.view addr) v be))
      else d.regDecode true addr
    | _ => d.regDecode true (a / 4 * 4)

/-- The byte enables of dword `k` of a write of `len` dwords (R388). -/
def dwordBe (len k be lastBe : Nat) : Nat := if k = 0 then be else if k + 1 = len then lastBe else 15

/-- A host write of one or several dwords to BAR0 (R388). -/
def Dev.bar0Write (a : Nat) (data : List W32) (be lastBe : Nat) (d : Dev) : Dev :=
  d.each data.zipIdx fun (v, k) => Dev.dwordWrite ((a / 4 * 4 + 4 * k) % 2 ^ 26) v (dwordBe data.length k be lastBe)

end Sys2Proof.Machine
end

