-- ==== Sys2Proof/Machine/BootOps.lean ====
section
/-! DEFINITION. Start-up: headers and copies, sections, REGINIT, CHMAP, DRAM verification, the patch, CALTAB and READY
(R327, R397 to R409, R422, R423). -/

namespace Sys2Proof.Machine

/-! ### Images in NVM (R400 to R402) -/

/-- NVM byte address of a copy: 1 is A, 2 is B (R399). -/
def copyBase (c : Nat) : Nat := if c = 2 then copyBytes else 0

/-- Bytes of the NVM. -/
def Mem.nvmBytes (m : Mem) (a len : Nat) : List Byte := (List.range len).map fun i => Tab.get nvmByte m.nvm (nvmAt a i)

/-- A little-endian number in NVM. -/
def Mem.nvmNum (m : Mem) (a len : Nat) : Nat := ofLeBytes (m.nvmBytes a len)

/-- The state of a copy's header (R402): 1 where it is valid. -/
def Mem.headerState (m : Mem) (c : Nat) (readErr : Bool) : Nat :=
  let a := copyBase c
  let h := m.nvmBytes a 64
  let sections := m.nvmNum (a + 6) 2
  let length := m.nvmNum (a + 8) 4
  if readErr then 9
  else if m.nvmNum a 4 ≠ 0x43525956 || m.nvmNum (a + 4) 2 ≠ 1 then 2
  else if (crc32c (h.take 16 ++ h.drop 20)).toNat ≠ m.nvmNum (a + 16) 4 then 3
  else if sections < 4 || 64 < sections || length < 128 || copyBytes < length then 4
  else 1

/-- A section: its type, the address of its header, its payload length. -/
structure Section where
  typ : Nat
  at_ : Nat
  len : Nat
deriving DecidableEq, Repr

/-- The sections of a copy, in order (R401); none where one extends beyond LENGTH. -/
def Mem.sectionsFrom (m : Mem) (base length : Nat) : Nat → Nat → Option (List Section)
  | 0, _ => some []
  | k + 1, off =>
    let len := m.nvmNum (base + off + 4) 4
    if length < off + 16 + len then none
    else
      (m.sectionsFrom base length k (ceilDiv (off + 16 + len) 64 * 64)).map fun rest =>
        ⟨m.nvmNum (base + off) 2, base + off, len⟩ :: rest

/-- The sections of a copy. -/
def Mem.sections (m : Mem) (c : Nat) : Option (List Section) :=
  m.sectionsFrom (copyBase c) (m.nvmNum (copyBase c + 8) 4) (m.nvmNum (copyBase c + 6) 2) 64

/-- The payload of a section. -/
def Mem.payload (m : Mem) (s : Section) : List Byte := m.nvmBytes (s.at_ + 16) s.len

/-- The payload's CRC matches its header (R401). -/
def Mem.crcOk (m : Mem) (s : Section) : Bool := (crc32c (m.payload s)).toNat == m.nvmNum (s.at_ + 8) 4

/-- The section of a type in the copy in use. -/
def Mem.sectionOf (m : Mem) (c typ : Nat) : Option Section := ((m.sections c).getD []).find? fun s => s.typ == typ

/-- Every required section is there, and no type twice (R401). -/
def sectionsOk (l : List Section) : Bool :=
  [1, 2, 3, 4].all (fun t => (l.filter fun s => s.typ == t).length == 1) &&
    [5, 6, 0xFF].all (fun t => decide ((l.filter fun s => s.typ == t).length ≤ 1))

/-- OWNER_HASH or VENDOR_HASH as bytes. -/
def Dev.otpHash (d : Dev) (row : Nat) (f : Nat → Fld) : List Byte :=
  (List.range 12).flatMap fun j => leBytes 4 (d.otpView row (f j).addr).toNat

/-- The copy ends with a SIGNATURE section that verifies (R408, R423). -/
def signedOk (m : Mem) (c : Nat) (l : List Section) (d : Dev) : Bool :=
  match l.getLast? with
  | some s =>
    let p := m.payload s
    let pub := p.take 96
    s.typ == 0xFF && p.length == 192 && m.crcOk s && !(d.get GLB.OTP_STATUS_ROW_ERR).testBit 2 &&
      (sha384 pub == d.otpHash 2 GLB.OWNER_HASH) &&
      Config.ecdsaVerify pub (p.drop 96) (m.nvmBytes (copyBase c) (s.at_ - copyBase c))
  | none => false

/-! ### Choice of a copy and internal restart (R399, R402) -/

/-- The state field of a copy. -/
def copyState (c : Nat) : Fld := if c = 2 then BOOT.STATUS_B_STATE else BOOT.STATUS_A_STATE

/-- Change BOOT. -/
def Dev.modBoot (f : BootSt → BootSt) (d : Dev) : Dev := { d with boot := f d.boot }

/-- The copy that the loader chooses (R402): 0 none. -/
def Dev.chooseCopy (d : Dev) : Nat :=
  let okA := d.get BOOT.STATUS_A_STATE == 1
  let okB := d.get BOOT.STATUS_B_STATE == 1
  if okA && okB then
    let diff := (d.get BOOT.SEQ_B + 2 ^ 32 - d.get BOOT.SEQ_A) % 2 ^ 32
    if 1 ≤ diff && diff < 2 ^ 31 then 2 else 1
  else if okA then 1
  else if okB then 2
  else 0

/-- Power-on reset is released and both headers are read (steps 2 to 4 of R397); step 5 begins. -/
def powerOnRelease (testMode octal : Bool) (rowErr : Nat) (errA errB : Bool) (m : Mem) (d : Dev) : Dev :=
  if !d.inBoot || d.get GLB.STATE_STEP ≠ 1 then d
  else
    let d := ((d.put FLT.STATUS_STRAP (bit testMode)).put BOOT.STATUS_OCTAL (bit octal)).put GLB.OTP_STATUS_ROW_ERR rowErr
    let d := d.each ((List.range 4).filter rowErr.testBit) fun k => Dev.notice 0x3004 5 (leBytes 1 k)
    let d := (d.put BOOT.STATUS_A_STATE (m.headerState 1 errA)).put BOOT.STATUS_B_STATE (m.headerState 2 errB)
    let d := if errA then d else d.put BOOT.SEQ_A (m.nvmNum 12 4)
    let d := if errB then d else d.put BOOT.SEQ_B (m.nvmNum (copyBytes + 12) 4)
    let c := d.chooseCopy
    (d.modBoot fun b => { b with chosen := c, tried := if c = 0 then [] else [c] }).put GLB.STATE_STEP 5

/-- Blocks that an internal restart resets (R399). -/
def restartBlocks : List Nat :=
  [0, 1, 3, 5, 6, 7, 8, 9, 10, 11, 12] ++ List.range' 0x10 5 ++ [0x18] ++ List.range' 0x20 48 ++ List.range' 0x50 4

/-- Every block but BOOT, FLT, the PCIe core and the PLN counter is reset (R399, R11). What FLT and BOOT still hold for
the ledger stays, with its tokens. -/
def Dev.restartReset (d : Dev) : Dev :=
  let live := ((d.liveFields 1 ++ d.liveFields 7 ++ d.liveFields 3).map fun f => (f, d.get f)) ++
    [(GLB.STATE_STEP, d.get GLB.STATE_STEP)]
  let regs := restartBlocks.foldl (fun r b => resetRegs b r) d.regs
  let paths := d.paths.filter fun (p, _) => p == 2 || p == 4
  let d' : Dev :=
    { Dev.reset with
      count := d.count, elapsed := d.elapsed, regs, draws := d.draws, paths, flt := d.flt, boot := d.boot
      host := { d.host with rings := [], wbDue := 0, due := 0 }
      pln := { PlnSt.reset with everLocked := d.pln.everLocked, badRun := d.pln.badRun, goodRun := d.pln.goodRun,
                                  warmSince := d.pln.warmSince, quals := d.pln.quals, floor := d.pln.floor }
      ldg := { LdgSt.reset with chains := d.ldg.chains }
      smc := { SmcAll.reset with chs := d.smc.chs.map fun (p, s) => (p, { SmcSt.reset with residual := s.residual }) }
      pins := allPins.map fun p => (p, { PinSt.reset with
        powered := d.flt.supplyOut.isEmpty
        settle := if d.flt.supplyOut.isEmpty then some (d.elapsed + settleTime 0) else none }) }
  let d' := d'.each live fun (f, v) => Dev.put f v
  d'.each paths fun (p, q) => Dev.take poolLT p (slotsOf q.col)

/-- The copy in use fails with a state code: the other copy follows an internal restart, or none is left (R399). -/
def Dev.failCopy (code : Nat) (d : Dev) : Dev :=
  let c := d.boot.chosen
  let d := d.put (copyState c) code
  let other := 3 - c
  if d.get (copyState other) = 1 && !d.boot.tried.contains other && !d.on BOOT.STATUS_RESTARTED then
    let d := (d.restartReset.put BOOT.STATUS_RESTARTED 1).put BOOT.STATUS_LOADED 0
    (d.modBoot fun b => { b with chosen := other, tried := b.tried ++ [other], patch := [] }).put GLB.STATE_STEP 6
  else (d.put BOOT.STATUS_LOADED 0).enterUnconfigured

/-! ### REGINIT, GOVERNOR and CHMAP (R403, R404, R407) -/

/-- An entry is skipped: counted, with a REG_DECODE notice. -/
def Dev.skipEntry (a : Nat) (d : Dev) : Dev := (d.bump BOOT.REGINIT_ERR).regDecode true a

/-- One entry of REGINIT or GOVERNOR: offset, value and mask (R403). -/
def Dev.applyEntry (allowed : Nat → Bool) (a v mask : Nat) (d : Dev) : Dev :=
  match decodeReg a with
  | .reg r w n i _ addr comp =>
    let banned := mask &&& (r.w1c ||| r.w1s ||| ((2 ^ 32 - 1) - r.fields)) != 0 || r.kind == .wo
    if a % 4 ≠ 0 || a ≥ 2 ^ 26 || comp || !allowed addr || r.kind == .fifo || banned then d.skipEntry a
    else
      let old := (d.view addr).toNat
      let x := ((old ||| mask) - mask) ||| (v &&& mask)
      if r.kind = .gd then d.gdEffect w n addr x
      else if r.kind = .mw then d.storeRow r addr (BitVec.ofNat 32 x)
      else
        let cmds := r.w1c ||| r.w1s
        d.regEffect w r n i addr (BitVec.ofNat 32 ((x ||| cmds) - cmds))
  | _ => d.skipEntry a

/-- The 12-byte entries of a payload, in list order. -/
def Dev.applyEntries (allowed : Nat → Bool) (p : List Byte) (d : Dev) : Dev :=
  let d := d.modBoot fun b => { b with loader := true }
  let d := d.each (List.range (p.length / 12)) fun k d =>
    let e := p.drop (12 * k)
    d.applyEntry allowed (ofLeBytes (e.take 4)) (ofLeBytes ((e.drop 4).take 4)) (ofLeBytes ((e.drop 8).take 4))
  d.modBoot fun b => { b with loader := false }

/-- The registers GOVERNOR may address (R407). -/
def governorAddr (a : Nat) : Bool :=
  (0x30000 ≤ a && a < 0x40000) || a == CAL.PACE_MAX.addr ||
    (0x2000000 ≤ a && a < 0x2200000 && a % 0x10000 == 0x9060)

/-- CHMAP in the shadow maps (R404); none where it breaks R25. -/
def Dev.loadChmap (p : List Byte) (d : Dev) : Option Dev :=
  let num (o k : Nat) : Nat := ofLeBytes ((p.drop o).take k)
  let legal := ((List.range 96).all fun k => decide (num k 1 ≤ 3)) && ((List.range 4).all fun n => decide (num (96 + 2 * n) 2 ≤ 256)) &&
    (List.range 1024).all fun c => let s := num (128 + 2 * c) 1; s == 0xFF || decide (s < 64)
  let d := d.each (List.range 32) fun b d =>
    d.put ⟨(GLB.BANK_ENGINE (b / 16)).addr, 2 * (b % 16), 2⟩ (num b 1)
  let d := d.each (List.range 64) fun k d => d.put ⟨(GLB.SITE_ENGINE (k / 16)).addr, 2 * (k % 16), 2⟩ (num (32 + k) 1)
  let d := d.each (List.range 4) fun n => Dev.put (SEQ.CONFIG_POS_COUNT n) (num (96 + 2 * n) 2)
  let d := d.each (List.range 1024) fun c d =>
    let s := num (128 + 2 * c) 1
    let d := d.put (PINB.MAP_UNMAPPED (c / 32) (c % 32)) (bit (s == 0xFF))
    if s = 0xFF then d
    else (d.put (PINB.MAP_SITE (c / 32) (c % 32)) s).put (PINB.MAP_POS (c / 32) (c % 32)) (num (129 + 2 * c) 1)
  if legal && d.mapFirstBad.isNone then some d else none

/-- What the checks of the chosen copy find at step 6 (R399, R401, R408): 1 where none fails. -/
def copyCheck (m : Mem) (d : Dev) : Nat :=
  let c := d.boot.chosen
  match m.sections c with
  | none => 4
  | some l =>
    if !sectionsOk l then 6
    else if d.sigRequired && !signedOk m c l d then 8
    else if !(l.all fun s => (s.typ != 1 && s.typ != 4) || m.crcOk s) then 5
    else 1

/-- The payload of an optional section whose CRC matches; empty where there is none. -/
def Mem.optional (m : Mem) (c typ : Nat) : List Byte :=
  match m.sectionOf c typ with
  | some s => if m.crcOk s then m.payload s else []
  | none => []

/-- Step 6 (R397): the chosen copy is checked, and REGINIT, CHMAP and GOVERNOR are applied. -/
def imageApply (m : Mem) (d : Dev) : Dev × Mem :=
  let c := d.boot.chosen
  let step := d.get GLB.STATE_STEP
  if !d.inBoot || c = 0 || !(step == 5 || step == 6) || !d.on PLN.QUALITY_PLLT_LOCK then (d, m)
  else
    let d := d.put GLB.STATE_STEP 6
    let code := copyCheck m d
    if code ≠ 1 then (d.failCopy code, m)
    else
      let reginit := m.optional c 1
      let chmap := m.optional c 4
      let governor := m.optional c 6
      let d := d.applyEntries (fun _ => true) reginit
      match d.loadChmap chmap with
      | none => (d.failCopy 7, m)
      | some d =>
        let d := d.mapCommit.applyEntries governorAddr governor
        ((d.put BOOT.STATUS_LOADED c).put GLB.STATE_STEP 7,
          m.writeSram 0x1FE0000 ((reginit ++ chmap ++ governor).take 0x10000))

/-! ### DRAM at start-up (R324, R327, R405) -/

/-- The bins that a DRAM_DELAYS payload holds, with the place of their blocks. -/
def binBlocks (p : List Byte) : List (Nat × Nat) :=
  (List.range (p.length / 2240)).map fun k => ((p.getD (2240 * k) 0).toNat, 2240 * k)

/-- Offsets of the DLY registers of a channel. -/
def dlyOffsets : List Nat :=
  [0, 4] ++ [0, 1].flatMap fun l => [0x00, 0x04, 0x08, 0x10, 0x14, 0x18, 0x1C, 0x20].map fun o => 0x40 + 0x40 * l + o

/-- The delay set of a bin goes into the DLY registers (R324). -/
def Dev.loadDelays (block : List Byte) (d : Dev) : Dev :=
  d.each (List.range 8) fun ch d =>
    d.each dlyOffsets fun o d =>
      let a := (DRC.DLY_CA ch).addr + o
      match decodeReg a with
      | .reg r _ _ _ _ _ _ => d.storeRow r a (BitVec.ofNat 32 (ofLeBytes ((block.drop (192 + 256 * ch + o)).take 4)))
      | _ => d

/-- The bin at which verification ends, with the pairs that pass it: `bins` tells, attempt by attempt, which pass. -/
def verifyBins : List Nat → List (BitVec 4) → Option (Nat × Nat)
  | [], _ => none
  | [b], rs => some (b, (rs.headD 0xF).toNat)
  | b :: bs, rs => if rs.headD 0xF = 0xF then some (b, 15) else verifyBins bs rs.tail

/-- Step 7 (R327, R397). -/
def dramVerify (bins : List (BitVec 4)) (m : Mem) (d : Dev) : Dev :=
  if !d.inBoot || d.get GLB.STATE_STEP ≠ 7 then d
  else
    match m.sectionOf d.boot.chosen 2 with
    | none => d.failCopy 6
    | some s =>
      let p := m.payload s
      let top := d.get DRC.CONFIG_BIN_MAX
      let blocks := (binBlocks p).filter fun (b, _) => decide (b ≤ 2)
      let tries := [2, 1, 0].filter fun b => decide (b ≤ top) && blocks.any fun (x, _) => x == b
      if !m.crcOk s then d.failCopy 5
      else if blocks.isEmpty then d.failCopy 6
      else
        let d := d.put GLB.STATE_STEP 8
        match verifyBins tries bins with
        | none => d.drcOut
        | some (b, pass) =>
          let at_ := match blocks.find? fun (x, _) => x == b with | some (_, o) => o | none => 0
          let d := (d.loadDelays ((p.drop at_).take 2240)).put DRC.STATUS_BIN b
          let d := if b < top then (d.put DRC.STATUS_FALLBACK 1).notice 0x3004 8 (leBytes 1 b) else d
          let good := (List.range 4).filter pass.testBit
          if good.length < 2 then d.drcOut
          else
            let d := ((d.put DRC.STATUS_IN_SERVICE pass).put DRC.STATUS_RETIRED (15 - pass)).put DRC.STATUS_AVAIL 1
            let d := d.put DRC.USABLE d.usableBytes
            let d := d.modDrc fun c =>
              { c with
                debt := (List.range 64).map fun k => (k, ((0 : Int), d.elapsed))
                lastCheck := (List.range 4).map fun k => (k, d.elapsed) }
            let d := d.signal 14
            if pass = 15 then d else ((d.replaceReq 4).fault 0x100A 8).settle

/-! ### The patch (R409) -/

/-- PATCH_STATUS of a payload, with the words that are loaded. -/
def patchCheck (crcOk : Bool) (p : List Byte) (d : Dev) : Nat × List Byte :=
  let words := ofLeBytes ((p.drop 8).take 4)
  let pub := (p.drop 40).take 96
  let text := (p.drop 232).take (8 * words)
  if !crcOk || words < 1 || 4096 < words || p.length < 232 + 8 * words then (2, [])
  else if (d.get GLB.OTP_STATUS_ROW_ERR).testBit 3 || sha384 pub != d.otpHash 3 GLB.VENDOR_HASH then (3, [])
  else if !Config.ecdsaVerify pub ((p.drop 136).take 96) (p.take 40 ++ text) then (4, [])
  else
    match Config.gcmOpen ((p.drop 12).take 12) (p.take 12) text ((p.drop 24).take 16) with
    | none => (5, [])
    | some plain => if ofLeBytes ((p.drop 4).take 4) ≠ Config.romLevel.toNat then (6, []) else (1, plain)

/-- Step 8 (R409). -/
def patchLoad (m : Mem) (d : Dev) : Dev :=
  if !d.inBoot || d.get GLB.STATE_STEP ≠ 8 then d
  else
    let d := d.put GLB.STATE_STEP 9
    match m.sectionOf d.boot.chosen 5 with
    | none => (d.put HKS.PATCH_STATUS 0).put HKS.VERSION_PATCH_LEVEL 0
    | some s =>
      let p := m.payload s
      let (st, words) := patchCheck (m.crcOk s) p d
      let d := (d.put HKS.PATCH_STATUS st).modBoot fun b => { b with patch := words }
      if st = 1 then d.put HKS.VERSION_PATCH_LEVEL (ofLeBytes (p.take 2))
      else (d.put HKS.VERSION_PATCH_LEVEL 0).notice 0x300B 12 (leBytes 1 st)

/-! ### CALTAB and READY (R397, R406) -/

/-- The constants of a CALTAB payload from an offset on: `n` channels of `k` constants. -/
def Dev.loadConstants (p : List Byte) (at_ n k : Nat) (f : Nat → Nat → Fld) (d : Dev) : Dev :=
  d.each (List.range n) fun c d =>
    d.each (List.range k) fun j => Dev.put (f c j) (ofLeBytes ((p.drop (at_ + 4 * (k * c + j))).take 4))

/-- The window entries of CALTAB: lo, hi and Δ of each constant (R256). -/
def calWindows (p : List Byte) : Tab (Int × Int × Nat) :=
  (List.range 50).map fun e =>
    let num (o : Nat) : Nat := ofLeBytes ((p.drop (64 + 12 * e + o)).take 4)
    (if e < 23 then e else e + 9, (signedOf 32 (num 0), signedOf 32 (num 4), (signedOf 32 (num 8)).toNat))

/-- Step 9 (R397, R406). -/
def caltabLoad (m : Mem) (d : Dev) : Dev × Mem :=
  if !d.inBoot || d.get GLB.STATE_STEP ≠ 9 then (d, m)
  else
    match m.sectionOf d.boot.chosen 3 with
    | none => (d.failCopy 6, m)
    | some s =>
      if !m.crcOk s then (d.failCopy 5, m)
      else
        let p := m.payload s
        let d := (d.put CAL.VREF_UV (ofLeBytes (p.take 4))).put CAL.RREF_MOHM (ofLeBytes ((p.drop 4).take 4))
        let tref := ofLeBytes ((p.drop 8).take 4)
        let d := (d.put CAL.TREF_CFG_EN tref).put CAL.TREF_CFG_SKEW (tref / 65536)
        let d := { d with cal := { d.cal with windows := calWindows p } }
        let d := d.loadConstants p 664 1056 23 fun c j => PINB.CAL (bankOf c) (pageOf c) j
        let d := d.loadConstants p (664 + 97152) 272 27 fun c j => SMCG.CAL (groupOf c) (smcPage c) j
        (d.put GLB.STATE_STEP 10, m.writeSram 0x1F60000 (p.take 0x40000))

/-- Step 10 (R397, R282): the device reports READY, the ledger chain begins; the loaded constants count as a clean
pass (R257). -/
def Dev.ready (d : Dev) : Dev :=
  if !d.inBoot || d.get GLB.STATE_STEP ≠ 10 then d
  else
    let d := (d.put GLB.STATE_STATE stReady).put GLB.STATE_STEP 11
    let d := d.each allBuses fun k d => d.each (List.range (sparePage k + 1)) fun i => Dev.endClean k i
    d.startChain.signal 2

end Sys2Proof.Machine
end

