-- ==== Sys2Proof/Machine/Access.lean ====
section
/-! DEFINITION. Host access to registers: plain, masked, turned away, poisoned and snapshot accesses, guarded writes, NVM
commands, map commit, and the events that release what waited for one (R8, R19, R28, R34, R138, R343, R367, R386 to
R391, R411). -/

namespace Sys2Proof.Machine

/-- REGISTER_WRITE (R19, R386 to R389): a host write of one or several dwords to BAR0. -/
def execRegisterWrite (addr : Off) (data : List W32) (be lastBe : BitVec 4) (s : State) : Out :=
  s.onDev fun d => (d.bar0Write addr.toNat data be.toNat lastBe.toNat).settle

/-- The register at an address is written under a mask (R391). -/
def isMasked (addr : Nat) : Bool := match decodeReg addr with | .reg r _ _ _ _ _ _ => r.kind == .mw | _ => false

/-- MASKED_WRITE (R391): a write to an MW register; no other register takes one. -/
def execMaskedWrite (addr : Off) (value : W32) (s : State) : Out :=
  s.onDev fun d => if isMasked addr.toNat then (d.dwordWrite addr.toNat value 15).settle else d

/-- UNDECODED_ACCESS (R386): an access without byte enables reaches nothing (R387). -/
def execUndecodedAccess (write : Bool) (addr : Off) (be : BitVec 4) (s : State) : Out :=
  s.onDev fun d => if be = 0 then d else d.undecoded write addr.toNat

/-- POISONED_WRITE (R367): discarded, with a REG_DECODE notice. -/
def execPoisonedWrite (bar : Fin 6) (addr : Off) (s : State) : Out :=
  s.onDev fun d =>
    let block := if bar = 0 then blockOfAddr addr.toNat else 7
    if !d.host.memEn then d
    else if d.flt.safeHold then d.safeHoldDiscard block addr.toNat
    else d.noticeOf ⟨0x3006, block, hostMaster, 2, addr.toNat, 0, false⟩ (leBytes 8 addr.toNat)

/-- SNAPSHOT_READ (R8). -/
def execSnapshotRead (addr : Off) (s : State) : Out := s.onDev (Dev.snapshotRead addr.toNat)

/-- BAR0 address of dword `i` of an entry of engine `n`'s window (R138, R418). -/
def entryAddr (n : Nat) (shadow : Bool) (t p i : Nat) : Nat :=
  (if shadow then (TSET.SH_ENTRY n 0).addr else (TSET.ACT_ENTRY n 0).addr) + 24 * (256 * t + p) + 4 * i

/-- ENTRY_SNAPSHOT (R138). -/
def execEntrySnapshot (n : Eng) (shadow : Bool) (t : Fin 32) (p : Fin 256) (s : State) : Out :=
  s.onDev (Dev.hostRead (entryAddr n.val shadow t.val p.val 0)
    (Dev.snapshotAll ((List.range' 1 5).map fun i => entryAddr n.val shadow t.val p.val i)))

/-- POOL_FREE_READ (R343). -/
def execPoolFreeRead (p : Pool) (s : State) : Out :=
  s.onDev (Dev.hostRead (TOK.POOL_FREE p.val).addr
    (Dev.snapshotAll [(TOK.POOL_HELD p.val).addr, (TOK.POOL_INFLIGHT p.val).addr]))

/-- The address is that of a guarded primary (R390). -/
def isGuarded (addr : Nat) : Bool :=
  match decodeReg addr with | .reg r _ _ _ _ _ comp => r.kind == .gd && !comp | _ => false

/-- GD_VALUE_WRITE (R390). -/
def execGdValueWrite (addr : Off) (value : W32) (s : State) : Out :=
  s.onDev fun d => if isGuarded addr.toNat then d.gdValue addr.toNat value else d

/-- GD_PENDING_EXPIRY (R390). -/
def execGdPendingExpiry (block : Byte) (s : State) : Out := s.onDev (Dev.gdExpiry block.toNat)

/-- PIN_HV_EN (R152). -/
def execPinHvEn (b : BankIx) (complement : W32) (s : State) : Out :=
  s.onDev (Dev.guarded (PINB.HV_EN b.val).addr complement fun v d => d.pinHvEn b.val (v % 2))

/-- SMC_HV_EN (R209). -/
def execSmcHvEn (g : GroupIx) (complement : W32) (s : State) : Out :=
  s.onDev (Dev.guarded (SMCG.HV_EN g.val).addr complement fun v d => d.smcHvEn g.val (v % 2))

/-- GANG (R221). -/
def execGang (g : GroupIx) (complement : W32) (s : State) : Out :=
  s.onDev (Dev.guarded (SMCG.GANG g.val).addr complement fun v d => d.smcGang g.val v)

/-- SPARE_DIS (R275). -/
def execSpareDis (smc : Bool) (complement : W32) (s : State) : Out :=
  s.onDev fun d =>
    (d.guarded (if smc then CAL.SPARE_DIS_S.addr else CAL.SPARE_DIS_P.addr) complement fun v d => d.spareDis smc v).settle

/-- LDG_RESET (R298). -/
def execLdgReset (complement : W32) (s : State) : Out :=
  s.onDev (Dev.guarded LDG.RESET.addr complement fun v d => d.ldgReset v)

/-- REACT (R360). -/
def execReact (complement : W32) (s : State) : Out :=
  s.onDev (Dev.guarded FLT.REACT_LINK_FC0.addr complement fun v d => d.reactWrite v)

/-- FACTORY_ENTER (R361). -/
def execFactoryEnter (complement : W32) (s : State) : Out :=
  s.onDev (Dev.guarded FLT.FACTORY.addr complement fun v d => d.factoryEnter v)

/-- NVM_SECTOR_ERASE (R411): the pending OP is carried out. -/
def execNvmSectorErase (complement : W32) (s : State) : Out :=
  s.onDev (Dev.guarded BOOT.NVM_ERASE.addr complement fun v d => d.nvmErase v)

/-- NVM_COPY_ERASE (R411): the pending OP is carried out. -/
def execNvmCopyErase (complement : W32) (s : State) : Out :=
  s.onDev fun d => d.guarded BOOT.NVM_ERASE.addr complement fun v => Dev.nvmErase v

/-- NVM_READ (R411): GO with OP 1. -/
def execNvmRead (s : State) : Out :=
  s.onDev (Dev.hostWrite BOOT.NVM_CMD_GO.addr fun d => (d.put BOOT.NVM_CMD_OP 1).nvmGo)

/-- NVM_PROGRAM (R411): GO with OP 2. -/
def execNvmProgram (s : State) : Out :=
  s.onDev (Dev.hostWrite BOOT.NVM_CMD_GO.addr fun d => (d.put BOOT.NVM_CMD_OP 2).nvmGo)

/-- NVM_COMMAND_DONE (R411). -/
def execNvmCommandDone (ok : Bool) (s : State) : Out := s.onBoth (nvmDone ok)

/-- MAP_COMMIT (R28). -/
def execMapCommit (s : State) : Out := s.onDev (Dev.hostWrite GLB.MAP_COMMIT.addr Dev.mapCommit)

/-- HELD_START (R28). -/
def execHeldStart (n : Eng) (s : State) : Out := s.onDev fun d => (d.heldStart n.val).settle

/-- DISCIPLINE_TO_STAMP (R34). -/
def execDisciplineToStamp (block : Byte) (s : State) : Out := s.onDev (Dev.disciplineEvent block.toNat)

end Sys2Proof.Machine
end

