-- ==== Sys2Proof/Machine/Acquire.lean ====
section
/-! DEFINITION. Trigger lines (R231 to R233) and acquisition units (R234 to R248). -/

namespace Sys2Proof.Machine

/-- SW_PULSE (R74, R232). -/
def execSwPulse (lines : BitVec 8) (s : State) : Out :=
  s.onDev (Dev.hostWrite TRG.SW_PULSE.addr (Dev.swPulse lines.toNat))

/-- TRIG_PULSE_END (R232). -/
def execTrigPulseEnd (line : Line) (s : State) : Out := s.onDev (Dev.trigPulseEnd line.val)

/-- CONTEND_CHECK (R231). -/
def execContendCheck (line : Line) (received : Bool) (s : State) : Out := s.onDev (Dev.contendCheck line.val received)

/-- TRIG_TRANSITION (R233, R241). -/
def execTrigTransition (line : Line) (level : Bool) (fine : BitVec 12) (s : State) : Out :=
  s.onDev (Dev.trigTransition line.val level fine.toNat)

/-- ACQ_SAMPLE (R235 to R238, R245, R246). -/
def execAcqSample (u : UnitIx) (s : State) : Out := s.onDev (Dev.aqSample u.val)

/-- TRIGGER_JUDGE (R242, R243, R245). -/
def execTriggerJudge (u : UnitIx) (s : State) : Out := s.onDev (Dev.aqJudge u.val)

/-- ACQ_ARM (R49, R244). -/
def execAcqArm (u : UnitIx) (s : State) : Out := s.onDev (Dev.hostWrite (AQ.CTRL_ARM u.val).addr (Dev.aqArmRequest u.val))

/-- ACQ_TRIGGER (R241). -/
def execAcqTrigger (u : UnitIx) (s : State) : Out :=
  s.onDev (Dev.hostWrite (AQ.CTRL_TRIGGER u.val).addr (Dev.aqSoftware u.val))

/-- ACQ_DISARM (R244, R247). -/
def execAcqDisarm (u : UnitIx) (s : State) : Out :=
  s.onDev (Dev.hostWrite (AQ.CTRL_DISARM u.val).addr (Dev.aqDisarm u.val))

/-- Offsets of a unit's configuration registers (R234): all below its CTRL but PART. -/
def isAcqConfig (off : Nat) : Bool := off < 0x80 && off != 0x34

/-- ACQ_CONFIG_WRITE (R234); at any other offset of the window this is not such a command. -/
def execAcqConfigWrite (u : UnitIx) (off : BitVec 8) (value : W32) (s : State) : Out :=
  s.onDev fun d =>
    let o := off.toNat / 4 * 4
    match decodeReg (0xB0000 + 0x2000 * u.val + o) with
    | .reg r _ _ _ _ addr _ => if isAcqConfig o then d.hostWrite addr (Dev.aqWrite u.val o r addr value) else d
    | _ => d

/-- ACQ_PART_WRITE (R107, R239). -/
def execAcqPartWrite (u : UnitIx) (value : W32) (s : State) : Out :=
  s.onDev (Dev.hostWrite (AQ.PART_BASE u.val).addr (Dev.aqPartWrite u.val value.toNat))

/-- SEGMENT_DELIVERY (R240). -/
def execSegmentDelivery (u : UnitIx) (s : State) : Out := s.onDev fun d => (d.aqSegmentOut u.val).settle

end Sys2Proof.Machine
end

