-- ==== Sys2Proof/Machine/Calibrate.lean ====
section
/-! DEFINITION. Calibration: references, mirrors, handovers, passes, ages, constants and the band (R252 to R275). -/

namespace Sys2Proof.Machine

/-- REFERENCE_CHECK (R252). -/
def execReferenceCheck (vref rref : Nat) (s : State) : Out := s.onDev (Dev.referenceCheck vref rref)

/-- CAL_TREF_EDGE (R252). -/
def execCalTrefEdge (s : State) : Out := s.onDev Dev.trefEdge

/-- PASS_START (R259, R263, R265, R269). -/
def execPassStart (bus : Bus) (s : State) : Out := s.onDev (Dev.passStart (busNum bus))

/-- MIRROR_END (R259). -/
def execMirrorEnd (bus : Bus) (s : State) : Out := s.onDev (Dev.mirrorEnd (busNum bus))

/-- HANDOVER (R260 to R262, R271). -/
def execHandover (b : BankIx) (s : State) : Out := s.onDev fun d => (d.handover b.val).settle

/-- OVERLAP_END (R261). -/
def execOverlapEnd (b : BankIx) (s : State) : Out := s.onDev fun d => (d.overlapEnd b.val).settle

/-- SMC_HANDOVER_CLOSE (R264). -/
def execSmcHandoverClose (g : GroupIx) (s : State) : Out := s.onDev fun d => (d.smcHandoverClose g.val).settle

/-- SMC_HANDOVER_OPEN (R264). -/
def execSmcHandoverOpen (g : GroupIx) (s : State) : Out := s.onDev fun d => (d.smcHandoverOpen g.val).settle

/-- PASS_END (R253 to R257, R271). -/
def execPassEnd (bus : Bus) (values : List Int) (responsive : Bool) (s : State) : Out :=
  s.onDev fun d => (d.passEnd (busNum bus) values responsive).settle

/-- AGE_OVERDUE (R267). -/
def execAgeOverdue (bus : Bus) (s : State) : Out := s.onDev (Dev.ageOverdue (busNum bus))

/-- CONSTANT_WRITE (R268); at an address that holds no constant this is not such a command. -/
def execConstantWrite (addr : Off) (value : W32) (s : State) : Out :=
  s.onDev fun d =>
    if (constOf addr.toNat).isSome then d.hostWrite addr.toNat (Dev.constantWrite addr.toNat value) else d

/-- BAND_WRITE (R270). -/
def execBandWrite (value : W32) (s : State) : Out :=
  s.onDev (Dev.hostWrite CAL.BAND_PIN.addr (Dev.bandWrite value.toNat))

end Sys2Proof.Machine
end

