-- ==== Sys2Proof/Machine/Engines.lean ====
section
/-! DEFINITION. The engines: control, issue, decisions, holds, streams, program loads, timing sets and idle vectors (R14,
R62 to R137). -/

namespace Sys2Proof.Machine

/-- START (R49, R88, R90). -/
def execStart (n : Eng) (s : State) : Out :=
  s.onDev (Dev.hostWrite (SEQ.CTRL_START n.val).addr fun d => (d.startRequest n.val).settle)

/-- PAUSE (R90). -/
def execPause (n : Eng) (s : State) : Out :=
  s.onDev (Dev.hostWrite (SEQ.CTRL_PAUSE n.val).addr fun d => d.engPause n.val false)

/-- PAUSE_LAND (R92, R95). -/
def execPauseLand (n : Eng) (s : State) : Out := s.onDev (Dev.pauseLand s.mem n.val)

/-- RESUME (R93). -/
def execResume (n : Eng) (s : State) : Out := s.onDev (Dev.hostWrite (SEQ.CTRL_RESUME n.val).addr (Dev.engResume n.val))

/-- ABORT (R90): carried to TCLK with cause HOST. -/
def execAbort (n : Eng) (s : State) : Out :=
  s.onDev (Dev.hostWrite (SEQ.CTRL_ABORT n.val).addr (Dev.requestAbort n.val 1))

/-- ABORT_ALL (R90). -/
def execAbortAll (s : State) : Out := s.onDev (Dev.hostWrite GLB.ABORT_ALL.addr Dev.abortAll)

/-- ABORT_LAND (R94, R95, R123). -/
def execAbortLand (n : Eng) (s : State) : Out := s.onDev fun d => (d.abortLand n.val).settle

/-- VECTOR_ISSUE (R14, R68, R109, R118, R123). -/
def execVectorIssue (read : Eng × Nat) (s : State) : Out :=
  s.onDev fun d => (d.vectorIssue s.mem read.1.val read.2).settle

/-- DECISION_POINT (R62 to R66, R83 to R86). -/
def execDecisionPoint (n : Eng) (s : State) : Out := s.onDev fun d => (d.decisionPoint s.mem n.val).settle

/-- VECTOR_START (R76, R77, R81). -/
def execVectorStart (n : Eng) (s : State) : Out := s.onDev fun d => (d.vectorStart n.val).settle

/-- PROGRAM_END (R89). -/
def execProgramEnd (n : Eng) (s : State) : Out := s.onDev (Dev.programEnd n.val)

/-- HOLD_BEGIN (R124). -/
def execHoldBegin (n : Eng) (s : State) : Out := s.onDev (Dev.holdBegin s.mem n.val)

/-- HOLD_END (R126). -/
def execHoldEnd (n : Eng) (s : State) : Out := s.onDev fun d => (d.holdEnd n.val).settle

/-- HOLD_LIMIT_EXPIRY (R127). -/
def execHoldLimitExpiry (n : Eng) (s : State) : Out := s.onDev fun d => (d.holdLimit n.val).settle

/-- KEEPALIVE_PLAY (R125). -/
def execKeepalivePlay (n : Eng) (s : State) : Out := s.onDev (Dev.keepalive n.val)

/-- IDLE_VEC_PLAY (R122, R134). -/
def execIdleVecPlay (n : Eng) (s : State) : Out := s.onDev (Dev.idleVecPlay n.val)

/-- CONFIG_WRITE (R25, R100). -/
def execConfigWrite (n : Eng) (value : W32) (s : State) : Out :=
  s.onDev (Dev.hostWrite (SEQ.CONFIG_POS_COUNT n.val).addr (Dev.configWrite n.val value.toNat))

/-- PROGRAM_LOAD_END (R97 to R99). -/
def execProgramLoadEnd (n : Eng) (s : State) : Out := s.onDev (Dev.programLoadEnd s.mem n.val)

/-- CACHE_PART (R107). -/
def execCachePart (n : Eng) (value : W32) (s : State) : Out :=
  s.onDev (Dev.hostWrite (SEQ.CACHE_PART_S_BASE n.val).addr (Dev.cachePart n.val value.toNat))

/-- STREAM_DESCRIPTOR (R112, R375). -/
def execStreamDescriptor (n : Eng) (x : StreamDesc) (s : State) : Out := s.onDev (Dev.streamDescriptor n.val x)

/-- STREAM_REFILL (R113, R114, R375). -/
def execStreamRefill (n : Eng) (line : List Byte) (bad : Bool) (s : State) : Out := s.onBoth (streamRefill n.val line bad)

/-- FLUSH (R116). -/
def execFlush (n : Eng) (s : State) : Out := s.onDev (Dev.hostWrite (SEQ.STREAM_CTRL n.val).addr (Dev.hostFlush n.val))

/-- FLUSH_COMPLETE (R116). -/
def execFlushComplete (n : Eng) (s : State) : Out := s.onDev (Dev.put (SEQ.STREAM_STATUS_FLUSH_BUSY n.val) 0)

/-- IDLE_COMMIT (R121). -/
def execIdleCommit (n : Eng) (s : State) : Out :=
  s.onDev (Dev.hostWrite (SEQ.IDLE_COMMIT n.val).addr (Dev.idleCommit n.val))

/-- STAGE_WRITE (R136). -/
def execStageWrite (n : Eng) (value : W32) (s : State) : Out :=
  s.onDev (Dev.hostWrite (TSET.STAGE_WRITE_TS n.val).addr (Dev.stageWrite n.val value.toNat))

/-- STAGE_WRITE_COMPLETE (R136). -/
def execStageWriteComplete (n : Eng) (s : State) : Out := s.onDev (Dev.stageDone n.val)

/-- PERIOD_WRITE (R128, R389): the HI half commits the pair. -/
def execPeriodWrite (n : Eng) (t : Fin 32) (hi : W32) (s : State) : Out :=
  s.onDev (Dev.hostWrite (TSET.SH_PERIOD_HI n.val t.val).addr (Dev.periodWrite n.val t.val hi.toNat))

/-- SITE_DESKEW_WRITE (R142). -/
def execSiteDeskewWrite (n : Eng) (k : Fin 64) (value : W32) (s : State) : Out :=
  s.onDev (Dev.hostWrite (TSET.SH_SITE_DESKEW n.val k.val).addr (Dev.siteDeskewWrite n.val k.val value.toNat))

/-- TSET_COMMIT (R137). -/
def execTsetCommit (n : Eng) (s : State) : Out :=
  s.onDev (Dev.hostWrite (TSET.COMMIT_COMMIT n.val).addr (Dev.tsetCommit n.val))

/-- ORIGIN_WRITE (R134, R389). -/
def execOriginWrite (n : Eng) (hiHalf : Bool) (value : W32) (s : State) : Out :=
  s.onDev (Dev.hostWrite ((TSET.ORIGIN n.val).addr + (if hiHalf then 4 else 0)) (Dev.originWrite n.val hiHalf value.toNat))

end Sys2Proof.Machine
end

