-- ==== Sys2Proof/Machine/Pins.lean ====
section
/-! DEFINITION. Pins, comparators, stamps and fail capture (R141 to R191), and the supplies that take them down (R396). -/

namespace Sys2Proof.Machine

/-- EDGE_PLACE (R145). -/
def execEdgePlace (ch : PhysPin) (s : State) : Out := s.onDev (Dev.edgePlace ch.val)

/-- STROBE_CLOSE (R141, R146, R163, R168). -/
def execStrobeClose (ch : PhysPin) (s : State) : Out := s.onDev (Dev.strobeClose ch.val)

/-- COMPARE_RESULT (R168, R172 to R181). -/
def execCompareResult (ch : PhysPin) (s : State) : Out := s.onDev (Dev.compareResult ch.val)

/-- A block of ring `r` under assembly has items (R381). -/
def Dev.noteItems (r : Nat) (items : Bool) (d : Dev) : Dev := if items then d.openBlock r else d

/-- FAIL_RECORD_STORE (R182); a stored record is an item for the host fail ring (R381). -/
def execFailRecordStore (read : Eng × Nat) (s : State) : Out :=
  s.onDev fun d =>
    let d := d.failStore read.1.val read.2
    (d.noteItems 5 (!(d.failItems read.1.val).isEmpty)).settle

/-- WITHHOLDING_END (R183): once a record can enter the col again. -/
def execWithholdingEnd (n : Eng) (s : State) : Out :=
  s.onDev fun d => if d.mayTake poolFT n.val 1 && !d.blockDown 0x14 then d.closeWithheld n.val else d

/-- RUN_DRAIN_COMPLETE (R184). -/
def execRunDrainComplete (n : Eng) (s : State) : Out := s.onDev (Dev.runDrain n.val)

/-- FCAP_CFG_WRITE (R179). -/
def execFcapCfgWrite (n : Eng) (value : W32) (s : State) : Out :=
  s.onDev (Dev.hostWrite (FCAP.ENG_CFG_MODE n.val).addr (Dev.fcapCfg n.val value.toNat))

/-- FAIL_PARTITION (R107, R182). -/
def execFailPartition (n : Eng) (value : W32) (s : State) : Out :=
  s.onDev (Dev.hostWrite (FCAP.PART_ENG_BASE n.val).addr (Dev.failPartition n.val value.toNat))

/-- DUMP (R181). -/
def execDump (n : Eng) (s : State) : Out :=
  s.onDev (Dev.hostWrite (FCAP.ENG_MAP_CTRL n.val).addr (Dev.mapDump n.val))

/-- DUMP_COMPLETE (R181). -/
def execDumpComplete (n : Eng) (s : State) : Out := s.onDev (Dev.mapDumpDone n.val)

/-- SUPPLY_OUT_OF_RANGE (R148, R227, R396). -/
def execSupplyOutOfRange (which : Supply) (s : State) : Out :=
  s.onBoth fun m d =>
    let x := supplyOut which m d
    (x.1.settle, x.2)

/-- SUPPLY_RETURN (R159, R342, R396). -/
def execSupplyReturn (s : State) : Out :=
  s.onBoth fun m d =>
    let x := supplyReturn m d
    (x.1.settle, x.2)

/-- PIN_CONFIG_WRITE (R152, R159, R262): a write of the control dword of the channel's own page. -/
def execPinConfigWrite (ch : PhysPin) (value : W32) (s : State) : Out :=
  s.onDev (Dev.hostWrite (PINB.CFG_CMP_EN (bankOf ch.val) (pageOf ch.val)).addr (Dev.pinConfigWrite ch.val value))

/-- SETTLE_END (R158 to R162). -/
def execSettleEnd (ch : PhysPin) (high low : Side) (s : State) : Out := s.onDev (Dev.settleEnd ch.val high low)

/-- COMPARATOR_TRANSITION (R157, R160, R169, R189, R193). -/
def execComparatorTransition (ch : PhysPin) (low value : Bool) (readings : BitVec 12 × Nat) (s : State) : Out :=
  s.onDev (Dev.cmpTransition ch.val low value readings.1.toNat readings.2 (streamFine s.mem s.dev ch.val readings.2))

/-- LS_PULSE (R165, R166, R211). -/
def execLsPulse (groups : BitVec 8) (s : State) : Out :=
  s.onDev (Dev.hostWrite GLB.LS_PULSE.addr fun d => d.strobe groups.toNat d.shadowRegs)

/-- STAMP_BUFFER_TRANSFER (R190, R238, R355); an entry on its way to the host is an item for the stream ring (R381). -/
def execStampBufferTransfer (b : BankIx) (s : State) : Out :=
  s.onDev fun d =>
    let d := d.stampTransfer b.val
    (d.noteItems 7 (!d.stampItems.isEmpty)).settle

end Sys2Proof.Machine
end

