-- ==== Sys2Proof/Machine/HostLink.lean ====
section
/-! DEFINITION. The host link: doorbells, rings, program-load descriptors, outbound blocks, completions, MSI-X, the PCIe
core and its link (R364 to R385). -/

namespace Sys2Proof.Machine

/-- A doorbell write (R369, R372); in DORMANT it is a wake source and its value is kept until the wake (R415). -/
def Dev.bellWrite (off : Nat) (v : W32) (full : Bool) (d : Dev) : Dev :=
  if h : off / 0x1000 < 9 then
    if d.st = stDormant && d.host.memEn && full && off % 0x1000 == 0 then d.wakeEvent (.doorbell ⟨off / 0x1000, h⟩ v)
    else d.doorbell off v.toNat full
  else d.doorbell off v.toNat full

/-- DOORBELL (R369, R372, R415). -/
def execDoorbell (offset : BitVec 20) (value : W32) (be : BitVec 4) (s : State) : Out :=
  s.onDev (Dev.bellWrite offset.toNat value (be == 15))

/-- RING_ENABLE (R374). -/
def execRingEnable (r : Ring) (s : State) : Out :=
  s.onDev (Dev.hostWrite (HDMA.RING_CTRL_EN r.val).addr (Dev.ringEnable r.val))

/-- RING_DISABLE (R374). -/
def execRingDisable (r : Ring) (s : State) : Out :=
  s.onDev (Dev.hostWrite (HDMA.RING_CTRL_EN r.val).addr (Dev.ringDisable r.val))

/-- SKIP (R374, R379). -/
def execSkip (r : Ring) (s : State) : Out :=
  s.onDev (Dev.hostWrite (HDMA.RING_CTRL_SKIP r.val).addr (Dev.ringSkip r.val))

/-- RETRY (R374). -/
def execRetry (r : Ring) (s : State) : Out :=
  s.onDev (Dev.hostWrite (HDMA.RING_CTRL_RETRY r.val).addr (Dev.ringRetry r.val))

/-- POINTER_WRITEBACK (R373). -/
def execPointerWriteback (r : Ring) (s : State) : Out := s.onDev (Dev.writeback r.val)

/-! ### Ring 4 (R377 to R379) -/

/-- PROGRAM (R61, R97, R378). -/
def execProgram (x : LoadDesc) (words : List (BitVec 176)) (s : State) : Out :=
  s.onBoth (loadDescriptor 0 x (loadProgram x words))

/-- PINNED (R108, R378). -/
def execPinned (x : LoadDesc) (bytes : List Byte) (s : State) : Out := s.onBoth (loadDescriptor 1 x (loadPinned x bytes))

/-- Start and length in bytes of a DRAM transfer. -/
def dramSpan (x : LoadDesc) : Nat × Nat := (x.devAddr.toNat, 64 * x.count.toNat)

/-- The first line of a transfer that port P4 may not address (R311, R312). -/
def Dev.barredLine (d : Dev) (x : LoadDesc) : Option Nat :=
  (List.range x.count.toNat).find? fun i => !d.dramAllowed 4 (x.devAddr.toNat + 64 * i)

/-- A line's row takes its place in the table of rows initialised ahead of the front, while that has room (R309). -/
def Dev.noteRow (a : Nat) (d : Dev) : Dev :=
  let (p, bank, row, _) := d.decodeDram a
  let t := Tab.get (fun _ => []) d.drc.ahead p
  if d.rowReady p bank row || 64 ≤ t.length then d
  else d.modDrc fun c => { c with ahead := c.ahead.insert p (t ++ [(bank, row)]) }

/-- The DATA_ERR notice of a DRAM transfer (R346, R355). -/
def Dev.transferErr (a access : Nat) (d : Dev) : Dev := d.noticeOf ⟨0x300C, 7, 7, access, a, 0, false⟩ (leBytes 8 a)

/-- DRAM_WRITE (R378): `ok` says that no line met an error of R328 or R329. -/
def loadDramWrite (x : LoadDesc) (bytes : List Byte) (ok : Bool) (d : Dev) (m : Mem) : Nat × Dev × Mem :=
  let (a, len) := dramSpan x
  if d.get DRC.USABLE < a + len then (3, d, m)
  else if !d.dramUp || !ok then (4, d.transferErr a 6, m)
  else
    match d.barredLine x with
    | some i => (4, (d.addrErr 4 (a + 64 * i) true).transferErr (a + 64 * i) 6, m)
    | none => (1, d.each (List.range x.count.toNat) fun i => Dev.noteRow (a + 64 * i), m.writeDram a (padTo len bytes))

/-- The bytes of a DRAM transfer with the lines that could not be read as zeros (R378). -/
def readLines (m : Mem) (a n : Nat) (bad : List Nat) : List Byte :=
  (List.range n).flatMap fun i => if bad.contains i then List.replicate 64 0 else m.dramBytes (a + 64 * i) 64

/-- DRAM_READ (R329, R378): `bad` names the lines that are uncorrectable. -/
def loadDramRead (x : LoadDesc) (bad : List Nat) (d : Dev) (m : Mem) : Nat × Dev × Mem :=
  let (a, len) := dramSpan x
  let n := x.count.toNat
  let send (bs : List Byte) (d : Dev) : Dev := d.post (.data x.hostAddr.toNat bs)
  if d.get DRC.USABLE < a + len then (3, d, m)
  else if !d.dramUp then (4, send (List.replicate len 0) (d.transferErr a 5), m)
  else
    match d.barredLine x with
    | some i => (4, send (readLines m a n (List.range' i (n - i))) ((d.addrErr 4 (a + 64 * i) false).transferErr (a + 64 * i) 5), m)
    | none =>
      match bad.filter (· < n) with
      | [] => (1, send (readLines m a n []) d, m)
      | i :: rest =>
        let d := d.each (i :: rest) fun k => Dev.dramUe (a + 64 * k)
        (4, send (readLines m a n (i :: rest)) (d.transferErr (a + 64 * i) 5), m)

/-- DRAM_WRITE (R311, R312, R355, R378). -/
def execDramWrite (x : LoadDesc) (bytes : List Byte) (ok : Bool) (s : State) : Out :=
  s.onBoth fun m d =>
    let y := loadDescriptor 2 x (loadDramWrite x bytes ok) m d
    (y.1.settle, y.2)

/-- DRAM_READ (R311, R312, R329, R355, R378). -/
def execDramRead (x : LoadDesc) (badLines : List Nat) (s : State) : Out :=
  s.onBoth fun m d =>
    let y := loadDescriptor 3 x (loadDramRead x badLines) m d
    (y.1.settle, y.2)

/-! ### Outbound rings and messages (R380 to R384) -/

/-- Items left behind by a block open the next one (R381). -/
def Dev.reopen (r : Nat) (d : Dev) : Dev :=
  match r with
  | 5 => d.noteItems 5 ((List.range 4).any fun n => !(d.failItems n).isEmpty)
  | 7 => d.noteItems 7 (!d.stampItems.isEmpty)
  | _ => d

/-- OUTBOUND_BLOCK (R181, R182, R240, R380 to R382). -/
def execOutboundBlock (r : Ring) (s : State) : Out := s.onDev fun d => (d.outboundBlock r.val).reopen r.val

/-- HDMA_FLUSH_EXPIRY (R381). -/
def execHdmaFlushExpiry (r : Ring) (s : State) : Out := s.onDev fun d => (d.flushExpiry r.val).reopen r.val

/-- A read of ring `r` failed (R367): only the rings that read can stop. -/
def Dev.readFailed (r : Nat) (d : Dev) : Dev := if r < 5 && d.on (HDMA.RING_CTRL_EN r) then d.hostErr r else d

/-- COMPLETION_RECEIVED (R367): good data is used by the command that reads it. -/
def execCompletionReceived (r : Ring) (status : CplStatus) (s : State) : Out :=
  s.onDev fun d => if status = .success then d else d.readFailed r.val

/-- COMPLETION_TIMEOUT (R367). -/
def execCompletionTimeout (r : Ring) (s : State) : Out := s.onDev (Dev.readFailed r.val)

/-- MSIX_MESSAGE (R383, R384). -/
def execMsixMessage (v : Fin 64) (s : State) : Out := s.onDev (Dev.sendMessage v.val)

/-- MSIX_TABLE_WRITE (R368, R384). -/
def execMsixTableWrite (v : Fin 64) (dword : Fin 4) (value : W32) (s : State) : Out :=
  s.onDev (Dev.msixWrite v.val dword.val value)

/-! ### The PCIe core and the link (R364 to R366, R385) -/

/-- PCI_CONFIG_WRITE (R365). -/
def execPciConfigWrite (memEnable busMaster d3hot : Bool) (s : State) : Out :=
  s.onDev (Dev.modHost fun h => { h with memEn := memEnable, master := busMaster, d3 := d3hot })

/-- ASPM_L1_ENTRY (R364). -/
def execAspmL1Entry (s : State) : Out :=
  s.onDev fun d =>
    if d.on HDMA.LINK_STATUS_L0 && d.linkIdle then (d.put HDMA.LINK_STATUS_L0 0).put HDMA.LINK_STATUS_L1 1 else d

/-- HOT_RESET (R350, R366). -/
def execHotReset (_perst : Bool) (s : State) : Out := s.onDev Dev.pcieReset

/-- LINK_LOSS (R345, R353, R385). -/
def execLinkLoss (s : State) : Out := s.onDev Dev.linkLoss

/-- LINK_UP (R385). -/
def execLinkUp (width speed : BitVec 4) (s : State) : Out := s.onDev (Dev.linkUp width.toNat speed.toNat)

end Sys2Proof.Machine
end

