-- ==== Sys2Proof/Machine/Ledger.lean ====
section
/-! DEFINITION. The event ledger: arrival, release, blocks, signatures, delivery and the seal (R283 to R300, R334, R337). -/

namespace Sys2Proof.Machine

/-- The oldest record of a path's col reaches the merger (R285, R334); its PSEQ must follow the last one (R337). While CCLK
is stopped or LDG is held, it stays in its col. -/
def Dev.recordArrival (p : Nat) (d : Dev) : Dev :=
  let q := d.path p
  match q.col with
  | [] => d
  | r :: rest =>
    if d.st = stDormant || d.blockDown 0 then d
    else
      let d := d.setPath p { q with col := rest, rx := (r.pseq + recordsOf r.payload) % 2 ^ 32 }
      let d := if r.pseq = q.rx then d else d.tokenFault
      d.arrive r

/-- LDG works on its chain: it runs and the seal has not been closed. -/
def Dev.ledgerWorks (d : Dev) : Bool := d.ldgRuns && d.merging

/-- FLUSH_T has passed since the first record of the block under construction (R283). -/
def Dev.flushTExpiry (d : Dev) : Dev :=
  if !d.ledgerWorks || d.ldg.cur.isEmpty then d
  else (d.until (d.ldg.curSince + usTclk * d.get LDG.FLUSH_T)).closeTimed 0

/-- A signing interval has passed since the last tick (R289). -/
def Dev.signingTick (d : Dev) : Dev :=
  if !d.ledgerWorks then d else (d.until (d.ldg.lastTick + msTclk * d.get LDG.SIGN_INTERVAL)).signTick

/-- RECORD_ARRIVAL (R285, R299, R334, R337). -/
def execRecordArrival (path : Byte) (s : State) : Out := s.onDev fun d => (d.recordArrival path.toNat).settle

/-- MERGER_RELEASE (R284, R293 to R295). -/
def execMergerRelease (s : State) : Out := s.onDev fun d => if d.ledgerWorks then d.release else d

/-- FLUSH_T_EXPIRY (R283). -/
def execFlushTExpiry (s : State) : Out := s.onDev Dev.flushTExpiry

/-- LDG_FLUSH (R283). -/
def execLdgFlush (s : State) : Out := s.onDev (Dev.hostWrite LDG.CTRL.addr Dev.ldgFlush)

/-- BLOCK_CLOSE_DEFERRED (R283, R294, R295). -/
def execBlockCloseDeferred (s : State) : Out := s.onDev fun d => if d.ldgRuns then d.closeDeferred else d

/-- SIGNING_TICK (R289). -/
def execSigningTick (s : State) : Out := s.onDev Dev.signingTick

/-- SIGNATURE_PLACED (R288, R289, R293). -/
def execSignaturePlaced (s : State) : Out := s.onDev fun d => if d.ledgerWorks then d.signatureReady else d

/-- SIGN_INTERVAL_WRITE (R289). -/
def execSignIntervalWrite (value : W32) (s : State) : Out :=
  s.onDev (Dev.hostWrite LDG.SIGN_INTERVAL.addr (Dev.signInterval value))

/-- BLOCK_TO_DRAM (R291, R296). -/
def execBlockToDram (errors : Nat) (s : State) : Out := s.onDev fun d => (d.blockToDram errors).settle

/-- BLOCK_TO_HOST (R291, R355, R382). -/
def execBlockToHost (s : State) : Out := s.onDev fun d => if d.outOpen 8 then d.sendLedger else d

/-- SEAL_CLOSE (R299, R300). -/
def execSealClose (ok : Bool) (s : State) : Out := s.onDev (Dev.sealClose ok)

end Sys2Proof.Machine
end

