-- ==== Sys2Proof/Machine/Memory.lean ====
section
/-! DEFINITION. DRAM ports, command slots, refresh and upkeep, and the scrubs (R302 to R330). -/

namespace Sys2Proof.Machine

/-- PORT_REQUEST (R310 to R313, R331). -/
def execPortRequest (port : Port) (write : Bool) (addr : BitVec 40) (data : List Byte) (s : State) : Out :=
  s.onDev fun d => (d.portRequest port.val write addr.toNat data).settle

/-- COMMAND_SLOT (R309, R314 to R322). -/
def execCommandSlot (pair : PairIx) (s : State) : Out := s.onBoth (commandSlot pair.val)

/-- READ_DATA_RETURN (R303, R318, R329). -/
def execReadDataReturn (port : Port) (errors : Nat) (s : State) : Out :=
  s.onBoth fun m d =>
    let x := readDataReturn port.val errors m d
    (x.1.settle, x.2)

/-- MR4_READ (R323). -/
def execMr4Read (pair : PairIx) (rate : Fin 4) (tooHot : Bool) (s : State) : Out :=
  s.onDev (Dev.mr4 pair.val rate.val tooHot)

/-- DRIFT_CHECK (R325, R326). -/
def execDriftCheck (pair : PairIx) (lanes : List (Bool × Bool × Bool × Bool × Bool)) (s : State) : Out :=
  s.onDev fun d => (d.driftCheck pair.val lanes).settle

/-- The calibration tables in SRAM are those of CALTAB in the copy in use (R305, R328, R353). -/
def reloadTables (m : Mem) (d : Dev) : Mem :=
  match m.sectionOf d.boot.chosen 3 with
  | some x => m.writeSram 0x1F60000 ((m.payload x).take 0x40000)
  | none => m

/-- RETIREMENT_END (R309, R312, R328). -/
def execRetirementEnd (s : State) : Out :=
  s.onBoth fun m d =>
    let ends := d.drc.retiring.isSome
    let x := retirementEnd m d
    (x.1.settle, if ends then reloadTables x.2 x.1 else x.2)

/-- INIT_SWEEP_ROW (R309). -/
def execInitSweepRow (pair : PairIx) (bank : Fin 16) (s : State) : Out := s.onDev (Dev.initRow pair.val bank.val)

/-- DRAM_SCRUB (R329, R330). -/
def execDramScrub (errors : Nat) (s : State) : Out := s.onDev fun d => (d.dramScrub errors).settle

/-- SRAM_SCRUB_READ (R304 to R306). -/
def execSramScrubRead (errors : Nat) (overtaken : Bool) (s : State) : Out :=
  s.onDev fun d => (d.sramScrub errors overtaken).settle

/-- DRAM_POWER_DOWN (R316). -/
def execDramPowerDown (pair : PairIx) (s : State) : Out := s.onDev (Dev.powerDownPair pair.val)

end Sys2Proof.Machine
end

