-- ==== Sys2Proof/Machine/Plain.lean ====
section
/-! DEFINITION. The Plain: its clocks, its quality, SYNC edges and epochs (R36 to R54). -/

namespace Sys2Proof.Machine

/-- REFCLK_WINDOW (R36). -/
def execRefclkWindow (edges : Nat) (s : State) : Out := s.onDev (Dev.refclkWindow edges)

/-- PLL_LOCK (R37, R38, R43). -/
def execPllLock (s : State) : Out := s.onDev Dev.pllLock

/-- PLL_LOSS (R39, R45). -/
def execPllLoss (s : State) : Out := s.onDev Dev.pllLoss

/-- REFCLK_STEP (R39). -/
def execRefclkStep (s : State) : Out := s.onDev Dev.refclkStep

/-- PLAIN_CORRUPT (R38). -/
def execPlainCorrupt (s : State) : Out := s.onDev Dev.plainCorrupt

/-- REF_WARM_CHANGE (R43, R44). -/
def execRefWarmChange (level : Bool) (s : State) : Out := s.onDev (Dev.refWarm level)

/-- WARM_SETTLE_EXPIRY (R43). -/
def execWarmSettleExpiry (s : State) : Out := s.onDev Dev.warmExpiry

/-- ARM (R48, R49). -/
def execArm (s : State) : Out := s.onDev (Dev.hostWrite PLN.SYNC_CTRL_ARM.addr Dev.armWrite)

/-- DISARM (R49). -/
def execDisarm (s : State) : Out := s.onDev (Dev.hostWrite PLN.SYNC_CTRL_DISARM.addr Dev.disarmWrite)

/-- SYNC_EDGE (R46 to R50, R56). -/
def execSyncEdge (fine : BitVec 12) (s : State) : Out := s.onDev fun d => (d.syncEdge fine.toNat).settle

/-- EPOCH_LOAD (R46, R47, R49). -/
def execEpochLoad (s : State) : Out := s.onDev fun d => d.epochLoad.settle

/-- EPOCH_MARK (R54): the HI half commits the tag. -/
def execEpochMark (hi : W32) (s : State) : Out :=
  s.onDev (Dev.hostWrite (PLN.EPOCH_TAG.addr + 4) (Dev.epochMark hi.toNat))

end Sys2Proof.Machine
end

