-- ==== Sys2Proof/Machine/Recovery.lean ====
section
/-! DEFINITION. Fault detection, reset phases, captures and the governor (R344 to R361). -/

namespace Sys2Proof.Machine

/-- A listed detector of a class is raised by a block (R345); any other code is no such event. -/
def Dev.detectClass (cls det block master access addr detail : Nat) (d : Dev) : Dev :=
  if detectorListed det && det / 4096 == cls then d.detect det block master access addr detail else d

/-- FC0_DETECTION (R345, R347 to R349). -/
def execFc0Detection (detector : BitVec 16) (block : Byte) (master : Byte) (access : BitVec 4) (addr : W64) (detail : W32)
    (s : State) : Out :=
  s.onDev (Dev.detectClass 0 detector.toNat block.toNat master.toNat access.toNat addr.toNat detail.toNat)

/-- SAFE_HOLD_BEGIN (R299, R349, R350). -/
def execSafeHoldBegin (s : State) : Out := s.onDev fun d => d.safeHoldBegin.settle

/-- FC1_DETECTION (R348, R351 to R353). -/
def execFc1Detection (detector : BitVec 16) (block : Byte) (master : Byte) (access : BitVec 4) (addr : W64) (detail : W32)
    (s : State) : Out :=
  s.onDev (Dev.detectClass 1 detector.toNat block.toNat master.toNat access.toNat addr.toNat detail.toNat)

/-- RESET_PHASE_END (R351, R353): CAL comes back once its tables have been read again. -/
def execResetPhaseEnd (block : Byte) (s : State) : Out :=
  s.onBoth fun m d =>
    let x := d.resetPhaseEnd block.toNat
    (x, if block = 11 && (d.blk 11).state == 1 && (x.blk 11).state == 2 then reloadTables m x else m)

/-- QUIET_PERIOD_EXPIRY (R351). -/
def execQuietPeriodExpiry (block : Byte) (s : State) : Out := s.onDev (Dev.quietExpiry block.toNat)

/-- SHADOW_END (R354). -/
def execShadowEnd (block : Byte) (persisting : List (Byte × BitVec 16)) (s : State) : Out :=
  s.onDev (Dev.shadowEnd block.toNat (persisting.map fun x => (x.1.toNat, x.2.toNat)))

/-- FEC_CLEAR (R347). -/
def execFecClear (cls : Fin 4) (s : State) : Out :=
  s.onDev (Dev.hostWrite (FLT.FEC_CTRL_VALID cls.val).addr (Dev.fecClear cls.val))

/-- INJECT (R361): the write carries detector, block and GO. -/
def execInject (detector : BitVec 16) (block : Byte) (s : State) : Out :=
  s.onDev (Dev.hostWrite FLT.INJECT_GO.addr fun d =>
    let d :=
      if d.on FLT.STATUS_FACTORY then
        (d.put FLT.INJECT_DETECTOR detector.toNat).put FLT.INJECT_BLOCK block.toNat
      else d
    d.inject detector.toNat block.toNat)

/-- GOV_TICK (R270, R357, R358). -/
def execGovTick (temps : List (BitVec 16)) (power : BitVec 16) (s : State) : Out :=
  s.onDev (Dev.govTick (temps.map BitVec.toNat) power.toNat)

/-- THERMAL_HOLD_END (R359). -/
def execThermalHoldEnd (s : State) : Out := s.onDev fun d => d.thermalEnd.settle

/-- RECOV_WINDOW_EXPIRY (R352). -/
def execRecovWindowExpiry (block : Byte) (s : State) : Out := s.onDev (Dev.recovExpiry block.toNat)

end Sys2Proof.Machine
end

