-- ==== Sys2Proof/Machine/Smc.lean ====
section
/-! DEFINITION. The source-measure channels (R207 to R228). -/

namespace Sys2Proof.Machine

/-- SMC_LATCH (R209, R211, R216). -/
def execSmcLatch (c : PhysSmc) (measured : BitVec 20) (s : State) : Out := s.onDev (Dev.smcLatch c.val measured.toNat)

/-- SLEW_STEP (R212, R215, R225). -/
def execSlewStep (c : PhysSmc) (measured : BitVec 20) (s : State) : Out := s.onDev (Dev.smcStep c.val measured.toNat)

/-- DDS_UPDATE (R213, R214). -/
def execDdsUpdate (c : PhysSmc) (s : State) : Out := s.onDev (Dev.smcDds c.val)

/-- CONVERSION (R217, R218, R222, R228). -/
def execConversion (c : PhysSmc) (v i : BitVec 18) (charge : Int) (s : State) : Out :=
  s.onDev (Dev.smcConversion c.val v.toInt i.toInt charge)

/-- CLAMP_ENGAGE (R219, R220). -/
def execClampEngage (c : PhysSmc) (engaged : Bool) (s : State) : Out := s.onDev (Dev.smcClamp c.val engaged)

/-- CLAMP_TIMEOUT (R220). -/
def execClampTimeout (c : PhysSmc) (s : State) : Out := s.onDev (Dev.smcClampTimeout c.val)

/-- A host write of the OUT register of a page (R224, R262): the spare's page takes none while it carries a channel. -/
def Dev.outWrite (c : Nat) (on : Bool) (d : Dev) : Dev :=
  let g := groupOf c
  let i := smcPage c
  let a := (SMCG.OUT_OUT_EN g i).addr
  d.hostWrite a fun d =>
    if d.smcSpareBusy g i then d.ignored a
    else if on then d.smcOn (d.smcOfHost g i) else d.smcOff (d.smcOfHost g i) offHost

/-- OUT_EN_ON (R224). -/
def execOutEnOn (c : PhysSmc) (s : State) : Out := s.onDev (Dev.outWrite c.val true)

/-- OUT_EN_OFF (R224, R225). -/
def execOutEnOff (c : PhysSmc) (s : State) : Out := s.onDev (Dev.outWrite c.val false)

/-- SWITCH_CLOSED (R223). -/
def execSwitchClosed (c : PhysSmc) (s : State) : Out := s.onDev (Dev.smcClosed c.val)

/-- SWITCH_OPENED (R224, R225). -/
def execSwitchOpened (c : PhysSmc) (s : State) : Out := s.onDev (Dev.smcOpened c.val)

end Sys2Proof.Machine
end

