-- ==== Sys2Proof/Machine/Startup.lean ====
section
/-! DEFINITION. Start-up and power states (R327, R397 to R416). -/

namespace Sys2Proof.Machine

/-- POWER_ON_RESET_RELEASE (R397, R399 to R402, R422, R423). -/
def execPowerOnResetRelease (testMode octal : Bool) (rowErr : BitVec 4) (readErrA readErrB : Bool) (s : State) : Out :=
  s.onDev (powerOnRelease testMode octal rowErr.toNat readErrA readErrB s.mem)

/-- IMAGE_APPLY (R397, R399, R403, R404, R407, R408). -/
def execImageApply (s : State) : Out :=
  s.onBoth fun m d =>
    let x := imageApply m d
    (x.1.settle, x.2)

/-- DRAM_VERIFY (R327, R397, R405). -/
def execDramVerify (bins : List (BitVec 4)) (s : State) : Out := s.onDev fun d => (dramVerify bins s.mem d).settle

/-- PATCH_LOAD (R409). -/
def execPatchLoad (s : State) : Out := s.onDev (patchLoad s.mem)

/-- CALTAB_LOAD (R256, R406). -/
def execCaltabLoad (s : State) : Out := s.onBoth caltabLoad

/-- READY (R282, R397). -/
def execReady (s : State) : Out := s.onDev Dev.ready

/-- DORMANT (R413). -/
def execDormant (s : State) : Out := s.onDev (Dev.hostWrite GLB.POWER_CTRL_DORMANT.addr Dev.dormantRequest)

/-- DORMANT_ENTRY_DONE (R171, R323, R413). -/
def execDormantEntryDone (s : State) : Out := s.onDev Dev.dormantDone

/-- WAKE_EVENT (R415, R416). -/
def execWakeEvent (source : WakeSource) (s : State) : Out := s.onDev (Dev.wakeEvent source)

/-- WAKE_COMPLETE (R57, R171, R414, R415). -/
def execWakeComplete (s : State) : Out := s.onDev fun d => d.wakeComplete.settle

end Sys2Proof.Machine
end

