-- ==== Sys2Proof/Machine/Tia.lean ====
section
/-! DEFINITION. The time-interval analyser (R194 to R206). -/

namespace Sys2Proof.Machine

/-- TIA_ARM (R49, R198). -/
def execTiaArm (k : Meas) (s : State) : Out := s.onDev (Dev.hostWrite (TIA.M_CTRL_ARM k.val).addr (Dev.tiaArmRequest k.val))

/-- TIA_STOP (R205). -/
def execTiaStop (k : Meas) (s : State) : Out := s.onDev (Dev.hostWrite (TIA.M_CTRL_STOP k.val).addr (Dev.tiaStop k.val))

/-- TIA_SETUP_END (R193, R194). -/
def execTiaSetupEnd (k : Meas) (sums : Option ((Nat × Nat) × (Nat × Nat))) (s : State) : Out :=
  s.onDev (Dev.tiaReady k.val sums)

/-- TIA_GATE_OPEN (R199). -/
def execTiaGateOpen (k : Meas) (s : State) : Out := s.onDev (Dev.tiaOpen k.val)

/-- TIA_TIMEOUT (R199). -/
def execTiaTimeout (k : Meas) (s : State) : Out := s.onDev (Dev.tiaTimeout k.val)

/-- TDR_REPETITION (R206). -/
def execTdrRepetition (k : Meas) (reflection : Option Nat) (s : State) : Out :=
  s.onDev (Dev.tdrRepetition k.val reflection)

/-- TIA_RESULT (R203). -/
def execTiaResult (k : Meas) (s : State) : Out := s.onDev (Dev.tiaDeliver k.val)

/-- The next dword of the oldest result leaves the FIFO; an empty one gives 0 (R204). -/
def Dev.popResult (d : Dev) : Dev :=
  let a := TIA.RES_FIFO.addr
  match d.tia.fifo with
  | [] => { d with snaps := d.snaps.insert a 0 }
  | r :: rest =>
    let d := { d with snaps := d.snaps.insert a (r.getD d.tia.popped 0) }
    d.modTia fun t => if t.popped = 7 then { t with fifo := rest, popped := 0 } else { t with popped := t.popped + 1 }

/-- RES_FIFO_POP (R204): only a read of the whole dword pops. -/
def execResFifoPop (be : BitVec 4) (s : State) : Out :=
  s.onDev (Dev.hostRead TIA.RES_FIFO.addr fun d => if be = 15 then d.popResult else d.regDecode false TIA.RES_FIFO.addr)

/-- RES_SNAPSHOT (R204). -/
def execResSnapshot (k : Meas) (s : State) : Out :=
  s.onDev (Dev.hostRead (TIA.M_RES k.val 0).addr
    (Dev.snapshotAll ((List.range' 1 7).map fun j => (TIA.M_RES k.val j).addr)))

/-- TIA_GATE_END (R199, R202): a bounded gate closes. -/
def execTiaGateEnd (k : Meas) (s : State) : Out := s.onDev (Dev.tiaGateEnd k.val)

end Sys2Proof.Machine
end

