-- ==== Sys2Proof/Machine/Tokens.lean ====
section
/-! DEFINITION. Tokens: grants, audit and reconciliation (R331 to R343). -/

namespace Sys2Proof.Machine

/-- TOKEN_GRANT (R332). -/
def execTokenGrant (p : Pool) (h : Byte) (s : State) : Out := s.onDev (Dev.tokenGrant p.val h.toNat)

/-- TOKEN_AUDIT (R341). -/
def execTokenAudit (selfError : Bool) (s : State) : Out := s.onDev fun d => (d.tokenAudit selfError).settle

/-- RECONCILIATION (R341). -/
def execReconciliation (s : State) : Out := s.onDev Dev.reconStart

/-- RECONCILIATION_COMPLETE (R341 to R343). -/
def execReconciliationComplete (s : State) : Out := s.onDev fun d => d.reconEnd.settle

/-- MIN_CLR (R343). -/
def execMinClr (pools : BitVec 7) (s : State) : Out := s.onDev (Dev.hostWrite TOK.CTRL.addr (Dev.minClr pools.toNat))

end Sys2Proof.Machine
end

