-- ==== Sys2Proof/Machine/Dispatch.lean ====
section
/-! DEFINITION. The dispatch: one arm for every command, one direct call of its meaning. -/

namespace Sys2Proof.Machine

def exec (i : Instr) (s : State) : Host.Outcome State Fault Refusal :=
  match i with
  | .registerWrite addr data be lastBe => Sys2Proof.Machine.execRegisterWrite addr data be lastBe s
  | .maskedWrite addr value => Sys2Proof.Machine.execMaskedWrite addr value s
  | .undecodedAccess write addr be => Sys2Proof.Machine.execUndecodedAccess write addr be s
  | .poisonedWrite bar addr => Sys2Proof.Machine.execPoisonedWrite bar addr s
  | .snapshotRead addr => Sys2Proof.Machine.execSnapshotRead addr s
  | .entrySnapshot n shadow t p => Sys2Proof.Machine.execEntrySnapshot n shadow t p s
  | .poolFreeRead p => Sys2Proof.Machine.execPoolFreeRead p s
  | .gdValueWrite addr value => Sys2Proof.Machine.execGdValueWrite addr value s
  | .gdPendingExpiry block => Sys2Proof.Machine.execGdPendingExpiry block s
  | .pinHvEn b complement => Sys2Proof.Machine.execPinHvEn b complement s
  | .smcHvEn g complement => Sys2Proof.Machine.execSmcHvEn g complement s
  | .gang g complement => Sys2Proof.Machine.execGang g complement s
  | .spareDis smc complement => Sys2Proof.Machine.execSpareDis smc complement s
  | .ldgReset complement => Sys2Proof.Machine.execLdgReset complement s
  | .react complement => Sys2Proof.Machine.execReact complement s
  | .factoryEnter complement => Sys2Proof.Machine.execFactoryEnter complement s
  | .nvmSectorErase complement => Sys2Proof.Machine.execNvmSectorErase complement s
  | .nvmCopyErase complement => Sys2Proof.Machine.execNvmCopyErase complement s
  | .nvmRead => Sys2Proof.Machine.execNvmRead s
  | .nvmProgram => Sys2Proof.Machine.execNvmProgram s
  | .nvmCommandDone ok => Sys2Proof.Machine.execNvmCommandDone ok s
  | .mapCommit => Sys2Proof.Machine.execMapCommit s
  | .heldStart n => Sys2Proof.Machine.execHeldStart n s
  | .disciplineToStamp block => Sys2Proof.Machine.execDisciplineToStamp block s
  | .refclkWindow edges => Sys2Proof.Machine.execRefclkWindow edges s
  | .pllLock => Sys2Proof.Machine.execPllLock s
  | .pllLoss => Sys2Proof.Machine.execPllLoss s
  | .refclkStep => Sys2Proof.Machine.execRefclkStep s
  | .plainCorrupt => Sys2Proof.Machine.execPlainCorrupt s
  | .refWarmChange level => Sys2Proof.Machine.execRefWarmChange level s
  | .warmSettleExpiry => Sys2Proof.Machine.execWarmSettleExpiry s
  | .arm => Sys2Proof.Machine.execArm s
  | .disarm => Sys2Proof.Machine.execDisarm s
  | .syncEdge fine => Sys2Proof.Machine.execSyncEdge fine s
  | .epochLoad => Sys2Proof.Machine.execEpochLoad s
  | .epochMark hi => Sys2Proof.Machine.execEpochMark hi s
  | .start n => Sys2Proof.Machine.execStart n s
  | .pause n => Sys2Proof.Machine.execPause n s
  | .pauseLand n => Sys2Proof.Machine.execPauseLand n s
  | .resume n => Sys2Proof.Machine.execResume n s
  | .abort n => Sys2Proof.Machine.execAbort n s
  | .abortAll => Sys2Proof.Machine.execAbortAll s
  | .abortLand n => Sys2Proof.Machine.execAbortLand n s
  | .vectorIssue read => Sys2Proof.Machine.execVectorIssue read s
  | .decisionPoint n => Sys2Proof.Machine.execDecisionPoint n s
  | .vectorStart n => Sys2Proof.Machine.execVectorStart n s
  | .programEnd n => Sys2Proof.Machine.execProgramEnd n s
  | .holdBegin n => Sys2Proof.Machine.execHoldBegin n s
  | .holdEnd n => Sys2Proof.Machine.execHoldEnd n s
  | .holdLimitExpiry n => Sys2Proof.Machine.execHoldLimitExpiry n s
  | .keepalivePlay n => Sys2Proof.Machine.execKeepalivePlay n s
  | .idleVecPlay n => Sys2Proof.Machine.execIdleVecPlay n s
  | .configWrite n value => Sys2Proof.Machine.execConfigWrite n value s
  | .programLoadEnd n => Sys2Proof.Machine.execProgramLoadEnd n s
  | .cachePart n value => Sys2Proof.Machine.execCachePart n value s
  | .streamDescriptor n d => Sys2Proof.Machine.execStreamDescriptor n d s
  | .streamRefill n line bad => Sys2Proof.Machine.execStreamRefill n line bad s
  | .flush n => Sys2Proof.Machine.execFlush n s
  | .flushComplete n => Sys2Proof.Machine.execFlushComplete n s
  | .idleCommit n => Sys2Proof.Machine.execIdleCommit n s
  | .stageWrite n value => Sys2Proof.Machine.execStageWrite n value s
  | .stageWriteComplete n => Sys2Proof.Machine.execStageWriteComplete n s
  | .periodWrite n t hi => Sys2Proof.Machine.execPeriodWrite n t hi s
  | .siteDeskewWrite n k value => Sys2Proof.Machine.execSiteDeskewWrite n k value s
  | .tsetCommit n => Sys2Proof.Machine.execTsetCommit n s
  | .originWrite n hiHalf value => Sys2Proof.Machine.execOriginWrite n hiHalf value s
  | .edgePlace ch => Sys2Proof.Machine.execEdgePlace ch s
  | .strobeClose ch => Sys2Proof.Machine.execStrobeClose ch s
  | .compareResult ch => Sys2Proof.Machine.execCompareResult ch s
  | .failRecordStore read => Sys2Proof.Machine.execFailRecordStore read s
  | .withholdingEnd n => Sys2Proof.Machine.execWithholdingEnd n s
  | .runDrainComplete n => Sys2Proof.Machine.execRunDrainComplete n s
  | .fcapCfgWrite n value => Sys2Proof.Machine.execFcapCfgWrite n value s
  | .failPartition n value => Sys2Proof.Machine.execFailPartition n value s
  | .dump n => Sys2Proof.Machine.execDump n s
  | .dumpComplete n => Sys2Proof.Machine.execDumpComplete n s
  | .supplyOutOfRange which => Sys2Proof.Machine.execSupplyOutOfRange which s
  | .supplyReturn => Sys2Proof.Machine.execSupplyReturn s
  | .pinConfigWrite ch value => Sys2Proof.Machine.execPinConfigWrite ch value s
  | .settleEnd ch high low => Sys2Proof.Machine.execSettleEnd ch high low s
  | .comparatorTransition ch low value readings => Sys2Proof.Machine.execComparatorTransition ch low value readings s
  | .lsPulse groups => Sys2Proof.Machine.execLsPulse groups s
  | .stampBufferTransfer b => Sys2Proof.Machine.execStampBufferTransfer b s
  | .tiaArm k => Sys2Proof.Machine.execTiaArm k s
  | .tiaStop k => Sys2Proof.Machine.execTiaStop k s
  | .tiaSetupEnd k sums => Sys2Proof.Machine.execTiaSetupEnd k sums s
  | .tiaGateOpen k => Sys2Proof.Machine.execTiaGateOpen k s
  | .tiaTimeout k => Sys2Proof.Machine.execTiaTimeout k s
  | .tdrRepetition k reflection => Sys2Proof.Machine.execTdrRepetition k reflection s
  | .tiaResult k => Sys2Proof.Machine.execTiaResult k s
  | .resFifoPop be => Sys2Proof.Machine.execResFifoPop be s
  | .resSnapshot k => Sys2Proof.Machine.execResSnapshot k s
  | .smcLatch c measured => Sys2Proof.Machine.execSmcLatch c measured s
  | .slewStep c measured => Sys2Proof.Machine.execSlewStep c measured s
  | .ddsUpdate c => Sys2Proof.Machine.execDdsUpdate c s
  | .conversion c v cur charge => Sys2Proof.Machine.execConversion c v cur charge s
  | .clampEngage c engaged => Sys2Proof.Machine.execClampEngage c engaged s
  | .clampTimeout c => Sys2Proof.Machine.execClampTimeout c s
  | .outEnOn c => Sys2Proof.Machine.execOutEnOn c s
  | .outEnOff c => Sys2Proof.Machine.execOutEnOff c s
  | .switchClosed c => Sys2Proof.Machine.execSwitchClosed c s
  | .switchOpened c => Sys2Proof.Machine.execSwitchOpened c s
  | .swPulse lines => Sys2Proof.Machine.execSwPulse lines s
  | .trigPulseEnd line => Sys2Proof.Machine.execTrigPulseEnd line s
  | .contendCheck line received => Sys2Proof.Machine.execContendCheck line received s
  | .trigTransition line level fine => Sys2Proof.Machine.execTrigTransition line level fine s
  | .acqSample u => Sys2Proof.Machine.execAcqSample u s
  | .triggerJudge u => Sys2Proof.Machine.execTriggerJudge u s
  | .acqArm u => Sys2Proof.Machine.execAcqArm u s
  | .acqTrigger u => Sys2Proof.Machine.execAcqTrigger u s
  | .acqDisarm u => Sys2Proof.Machine.execAcqDisarm u s
  | .acqConfigWrite u off value => Sys2Proof.Machine.execAcqConfigWrite u off value s
  | .acqPartWrite u value => Sys2Proof.Machine.execAcqPartWrite u value s
  | .segmentDelivery u => Sys2Proof.Machine.execSegmentDelivery u s
  | .referenceCheck vref rref => Sys2Proof.Machine.execReferenceCheck vref rref s
  | .calTrefEdge => Sys2Proof.Machine.execCalTrefEdge s
  | .mirrorEnd bus => Sys2Proof.Machine.execMirrorEnd bus s
  | .handover b => Sys2Proof.Machine.execHandover b s
  | .overlapEnd b => Sys2Proof.Machine.execOverlapEnd b s
  | .smcHandoverClose g => Sys2Proof.Machine.execSmcHandoverClose g s
  | .smcHandoverOpen g => Sys2Proof.Machine.execSmcHandoverOpen g s
  | .passEnd bus values responsive => Sys2Proof.Machine.execPassEnd bus values responsive s
  | .ageOverdue bus => Sys2Proof.Machine.execAgeOverdue bus s
  | .constantWrite addr value => Sys2Proof.Machine.execConstantWrite addr value s
  | .bandWrite value => Sys2Proof.Machine.execBandWrite value s
  | .recordArrival path => Sys2Proof.Machine.execRecordArrival path s
  | .mergerRelease => Sys2Proof.Machine.execMergerRelease s
  | .flushTExpiry => Sys2Proof.Machine.execFlushTExpiry s
  | .ldgFlush => Sys2Proof.Machine.execLdgFlush s
  | .blockCloseDeferred => Sys2Proof.Machine.execBlockCloseDeferred s
  | .signingTick => Sys2Proof.Machine.execSigningTick s
  | .signaturePlaced => Sys2Proof.Machine.execSignaturePlaced s
  | .signIntervalWrite value => Sys2Proof.Machine.execSignIntervalWrite value s
  | .blockToDram errors => Sys2Proof.Machine.execBlockToDram errors s
  | .blockToHost => Sys2Proof.Machine.execBlockToHost s
  | .sealClose ok => Sys2Proof.Machine.execSealClose ok s
  | .portRequest port write addr data => Sys2Proof.Machine.execPortRequest port write addr data s
  | .commandSlot pair => Sys2Proof.Machine.execCommandSlot pair s
  | .readDataReturn port errors => Sys2Proof.Machine.execReadDataReturn port errors s
  | .mr4Read pair rate tooHot => Sys2Proof.Machine.execMr4Read pair rate tooHot s
  | .driftCheck pair lanes => Sys2Proof.Machine.execDriftCheck pair lanes s
  | .retirementEnd => Sys2Proof.Machine.execRetirementEnd s
  | .initSweepRow pair bank => Sys2Proof.Machine.execInitSweepRow pair bank s
  | .dramScrub errors => Sys2Proof.Machine.execDramScrub errors s
  | .sramScrubRead errors overtaken => Sys2Proof.Machine.execSramScrubRead errors overtaken s
  | .tokenGrant p h => Sys2Proof.Machine.execTokenGrant p h s
  | .tokenAudit selfError => Sys2Proof.Machine.execTokenAudit selfError s
  | .reconciliation => Sys2Proof.Machine.execReconciliation s
  | .reconciliationComplete => Sys2Proof.Machine.execReconciliationComplete s
  | .minClr pools => Sys2Proof.Machine.execMinClr pools s
  | .fc0Detection detector block master access addr detail => Sys2Proof.Machine.execFc0Detection detector block master access addr detail s
  | .safeHoldBegin => Sys2Proof.Machine.execSafeHoldBegin s
  | .fc1Detection detector block master access addr detail => Sys2Proof.Machine.execFc1Detection detector block master access addr detail s
  | .resetPhaseEnd block => Sys2Proof.Machine.execResetPhaseEnd block s
  | .quietPeriodExpiry block => Sys2Proof.Machine.execQuietPeriodExpiry block s
  | .shadowEnd block persisting => Sys2Proof.Machine.execShadowEnd block persisting s
  | .fecClear cls => Sys2Proof.Machine.execFecClear cls s
  | .inject detector block => Sys2Proof.Machine.execInject detector block s
  | .govTick temps power => Sys2Proof.Machine.execGovTick temps power s
  | .thermalHoldEnd => Sys2Proof.Machine.execThermalHoldEnd s
  | .doorbell offset value be => Sys2Proof.Machine.execDoorbell offset value be s
  | .ringEnable r => Sys2Proof.Machine.execRingEnable r s
  | .ringDisable r => Sys2Proof.Machine.execRingDisable r s
  | .skip r => Sys2Proof.Machine.execSkip r s
  | .retry r => Sys2Proof.Machine.execRetry r s
  | .pointerWriteback r => Sys2Proof.Machine.execPointerWriteback r s
  | .program d words => Sys2Proof.Machine.execProgram d words s
  | .pinned d bytes => Sys2Proof.Machine.execPinned d bytes s
  | .dramWrite d bytes ok => Sys2Proof.Machine.execDramWrite d bytes ok s
  | .dramRead d badLines => Sys2Proof.Machine.execDramRead d badLines s
  | .outboundBlock r => Sys2Proof.Machine.execOutboundBlock r s
  | .hdmaFlushExpiry r => Sys2Proof.Machine.execHdmaFlushExpiry r s
  | .completionReceived r status => Sys2Proof.Machine.execCompletionReceived r status s
  | .completionTimeout r => Sys2Proof.Machine.execCompletionTimeout r s
  | .msixMessage v => Sys2Proof.Machine.execMsixMessage v s
  | .msixTableWrite v dword value => Sys2Proof.Machine.execMsixTableWrite v dword value s
  | .pciConfigWrite memEnable busMaster d3hot => Sys2Proof.Machine.execPciConfigWrite memEnable busMaster d3hot s
  | .aspmL1Entry => Sys2Proof.Machine.execAspmL1Entry s
  | .hotReset perst => Sys2Proof.Machine.execHotReset perst s
  | .linkLoss => Sys2Proof.Machine.execLinkLoss s
  | .powerOnResetRelease testMode octal rowErr readErrA readErrB => Sys2Proof.Machine.execPowerOnResetRelease testMode octal rowErr readErrA readErrB s
  | .imageApply => Sys2Proof.Machine.execImageApply s
  | .dramVerify bins => Sys2Proof.Machine.execDramVerify bins s
  | .patchLoad => Sys2Proof.Machine.execPatchLoad s
  | .caltabLoad => Sys2Proof.Machine.execCaltabLoad s
  | .ready => Sys2Proof.Machine.execReady s
  | .dormant => Sys2Proof.Machine.execDormant s
  | .dormantEntryDone => Sys2Proof.Machine.execDormantEntryDone s
  | .wakeEvent source => Sys2Proof.Machine.execWakeEvent source s
  | .wakeComplete => Sys2Proof.Machine.execWakeComplete s
  | .tiaGateEnd k => Sys2Proof.Machine.execTiaGateEnd k s
  | .linkUp width speed => Sys2Proof.Machine.execLinkUp width speed s
  | .passStart bus => Sys2Proof.Machine.execPassStart bus s
  | .dramPowerDown pair => Sys2Proof.Machine.execDramPowerDown pair s
  | .recovWindowExpiry block => Sys2Proof.Machine.execRecovWindowExpiry block s

end Sys2Proof.Machine
end

