-- ==== Sys2Proof/Safety.lean ====
section
/-! DEFINITION. The terms the statements are made in: the invariant of every step, and what a command leaves alone. -/

namespace Sys2Proof.Machine

/-- The invariant of every step: each memory lists addresses strictly rising, and no byte equal to what an unlisted
address reads as. -/
def State.Inv (s : State) : Prop := s.mem.wf = true

/-- Time and every unit's own state are the same in two states of the device. Left out are the registers and what
reporting touches: the ledger's paths and queues, the tokens they draw, the first-error captures and pending reactions of
FLT, HDMA's own account of the host, BOOT's, and the note of what writes of the present TCLK replaced (R166). -/
structure Dev.Still (d d' : Dev) : Prop where
  count : d'.count = d.count
  elapsed : d'.elapsed = d.elapsed
  snaps : d'.snaps = d.snaps
  draws : d'.draws = d.draws
  disc : d'.disc = d.disc
  pln : d'.pln = d.pln
  maps : d'.maps = d.maps
  engs : d'.engs = d.engs
  tsets : d'.tsets = d.tsets
  pins : d'.pins = d.pins
  banks : d'.banks = d.banks
  fcap : d'.fcap = d.fcap
  tia : d'.tia = d.tia
  cal : d'.cal = d.cal
  trg : d'.trg = d.trg
  aqs : d'.aqs = d.aqs
  acq : d'.acq = d.acq
  smc : d'.smc = d.smc
  drc : d'.drc = d.drc
  hks : d'.hks = d.hks
  gov : d'.gov = d.gov

/-- Nothing but reports: time, every register and every unit's own state are the same. -/
structure Dev.Same (d d' : Dev) : Prop where
  still : d.Still d'
  regs : d'.regs = d.regs

/-- Nothing but reports and the dwords at the addresses listed. -/
structure Dev.Wrote (as : List Nat) (d d' : Dev) : Prop where
  still : d.Still d'
  regs : ∀ a, a ∉ as → d'.reg a = d.reg a

/-- No detection waits for its reaction (R348). -/
def Dev.Calm (d : Dev) : Prop := d.flt.alarms = []

/-- The first-error capture of a class (R347). -/
def Dev.fec (d : Dev) (c : Nat) : Fec := Tab.get (fun _ => Fec.reset) d.flt.fec c

/-- A detection of class FC3 stands in the first-error capture of its class (R346, R347): its code, block, master, access and
address where the capture was free, one more in its count where not. -/
def Dev.Noted (det block master access addr : Nat) (d d' : Dev) : Prop :=
  d'.fec 3 = if (d.fec 3).valid then { d.fec 3 with count := min (2 ^ 32 - 1) ((d.fec 3).count + 1) }
    else ⟨det, block, master, addr, d.now, 0, access, true⟩

/-- A register whose write is a command, a row of its own or several registers' rule, by block code and window offset. -/
def ownWrite (block off : Nat) : Bool :=
  match block with
  | 0x05 => [0x14, 0x28, 0x58, 0x60].contains off
  | 0x01 => [0x10, 0x50, 0x54].contains off
  | 0x02 => off == 0x30 || (0x100 ≤ off && off < 0x180 && off % 0x20 == 0x18)
  | 0x04 => off == 0x14
  | 0x00 => off == 0x00 || off == 0x04
  | 0x06 => off == 0x04 || (0x100 ≤ off && off < 0x1E0 && (off % 0x20 == 0x14 || off % 0x20 == 0x18))
  | 0x07 => 0x100 ≤ off && off < 0x340 && off % 0x40 == 0x0C
  | 0x09 => off == 0x04
  | 0x0A => 0x1000 ≤ off && off % 0x80 == 0x18
  | 0x18 => off == 0x34 || off == 0x80
  | 0x0B => off == 0x34 || off == 0x98 || off == 0x9C || (0x400 ≤ off && off < 0x440)
  | 0x10 => [0x00, 0x14, 0x18, 0x100, 0x104, 0x144, 0x148].contains off
  | 0x14 => off < 0x10 || (0x100 ≤ off && off < 0x500 && (off % 0x100 == 0x00 || off % 0x100 == 0x3C))
  | 0x50 => [0x18, 0x20, 0x28, 0x2C].contains off || (0x100 ≤ off && off < 0x200) || (0x300 ≤ off && off < 0x400)
  | 0x20 => off < 0x8400 && (off % 0x400 < 0x60 || off % 0x400 == 0x64 || (0x100 ≤ off % 0x400 && off % 0x400 < 0x180))
  | 0x40 => off < 0x4400 && (off % 0x400 < 0x88 || off % 0x400 == 0x90 || (0x100 ≤ off % 0x400 && off % 0x400 < 0x180))
  | _ => false

/-- A value whose field of `w` bits from bit `lo` is taken where `ok` holds of it, and keeps what `old` has otherwise. -/
def keepUnless (ok : Nat → Bool) (old : W32) (lo w : Nat) (v : W32) : W32 :=
  if ok (bitsOf v.toNat lo w) then v else spliceBits v.toNat lo w (bitsOf old.toNat lo w)

/-- A value that is taken whole or not at all. -/
def takenIf (ok : Bool) (v : W32) : Option W32 := if ok then some v else none

/-- What a full write of `v` to a register without a row of its own stores, under the range and the condition that the
register's description states; nothing where the write is ignored. The register stands at `off` in copy `n` of the window
of block `block`, `i` is its index, `old` what it holds. -/
def Dev.taken (d : Dev) (block n i off : Nat) (old v : W32) : Option W32 :=
  match block with
  | 0x01 =>
    if off = 0x24 then takenIf (v.toNat % 16 == 0 && v.toNat != 0) v
    else if off = 0x48 then takenIf (decide (v.toNat ≤ 3600000)) v else some v
  | 0x02 =>
    if off = 0x10 then takenIf (between 10 10000 v.toNat) v else if off = 0x14 then takenIf (between 1 255 v.toNat) v
    else if off = 0x18 then takenIf (between 60 86400 v.toNat) v else some v
  | 0x03 =>
    if off = 0x40 then takenIf (between 85 100 (v.toNat % 256)) v else if off = 0x44 then takenIf (between 60 135 (v.toNat % 256)) v
    else if off = 0x4C then takenIf (between 1 60000 (v.toNat % 65536)) v else some v
  | 0x00 =>
    if off = 0x08 then takenIf (between 50 1000 (v.toNat % 65536)) v
    else if off = 0x10 then takenIf d.ldg.dring.isEmpty (dropLow 20 v) else if off = 0x14 then takenIf d.ldg.dring.isEmpty v
    else if off = 0x18 then takenIf (d.ldg.dring.isEmpty && between 4 16384 (v.toNat % 65536)) v else some v
  | 0x07 =>
    let quiet := !d.on (HDMA.RING_CTRL_EN i)
    if off = 0x00 then some (dropLow 6 v) else if off = 0x08 then takenIf (between 10 10000 (v.toNat % 65536)) v
    else if 0x100 ≤ off ∧ off < 0x340 then
      if off % 0x40 = 0x00 then takenIf quiet (dropLow 12 v) else if off % 0x40 = 0x04 then takenIf quiet v
      else if off % 0x40 = 0x08 then takenIf (quiet && ringSizeOk (v.toNat % 2 ^ 17)) v else some v
    else some v
  | 0x08 =>
    if off = 0x00 then some (if d.boot.loader then v else spliceBits v.toNat 0 6 (bitsOf old.toNat 0 6))
    else if 0x40 ≤ off ∧ off < 0x80 then takenIf (v.toNat % 65536 != 0) v
    else if off = 0x120 then takenIf (between 60 86400 v.toNat) v
    else if off = 0x130 then some (keepUnless (between 10 60000) old 16 16 (keepUnless (between 1 32) old 0 6 v))
    else if 0x1000 ≤ off then takenIf (d.pairHeld (i / 2)) v else some v
  | 0x09 => if 0x10 ≤ off ∧ off < 0x30 then takenIf (decide (8 ≤ v.toNat % 65536)) v else some v
  | 0x0A =>
    if off = 0x00 then takenIf (between 1 10000000 v.toNat) v else if off = 0x30 then takenIf (!d.stampsQueued) (dropLow 16 v)
    else if off = 0x34 then takenIf (!d.stampsQueued) v else if off = 0x38 then takenIf (v.toNat % 65536 != 0) v
    else if 0x1000 ≤ off ∧ off % 0x80 < 0x18 then takenIf (!(d.meas i).armed) v else some v
  | 0x18 =>
    if off = 0x18 then takenIf (d.aqQuiet n) (keepUnless (· != 3) old 5 2 v)
    else if off = 0x28 then takenIf (d.aqQuiet n) (dropLow 16 v)
    else if off = 0x30 then takenIf (d.aqQuiet n && v.toNat % 65536 != 0) v
    else if off < 0x80 then takenIf (d.aqQuiet n) v else some v
  | 0x0B =>
    if off = 0x20 then takenIf (between 2400000 2600000 v.toNat) v else if off = 0x24 then takenIf (between 9900000 10100000 v.toNat) v
    else if off = 0x30 then takenIf (between 10 86400 v.toNat) v else if off = 0x38 then takenIf (decide (v.toNat % 65536 ≤ 60000)) v
    else if 0x300 ≤ off ∧ off < 0x324 ∧ i = 8 then some (v &&& 0xFFFF) else some v
  | 0x0C => if off = 0x800 then takenIf (between 1 3600 (v.toNat % 65536)) v else some v
  | 0x10 =>
    if off = 0x114 then takenIf (d.engState n == seqIdle) v
    else if off = 0x140 then some (keepUnless (· != 3) old 4 2 (keepUnless (· != 3) old 0 2 v)) else some v
  | 0x14 =>
    if 0x100 ≤ off ∧ off < 0x500 then
      let o := off % 0x100
      if o = 0x04 then takenIf (v.toNat % 65536 != 0 && (d.engIdle i || v &&& 0xFFFF == old)) v
      else if o = 0x34 ∨ o = 0x38 then takenIf (d.engIdle i || v == old) v
      else if o = 0x40 then takenIf (d.engIdle i) (dropLow 16 v) else if o = 0x44 then takenIf (d.engIdle i) v
      else if o = 0x48 then takenIf (v.toNat % 65536 != 0) v else some v
    else some v
  | 0x20 => if off = 0x9050 then takenIf (bitsOf v.toNat 0 2 != 3) v else some v
  | 0x40 =>
    if off = 0x802C then some (keepUnless (· != 0) old 16 16 (keepUnless (· != 0) old 0 16 v))
    else if 0xC000 ≤ off then
      takenIf (!(List.range 17).any fun j => (d.sm (smcOfPage n j)).dds == .runs || (d.sm (smcOfPage n j)).dds == .stopping) v
    else some v
  | _ => some v

/-- The register takes a value under its access type (R9, R10): RW bits are replaced, W1C bits that carry 1 clear. -/
def RegRow.stores (r : RegRow) (old v : W32) : W32 :=
  (old &&& ~~~ BitVec.ofNat 32 r.rw &&& ~~~ (v &&& BitVec.ofNat 32 r.w1c)) ||| (v &&& BitVec.ofNat 32 r.rw)

/-- A guarded value waits at the register `a` and the host's write reaches it (R390). -/
def Dev.Armed (d : Dev) (a : Nat) (v : W32) (t : Nat) : Prop :=
  d.hostOpen a = true ∧ d.gdPending (blockOfAddr a) = some ⟨a, v, t⟩

/-- Every dword but those listed reads as before. -/
def Dev.RegsBut (as : List Nat) (d d' : Dev) : Prop := ∀ a, a ∉ as → d'.reg a = d.reg a

/-- Nothing but engine `n`'s own state, the dwords listed, the instants to which handovers of SMC groups are fixed (what
decides on them may change with the engine's state, R264) and reports. -/
def Dev.ByEngine (n : Nat) (as : List Nat) (d d' : Dev) : Prop :=
  Dev.Wrote as { d with engs := d'.engs, cal := { d.cal with buses := d'.cal.buses } } d' ∧ (∀ m, m ≠ n → d'.eng m = d.eng m) ∧
    ∀ k, { d'.bus k with commit := none } = { d.bus k with commit := none }

/-- A START is acted on (R49, R88): it cancels an arming; refused it shows why, accepted it sets the engine running with its
counters cleared and its first vector no earlier than 256 TCLK ahead. -/
def Dev.Started (n : Nat) (d d' : Dev) : Prop :=
  let at_ := d.get (SEQ.START_AT n)
  let Refused (r : Nat) : Prop := d'.get (SEQ.CTRL_START_RESULT n) = r ∧ (∀ m, d'.eng m = d.eng m) ∧
    d.RegsBut [(SEQ.CTRL_START n).addr, PLN.SYNC_CTRL_ARM.addr] d'
  (d.on PLN.SYNC_CTRL_ARM = true → d'.get PLN.SYNC_CTRL_ARM = 0 ∧ d'.get PLN.SYNC_CTRL_ARM_RESULT = 7) ∧
  (d.engState n ≠ seqIdle → Refused 2) ∧
  (d.engState n = seqIdle → d.on (SEQ.STATUS_PROG_VALID n) = false → Refused 3) ∧
  (d.engState n = seqIdle → d.on (SEQ.STATUS_PROG_VALID n) = true → at_ ≠ 0 → at_ < d.now + 256 → Refused 4) ∧
  (d.engState n = seqIdle → d.on (SEQ.STATUS_PROG_VALID n) = true → at_ = 0 ∨ d.now + 256 ≤ at_ →
    d'.engState n = seqRunning ∧ d'.get (SEQ.CTRL_START_RESULT n) = 1 ∧ d'.get (SEQ.VEC_NUM n) = 0 ∧
    d'.get (SEQ.SEG_NUM n) = 0 ∧ d'.on (SEQ.STATUS_RES_VALID n) = false ∧
    d'.get (SEQ.STATUS_PC n) = d.get (SEQ.START_ADDR n) ∧
    (d'.eng n).after = .issue ⟨d.get (SEQ.START_ADDR n), 0, true⟩ ∧
    (d'.eng n).earliest = max (d.now + 256) at_ * unit24 ∧ (d'.eng n).regs = .zero ∧
    (d'.eng n).prog = 2 ^ 64 - 1 ∧ ∀ m, m ≠ n → d'.eng m = d.eng m)

/-- The device as the decision of play `p` finds it (R79, log 107). -/
def Dev.atDecision (m : Mem) (n : Nat) (p : Play) (d : Dev) : Dev :=
  let d := d.until (d.gridElapsed (d.eng n).earliest - 64)
  d.until (d.gridElapsed (d.selected m n p (d.outcome n p)) - 64)

/-- What CNT_OP leaves in the counters (R65). -/
def counted (op imm : Nat) (cnt : List Nat) : List Nat :=
  let c := cnt.getD (op / 4) 0
  match op % 4 with
  | 0 => cnt
  | 1 => cnt.set (op / 4) imm
  | 2 => cnt.set (op / 4) (c - 1)
  | _ => cnt.set (op / 4) (min 0xFFFF (c + 1))

/-- An SMC that a page governs: not a member of a gang, and on a bus only as the carrier of its own channel. -/
def Dev.Leads (d : Dev) (p : Nat) : Prop :=
  d.isMember p = false ∧ (p < 256 → d.smcLogicalOf p = some p)

/-- The first `n` slots of the block under construction closed into the buffer with flag bits `extra`; the rest begins the next
block (R281, R283, R286, R287). -/
def Dev.ClosedInto (extra n : Nat) (d d' : Dev) : Prop :=
  (∃ b : Blk, d'.ldg.buffer = d.ldg.buffer ++ [b] ∧ b.num = d.get LDG.NEXT_BLOCK ∧ b.firstSeq = d.ldg.curFirst ∧
    b.count = n ∧ b.slots = d.ldg.cur.take n ∧ b.prev = d.ldg.prev ∧ b.digest = sha256 b.bytes ∧ b.front = d'.front ∧
    b.flags = d.ldg.curFlags + 2 * bit (extra.testBit 1) + 4 * bit (d.on FLT.STATUS_FACTORY) +
      16 * bit (d.ldg.closeSign || extra.testBit 4) ∧ d'.ldg.prev = b.digest) ∧
  d'.ldg.cur = d.ldg.cur.drop n ∧ d'.ldg.curFirst = d.ldg.curFirst + n ∧ d'.ldg.closeDue = false ∧ d'.ldg.closeSign = false ∧
  d'.get LDG.NEXT_BLOCK = (d.get LDG.NEXT_BLOCK + 1) % 2 ^ 64 ∧
  (∀ j, j < 8 → d'.get (LDG.LAST_DIGEST j) = ofLeBytes ((d'.ldg.prev.drop (4 * j)).take 4))

/-- Slots of the block under construction that a close at this instant takes: those released in this CCLK period stay (R286). -/
def Dev.closing (d : Dev) : Nat :=
  if d.ldg.relAt = d.cclk then min d.ldg.relLen d.ldg.cur.length else d.ldg.cur.length

/-- A pair takes its command slots (R309, R315, R326, R328). -/
def Dev.slotRuns (d : Dev) (p : Nat) : Bool :=
  d.dramUp && d.pairsIn.contains p && !d.pairHeld p && d.drc.retiring.isNone && !d.drc.selfRefresh &&
    !d.flt.supplyOut.contains .dramPhy

/-- The device as a pair's command slot finds it: overdue requests counted, the write burst settled (R314, R315). -/
def Dev.atSlot (d : Dev) (p : Nat) : Dev :=
  let d := d.countOverdue
  d.modDrc fun c => { c with burst := setBitTo c.burst p (d.burstNow p) }

/-- Every line of DRAM stands with its check bytes (R302, R310). -/
def Mem.DramCoded (m : Mem) : Prop := ∀ i, bytesAt m.dramCheck (8 * i) 8 = rsCheck (bytesAt m.dram (64 * i) 64)

/-- A byte of DRAM. -/
def Mem.dramByte (m : Mem) (a : Nat) : Byte := Tab.get ramByte m.dram a

/-- The next ring 4 descriptor `x` is of type `typ`, well-formed, and HDMA may carry it out (R377, R379). -/
def Dev.Loads (d : Dev) (typ : Nat) (x : LoadDesc) : Prop :=
  d.hdmaRuns = true ∧ d.ringLive 4 = true ∧ 0 < d.ringCount 4 ∧ d.mayTake 6 4 1 = true ∧ loadType x = typ ∧ d.loadCond x = 0

/-- A ring 4 descriptor has completed (R378): the status is posted, the ring advances, the next SEQ is expected. -/
def Dev.Loaded (status : Nat) (x : LoadDesc) (before : List Posted) (d d' : Dev) : Prop :=
  d'.host.posted = d.host.posted ++ before ++
    [.status (d.get (HDMA.RING_DEV_PTR 4) % max 1 (d.get (HDMA.RING_SIZE 4))) status] ∧
  d'.get (HDMA.RING_DEV_PTR 4) = (d.get (HDMA.RING_DEV_PTR 4) + 1) % 2 ^ 32 ∧
  d'.get HDMA.PL_SEQ = (x.seq.toNat + 1) % 2 ^ 32 ∧ d'.elapsed = d.elapsed

/-- A byte of SRAM. -/
def Mem.sramByte (m : Mem) (a : Nat) : Byte := Tab.get ramByte m.sram a

end Sys2Proof.Machine
end

