-- ==== Sys2Proof/WellFormed.lean ====
section
/-! DEFINITION. Which commands are well formed: the shapes that the spec gives their operands. A command is a term of
`Instr` whatever its lists hold; these checks say which terms the outside of the device can send. -/

namespace Sys2Proof

/-- A host write of one or several dwords (R387, R388): at least one dword, aligned to a dword, inside BAR0; the enables of
the first dword are not all off unless it stands alone, and a write of one dword has no last enables. -/
def wfWrite (addr : Off) (data : List W32) (be lastBe : BitVec 4) : Bool :=
  decide (addr.toNat % 4 = 0) && !data.isEmpty && decide (addr.toNat + 4 * data.length ≤ 2 ^ 26) &&
    (if data.length = 1 then lastBe == 0 else be != 0 && lastBe != 0)

/-- A ring 4 descriptor of a type (R377). What else it holds, the device judges. -/
def wfLoad (typ : Nat) (x : LoadDesc) : Bool := x.ctrl.toNat % 4 == typ

/-- Constants that a pass of a bus finds: 23 of a pin channel, 27 of an SMC (R253). -/
def busConstants : Bus → Nat
  | .bank _ => 23
  | .group _ => 27

/-- The shapes of the operands of each command. -/
def WellFormed (c : Instr) : Bool :=
  match c with
  | .registerWrite addr data be lastBe => wfWrite addr data be lastBe
  | .maskedWrite addr _ | .gdValueWrite addr _ | .constantWrite addr _ | .snapshotRead addr => decide (addr.toNat % 4 = 0)
  | .streamRefill _ line _ => decide (line.length = 64)
  | .portRequest _ write addr data =>
    decide (addr.toNat % 64 = 0) && decide (data.length = if write then 64 else 0)
  | .driftCheck _ lanes => decide (lanes.length = 8)
  | .govTick temps _ => decide (temps.length = 16)
  | .passEnd bus values _ => decide (values.length = busConstants bus)
  | .dramVerify bins => decide (1 ≤ bins.length) && decide (bins.length ≤ 3)
  | .program x words => wfLoad 0 x && decide (words.length = x.count.toNat)
  | .pinned x _ => wfLoad 1 x
  | .dramWrite x bytes _ => wfLoad 2 x && decide (bytes.length = 64 * x.count.toNat)
  | .dramRead x bad => wfLoad 3 x && bad.all (· < x.count.toNat)
  | .linkUp width speed =>
    (width == 1 || width == 2 || width == 4 || width == 8) && decide (1 ≤ speed.toNat) && decide (speed.toNat ≤ 5)
  | .completionReceived r _ | .completionTimeout r => decide (r.val < 5)
  | .outboundBlock r | .hdmaFlushExpiry r => decide (5 ≤ r.val)
  | .undecodedAccess _ _ _ | .poisonedWrite _ _ | .entrySnapshot _ _ _ _ | .poolFreeRead _ | .gdPendingExpiry _
  | .pinHvEn _ _ | .smcHvEn _ _ | .gang _ _ | .spareDis _ _ | .ldgReset _ | .react _ | .factoryEnter _
  | .nvmSectorErase _ | .nvmCopyErase _ | .nvmRead | .nvmProgram | .nvmCommandDone _ | .mapCommit | .heldStart _
  | .disciplineToStamp _ | .refclkWindow _ | .pllLock | .pllLoss | .refclkStep | .plainCorrupt | .refWarmChange _
  | .warmSettleExpiry | .arm | .disarm | .syncEdge _ | .epochLoad | .epochMark _ | .start _ | .pause _
  | .pauseLand _ | .resume _ | .abort _ | .abortAll | .abortLand _ | .vectorIssue _ | .decisionPoint _
  | .vectorStart _ | .programEnd _ | .holdBegin _ | .holdEnd _ | .holdLimitExpiry _ | .keepalivePlay _
  | .idleVecPlay _ | .configWrite _ _ | .programLoadEnd _ | .cachePart _ _ | .streamDescriptor _ _ | .flush _
  | .flushComplete _ | .idleCommit _ | .stageWrite _ _ | .stageWriteComplete _ | .periodWrite _ _ _
  | .siteDeskewWrite _ _ _ | .tsetCommit _ | .originWrite _ _ _ | .edgePlace _ | .strobeClose _ | .compareResult _
  | .failRecordStore _ | .withholdingEnd _ | .runDrainComplete _ | .fcapCfgWrite _ _ | .failPartition _ _ | .dump _
  | .dumpComplete _ | .supplyOutOfRange _ | .supplyReturn | .pinConfigWrite _ _ | .settleEnd _ _ _
  | .comparatorTransition _ _ _ _ | .lsPulse _ | .stampBufferTransfer _ | .tiaArm _ | .tiaStop _ | .tiaSetupEnd _ _
  | .tiaGateOpen _ | .tiaTimeout _ | .tdrRepetition _ _ | .tiaResult _ | .resFifoPop _ | .resSnapshot _
  | .smcLatch _ _ | .slewStep _ _ | .ddsUpdate _ | .conversion _ _ _ _ | .clampEngage _ _ | .clampTimeout _
  | .outEnOn _ | .outEnOff _ | .switchClosed _ | .switchOpened _ | .swPulse _ | .trigPulseEnd _ | .contendCheck _ _
  | .trigTransition _ _ _ | .acqSample _ | .triggerJudge _ | .acqArm _ | .acqTrigger _ | .acqDisarm _
  | .acqConfigWrite _ _ _ | .acqPartWrite _ _ | .segmentDelivery _ | .referenceCheck _ _ | .calTrefEdge
  | .mirrorEnd _ | .handover _ | .overlapEnd _ | .smcHandoverClose _ | .smcHandoverOpen _ | .ageOverdue _
  | .bandWrite _ | .recordArrival _ | .mergerRelease | .flushTExpiry | .ldgFlush | .blockCloseDeferred
  | .signingTick | .signaturePlaced | .signIntervalWrite _ | .blockToDram _ | .blockToHost | .sealClose _
  | .commandSlot _ | .readDataReturn _ _ | .mr4Read _ _ _ | .retirementEnd | .initSweepRow _ _ | .dramScrub _
  | .sramScrubRead _ _ | .tokenGrant _ _ | .tokenAudit _ | .reconciliation | .reconciliationComplete | .minClr _
  | .fc0Detection _ _ _ _ _ _ | .safeHoldBegin | .fc1Detection _ _ _ _ _ _ | .resetPhaseEnd _ | .quietPeriodExpiry _
  | .shadowEnd _ _ | .fecClear _ | .inject _ _ | .thermalHoldEnd | .doorbell _ _ _ | .ringEnable _ | .ringDisable _
  | .skip _ | .retry _ | .pointerWriteback _ | .msixMessage _ | .msixTableWrite _ _ _ | .pciConfigWrite _ _ _
  | .aspmL1Entry | .hotReset _ | .linkLoss | .powerOnResetRelease _ _ _ _ _ | .imageApply | .patchLoad | .caltabLoad
  | .ready | .dormant | .dormantEntryDone | .wakeEvent _ | .wakeComplete | .tiaGateEnd _ | .passStart _
  | .dramPowerDown _ | .recovWindowExpiry _ => true

end Sys2Proof
end

