-- ==== Sys2Proof/Certificates/Slice0/Obligations.lean ====
section
/-! DEFINITION. The statements for the provers: what each command does, as the rules of spec/ say it. -/

open Sys2Proof Sys2Proof.Machine

/-- For every state: with command c in front, step is exec of c on the state with the rest of the queue; on an empty queue
one TCLK period passes (the model's choice, log 2). (R17, R18.) -/
def Obligations.StepRunsTheFrontCommand : Prop :=
  ∀ s : State, (∀ c rest, s.pending = c :: rest → step s = exec c { s with pending := rest }) ∧
    (s.pending = [] → step s = .next { s with dev := s.dev.pass 1 })

/-- For every command and every state exec answers a next state whose queue is the one it was given. That an event row
whose precondition fails does nothing is the model's choice (log 7). (R14, R17.) -/
def Obligations.EveryCommandCompletes : Prop :=
  ∀ (c : Instr) (s : State), ∃ t, exec c s = .next t ∧ t.pending = s.pending

/-- Reset memory is canonical, no command waits, GLB shows BOOT at step 1, the Plain is 0 with quality 0, no chain runs,
every pool is full, no engine runs, every SMC switch is open. (R397, R38, R331, R223.) -/
def Obligations.ResetState : Prop :=
  State.reset.Inv ∧ State.reset.pending = [] ∧ State.reset.dev.st = stBoot ∧ State.reset.dev.get GLB.STATE_STEP = 1 ∧
    State.reset.dev.now = 0 ∧ State.reset.dev.qual = 0 ∧ State.reset.dev.flt.safeHold = false ∧
    State.reset.dev.ldg.chain = false ∧ (∀ p, p < 7 → State.reset.dev.tok.freeOf p = poolSizeOf p) ∧
    (∀ n, n < 4 → State.reset.dev.engState n = seqReset ∨ State.reset.dev.engState n = seqIdle) ∧
    (∀ p, p < 272 → State.reset.dev.smcState p = 0)

/-- For every state whose SRAM, DRAM and NVM list addresses strictly rising with no byte equal to an unlisted one, if step
answers a next state, its memories have that form too. The canonical form is the model's own way to hold memory (logs
5 and 6). (R301, R310, R411.) -/
def Obligations.StepKeepsInv : Prop :=
  ∀ s t : State, s.Inv → step s = .next t → t.Inv

/-- In SAFE_HOLD with memory space enabled, twenty host commands, five completed guarded writes and a doorbell other than
ring 8's leave the state as it is, but for the FC3 capture of a discarded write. (R350.) -/
def Obligations.SafeHoldDiscardsWrites : Prop :=
  ∀ (s : State) (n : Eng) (b : BankIx) (g : GroupIx) (u : UnitIx) (k : Meas) (r : Ring) (x : W32), let d := s.dev
    d.host.memEn = true → d.flt.safeHold = true → d.Calm →
    (∀ ia ∈ [(Instr.start n, (SEQ.CTRL_START n.val).addr), (.pause n, (SEQ.CTRL_PAUSE n.val).addr),
        (.resume n, (SEQ.CTRL_RESUME n.val).addr), (.abort n, (SEQ.CTRL_ABORT n.val).addr), (.abortAll, GLB.ABORT_ALL.addr),
        (.mapCommit, GLB.MAP_COMMIT.addr), (.arm, PLN.SYNC_CTRL_ARM.addr), (.configWrite n x, (SEQ.CONFIG_POS_COUNT n.val).addr),
        (.cachePart n x, (SEQ.CACHE_PART_S_BASE n.val).addr), (.stageWrite n x, (TSET.STAGE_WRITE_TS n.val).addr),
        (.tsetCommit n, (TSET.COMMIT_COMMIT n.val).addr), (.failPartition n x, (FCAP.PART_ENG_BASE n.val).addr),
        (.tiaArm k, (TIA.M_CTRL_ARM k.val).addr), (.acqArm u, (AQ.CTRL_ARM u.val).addr),
        (.acqPartWrite u x, (AQ.PART_BASE u.val).addr), (.bandWrite x, CAL.BAND_PIN.addr),
        (.ldgFlush, LDG.CTRL.addr), (.signIntervalWrite x, LDG.SIGN_INTERVAL.addr), (.ringEnable r, (HDMA.RING_CTRL_EN r.val).addr),
        (.dormant, GLB.POWER_CTRL_DORMANT.addr)],
      exec ia.1 s = .next { s with dev := d.safeHoldDiscard (blockOfAddr ia.2) ia.2 }) ∧
    (∀ ia ∈ [(Instr.pinHvEn b x, (PINB.HV_EN b.val).addr), (.smcHvEn g x, (SMCG.HV_EN g.val).addr),
        (.gang g x, (SMCG.GANG g.val).addr), (.ldgReset x, LDG.RESET.addr), (.factoryEnter x, FLT.FACTORY.addr)],
      exec ia.1 s = .next { s with dev := d.safeHoldDiscard (blockOfAddr ia.2) (ia.2 + 4) }) ∧
    (r.val ≠ 8 → d.st ≠ stDormant → ∀ off : BitVec 20, off.toNat = 0x1000 * r.val →
      exec (.doorbell off x 15) s = .next { s with dev := d.safeHoldDiscard 7 off.toNat })

/-- For every register that is not guarded and has no effect of its own: a full write stores the writable bits of the
value taken (write-one bits clear by ones) and changes no other register; a value the register does not take is an FC3
detection; a partial write of a plain register is the full write of the merged bytes, of any other kind a REG_DECODE
detection that changes nothing. Two dwords of a burst both store. A masked write of an engine's flags changes exactly
the bits selected. (R9, R10, R386, R387, R388, R391.) -/
def Obligations.RegisterWritesStore : Prop :=
  (∀ (a : Off) (v : W32) (last : BitVec 4) (s : State) (r : RegRow) (w : Window) (n i j addr : Nat) (c : Bool),
    decodeReg a.toNat = .reg r w n i j addr c → r.kind ≠ .gd → s.dev.Calm → s.dev.hostOpen addr = true →
    let off := addr - (w.base + w.stride * n)
    (ownWrite w.block off = false →
      (∀ x, s.dev.taken w.block n i off (s.dev.reg addr) v = some x →
        ∃ t, exec (.registerWrite a [v] 15 last) s = .next t ∧ t.mem = s.mem ∧ t.pending = s.pending ∧
          t.dev.reg addr = r.stores (s.dev.reg addr) x ∧ s.dev.Wrote [addr] t.dev) ∧
      (s.dev.taken w.block n i off (s.dev.reg addr) v = none →
        ∃ t, exec (.registerWrite a [v] 15 last) s = .next t ∧ t.mem = s.mem ∧ t.pending = s.pending ∧ s.dev.Same t.dev ∧
          ((s.dev.fec 3).valid = false → s.dev.gdPending (blockOfAddr addr) = none →
            (t.dev.fec 3).det = 0x3003 ∧ (t.dev.fec 3).addr = addr))) ∧
    (∀ be : BitVec 4, be ≠ 0 → be ≠ 15 →
      (r.kind = .plain → exec (.registerWrite a [v] be last) s =
        exec (.registerWrite a [mergeBytes (s.dev.view addr) v be.toNat] 15 last) s) ∧
      (r.kind ≠ .plain → ∃ t, exec (.registerWrite a [v] be last) s = .next t ∧ t.mem = s.mem ∧ s.dev.Same t.dev ∧
        ((s.dev.fec 3).valid = false → (t.dev.fec 3).det = 0x3006 ∧ (t.dev.fec 3).addr = addr)))) ∧
  (∀ (a : Off) (v v' : W32) (s : State) (r : RegRow) (w : Window) (n i j addr : Nat) (c : Bool) (r' : RegRow) (w' : Window)
      (n' i' j' addr' : Nat) (c' : Bool),
    decodeReg a.toNat = .reg r w n i j addr c → decodeReg ((a.toNat / 4 * 4 + 4) % 2 ^ 26) = .reg r' w' n' i' j' addr' c' →
    r.kind ≠ .gd → r'.kind ≠ .gd → s.dev.Calm → s.dev.hostOpen addr = true → s.dev.hostOpen addr' = true →
    ownWrite w.block (addr - (w.base + w.stride * n)) = false → ownWrite w'.block (addr' - (w'.base + w'.stride * n')) = false →
    ∀ x, s.dev.taken w.block n i (addr - (w.base + w.stride * n)) (s.dev.reg addr) v = some x →
    ∀ x', s.dev.taken w'.block n' i' (addr' - (w'.base + w'.stride * n')) (s.dev.reg addr') v' = some x' →
    ∃ t, exec (.registerWrite a [v, v'] 15 15) s = .next t ∧ t.mem = s.mem ∧ s.dev.Wrote [addr, addr'] t.dev ∧
      t.dev.reg addr = r.stores (s.dev.reg addr) x ∧ t.dev.reg addr' = r'.stores (s.dev.reg addr') x') ∧
  (∀ (n : Eng) (a : Off) (v : W32) (s : State), a.toNat = 0x100018 + 0x10000 * n.val → s.dev.hostOpen a.toNat = true →
    s.dev.Calm →
    ∃ t, exec (.maskedWrite a v) s = .next t ∧ t.mem = s.mem ∧ s.dev.Wrote [a.toNat] t.dev ∧
      exec (.registerWrite a [v] 15 15) s = .next t ∧
      ∀ i, i < 4 → (t.dev.reg a.toNat).getLsbD i = if v.getLsbD (16 + i) then v.getLsbD i else (s.dev.reg a.toNat).getLsbD i)

/-- A full write of a level or deskew of a pin page stores in the page and, while its channel is mirrored, in the spare's;
with LS_IMM set the active levels follow at once, clamped. A write of an SMC page stores likewise, with each limited
field keeping its value where the new one is out of range. The high half of DDS_FTW commits the pair in each page when
it is at most the limit and otherwise leaves both halves. (R9, R151, R152, R165, R211, R213, R259, R387.) -/
def Obligations.PageWrites : Prop :=
  ∀ (a : Off) (v : W32) (last : BitVec 4) (s : State) (r : RegRow) (w : Window) (n i j addr : Nat) (c : Bool),
    decodeReg a.toNat = .reg r w n i j addr c → s.dev.Calm → s.dev.hostOpen addr = true →
    let off := (addr - (w.base + w.stride * n)) % 0x400
    (w.block = 0x20 → addr - (w.base + w.stride * n) < 0x8400 → 0 < off → off < 0x40 → s.dev.spareBusy n i = false →
      ((off = 0x10 ∨ off = 0x14) → -4096 ≤ signedOf 16 v.toNat ∧ signedOf 16 v.toNat ≤ 4095) →
      ∃ t, exec (.registerWrite a [v] 15 last) s = .next t ∧ t.mem = s.mem ∧ s.dev.Still t.dev ∧
        (∀ k ∈ s.dev.mirrorPages n i, t.dev.reg (addr + 0x400 * k - 0x400 * i) =
          r.stores (s.dev.reg (addr + 0x400 * k - 0x400 * i)) v) ∧
        (0x20 ≤ off → ∀ k ∈ s.dev.mirrorPages n i, s.dev.on (PINB.CFG_LS_IMM n k) = true →
          t.dev.get (PINB.ACT_LVL n k ((off - 0x20) / 4)) =
            clampLevel (s.dev.on (PINB.HV_EN n)) ((off - 0x20) / 4) (t.dev.get (PINB.LVL n k ((off - 0x20) / 4)))) ∧
        s.dev.RegsBut ((s.dev.mirrorPages n i).flatMap (fun k => (addr + 0x400 * k - 0x400 * i) ::
          (List.range 8).map fun l => (PINB.ACT_LVL n k l).addr) ++ [(PINB.LEVEL_CLAMP n).addr]) t.dev) ∧
    (w.block = 0x40 → addr - (w.base + w.stride * n) < 0x4400 → off < 0x88 → off ∉ [0x10, 0x14, 0x78, 0x80] →
      s.dev.smcSpareBusy n i = false →
      ∃ t, exec (.registerWrite a [v] 15 last) s = .next t ∧ t.mem = s.mem ∧
        (∀ k ∈ s.dev.smcMirrorPages n i, t.dev.reg (addr + 0x400 * k - 0x400 * i) =
          r.stores (s.dev.reg (addr + 0x400 * k - 0x400 * i)) ((smcLimits off).foldl
            (fun x l => keepUnless l.2.2 (s.dev.reg (addr + 0x400 * k - 0x400 * i)) l.1 l.2.1 x) v)) ∧
        s.dev.RegsBut ((s.dev.smcMirrorPages n i).map fun k => addr + 0x400 * k - 0x400 * i) t.dev) ∧
    (w.block = 0x40 → addr - (w.base + w.stride * n) < 0x4400 → off = 0x14 → s.dev.smcSpareBusy n i = false →
      let lo (k : Nat) := Tab.get (fun _ => s.dev.get (SMCG.DDS_FTW n k)) s.dev.smc.ftwHeld (17 * n + k)
      ∃ t, exec (.registerWrite a [v] 15 last) s = .next t ∧ t.mem = s.mem ∧
        ∀ k ∈ s.dev.smcMirrorPages n i,
          (v.toNat % 65536 * 2 ^ 32 + lo k ≤ 0x0CCCCCCCCCCC →
            t.dev.get (SMCG.DDS_FTW n k) = lo k % 2 ^ (SMCG.DDS_FTW n k).w ∧
            t.dev.get (SMCG.DDS_FTW_HI n k) = v.toNat % 65536) ∧
          (0x0CCCCCCCCCCC < v.toNat % 65536 * 2 ^ 32 + lo k →
            t.dev.get (SMCG.DDS_FTW n k) = s.dev.get (SMCG.DDS_FTW n k) ∧
            t.dev.get (SMCG.DDS_FTW_HI n k) = s.dev.get (SMCG.DDS_FTW_HI n k)))

/-- For forty-six command registers and configuration registers with an effect, a full register write of the value that
selects a command equals the command of the same name, in every calm state. (R9, R14, R387, R390.) -/
def Obligations.CommandRegisters : Prop :=
  ∀ (s : State) (last : BitVec 4) (n : Eng) (b : BankIx) (g : GroupIx) (u : UnitIx) (k : Meas) (ch : PhysPin)
      (p : Fin 32) (i : Fin 64) (l : BitVec 8) (x : W32), s.dev.Calm →
    ∀ z ∈ [((SEQ.CTRL_START n.val).addr, (1 : W32), Instr.start n), ((SEQ.CTRL_START n.val).addr, 2, .pause n),
        ((SEQ.CTRL_START n.val).addr, 4, .resume n), ((SEQ.CTRL_START n.val).addr, 8, .abort n), (GLB.ABORT_ALL.addr, 1, .abortAll),
        (GLB.MAP_COMMIT.addr, 1, .mapCommit), (GLB.POWER_CTRL_DORMANT.addr, 1, .dormant),
        (GLB.LS_PULSE.addr, l.zeroExtend 32, .lsPulse l), (PLN.EPOCH_TAG.addr + 4, x, .epochMark x),
        ((SEQ.CONFIG_POS_COUNT n.val).addr, x, .configWrite n x), ((SEQ.CACHE_PART_S_BASE n.val).addr, x, .cachePart n x),
        ((SEQ.STREAM_CTRL n.val).addr, 1, .flush n), ((SEQ.IDLE_COMMIT n.val).addr, 1, .idleCommit n),
        ((TSET.STAGE_WRITE_TS n.val).addr, x, .stageWrite n x), ((TSET.COMMIT_COMMIT n.val).addr, 1, .tsetCommit n),
        ((TSET.ORIGIN n.val).addr, x, .originWrite n false x), ((TSET.ORIGIN n.val).addr + 4, x, .originWrite n true x),
        ((FCAP.ENG_CFG_MODE n.val).addr, x, .fcapCfgWrite n x), ((FCAP.PART_ENG_BASE n.val).addr, x, .failPartition n x),
        ((FCAP.ENG_MAP_CTRL n.val).addr, 1, .dump n), ((TIA.M_CTRL_ARM k.val).addr, 1, .tiaArm k),
        ((TIA.M_CTRL_ARM k.val).addr, 2, .tiaStop k), ((AQ.CTRL_ARM u.val).addr, 1, .acqArm u),
        ((AQ.CTRL_ARM u.val).addr, 2, .acqTrigger u), ((AQ.CTRL_ARM u.val).addr, 4, .acqDisarm u),
        ((AQ.PART_BASE u.val).addr, x, .acqPartWrite u x), (CAL.BAND_PIN.addr, x, .bandWrite x), (LDG.CTRL.addr, 1, .ldgFlush),
        (LDG.SIGN_INTERVAL.addr, x, .signIntervalWrite x), (TRG.SW_PULSE.addr, l.zeroExtend 32, .swPulse l),
        ((PINB.CFG_CMP_EN (bankOf ch.val) (pageOf ch.val)).addr, x, .pinConfigWrite ch x),
        ((TSET.SH_PERIOD_HI n.val p.val).addr, x, .periodWrite n p x), ((TSET.SH_SITE_DESKEW n.val i.val).addr, x, .siteDeskewWrite n i x),
        ((FLT.FEC_CTRL_VALID n.val).addr, 0x100, .fecClear n), (TOK.CTRL.addr, l.zeroExtend 32, .minClr (l.truncate 7)),
        ((PINB.HV_EN b.val).addr, x, .gdValueWrite (BitVec.ofNat 26 (PINB.HV_EN b.val).addr) x),
        ((PINB.HV_EN b.val).addr + 4, x, .pinHvEn b x), ((SMCG.HV_EN g.val).addr + 4, x, .smcHvEn g x),
        ((SMCG.GANG g.val).addr + 4, x, .gang g x), (CAL.SPARE_DIS_P.addr + 4, x, .spareDis false x),
        (CAL.SPARE_DIS_S.addr + 4, x, .spareDis true x), (LDG.RESET.addr + 4, x, .ldgReset x),
        (FLT.REACT_LINK_FC0.addr + 4, x, .react x), (FLT.FACTORY.addr + 4, x, .factoryEnter x),
        (BOOT.NVM_ERASE.addr + 4, x, .nvmSectorErase x), (BOOT.NVM_ERASE.addr + 4, x, .nvmCopyErase x)],
      exec (.registerWrite (BitVec.ofNat 26 z.1) [z.2.1] 15 last) s = exec z.2.2 s

/-- An access that reaches no register and a poisoned write leave every register and unit as it is and fill an empty FC3
capture with REG_DECODE. (R386, R367, R347.) -/
def Obligations.TurnedAwayAccess : Prop :=
  ∀ (a : Off) (write : Bool) (be : BitVec 4) (bar : Fin 6) (s : State), s.dev.host.memEn = true →
    let block := if bar = 0 then blockOfAddr a.toNat else 7
    (s.dev.flt.safeHold = false ∨ write = false → be ≠ 0 → (∀ r w n i j b c, decodeReg a.toNat ≠ .reg r w n i j b c) →
      ∃ t, exec (.undecodedAccess write a be) s = .next t ∧ t.mem = s.mem ∧ s.dev.Same t.dev ∧
        ((s.dev.fec 3).valid = false → t.dev.fec 3 = ⟨0x3006, blockOfAddr (a.toNat / 4 * 4), s.dev.writeMaster, a.toNat / 4 * 4,
          s.dev.now, 0, if write then s.dev.writeAccess else 1, true⟩)) ∧
    (s.dev.flt.safeHold = false →
      ∃ t, exec (.poisonedWrite bar a) s = .next t ∧ t.mem = s.mem ∧ s.dev.Same t.dev ∧
        ((s.dev.fec 3).valid = false → t.dev.fec 3 = ⟨0x3006, block, 7, a.toNat, s.dev.now, 0, 2, true⟩)) ∧
    (s.dev.flt.safeHold = true → exec (.poisonedWrite bar a) s = .next { s with dev := s.dev.safeHoldDiscard block a.toNat })

/-- After a read of PLAIN_LO, of the first dword of a timing-set entry, or of a pool's FREE, the other dwords read as at
that read, however much time passes; registers and memory are unchanged. (R8, R138, R343.) -/
def Obligations.SnapshotReads : Prop :=
  ∀ (s : State) (n : Eng) (shadow : Bool) (t : Fin 32) (p : Fin 256) (q : Pool) (k : Nat), s.dev.host.memEn = true →
    (s.dev.served 1 = true → ∃ u, exec (.snapshotRead 0x10000) s = .next u ∧
      (u.dev.pass k).readBack 0x10004 = s.dev.view 0x10004 ∧ u.dev.regs = s.dev.regs ∧ u.mem = s.mem) ∧
    (s.dev.served (blockOfAddr (entryAddr n.val shadow t.val p.val 0)) = true → ∃ u, exec (.entrySnapshot n shadow t p) s = .next u ∧
      (∀ i, 1 ≤ i → i ≤ 5 → (u.dev.pass k).readBack (entryAddr n.val shadow t.val p.val i) =
        s.dev.view (entryAddr n.val shadow t.val p.val i)) ∧ u.dev.regs = s.dev.regs ∧ u.mem = s.mem) ∧
    (s.dev.served 6 = true → ∃ u, exec (.poolFreeRead q) s = .next u ∧
      (u.dev.pass k).readBack (TOK.POOL_HELD q.val).addr = s.dev.view (TOK.POOL_HELD q.val).addr ∧
      (u.dev.pass k).readBack (TOK.POOL_INFLIGHT q.val).addr = s.dev.view (TOK.POOL_INFLIGHT q.val).addr ∧
      u.dev.regs = s.dev.regs ∧ u.mem = s.mem)

/-- A write of a guarded register stores nothing but the pending value; its expiry forgets it and changes no register.
With a wrong or late complement none of the nine guarded commands changes a register or unit: the pair is forgotten
and an empty FC3 capture takes GD_DISCARD with the primary's address. (R390.) -/
def Obligations.GuardedPairsWaitOrFail : Prop :=
  (∀ (a : Off) (v : W32) (s : State), isGuarded a.toNat = true → s.dev.hostOpen a.toNat = true →
    ∃ t, exec (.gdValueWrite a v) s = .next t ∧ t.mem = s.mem ∧ s.dev.Same t.dev ∧
      Tab.get (fun _ => ⟨0, 0, 0⟩) t.dev.host.gd (blockOfAddr a.toNat) = ⟨a.toNat, v, s.dev.elapsed⟩) ∧
  (∀ (b : Byte) (a : Nat) (v : W32) (at_ : Nat) (s : State), s.dev.gdPending b.toNat = some ⟨a, v, at_⟩ →
    ∃ t, exec (.gdPendingExpiry b) s = .next t ∧ t.mem = s.mem ∧ t.dev.regs = s.dev.regs ∧
      t.dev.elapsed = max s.dev.elapsed (at_ + 16001) ∧ t.dev.host.gd = s.dev.host.gd.erase b.toNat) ∧
  (∀ (b : BankIx) (g : GroupIx) (smc : Bool) (v c : W32) (at_ : Nat) (s : State),
    (c ≠ ~~~ v ∨ at_ + 16000 < s.dev.elapsed) → s.dev.Calm →
    ∀ (i : Instr) (a : Nat), (i, a) ∈ [(Instr.pinHvEn b c, (PINB.HV_EN b.val).addr), (.smcHvEn g c, (SMCG.HV_EN g.val).addr),
        (.gang g c, (SMCG.GANG g.val).addr), (.spareDis smc c, if smc then CAL.SPARE_DIS_S.addr else CAL.SPARE_DIS_P.addr),
        (.ldgReset c, LDG.RESET.addr), (.react c, FLT.REACT_LINK_FC0.addr), (.factoryEnter c, FLT.FACTORY.addr),
        (.nvmSectorErase c, BOOT.NVM_ERASE.addr), (.nvmCopyErase c, BOOT.NVM_ERASE.addr)] →
      s.dev.Armed a v at_ →
      ∃ t, exec i s = .next t ∧ t.mem = s.mem ∧ s.dev.Same t.dev ∧
        t.dev.host.gd = s.dev.host.gd.erase (blockOfAddr a) ∧
        ((s.dev.fec 3).valid = false → (t.dev.fec 3).det = 0x3002 ∧ (t.dev.fec 3).addr = a))

/-- A complement that arrives within 16,000 TCLK completes HV_EN of a bank or group, GANG with its result, SPARE_DIS of
pins or SMCs, LDG.RESET with each result, REACT, FACTORY and NVM_ERASE, each with its effect; a GANG value is shown
even when refused (the model's reading, log 92). (R390, R152, R209, R221, R275, R298, R360, R361, R411.) -/
def Obligations.GuardedPairTakesEffect : Prop :=
  ∀ (b : BankIx) (g : GroupIx) (v : W32) (at_ : Nat) (s : State), s.dev.elapsed ≤ at_ + 16000 →
    (s.dev.Armed (PINB.HV_EN b.val).addr v at_ →
      ∃ t, exec (.pinHvEn b (~~~ v)) s = .next t ∧ t.mem = s.mem ∧ t.dev.get (PINB.HV_EN b.val) = v.toNat % 2 ∧
        (∀ i j, i < 33 → j < 8 → t.dev.get (PINB.ACT_LVL b.val i j) =
          if s.dev.get (PINB.HV_EN b.val) = 1 ∧ v.toNat % 2 = 0 then clampLevel false j (s.dev.get (PINB.ACT_LVL b.val i j))
          else s.dev.get (PINB.ACT_LVL b.val i j)) ∧
        s.dev.Wrote ((PINB.HV_EN b.val).addr :: (PINB.LEVEL_CLAMP b.val).addr :: (List.range 33).flatMap fun i =>
          (List.range 8).map fun j => (PINB.ACT_LVL b.val i j).addr) t.dev) ∧
    (s.dev.Armed (SMCG.HV_EN g.val).addr v at_ →
      ∃ t, exec (.smcHvEn g (~~~ v)) s = .next t ∧ t.mem = s.mem ∧ t.dev.get (SMCG.HV_EN g.val) = v.toNat % 2 ∧
        (s.dev.on (SMCG.HV_EN g.val) = false ∨ v.toNat % 2 = 1 → s.dev.Wrote [(SMCG.HV_EN g.val).addr] t.dev)) ∧
    (s.dev.Armed (SMCG.GANG g.val).addr v at_ →
      let join := v.toNat % 2 ^ 15
      let changed := (List.range 16).filter fun c => runOf join c != runOf (s.dev.joins g.val) c
      let result := if (List.range 16).any fun c => 8 < (runOf join c).length then 3
        else if changed.any fun c => s.dev.get (SMCG.OUT_OUT_STATE g.val c) != 0 || s.dev.on (SMCG.OUT_PENDING_ON g.val c) then 2
        else if changed.any fun c => s.dev.get (SMCG.ACT_MODE_IRANGE g.val c) != 4 then 4 else 1
      ∃ t, exec (.gang g (~~~ v)) s = .next t ∧ t.mem = s.mem ∧ t.dev.get (SMCG.GANG g.val) = join ∧
        t.dev.get (SMCG.GANG_STATUS_RESULT g.val) = result ∧
        t.dev.get (SMCG.GANG_STATUS_ACTIVE g.val) = (if result = 1 then join else s.dev.get (SMCG.GANG_STATUS_ACTIVE g.val)) ∧
        s.dev.Wrote [(SMCG.GANG g.val).addr, (SMCG.GANG_STATUS_ACTIVE g.val).addr] t.dev) ∧
    (∀ smc : Bool, let f := if smc then CAL.SPARE_DIS_S else CAL.SPARE_DIS_P
      let other := if smc then CAL.SPARE_DIS_P else CAL.SPARE_DIS_S
      let bus (i : Nat) := if smc then 32 + i else i
      s.dev.Armed f.addr v at_ → s.dev.Calm →
      ∃ t, exec (.spareDis smc (~~~ v)) s = .next t ∧ t.mem = s.mem ∧ t.dev.get f = v.toNat % 2 ^ f.w ∧
        (t.dev.flt.replace.testBit 2 = true ↔ t.dev.get f ≠ 0 ∨ s.dev.get other ≠ 0) ∧
        (∀ i, i < f.w → v.getLsbD i = true → (s.dev.get f).testBit i = false →
          (s.dev.busState (bus i) = calMirrorOut ∨ s.dev.busState (bus i) = calWaitOut) →
          (s.dev.bus (bus i)).overlap = none → (s.dev.bus (bus i)).commit = none → t.dev.busState (bus i) = calFree) ∧
        (∀ i, i < f.w → v.getLsbD i = false → t.dev.busState (bus i) = s.dev.busState (bus i)) ∧
        s.dev.RegsBut (f.addr :: (List.range f.w).map fun i => (busStateF (bus i)).addr) t.dev) ∧
    (s.dev.Armed LDG.RESET.addr v at_ →
      (v.toNat % 2 = 0 → ∃ t, exec (.ldgReset (~~~ v)) s = .next t ∧ t.mem = s.mem ∧ s.dev.Same t.dev ∧
        t.dev.ldg = s.dev.ldg) ∧
      (v.toNat % 2 = 1 → s.dev.ldg.sealSt ≠ .none → ∃ t, exec (.ldgReset (~~~ v)) s = .next t ∧ t.mem = s.mem ∧
        t.dev.get LDG.RESET_RESULT = 2 ∧ s.dev.Wrote [LDG.RESET_RESULT.addr] t.dev) ∧
      (v.toNat % 2 = 1 → s.dev.ldg.sealSt = .none → s.dev.ldg.collapsed = true ∨ s.dev.undelivered = true →
        ∃ t, exec (.ldgReset (~~~ v)) s = .next t ∧ t.mem = s.mem ∧
          t.dev.get LDG.RESET_RESULT = 3 ∧ s.dev.Wrote [LDG.RESET_RESULT.addr] t.dev) ∧
      (v.toNat % 2 = 1 → s.dev.ldg.sealSt = .none → s.dev.ldg.collapsed = false → s.dev.undelivered = false →
        ∃ t, exec (.ldgReset (~~~ v)) s = .next t ∧ t.mem = s.mem ∧ t.dev.get LDG.RESET_RESULT = 1 ∧
          t.dev.get LDG.NEXT_BLOCK = 0 ∧ t.dev.get LDG.NEXT_SEQ = 0 ∧ t.dev.ldg.chain = true ∧ t.dev.ldg.cur = [] ∧
          t.dev.get LDG.CHAIN_ID = (Config.chainDraw s.dev.ldg.chains).toNat)) ∧
    (s.dev.Armed FLT.REACT_LINK_FC0.addr v at_ →
      ∃ t, exec (.react (~~~ v)) s = .next t ∧ t.mem = s.mem ∧ s.dev.Wrote [FLT.REACT_LINK_FC0.addr] t.dev ∧
        ∀ i, i < 3 → (t.dev.reg FLT.REACT_LINK_FC0.addr).getLsbD i =
          ((s.dev.reg FLT.REACT_LINK_FC0.addr).getLsbD i || v.getLsbD i)) ∧
    (s.dev.Armed FLT.FACTORY.addr v at_ →
      (v.toNat % 2 = 0 → ∃ t, exec (.factoryEnter (~~~ v)) s = .next t ∧ t.mem = s.mem ∧ s.dev.Same t.dev) ∧
      (v.toNat % 2 = 1 →
        ∃ t, exec (.factoryEnter (~~~ v)) s = .next t ∧ t.mem = s.mem ∧ s.dev.Wrote [FLT.STATUS_FACTORY.addr] t.dev ∧
          t.dev.get FLT.STATUS_FACTORY = (if s.dev.on FLT.STATUS_STRAP then 1 else s.dev.get FLT.STATUS_FACTORY) ∧
          t.dev.get FLT.STATUS_FACT_RESULT = if s.dev.on FLT.STATUS_STRAP then 1 else 2)) ∧
    (s.dev.Armed BOOT.NVM_ERASE.addr v at_ → ∀ i ∈ [Instr.nvmSectorErase (~~~ v), .nvmCopyErase (~~~ v)],
      (∀ op ∈ [1, 2], v.toNat % 4 = op →
        (s.dev.nvmRefusal (op + 1) = 0 →
          ∃ t, exec i s = .next t ∧ t.mem = s.mem ∧ t.dev.boot.busy = some (op + 1, s.dev.get BOOT.NVM_ADDR) ∧
            t.dev.get BOOT.NVM_STATUS_BUSY = 1 ∧ s.dev.Wrote [BOOT.NVM_STATUS_BUSY.addr] t.dev) ∧
        (s.dev.nvmRefusal (op + 1) ≠ 0 →
          ∃ t, exec i s = .next t ∧ t.mem = s.mem ∧ t.dev.boot = s.dev.boot ∧
            t.dev.get BOOT.NVM_STATUS_RESULT = s.dev.nvmRefusal (op + 1) ∧
            s.dev.Wrote [BOOT.NVM_STATUS_RESULT.addr] t.dev)) ∧
      (v.toNat % 4 ≠ 1 → v.toNat % 4 ≠ 2 → ∃ t, exec i s = .next t ∧ t.mem = s.mem ∧ s.dev.Same t.dev))

/-- READ and PROGRAM that are not refused become busy; a refused one shows its RESULT. At completion a read fills the
buffer, a program of erased bytes stores the 256 bytes and no other, a sector or copy erase sets exactly its bytes to
0xFF, and an error leaves the NVM as it was. (R411.) -/
def Obligations.NvmCommands : Prop :=
  (∀ s : State, s.dev.hostOpen BOOT.NVM_CMD_GO.addr = true → ∀ ic ∈ [(Instr.nvmRead, 0), (.nvmProgram, 1)],
    (s.dev.nvmRefusal ic.2 = 0 → ∃ t, exec ic.1 s = .next t ∧ t.mem = s.mem ∧
      t.dev.boot.busy = some (ic.2, s.dev.get BOOT.NVM_ADDR) ∧ t.dev.get BOOT.NVM_STATUS_BUSY = 1 ∧
      s.dev.Wrote [BOOT.NVM_CMD_OP.addr, BOOT.NVM_STATUS_BUSY.addr] t.dev) ∧
    (s.dev.nvmRefusal ic.2 ≠ 0 → ∃ t, exec ic.1 s = .next t ∧ t.mem = s.mem ∧ t.dev.boot = s.dev.boot ∧
      t.dev.get BOOT.NVM_STATUS_RESULT = s.dev.nvmRefusal ic.2 ∧
      s.dev.Wrote [BOOT.NVM_CMD_OP.addr, BOOT.NVM_STATUS_BUSY.addr] t.dev ∧
      t.dev.get BOOT.NVM_STATUS_BUSY = s.dev.get BOOT.NVM_STATUS_BUSY)) ∧
  (∀ (s : State) (cmd a : Nat) (ok : Bool), s.Inv → s.dev.boot.busy = some (cmd, a) →
    ∃ t, exec (.nvmCommandDone ok) s = .next t ∧ t.dev.boot.busy = none ∧ t.dev.get BOOT.NVM_STATUS_BUSY = 0 ∧
      t.dev.get BOOT.NVM_STATUS_RESULT = (if ok then 1 else 5) ∧ t.mem.sram = s.mem.sram ∧ t.mem.dram = s.mem.dram ∧
      (ok = false → t.mem.nvm = s.mem.nvm) ∧
      (ok = true → cmd = 0 → t.mem.nvm = s.mem.nvm ∧
        ∀ k, k < 64 → t.dev.get (BOOT.NVM_BUF k) = ofLeBytes ((List.range 4).map fun i => Tab.get nvmByte s.mem.nvm (nvmAt a (4 * k + i)))) ∧
      (ok = true → cmd = 1 → (∀ i, i < 256 → Tab.get nvmByte s.mem.nvm (nvmAt a i) = 0xFF →
          Tab.get nvmByte t.mem.nvm (nvmAt a i) = BitVec.ofNat 8 (bitsOf (s.dev.get (BOOT.NVM_BUF (i / 4))) (8 * (i % 4)) 8)) ∧
        ∀ x, (∀ i, i < 256 → x ≠ nvmAt a i) → Tab.get nvmByte t.mem.nvm x = Tab.get nvmByte s.mem.nvm x) ∧
      (ok = true → cmd = 2 → ∀ x, Tab.get nvmByte t.mem.nvm x =
        if a ≤ x ∧ x < a + 65536 then 0xFF else Tab.get nvmByte s.mem.nvm x) ∧
      (ok = true → cmd = 3 → ∀ x, Tab.get nvmByte t.mem.nvm x =
        if x / copyBytes = a / copyBytes then 0xFF else Tab.get nvmByte s.mem.nvm x))

/-- A commit with every affected engine idle and a legal map applies bank and site maps; one with an affected engine not
idle answers 2 (also when the map is bad: the model's choice, log 106), one with a bad map 3 with the first bad
channel, both changing nothing else. A held start that is no longer held starts its engine, or waits for an epoch load
under way. A path whose token condition has ended returns to stamp discipline, an engine's at its next vector
boundary, and no other path changes. (R28, R34.) -/
def Obligations.MapCommitAndHeldStart : Prop :=
  (∀ s : State, s.dev.hostOpen GLB.MAP_COMMIT.addr = true →
    ((∀ n ∈ s.dev.mapAffected, s.dev.engState n = seqIdle) → s.dev.mapFirstBad = none →
      ∃ t, exec .mapCommit s = .next t ∧ t.mem = s.mem ∧ t.dev.get GLB.MAP_STATUS_LAST_RESULT = 1 ∧
        (∀ b, b < 32 → t.dev.bankEng b = s.dev.shadowBank b) ∧ (∀ k, k < 64 → t.dev.siteEng k = s.dev.shadowSite k)) ∧
    ((∃ n ∈ s.dev.mapAffected, s.dev.engState n ≠ seqIdle) →
      ∃ t, exec .mapCommit s = .next t ∧ t.mem = s.mem ∧ t.dev.get GLB.MAP_STATUS_LAST_RESULT = 2 ∧
        s.dev.Wrote [GLB.MAP_STATUS_LAST_RESULT.addr] t.dev) ∧
    (∀ c, s.dev.mapFirstBad = some c → (∀ n ∈ s.dev.mapAffected, s.dev.engState n = seqIdle) →
      ∃ t, exec .mapCommit s = .next t ∧ t.mem = s.mem ∧ t.dev.get GLB.MAP_STATUS_LAST_RESULT = 3 ∧
        t.dev.get GLB.MAP_STATUS_FIRST_BAD = c % 2 ^ GLB.MAP_STATUS_FIRST_BAD.w ∧
        s.dev.Wrote [GLB.MAP_STATUS_LAST_RESULT.addr] t.dev)) ∧
  (∀ (s : State) (n : Eng), n.val ∈ s.dev.maps.heldStarts → s.dev.startHeld n.val = false → s.dev.Calm →
    (s.dev.pln.epoch ≠ none → ∃ t, exec (.heldStart n) s = .next t ∧ t.mem = s.mem ∧ t.dev.regs = s.dev.regs ∧
      t.dev.pln.held = s.dev.pln.held ++ [.start n] ∧ n.val ∉ t.dev.maps.heldStarts) ∧
    (s.dev.pln.epoch = none → ∃ t, exec (.heldStart n) s = .next t ∧ t.mem = s.mem ∧ s.dev.Started n.val t.dev ∧
      n.val ∉ t.dev.maps.heldStarts)) ∧
  (∀ (s : State) (b : Byte),
    let due := if 0x10 ≤ b.toNat ∧ b.toNat ≤ 0x17 then s.dev.nextBoundary (b.toNat % 4) else some s.dev.elapsed
    (∀ x, due = some x → (∃ p ∈ disciplinePaths b.toNat, s.dev.tokenCond p = false) →
      ∃ t, exec (.disciplineToStamp b) s = .next t ∧ t.mem = s.mem ∧ t.dev.regs = s.dev.regs ∧
        t.dev.elapsed = max s.dev.elapsed x ∧
        (∀ p ∈ disciplinePaths b.toNat, s.dev.tokenCond p = false → t.dev.tokenDisc p = false) ∧
        ∀ q, (q ∉ disciplinePaths b.toNat ∨ s.dev.tokenCond q = true) → t.dev.tokenDisc q = s.dev.tokenDisc q) ∧
    ((∀ p ∈ disciplinePaths b.toNat, s.dev.tokenCond p = true) → exec (.disciplineToStamp b) s = .next s))

/-- For every edge count of a window: it is good from 230 to 282 edges; the runs of good and bad windows count on or
restart; REFCLK_OK falls when the second bad window in a row ends and rises when the second good one does. (R36.) -/
def Obligations.ReferenceIsWatched : Prop :=
  ∀ (s : State) (edges : Nat), s.dev.Calm →
    let d := s.dev
    let good := decide (230 ≤ edges) && decide (edges ≤ 282)
    ∃ t, exec (.refclkWindow edges) s = .next t ∧ t.mem = s.mem ∧ t.dev.elapsed = d.elapsed ∧
      t.dev.pln.goodRun = (if good then d.pln.goodRun + 1 else 0) ∧ t.dev.pln.badRun = (if good then 0 else d.pln.badRun + 1) ∧
      t.dev.on PLN.QUALITY_REFCLK_OK =
        if d.on PLN.QUALITY_REFCLK_OK then decide (t.dev.pln.badRun < 2) else decide (2 ≤ t.dev.pln.goodRun)

/-- The loss of REFCLK_OK after the first lock is an FC0, and its return lets the quality rise. PLL-T lock lets the Plain
count by TCLK from the next REFCLK edge, raises the quality as far as its conditions hold, and ends a start-up without
a valid copy in UNCONFIGURED. A REF_WARM change shows, its fall lowers the quality; WARM_SETTLE raises it at its
instant. In REFCLK steps the Plain counts 16 at each edge while REFCLK_OK holds. (R36, R37, R38, R39, R43, R44, R399,
R402.) -/
def Obligations.ClocksAndQuality : Prop :=
  ∀ s : State, let d := s.dev
    let edge := 16 * ceilDiv d.elapsed 16
    let settled := fun (d' : Dev) => d'.pln.warmSince.any fun at_ => decide (at_ + msTclk * d.get PLN.WARM_SETTLE ≤ d'.elapsed)
    let risen := fun (d' : Dev) =>
      let a := if d.qual = 0 ∧ d'.on PLN.QUALITY_PLLT_LOCK = true ∧ d'.on PLN.QUALITY_REFCLK_OK = true then 1 else d.qual
      let b := if a = 1 ∧ settled d' = true then 2 else a
      let c := if b = 2 ∧ d.get PLN.QUALITY_EPOCH_STATE = 2 ∧ d.pln.lastPass = true ∧ d.on PLN.QUALITY_WAKE_CAP = false then 3 else b
      if d'.qualFrozen then d.qual else c
    let Does (i : Instr) (at_ : Nat) (P : Dev → Prop) : Prop :=
      ∃ t, exec i s = .next t ∧ t.mem = s.mem ∧ t.dev.elapsed = at_ ∧ P t.dev
    d.Calm →
    (∀ edges : Nat, Does (.refclkWindow edges) d.elapsed fun d' =>
      d'.qual = (if d.on PLN.QUALITY_REFCLK_OK = false ∧ d'.on PLN.QUALITY_REFCLK_OK = true then risen d' else d.qual) ∧
      d'.flt.fc0 = (if d.on PLN.QUALITY_REFCLK_OK = true ∧ d'.on PLN.QUALITY_REFCLK_OK = false ∧ d.pln.everLocked = true
        then some (d.flt.fc0.getD (0x0006, d.now)) else d.flt.fc0)) ∧
    (let locks := !d.on PLN.QUALITY_PLLT_LOCK && d.on PLN.QUALITY_REFCLK_OK && d.st != stDormant
     (locks = false → exec .pllLock s = .next s) ∧
     (locks = true → Does .pllLock (if d.pln.everLocked then edge else d.elapsed) fun d' =>
       d'.byTclk = true ∧ d'.pln.everLocked = true ∧ d'.qual = risen d' ∧
       d'.count = d.count + BitVec.ofNat 64 (if d.byRefclk then 16 * (ceilDiv d.elapsed 16 - d.elapsed / 16) else 0) ∧
       d'.st = (if d.st = stBoot ∧ d.boot.chosen = 0 ∧ d.get GLB.STATE_STEP = 5 then stUnconfigured else d.st))) ∧
    (∀ level : Bool,
      (d.on PLN.QUALITY_REF_WARM = level → exec (.refWarmChange level) s = .next s) ∧
      (d.on PLN.QUALITY_REF_WARM ≠ level → Does (.refWarmChange level) d.elapsed fun d' =>
        d'.on PLN.QUALITY_REF_WARM = level ∧ d'.pln.warmSince = (if level then some d.elapsed else none) ∧
        d'.qual = (if level then (if d.get PLN.WARM_SETTLE = 0 then risen d' else d.qual)
          else if 2 ≤ d.qual ∧ d.qualFrozen = false then 1 else d.qual))) ∧
    (d.pln.warmSince = none → exec .warmSettleExpiry s = .next s) ∧
    (∀ since, d.pln.warmSince = some since →
      Does .warmSettleExpiry (max d.elapsed (since + msTclk * d.get PLN.WARM_SETTLE)) fun d' => d'.qual = risen d') ∧
    (d.on PLN.QUALITY_REFSTEP = false → exec .refclkStep s = .next s) ∧
    (d.on PLN.QUALITY_REFSTEP = true → Does .refclkStep (16 * (d.elapsed / 16 + 1)) fun d' =>
      d'.count = d.count + (if d.on PLN.QUALITY_REFCLK_OK = true ∧ d.pln.everLocked = true then 16 else 0) ∧ d'.regs = d.regs)

/-- ARM answers 2, 3, 4 or 1 by quality, engines and load value, or waits for a load under way; DISARM answers 8. Every
edge shows in SYNC_LAST. An armed edge is consumed with result 4, 5 or 6, and 5 fixes the load to come. A checked edge
counts and shows its deviation: it passes, drifts with quality capped at 2, or is a slip with an FC1; in REFCLK steps
a deviation within one step changes nothing (the model's reading, log 114). The load sets the count, PHASE_OFS,
EPOCH_STATE and EPOCH_NUM at its instant and lets a held start run. The high half of the tag commits it. (R41, R46,
R47, R48, R49, R50, R51, R54.) -/
def Obligations.SyncAndEpochs : Prop :=
  ∀ s : State, let d := s.dev
    let a := PLN.SYNC_CTRL_ARM.addr
    (d.hostOpen a = true → d.gdPending 1 = none →
      let Answers (i : Instr) (result armed : Nat) (P : Dev → Prop) : Prop := ∃ t, exec i s = .next t ∧ t.mem = s.mem ∧
        t.dev.get PLN.SYNC_CTRL_ARM = armed ∧ t.dev.get PLN.SYNC_CTRL_ARM_RESULT = result ∧ d.Wrote [a] t.dev ∧ P t.dev
      let Refused (result : Nat) : Prop := Answers .arm result (d.get PLN.SYNC_CTRL_ARM) fun d' =>
        d.Noted 0x3003 1 d.writeMaster d.writeAccess a d'
      (d.pln.epoch ≠ none → ∃ t, exec .arm s = .next t ∧ t.mem = s.mem ∧ t.dev.regs = d.regs ∧ t.dev.elapsed = d.elapsed ∧
        t.dev.pln.held = d.pln.held ++ [.arm]) ∧
      (d.pln.epoch = none →
        (d.qual = 0 → Refused 2) ∧ (d.qual ≠ 0 → d.armBusy = true → Refused 3) ∧
        (d.qual ≠ 0 → d.armBusy = false → 2 ^ 63 ≤ d.get PLN.SYNC_LOAD → Refused 4) ∧
        (d.qual ≠ 0 → d.armBusy = false → d.get PLN.SYNC_LOAD < 2 ^ 63 → Answers .arm 1 1 fun _ => True)) ∧
      (d.on PLN.SYNC_CTRL_ARM = true → Answers .disarm 8 0 fun _ => True) ∧
      (d.on PLN.SYNC_CTRL_ARM = false → exec .disarm s = .next s)) ∧
    (∀ f : BitVec 12, d.Calm → let m := d.interpolated f.toNat
      let Edge (P : Dev → Prop) : Prop := ∃ t, exec (.syncEdge f) s = .next t ∧ t.mem = s.mem ∧ t.dev.elapsed = d.elapsed ∧
        t.dev.count = d.count ∧ t.dev.get PLN.SYNC_LAST = m / 4096 % 2 ^ 64 ∧ t.dev.get PLN.SYNC_LAST_FINE = m % 4096 ∧ P t.dev
      let last := [PLN.SYNC_LAST.addr, PLN.SYNC_LAST.addr + 4, PLN.SYNC_LAST_FINE.addr]
      (d.on PLN.SYNC_CTRL_ARM = true →
        let e : EpochDue := ⟨d.now, d.finePart f.toNat, d.get PLN.SYNC_LOAD, d.get PLN.SYNC_DESKEW, d.elapsed + 32⟩
        let Consumed (result : Nat) (P : Dev → Prop) : Prop := Edge fun d' => d'.get PLN.SYNC_CTRL_ARM = 0 ∧
          d'.get PLN.SYNC_CTRL_ARM_RESULT = result ∧ d.RegsBut (a :: last) d' ∧ P d'
        let bad := 2 ^ 63 ≤ e.load ∨ 2 ^ 63 ≤ e.countAtEdge + 32
        (bad → Consumed 4 fun d' => d'.pln = d.pln ∧ d.Noted 0x3003 1 0xFF 0 0 d') ∧
        (¬ bad → d.now < e.countAtEdge → Consumed 5 fun d' => d'.pln = { d.pln with epoch := some e }) ∧
        (¬ bad → e.countAtEdge ≤ d.now → Consumed 6 fun d' => d'.pln = d.pln ∧ d.Noted 0x3003 1 0xFF 0 0 d')) ∧
      (d.on PLN.SYNC_CTRL_ARM = false →
        let epoch := d.get PLN.QUALITY_EPOCH_STATE
        let checked := d.on PLN.SYNC_CTRL_CHECK_EN && (epoch == 1 || epoch == 2)
        let off := syncDeviation m (4096 * d.pln.ball.1 + d.pln.ball.2) (4096 * d.get PLN.SYNC_PERIOD)
        let Checked (P : Dev → Prop) : Prop := Edge fun d' =>
          d'.get PLN.SYNC_DEV_DEV = unsignedOf 16 (max (-32767) (min 32767 off)) ∧
          d'.get PLN.SYNC_DEV_CHECKS = min (2 ^ PLN.SYNC_DEV_CHECKS.w - 1) (d.get PLN.SYNC_DEV_CHECKS + 1) ∧
          d.RegsBut ([PLN.SYNC_DEV_DEV.addr, PLN.QUALITY_QUAL.addr] ++ last) d' ∧ P d'
        (checked = false → Edge fun d' => d.Wrote last d') ∧
        (checked = true →
          (d.byTclk = true → off.natAbs ≤ d.get PLN.PHASE_TOL → Checked fun d' => d'.get PLN.QUALITY_EPOCH_STATE = 2 ∧
            d'.on PLN.QUALITY_WAKE_CAP = false ∧ d'.on PLN.QUALITY_DRIFT_CAP = false ∧ d'.pln.lastPass = true ∧
            (d.qual = 2 → d.qualFrozen = false → d'.qual = 3)) ∧
          (d.byTclk = true → d.get PLN.PHASE_TOL < off.natAbs → off.natAbs ≤ 4096 → Checked fun d' =>
            d'.get PLN.QUALITY_EPOCH_STATE = epoch ∧ d'.on PLN.QUALITY_WAKE_CAP = d.on PLN.QUALITY_WAKE_CAP ∧
            d'.on PLN.QUALITY_DRIFT_CAP = true ∧ d'.pln.lastPass = false ∧ d.Noted 0x3009 1 0xFF 0 0 d' ∧
            d'.qual = if d.qual = 3 ∧ d.qualFrozen = false then 2 else d.qual) ∧
          (d.byTclk = false → off.natAbs ≤ 65536 → Checked fun d' => d'.pln = d.pln ∧ d'.qual = d.qual ∧
            d'.get PLN.QUALITY_EPOCH_STATE = epoch ∧ d'.on PLN.QUALITY_WAKE_CAP = d.on PLN.QUALITY_WAKE_CAP ∧
            d'.on PLN.QUALITY_DRIFT_CAP = d.on PLN.QUALITY_DRIFT_CAP) ∧
          (d.get PLN.PHASE_TOL < off.natAbs → (if d.byTclk then 4096 else 65536) < off.natAbs →
            ∃ t, exec (.syncEdge f) s = .next t ∧ t.mem = s.mem ∧ let d' := t.dev
            d'.elapsed = d.elapsed ∧ d'.count = d.count ∧ d'.get PLN.SLIP_COUNT = min (2 ^ PLN.SLIP_COUNT.w - 1) (d.get PLN.SLIP_COUNT + 1) ∧
            d'.get PLN.QUALITY_EPOCH_STATE = 0 ∧ d'.pln.lastPass = false ∧ d'.get PLN.PHASE_OFS = d.get PLN.PHASE_OFS ∧
            d'.qual = (if d.qual = 3 ∧ d.qualFrozen = false then 2 else d.qual) ∧
            ((d.fec 1).valid = false → d.on FLT.REACT_OOS_FC0 = false → (d'.fec 1).det = 0x1008))))) ∧
    (d.pln.epoch = none → exec .epochLoad s = .next s) ∧
    (∀ e, d.pln.epoch = some e → d.Calm →
      let new := e.countAtEdge + ((d.until e.due).now - e.raw)
      ∃ t, exec .epochLoad s = .next t ∧ t.mem = s.mem ∧ t.dev.pln.epoch = none ∧ t.dev.pln.held = [] ∧
        t.dev.count = BitVec.ofNat 64 new ∧
        t.dev.get PLN.PHASE_OFS = e.phaseOfs ∧ t.dev.get PLN.QUALITY_EPOCH_STATE = 1 ∧ t.dev.get PLN.SYNC_DEV_CHECKS = 0 ∧
        t.dev.get PLN.EPOCH_NUM = min (2 ^ 32 - 1) (d.get PLN.EPOCH_NUM + 1) ∧ t.dev.pln.lastPass = false ∧
        t.dev.pln.ball = (e.load + e.deskew / 4096, e.deskew % 4096) ∧ t.dev.elapsed = max d.elapsed e.due ∧
        (∀ n, n < 4 → d.pln.held = [.start (Fin.ofNat 4 n)] → d.startHeld n = false → d.engState n = seqIdle →
          d.on (SEQ.STATUS_PROG_VALID n) = true → d.get (SEQ.START_AT n) = 0 → t.dev.engState n = seqRunning)) ∧
    (∀ hi : W32, d.hostOpen (PLN.EPOCH_TAG.addr + 4) = true → d.gdPending 1 = none →
      ∃ t, exec (.epochMark hi) s = .next t ∧ t.mem = s.mem ∧
        t.dev.get PLN.EPOCH_TAG = hi.toNat * 2 ^ 32 + d.pln.tagLo.toNat ∧
        d.Wrote [PLN.EPOCH_TAG.addr, PLN.EPOCH_TAG.addr + 4] t.dev)

/-- During an epoch load START waits for it. A START held for a drain, a map commit or a thermal hold is noted, disarms an
armed SYNC with result 7 and changes no engine. Otherwise the START is judged: it is ignored unless the engine is
idle, has a valid program and, with START_AT, time enough, and else sets it RUNNING with its counters cleared and its
first vector no earlier than 256 TCLK ahead. (R28, R49, R88.) -/
def Obligations.StartIsJudged : Prop :=
  ∀ (s : State) (n : Eng), s.dev.hostOpen (SEQ.CTRL_START n.val).addr = true → s.dev.Calm →
    (s.dev.pln.epoch ≠ none → ∃ t, exec (.start n) s = .next t ∧ t.mem = s.mem ∧ t.dev.regs = s.dev.regs ∧
      t.dev.pln.held = s.dev.pln.held ++ [.start n]) ∧
    (s.dev.pln.epoch = none → s.dev.startHeld n.val = true →
      ∃ t, exec (.start n) s = .next t ∧ t.mem = s.mem ∧ n.val ∈ t.dev.maps.heldStarts ∧
        (s.dev.on PLN.SYNC_CTRL_ARM = true → t.dev.get PLN.SYNC_CTRL_ARM = 0 ∧ t.dev.get PLN.SYNC_CTRL_ARM_RESULT = 7) ∧
        s.dev.RegsBut [PLN.SYNC_CTRL_ARM.addr] t.dev ∧ ∀ m, t.dev.eng m = s.dev.eng m) ∧
    (s.dev.pln.epoch = none → s.dev.startHeld n.val = false →
      ∃ t, exec (.start n) s = .next t ∧ t.mem = s.mem ∧ s.dev.Started n.val t.dev)

/-- PAUSE pends in RUNNING, pauses at once in HOLDING and is ignored elsewhere; a pending one lands at a vector boundary
outside atomic words with RES valid and cause 8. RESUME cancels a pending pause or continues 256 TCLK ahead, and is
ignored in a thermal hold. ABORT and ABORT_ALL note the first cause; landing empties the engine, ends it IDLE with
that cause and leaves the other engines. (R90, R92, R93, R94, R95, R359.) -/
def Obligations.PauseAndAbort : Prop :=
  (∀ (s : State) (n : Eng),
    (s.dev.hostOpen (SEQ.CTRL_PAUSE n.val).addr = true →
      (s.dev.engState n.val = seqRunning →
        ∃ t, exec (.pause n) s = .next t ∧ t.mem = s.mem ∧ t.dev.on (SEQ.STATUS_PAUSE_PENDING n.val) = true ∧
          t.dev.engState n.val = seqRunning ∧ s.dev.ByEngine n.val [(SEQ.STATUS_STATE n.val).addr] t.dev) ∧
      (s.dev.engState n.val = seqHolding →
        ∃ t, exec (.pause n) s = .next t ∧ t.mem = s.mem ∧ t.dev.engState n.val = seqPaused ∧
          t.dev.get (SEQ.RES_INFO_CAUSE n.val) = 8 ∧ t.dev.on (SEQ.STATUS_RES_VALID n.val) = true ∧
          t.dev.on (SEQ.STATUS_PAUSE_PENDING n.val) = false ∧ (t.dev.eng n.val).hold = none ∧ t.dev.elapsed = s.dev.elapsed) ∧
      (s.dev.engState n.val = seqPaused →
        ∃ t, exec (.pause n) s = .next t ∧ t.mem = s.mem ∧ s.dev.ByEngine n.val [] t.dev) ∧
      (s.dev.engState n.val ∉ [seqRunning, seqHolding, seqPaused] →
        ∃ t, exec (.pause n) s = .next t ∧ t.mem = s.mem ∧ s.dev.Same t.dev)) ∧
    ((s.dev.eng n.val).issued = [] → (s.dev.eng n.val).abortReq = none →
      s.dev.engState n.val = seqRunning → s.dev.on (SEQ.STATUS_PAUSE_PENDING n.val) = true →
      ∀ w, (s.dev.eng n.val).after = .issue w → s.dev.insideAtomic s.mem n.val w = false →
      ∃ t, exec (.pauseLand n) s = .next t ∧ t.mem = s.mem ∧ t.dev.engState n.val = seqPaused ∧
        t.dev.on (SEQ.STATUS_PAUSE_PENDING n.val) = false ∧ t.dev.get (SEQ.RES_INFO_CAUSE n.val) = 8 ∧
        t.dev.on (SEQ.STATUS_RES_VALID n.val) = true ∧
        t.dev.elapsed = max s.dev.elapsed (s.dev.gridElapsed ((s.dev.eng n.val).under.getD (s.dev.eng n.val).earliest))) ∧
    (s.dev.hostOpen (SEQ.CTRL_RESUME n.val).addr = true → s.dev.on GOV.STATE_THERM_HOLD = false →
      (s.dev.on (SEQ.STATUS_PAUSE_PENDING n.val) = true →
        ∃ t, exec (.resume n) s = .next t ∧ t.mem = s.mem ∧ t.dev.on (SEQ.STATUS_PAUSE_PENDING n.val) = false ∧
          s.dev.Wrote [(SEQ.STATUS_STATE n.val).addr] t.dev) ∧
      (s.dev.on (SEQ.STATUS_PAUSE_PENDING n.val) = false → s.dev.engState n.val = seqPaused →
        ∃ t, exec (.resume n) s = .next t ∧ t.mem = s.mem ∧ t.dev.engState n.val = seqRunning ∧
          (t.dev.eng n.val).earliest = (s.dev.now + 256) * unit24 ∧ (t.dev.eng n.val).after = (s.dev.eng n.val).after ∧
          s.dev.ByEngine n.val [(SEQ.STATUS_STATE n.val).addr] t.dev)) ∧
    (s.dev.hostOpen (SEQ.CTRL_RESUME n.val).addr = true →
      (s.dev.on GOV.STATE_THERM_HOLD = true ∨
        (s.dev.on (SEQ.STATUS_PAUSE_PENDING n.val) = false ∧ s.dev.engState n.val ≠ seqPaused)) →
      ∃ t, exec (.resume n) s = .next t ∧ t.mem = s.mem ∧ s.dev.Same t.dev)) ∧
  (∀ (s : State) (n : Eng),
    let runs := s.dev.engState n.val = seqRunning ∨ s.dev.engState n.val = seqHolding ∨ s.dev.engState n.val = seqPaused
    (s.dev.hostOpen (SEQ.CTRL_ABORT n.val).addr = true →
      ∃ t, exec (.abort n) s = .next t ∧ t.mem = s.mem ∧
        (runs → (t.dev.eng n.val).abortReq = some ((s.dev.eng n.val).abortReq.getD 1) ∧ s.dev.ByEngine n.val [] t.dev) ∧
        (¬ runs → s.dev.Same t.dev)) ∧
    (s.dev.hostOpen GLB.ABORT_ALL.addr = true →
      ∃ t, exec .abortAll s = .next t ∧ t.mem = s.mem ∧ t.dev.regs = s.dev.regs ∧
        (runs → (t.dev.eng n.val).abortReq = some ((s.dev.eng n.val).abortReq.getD 2)) ∧
        (¬ runs → t.dev.eng n.val = s.dev.eng n.val)) ∧
    (∀ c, (s.dev.eng n.val).abortReq = some c → c < 16 → s.dev.Calm → runs →
      let at_ := if c = 3 ∨ c = 4 then ((s.dev.eng n.val).under.map s.dev.gridElapsed).getD 0 else 0
      ∃ t, exec (.abortLand n) s = .next t ∧ t.mem = s.mem ∧ t.dev.elapsed = max s.dev.elapsed at_ ∧
        t.dev.engState n.val = seqIdle ∧ t.dev.get (SEQ.STATUS_LAST_END n.val) = 2 ∧
        t.dev.get (SEQ.RES_INFO_CAUSE n.val) = c ∧ t.dev.on (SEQ.STATUS_RES_VALID n.val) = true ∧
        (t.dev.eng n.val).issued = [] ∧ (t.dev.eng n.val).play = none ∧ (t.dev.eng n.val).aborted = true ∧
        (∀ m, m ≠ n.val → t.dev.eng m = s.dev.eng m)))

/-- A vector whose data is there issues at its start less 64 TCLK with the symbols fetched, a corrected cache error
counted; an illegal word or bad data issues nothing and is captured as a fault; without stream data the engine
under-runs and aborts or holds as VSRC and HOLD_LIMIT say. Every branch operation chooses the next word, stack,
counters and timeout bit; a full or empty stack is a fault; with every site dropped ALLDROP_HALT halts. (R14, R62,
R63, R65, R66, R68, R70, R84, R86, R110, R118, R123.) -/
def Obligations.VectorsIssueAndDecide : Prop :=
  (∀ (s : State) (n : Eng) (errors : Nat) (x : Todo), (s.dev.eng n.val).after = .issue x →
    s.dev.engState n.val = seqRunning → (s.dev.eng n.val).under = none → (s.dev.eng n.val).abortReq = none →
    (s.dev.on (SEQ.STATUS_PAUSE_PENDING n.val) = false ∨ s.dev.insideAtomic s.mem n.val x = true) → s.dev.Calm →
    let w := s.mem.word n.val x.addr
    let start := (s.dev.nextStart s.mem n.val x).1
    let sets := (s.dev.nextStart s.mem n.val x).2
    let there := ¬(w.vsrc ≤ 1 ∧ s.dev.streamLevel n.val = 0)
    let fromCache := s.dev.fetchAddr n.val w x.idx ≠ none
    (there → ∀ syms, s.dev.fetchVector s.mem n.val w x.idx = .ok syms → (fromCache → errors ≤ 3) →
      ∃ t, exec (.vectorIssue (n, errors)) s = .next t ∧ t.mem = s.mem ∧
        (∃ p, (t.dev.eng n.val).issued = (s.dev.eng n.val).issued ++ [p] ∧
          p.addr = x.addr ∧ p.word = w ∧ p.start = start ∧ p.vec = (s.dev.eng n.val).vec) ∧
        (t.dev.eng n.val).vec = (s.dev.eng n.val).vec + 1 ∧ (t.dev.eng n.val).earliest = start + sets.period w.tsel ∧
        (t.dev.eng n.val).lastSyms = syms ∧
        (t.dev.eng n.val).after = (if w.rep ≤ x.idx then .decide else .issue ⟨x.addr, x.idx + 1, false⟩) ∧
        t.dev.elapsed = max s.dev.elapsed (s.dev.gridElapsed start - 64) ∧
        (fromCache → 0 < errors → t.dev.get (HKS.SRAM_CE 0) = min (2 ^ 32 - 1) (s.dev.get (HKS.SRAM_CE 0) + 1))) ∧
    (there → (s.dev.fetchVector s.mem n.val w x.idx = .illegal ∨ s.dev.fetchVector s.mem n.val w x.idx = .bad ∨
        (fromCache ∧ 3 < errors)) →
      ∃ t, exec (.vectorIssue (n, errors)) s = .next t ∧ t.mem = s.mem ∧
        (∀ p ∈ (t.dev.eng n.val).issued, p ∈ (s.dev.eng n.val).issued) ∧
        ((t.dev.fec 0).valid = true ∨ (t.dev.fec 1).valid = true)) ∧
    (¬ there →
      ∃ t, exec (.vectorIssue (n, errors)) s = .next t ∧ t.mem = s.mem ∧ (t.dev.eng n.val).under = some start ∧
        (t.dev.eng n.val).issued = (s.dev.eng n.val).issued ∧
        (t.dev.eng n.val).abortReq = (if w.vsrc = 1 then some 3 else if s.dev.get (SEQ.HOLD_LIMIT n.val) = 0 then some 4 else none))) ∧
  (∀ (s : State) (n : Eng) (p : Play), (s.dev.eng n.val).after = .decide → (s.dev.eng n.val).lastPlay = some p →
    s.dev.engState n.val = seqRunning → s.dev.Calm →
    let d := s.dev.atDecision s.mem n.val p
    let w := p.word
    let r := (s.dev.eng n.val).regs
    let cond := (d.latchSites n.val w).cond n.val w
    let c := cond.testBit 0
    let inc := (p.addr + 1) % 16384
    let lane (i : Nat) := r.cnt.getD i 0
    let dropped := s.dev.on (SEQ.CONFIG_ALLDROP_HALT n.val) = true ∧ w.atomic = false ∧ d.activeSites n.val = []
    let Ends (a : AfterLast) : Prop :=
      ∃ t, exec (.decisionPoint n) s = .next t ∧ t.mem = s.mem ∧ t.dev.regs = s.dev.regs ∧
        t.dev.elapsed = d.elapsed ∧ (t.dev.eng n.val).after = a ∧ ∀ m, m ≠ n.val → t.dev.eng m = s.dev.eng m
    let Goes (a : Nat) (k cnt : List Nat) : Prop :=
      ∃ t, exec (.decisionPoint n) s = .next t ∧ t.mem = s.mem ∧ t.dev.regs = s.dev.regs ∧
        t.dev.elapsed = d.elapsed ∧ (t.dev.eng n.val).after = .issue ⟨a, 0, true⟩ ∧
        (t.dev.eng n.val).regs.stack = k ∧ (t.dev.eng n.val).regs.cnt = cnt ∧
        (∀ m, m ≠ n.val → t.dev.eng m = s.dev.eng m)
    let cnt := counted w.cntOp w.cntImm r.cnt
    let Stops : Prop := ∃ t, exec (.decisionPoint n) s = .next t ∧ t.mem = s.mem ∧
      (∀ x, (t.dev.eng n.val).after ≠ .issue x) ∧ ((t.dev.fec 0).valid = true ∨ (t.dev.fec 1).valid = true)
    (w.bop = 13 ∨ (w.bop = 14 ∧ c = true) → Ends (.halt false)) ∧
    (dropped → w.bop ≠ 13 → (w.bop = 14 → c = false) → Ends (.halt true)) ∧
    (¬ dropped →
      (w.bop = 0 → Goes inc r.stack cnt) ∧
      (w.bop = 1 → Goes w.next r.stack cnt) ∧
      (w.bop = 2 → Goes (if c then w.next else inc) r.stack cnt) ∧
      (w.bop = 3 → Goes (if c then inc else w.next) r.stack cnt) ∧
      (w.bop = 4 ∨ (w.bop = 5 ∧ c = true) → r.stack.length < 8 → Goes w.next (r.stack ++ [inc]) cnt) ∧
      (w.bop = 4 ∨ (w.bop = 5 ∧ c = true) → 8 ≤ r.stack.length → Stops) ∧
      (w.bop = 5 → c = false → Goes inc r.stack cnt) ∧
      (w.bop = 6 → ∀ a k, r.stack = k ++ [a] → Goes a k cnt) ∧
      (w.bop = 6 → r.stack = [] → Stops) ∧
      (w.bop = 7 → Goes (w.next ||| cond % 16) r.stack cnt) ∧
      (∀ i, i < 4 → w.bop = 8 + i →
        (lane i ≠ 0 → Goes w.next r.stack (counted w.cntOp w.cntImm (r.cnt.set i (lane i - 1)))) ∧
        (lane i = 0 → Goes inc r.stack cnt)) ∧
      (w.bop = 14 → c = false → Goes inc r.stack cnt) ∧
      (w.bop = 12 → (d.latchSites n.val w).matchTrue n.val w.matchSel = true → Goes inc r.stack r.cnt) ∧
      (w.bop = 12 → (d.latchSites n.val w).matchTrue n.val w.matchSel = false → lane (w.cntOp / 4) ≠ 0 →
        ∃ t, exec (.decisionPoint n) s = .next t ∧ t.mem = s.mem ∧ t.dev.regs = s.dev.regs ∧
          (t.dev.eng n.val).after = .issue ⟨p.addr, 0, false⟩ ∧
          (t.dev.eng n.val).regs.cnt = r.cnt.set (w.cntOp / 4) (lane (w.cntOp / 4) - 1)) ∧
      (w.bop = 12 → (d.latchSites n.val w).matchTrue n.val w.matchSel = false → lane (w.cntOp / 4) = 0 →
        ∃ t, exec (.decisionPoint n) s = .next t ∧ t.mem = s.mem ∧ (t.dev.eng n.val).timeoutBit = true ∧
          (t.dev.eng n.val).after = .issue ⟨w.next, 0, true⟩ ∧ (t.dev.eng n.val).regs = r)))

/-- A vector start shows VEC_NUM, PC, STREAM_POS, the counted symbol errors and clamps, and at a first play mask, segment
and commit. HALT ends the run with LAST_END and begins the drain; a hold begins at the missed start and ends 128 TCLK
ahead once data has recovered; HOLD_LIMIT aborts with cause 4. (R76, R77, R89, R115, R124, R126, R127.) -/
def Obligations.VectorsStartAndEnd : Prop :=
  (∀ (s : State) (n : Eng) (p : Play) (rest : List Play), (s.dev.eng n.val).issued = p :: rest →
    s.dev.engState n.val = seqRunning → s.dev.Calm →
    let now := s.dev.until (s.dev.gridElapsed p.start)
    ∃ t, exec (.vectorStart n) s = .next t ∧ t.mem = s.mem ∧ t.dev.elapsed = now.elapsed ∧
      t.dev.get (SEQ.VEC_NUM n.val) = p.vec % 2 ^ 64 ∧ t.dev.get (SEQ.STATUS_PC n.val) = p.addr % 2 ^ 14 ∧
      (t.dev.eng n.val).play = some p ∧ (t.dev.eng n.val).issued = rest ∧
      t.dev.get (SEQ.STREAM_POS n.val) = (s.dev.get (SEQ.STREAM_POS n.val) + if p.stream then 1 else 0) % 2 ^ 64 ∧
      t.dev.get (SEQ.SYMBOL_ERR n.val) = min (2 ^ 32 - 1) (s.dev.get (SEQ.SYMBOL_ERR n.val) + p.symErr.length) ∧
      t.dev.get (TSET.EDGE_CLAMP n.val) = min (2 ^ 32 - 1) (s.dev.get (TSET.EDGE_CLAMP n.val) + p.clamped.length) ∧
      (p.first = false → p.symErr = [] → p.ranged = [] → p.clamped = [] →
        now.ByEngine n.val
          [(SEQ.VEC_NUM n.val).addr, (SEQ.VEC_NUM n.val).addr + 4, (SEQ.STATUS_PC n.val).addr,
           (SEQ.STREAM_POS n.val).addr, (SEQ.STREAM_POS n.val).addr + 4] t.dev) ∧
      (p.first = true → (t.dev.eng n.val).mask = p.progMask ∧
        t.dev.get (SEQ.SEG_NUM n.val) = (if p.word.segStart then p.seg % 2 ^ 32 else s.dev.get (SEQ.SEG_NUM n.val)) ∧
        (t.dev.tset n.val).active = p.commit.getD (s.dev.tset n.val).active)) ∧
  (∀ (s : State) (n : Eng), s.dev.Calm →
    (∀ b, (s.dev.eng n.val).after = .halt b → s.dev.engState n.val = seqRunning → (s.dev.eng n.val).issued = [] →
      ∃ t, exec (.programEnd n) s = .next t ∧ t.mem = s.mem ∧ t.dev.engState n.val = seqIdle ∧
        t.dev.get (SEQ.STATUS_LAST_END n.val) = (if b then 3 else 1) ∧ t.dev.on (FCAP.ENG_STATUS_DRAINING n.val) = true ∧
        t.dev.elapsed = max s.dev.elapsed (s.dev.gridElapsed (s.dev.eng n.val).earliest)) ∧
    (∀ x w, (s.dev.eng n.val).under = some x → (s.dev.eng n.val).after = .issue w → s.dev.engState n.val = seqRunning →
      (s.dev.eng n.val).abortReq = none → (s.dev.eng n.val).issued = [] → (s.mem.word n.val w.addr).vsrc = 0 →
      s.dev.on (SEQ.STATUS_PAUSE_PENDING n.val) = false →
      ∃ t, exec (.holdBegin n) s = .next t ∧ t.mem = s.mem ∧ t.dev.engState n.val = seqHolding ∧
        t.dev.get (SEQ.HOLD_COUNT n.val) = min (2 ^ 32 - 1) (s.dev.get (SEQ.HOLD_COUNT n.val) + 1) ∧
        t.dev.elapsed = max s.dev.elapsed (s.dev.gridElapsed x) ∧ (t.dev.eng n.val).idleNext = some x ∧
        (s.dev.until (s.dev.gridElapsed x)).ByEngine n.val [(SEQ.STATUS_STATE n.val).addr, (SEQ.HOLD_COUNT n.val).addr] t.dev) ∧
    (∀ w, (s.dev.eng n.val).after = .issue w → s.dev.engState n.val = seqHolding → s.dev.streamRecovered n.val = true →
      (s.dev.eng n.val).abortReq = none → s.dev.holdExpired n.val = false →
      ∃ t, exec (.holdEnd n) s = .next t ∧ t.mem = s.mem ∧ t.dev.engState n.val = seqRunning ∧
        (t.dev.eng n.val).hold = none ∧ (t.dev.eng n.val).earliest = (s.dev.now + 128) * unit24 ∧
        s.dev.ByEngine n.val [(SEQ.STATUS_STATE n.val).addr] t.dev) ∧
    (∀ h, (s.dev.eng n.val).hold = some h → s.dev.engState n.val = seqHolding →
      ∃ t, exec (.holdLimitExpiry n) s = .next t ∧ t.mem = s.mem ∧ t.dev.engState n.val = seqIdle ∧
        t.dev.get (SEQ.STATUS_LAST_END n.val) = 2 ∧ t.dev.get (SEQ.RES_INFO_CAUSE n.val) = 4 ∧
        t.dev.elapsed = max s.dev.elapsed (h.sinceElapsed + usTclk * s.dev.get (SEQ.HOLD_LIMIT n.val))))

/-- IDLE_COMMIT takes all 256 symbols. In HOLDING, PAUSED and IDLE an idle vector plays from the next grid point of the
set in force, and the one after it follows a period later. (R121, R122, R125, R134.) -/
def Obligations.IdleVectorsPlay : Prop :=
  ∀ (s : State) (n : Eng),
    (s.dev.hostOpen (SEQ.IDLE_COMMIT n.val).addr = true →
      ∃ t, exec (.idleCommit n) s = .next t ∧ t.mem = s.mem ∧ (t.dev.eng n.val).idleVec.length = 256 ∧
        (∀ p, p < 256 → (t.dev.eng n.val).idleVec.getD p 4 = bitsOf (s.dev.get (SEQ.IDLE_VEC n.val (p / 8))) (4 * (p % 8)) 4) ∧
        s.dev.ByEngine n.val [] t.dev) ∧
    (∀ x, (s.dev.eng n.val).idleNext = some x →
      let Plays (i : Instr) (start period : Nat) : Prop :=
        ∃ t, exec i s = .next t ∧ t.mem = s.mem ∧ (t.dev.eng n.val).idleNext = some (start + period) ∧
          s.dev.gridElapsed x ≤ t.dev.elapsed ∧ t.dev.engState n.val = s.dev.engState n.val
      (s.dev.engState n.val = seqHolding ∨ s.dev.engState n.val = seqPaused →
        let p := (s.dev.tset n.val).active.period (s.dev.eng n.val).lastTs
        Plays (.keepalivePlay n) (gridAt (s.dev.get (TSET.ORIGIN n.val)) p x) p) ∧
      (s.dev.engState n.val = seqIdle → (s.dev.eng n.val).aborted = false → s.dev.get (SEQ.IDLE_CFG_END_STATE n.val) = 2 →
        s.dev.byTclk = true →
        let ts := s.dev.tset n.val
        let c := if ts.commitHeld then ts.before.getD ts.shadow else ts.active
        let o := match ts.originHeld with | some o => o % 2 ^ 64 | none => s.dev.get (TSET.ORIGIN n.val)
        let p := c.period (s.dev.get (SEQ.IDLE_CFG_IDLE_TS n.val))
        Plays (.idleVecPlay n) (gridAt o p x) p))

/-- CONFIG is stored when the engine is idle and every position fits, and is ignored otherwise; a stride change empties
the stream. CACHE_PART answers 2, 3, 4 or 1, and only a 1 moves the ranges and empties the stream. FLUSH in IDLE
empties the stream and restarts STREAM_POS, and is ignored elsewhere; FLUSH_BUSY falls at its end. (R25, R100, R107,
R116.) -/
def Obligations.EngineConfigWrites : Prop :=
  ∀ (s : State) (n : Eng) (v : W32),
    (s.dev.hostOpen (SEQ.CONFIG_POS_COUNT n.val).addr = true →
      (s.dev.engState n.val ≠ seqIdle ∨ 256 < bitsOf v.toNat 0 9 ∨
          (∃ c, c < 1024 ∧ s.dev.mapped c = true ∧ s.dev.chanEng c = n.val ∧ bitsOf v.toNat 0 9 ≤ s.dev.chanPos c) →
        ∃ t, exec (.configWrite n v) s = .next t ∧ t.mem = s.mem ∧ s.dev.Same t.dev) ∧
      (s.dev.engState n.val = seqIdle → bitsOf v.toNat 0 9 ≤ 256 →
          (∀ c, c < 1024 → s.dev.mapped c = true → s.dev.chanEng c = n.val → s.dev.chanPos c < bitsOf v.toNat 0 9) →
        ∃ t, exec (.configWrite n v) s = .next t ∧ t.mem = s.mem ∧ t.dev.posCount n.val = bitsOf v.toNat 0 9 ∧
          t.dev.get (SEQ.CONFIG_ALLDROP_HALT n.val) = bitsOf v.toNat 9 1 ∧
          (strideOf (bitsOf v.toNat 0 9) = s.dev.stride n.val → s.dev.Wrote [(SEQ.CONFIG_POS_COUNT n.val).addr] t.dev) ∧
          (strideOf (bitsOf v.toNat 0 9) ≠ s.dev.stride n.val →
            t.dev.streamLevel n.val = 0 ∧ t.dev.get (SEQ.STREAM_POS n.val) = 0 ∧
            s.dev.ByEngine n.val [(SEQ.CONFIG_POS_COUNT n.val).addr, (SEQ.STREAM_STATUS_DESC_ERR n.val).addr,
              (SEQ.STREAM_POS n.val).addr, (SEQ.STREAM_POS n.val).addr + 4, (HDMA.RING_DEV_PTR n.val).addr] t.dev))) ∧
    (s.dev.hostOpen (SEQ.CACHE_PART_S_BASE n.val).addr = true →
      let sr := (bitsOf v.toNat 0 6, bitsOf v.toNat 8 6)
      let pr := (bitsOf v.toNat 16 6, bitsOf v.toNat 24 6)
      let Meet (a b : Nat × Nat) : Prop := 0 < a.2 ∧ 0 < b.2 ∧ a.1 < b.1 + b.2 ∧ b.1 < a.1 + a.2
      let Misfit : Prop := 56 < sr.1 + sr.2 ∨ 56 < pr.1 + pr.2 ∨ Meet sr pr
      let Taken : Prop := ∃ m, m < 4 ∧ m ≠ n.val ∧
        (Meet sr (s.dev.get (SEQ.CACHE_PART_S_BASE m), s.dev.get (SEQ.CACHE_PART_S_GRAN m)) ∨
         Meet sr (s.dev.get (SEQ.CACHE_PART_P_BASE m), s.dev.get (SEQ.CACHE_PART_P_GRAN m)) ∨
         Meet pr (s.dev.get (SEQ.CACHE_PART_S_BASE m), s.dev.get (SEQ.CACHE_PART_S_GRAN m)) ∨
         Meet pr (s.dev.get (SEQ.CACHE_PART_P_BASE m), s.dev.get (SEQ.CACHE_PART_P_GRAN m)))
      let Refused (r : Nat) : Prop := ∃ t, exec (.cachePart n v) s = .next t ∧ t.mem = s.mem ∧
        t.dev.get (SEQ.STREAM_STATUS_PART_RESULT n.val) = r ∧ s.dev.Wrote [(SEQ.STREAM_STATUS_PART_RESULT n.val).addr] t.dev
      (s.dev.engState n.val ≠ seqIdle → Refused 2) ∧
      (s.dev.engState n.val = seqIdle → Misfit → Refused 3) ∧
      (s.dev.engState n.val = seqIdle → ¬ Misfit → Taken → Refused 4) ∧
      (s.dev.engState n.val = seqIdle → ¬ Misfit → ¬ Taken →
        ∃ t, exec (.cachePart n v) s = .next t ∧ t.mem = s.mem ∧ t.dev.get (SEQ.STREAM_STATUS_PART_RESULT n.val) = 1 ∧
          t.dev.ringRange n.val = (granule * sr.1, granule * sr.2) ∧
          t.dev.pinnedRange n.val = (granule * pr.1, granule * pr.2) ∧ t.dev.streamLevel n.val = 0 ∧
          s.dev.ByEngine n.val [(SEQ.CACHE_PART_S_BASE n.val).addr, (SEQ.STREAM_STATUS_PART_RESULT n.val).addr,
            (HDMA.RING_DEV_PTR n.val).addr] t.dev)) ∧
    (s.dev.hostOpen (SEQ.STREAM_CTRL n.val).addr = true →
      (s.dev.engState n.val ≠ seqIdle → ∃ t, exec (.flush n) s = .next t ∧ t.mem = s.mem ∧ s.dev.Same t.dev) ∧
      (s.dev.engState n.val = seqIdle →
        ∃ t, exec (.flush n) s = .next t ∧ t.mem = s.mem ∧ t.dev.streamLevel n.val = 0 ∧
          t.dev.get (SEQ.STREAM_POS n.val) = 0 ∧ t.dev.on (SEQ.STREAM_STATUS_FLUSH_BUSY n.val) = true ∧
          t.dev.on (SEQ.STREAM_STATUS_DESC_ERR n.val) = false ∧
          s.dev.ByEngine n.val [(SEQ.STREAM_STATUS_DESC_ERR n.val).addr, (SEQ.STREAM_POS n.val).addr,
            (SEQ.STREAM_POS n.val).addr + 4, (HDMA.RING_DEV_PTR n.val).addr] t.dev)) ∧
    (∃ t, exec (.flushComplete n) s = .next t ∧ t.mem = s.mem ∧ t.dev.on (SEQ.STREAM_STATUS_FLUSH_BUSY n.val) = false ∧
        s.dev.Wrote [(SEQ.STREAM_STATUS_FLUSH_BUSY n.val).addr] t.dev)

/-- A staged entry is judged with results 1 to 6 and a good one written into its range of positions; a period pair within
2 to 65,535 and a deskew within its range are stored, all others leave the shadow set and answer 7 or 8. COMMIT in
IDLE makes the shadow set active at once, or is held while idle vectors play; ORIGIN likewise; outside IDLE a commit
answers 2 and an origin is ignored. (R128, R134, R135, R136, R137, R389.) -/
def Obligations.TimingSetWrites : Prop :=
  (∀ (s : State) (n : Eng) (v : W32),
    let d0 := s.dev.tsetDue n.val
    (s.dev.hostOpen (TSET.STAGE_WRITE_TS n.val).addr = true →
      let bits := BitVec.ofNat 192 ((List.range 6).foldl (fun x j => x + s.dev.get (TSET.STAGE n.val j) * 2 ^ (32 * j)) 0)
      let e := TEntry.ofBits bits
      let first := bitsOf v.toNat 8 8
      let last := bitsOf v.toNat 16 8
      let r :=
        if last < first then 2 else if 6 ≤ e.format then 3
        else if ∃ x ∈ [e.d0, e.d1, e.d2, e.d3, e.s0, e.s1], 65599 * 256 ≤ x then 4
        else if (e.format ∈ [2, 3, 4, 5] ∧ e.d2 < e.d1 + 128) ∨ (e.format = 5 ∧ e.d1 < e.d0 + 128) then 5
        else if e.window = true ∧ e.s1 < e.s0 + 128 then 6 else 1
      (r ≠ 1 → ∃ t, exec (.stageWrite n v) s = .next t ∧ t.mem = s.mem ∧ t.dev.get (TSET.WRITE_STATUS_RESULT n.val) = r ∧
        d0.Wrote [(TSET.WRITE_STATUS_RESULT n.val).addr] t.dev) ∧
      (r = 1 → ∃ t, exec (.stageWrite n v) s = .next t ∧ t.mem = s.mem ∧ t.dev.get (TSET.WRITE_STATUS_RESULT n.val) = 1 ∧
        t.dev.on (TSET.WRITE_STATUS_BUSY n.val) = true ∧ d0.RegsBut [(TSET.WRITE_STATUS_RESULT n.val).addr] t.dev ∧
        (t.dev.tset n.val).active = (d0.tset n.val).active ∧ (∀ m, m ≠ n.val → t.dev.tset m = s.dev.tset m) ∧
        ∀ k, Tab.get (fun _ => 0) (t.dev.tset n.val).shadow.entries k =
          if 256 * bitsOf v.toNat 0 5 + first ≤ k ∧ k ≤ 256 * bitsOf v.toNat 0 5 + last
          then bits &&& BitVec.ofNat 192 (2 ^ 154 - 1) else Tab.get (fun _ => 0) (s.dev.tset n.val).shadow.entries k)) ∧
    (∃ t, exec (.stageWriteComplete n) s = .next t ∧ t.mem = s.mem ∧ t.dev.on (TSET.WRITE_STATUS_BUSY n.val) = false ∧
      (t.dev.tset n.val).before = none ∧ (t.dev.tset n.val).shadow = (s.dev.tset n.val).shadow ∧
      s.dev.RegsBut [(TSET.WRITE_STATUS_RESULT n.val).addr] t.dev) ∧
    (∀ k : Fin 64, s.dev.hostOpen (TSET.SH_SITE_DESKEW n.val k.val).addr = true →
      let x := signedOf 16 v.toNat
      (-4096 ≤ x ∧ x ≤ 4095 → ∃ t, exec (.siteDeskewWrite n k v) s = .next t ∧ t.mem = s.mem ∧
        t.dev.get (TSET.WRITE_STATUS_RESULT n.val) = 1 ∧ Tab.get (fun _ => 0) (t.dev.tset n.val).shadow.deskew k.val = x ∧
        d0.RegsBut [(TSET.WRITE_STATUS_RESULT n.val).addr] t.dev) ∧
      (x < -4096 ∨ 4095 < x → ∃ t, exec (.siteDeskewWrite n k v) s = .next t ∧ t.mem = s.mem ∧
        t.dev.get (TSET.WRITE_STATUS_RESULT n.val) = 8 ∧ d0.Wrote [(TSET.WRITE_STATUS_RESULT n.val).addr] t.dev))) ∧
  (∀ (s : State) (n : Eng) (i : Fin 32) (hi : W32), s.dev.hostOpen (TSET.SH_PERIOD_HI n.val i.val).addr = true →
    let d0 := s.dev.tsetDue n.val
    let p := hi.toNat % 65536 * unit24 +
      Tab.get (fun _ => (s.dev.tset n.val).shadow.period i.val % unit24) (s.dev.tset n.val).held i.val
    (2 * unit24 ≤ p ∧ p ≤ 65535 * unit24 → ∃ t, exec (.periodWrite n i hi) s = .next t ∧ t.mem = s.mem ∧
      (t.dev.tset n.val).shadow.period i.val = p ∧ t.dev.get (TSET.WRITE_STATUS_RESULT n.val) = 1 ∧
      (∀ j, j ≠ i.val → (t.dev.tset n.val).shadow.period j = (s.dev.tset n.val).shadow.period j) ∧
      d0.RegsBut [(TSET.WRITE_STATUS_RESULT n.val).addr] t.dev) ∧
    (p < 2 * unit24 ∨ 65535 * unit24 < p → ∃ t, exec (.periodWrite n i hi) s = .next t ∧ t.mem = s.mem ∧
      (t.dev.tset n.val).shadow = (s.dev.tset n.val).shadow ∧ t.dev.get (TSET.WRITE_STATUS_RESULT n.val) = 7 ∧
      d0.RegsBut [(TSET.WRITE_STATUS_RESULT n.val).addr] t.dev)) ∧
  (∀ (s : State) (n : Eng) (v : W32) (h : Bool),
    let d0 := s.dev.tsetDue n.val
    let shadow := (d0.tset n.val).before.getD (d0.tset n.val).shadow
    let old := (d0.tset n.val).originHeld.getD (d0.get (TSET.ORIGIN n.val))
    let new := if h then old % 2 ^ 32 + 2 ^ 32 * v.toNat else old / 2 ^ 32 * 2 ^ 32 + v.toNat
    let originAt := [(TSET.ORIGIN n.val).addr, (TSET.ORIGIN n.val).addr + 4]
    (s.dev.hostOpen (TSET.COMMIT_COMMIT n.val).addr = true →
      (s.dev.engState n.val ≠ seqIdle → ∃ t, exec (.tsetCommit n) s = .next t ∧ t.mem = s.mem ∧
        t.dev.get (TSET.COMMIT_COMMIT_RESULT n.val) = 2 ∧ d0.Wrote [(TSET.COMMIT_COMMIT n.val).addr] t.dev) ∧
      (s.dev.engState n.val = seqIdle → (s.dev.eng n.val).idleNext = none → ∃ t, exec (.tsetCommit n) s = .next t ∧
        t.mem = s.mem ∧ t.dev.get (TSET.COMMIT_COMMIT_RESULT n.val) = 1 ∧ (t.dev.tset n.val).active = shadow ∧
        (t.dev.tset n.val).shadow = (d0.tset n.val).shadow ∧
        t.dev.get (TSET.COMMIT_COUNT n.val) = min (2 ^ 32 - 1) (s.dev.get (TSET.COMMIT_COUNT n.val) + 1) ∧
        d0.RegsBut ([(TSET.COMMIT_COMMIT n.val).addr, (TSET.COMMIT_COUNT n.val).addr] ++ originAt) t.dev) ∧
      (s.dev.engState n.val = seqIdle → (s.dev.eng n.val).idleNext ≠ none → ∃ t, exec (.tsetCommit n) s = .next t ∧
        t.mem = s.mem ∧ t.dev.get (TSET.COMMIT_COMMIT_RESULT n.val) = 1 ∧
        t.dev.tset n.val = { d0.tset n.val with commitHeld := true } ∧
        d0.RegsBut [(TSET.COMMIT_COMMIT n.val).addr] t.dev)) ∧
    (s.dev.hostOpen ((TSET.ORIGIN n.val).addr + if h then 4 else 0) = true →
      (s.dev.engState n.val ≠ seqIdle → ∃ t, exec (.originWrite n h v) s = .next t ∧ t.mem = s.mem ∧ d0.Same t.dev) ∧
      (s.dev.engState n.val = seqIdle → (s.dev.eng n.val).idleNext = none →
        ∃ t, exec (.originWrite n h v) s = .next t ∧ t.mem = s.mem ∧ t.dev.get (TSET.ORIGIN n.val) = new % 2 ^ 64 ∧
          t.dev.tset n.val = { d0.tset n.val with originHeld := none } ∧ d0.RegsBut originAt t.dev) ∧
      (s.dev.engState n.val = seqIdle → (s.dev.eng n.val).idleNext ≠ none →
        ∃ t, exec (.originWrite n h v) s = .next t ∧ t.mem = s.mem ∧ t.dev.regs = d0.regs ∧
          t.dev.tset n.val = { d0.tset n.val with originHeld := some new })))

/-- The end of a load sets PROG_VALID exactly when every word passes, with the CRC, and the first bad word and its reason.
A legal descriptor becomes a buffer and an illegal one stops the ring. A refill line from the host stores its vector
bytes in the ring and no other byte; one from DRAM queues a read request at its address, or stops the ring where DRAM
is down or the address barred. (R97, R98, R99, R111, R112, R113.) -/
def Obligations.LoadEndsAndStreams : Prop :=
  (∀ (s : State) (n : Eng), (s.dev.eng n.val).loading = false → s.dev.engState n.val = seqLoading →
    ∃ t, exec (.programLoadEnd n) s = .next t ∧ t.mem = s.mem ∧ t.dev.engState n.val = seqIdle ∧
      (t.dev.on (SEQ.STATUS_PROG_VALID n.val) = true ↔ ∀ a, a < 16384 → s.mem.wordReason n.val a = 0) ∧
      t.dev.get (SEQ.PROG_CRC n.val) =
        (crc32c ((List.range 16384).flatMap fun a => s.mem.sramBytes (microAddr n.val a) 22)).toNat ∧
      (∀ a, a < 16384 → s.mem.wordReason n.val a ≠ 0 → (∀ b, b < a → s.mem.wordReason n.val b = 0) →
        t.dev.get (SEQ.LOAD_STATUS_REASON n.val) = s.mem.wordReason n.val a ∧
        t.dev.get (SEQ.LOAD_STATUS_FIRST_BAD n.val) = a) ∧
      t.dev.eng n.val = s.dev.eng n.val ∧
      s.dev.ByEngine n.val [(SEQ.STATUS_STATE n.val).addr, (SEQ.LOAD_STATUS_REASON n.val).addr, (SEQ.PROG_CRC n.val).addr] t.dev) ∧
  (∀ (s : State) (n : Eng) (x : StreamDesc) (line : List Byte) (bad : Bool),
    (s.dev.hdmaRuns = true → s.dev.ringLive n.val = true → s.dev.on (SEQ.STREAM_STATUS_DESC_ERR n.val) = false →
      s.dev.bufsAhead n.val < min 16 (s.dev.ringCount n.val) →
      (s.dev.streamCond n.val x = 0 → ∃ t b, exec (.streamDescriptor n x) s = .next t ∧ t.mem = s.mem ∧
        (t.dev.eng n.val).stream.bufs = (s.dev.eng n.val).stream.bufs ++ [b] ∧ b.addr = x.addr.toNat ∧
        b.vcount = x.vcount.toNat ∧ b.linesIn = 0 ∧ b.issued = 0 ∧
        t.dev.get (SEQ.STREAM_SEQ n.val) = (s.dev.get (SEQ.STREAM_SEQ n.val) + 1) % 2 ^ 32) ∧
      (s.dev.streamCond n.val x ≠ 0 → ∃ t, exec (.streamDescriptor n x) s = .next t ∧ t.mem = s.mem ∧
        t.dev.on (SEQ.STREAM_STATUS_DESC_ERR n.val) = true ∧ t.dev.eng n.val = s.dev.eng n.val ∧
        s.dev.RegsBut [(SEQ.STREAM_STATUS_DESC_ERR n.val).addr, HDMA.LINK_STATUS_L0.addr] t.dev)) ∧
    (∀ b i, (s.dev.eng n.val).stream.fetching (s.dev.stride n.val) = some (b, i) → s.dev.refillOpen n.val = true →
      b.dram = false → s.dev.hdmaRuns = true →
      s.dev.ringLive n.val = true → s.dev.mayTake poolHT n.val 1 = true → line.length = 64 → s.Inv →
      let k := b.nextBytes (s.dev.stride n.val)
      let base := (s.dev.ringRange n.val).1
      let size := (s.dev.ringRange n.val).2
      let o := (s.dev.refillAt n.val).2
      ∃ t, exec (.streamRefill n line bad) s = .next t ∧ t.mem.dram = s.mem.dram ∧ t.mem.nvm = s.mem.nvm ∧
        (∀ j, j < k → Tab.get ramByte t.mem.sram (base + (o + j) % size) = line.getD j 0) ∧
        (∀ a, (∀ j, j < k → a ≠ base + (o + j) % size) → Tab.get ramByte t.mem.sram a = Tab.get ramByte s.mem.sram a) ∧
        ((t.dev.eng n.val).stream.bufs[i]?.map fun c => c.linesIn) = some (b.linesIn + 1)) ∧
    (∀ b i, (s.dev.eng n.val).stream.fetching (s.dev.stride n.val) = some (b, i) → s.dev.refillOpen n.val = true →
      b.dram = true → s.dev.readPending n.val (b.addr + 64 * b.linesIn) = false → b.addr % 64 = 0 → s.dev.Calm →
      let ok := s.dev.dramUp = true ∧ s.dev.dramAllowed n.val (b.addr + 64 * b.linesIn) = true
      (ok → ∃ t r, exec (.streamRefill n line bad) s = .next t ∧ t.mem = s.mem ∧
        t.dev.drc.reads = s.dev.drc.reads ++ [r] ∧ r.port = n.val ∧ r.write = false ∧ r.addr = b.addr + 64 * b.linesIn ∧
        r.at_ = s.dev.elapsed ∧ t.dev.eng n.val = s.dev.eng n.val) ∧
      (¬ ok → ∃ t, exec (.streamRefill n line bad) s = .next t ∧ t.mem = s.mem ∧
        t.dev.on (SEQ.STREAM_STATUS_DESC_ERR n.val) = true ∧ t.dev.eng n.val = s.dev.eng n.val ∧
        s.dev.RegsBut [(SEQ.STREAM_STATUS_DESC_ERR n.val).addr] t.dev)))

/-- An edge that would change the ball and lies at least 128 steps after the last is placed and acts on the output; one
closer is dropped and counted; edges that change nothing only leave the queue. A strobe of a latched MATCH site gives
no result; one too close to the last, or with a comparator not ready at its open, gives NOT_MADE and its count; any
other gives the result of its symbol from the comparator levels at its open, over the window for a window compare, and
goes to the other compare unit next. (R101, R139, R141, R145, R146, R155, R163.) -/
def Obligations.EdgesAndStrobes : Prop :=
  (∀ (s : State) (ch : PhysPin), ((s.dev.pin ch.val).edges.dropWhile fun x => !(s.dev.pin ch.val).changes x.act) = [] →
    ∃ t, exec (.edgePlace ch) s = .next t ∧ t.mem = s.mem ∧ t.dev.regs = s.dev.regs ∧ (∀ p, p ≠ ch.val → t.dev.pin p = s.dev.pin p) ∧
      t.dev.pin ch.val = { s.dev.pin ch.val with edges := [] } ∧ t.dev.elapsed = s.dev.elapsed) ∧
  (∀ (s : State) (ch : PhysPin) (e : Edge) (es : List Edge),
    ((s.dev.pin ch.val).edges.dropWhile fun x => !(s.dev.pin ch.val).changes x.act) = e :: es →
    ∃ t, exec (.edgePlace ch) s = .next t ∧ t.mem = s.mem ∧
      t.dev.elapsed = max s.dev.elapsed (e.at_ / 256).toNat ∧ (t.dev.pin ch.val).edges = es ∧
      (∀ p, p ≠ ch.val → t.dev.pin p = s.dev.pin p) ∧
      ((∀ l, (s.dev.pin ch.val).lastEdge = some l → l + 128 ≤ e.at_) →
        (t.dev.pin ch.val).lastEdge = some e.at_ ∧ t.dev.regs = s.dev.regs ∧
        (e.act = .on ∨ (∃ b, e.act = .onLatch b) → (t.dev.pin ch.val).out = .drive) ∧
        (∀ b, e.act = .onLatch b ∨ e.act = .latch b → (t.dev.pin ch.val).latch = b) ∧
        (e.act = .off → (t.dev.pin ch.val).out = .off) ∧ (e.act = .term → (t.dev.pin ch.val).out = .term)) ∧
      (∀ l, (s.dev.pin ch.val).lastEdge = some l → e.at_ < l + 128 →
        (t.dev.pin ch.val).out = (s.dev.pin ch.val).out ∧ (t.dev.pin ch.val).latch = (s.dev.pin ch.val).latch ∧
        t.dev.get (TSET.EDGE_DROP e.eng) = min (2 ^ 32 - 1) (s.dev.get (TSET.EDGE_DROP e.eng) + 1) ∧
        s.dev.RegsBut [(TSET.EDGE_DROP e.eng).addr] t.dev)) ∧
  (∀ (s : State) (ch : PhysPin) (c : Cmp) (rest : List Cmp),
    ((s.dev.pin ch.val).cmps.dropWhile fun y => y.skip) = c :: rest →
    let x := s.dev.pin ch.val
    let unit := x.unit != decide ((x.cmps.takeWhile fun y => y.skip).length % 2 = 1)
    let now := s.dev.snapAt ch.val 0
    let at0 := histAt now c.s0 x.hist
    let span := histOver now c.s0 c.s1 x.hist
    let last := if unit then x.lastClose.2 else x.lastClose.1
    let m := (s.dev.eng c.eng).mat
    let latched := c.isMatch = true ∧ m.from_ ≤ c.vec ∧ m.latched.testBit c.site = true
    let busy := ∃ l, last = some l ∧ c.s0 < l + 128
    let ready := (c.sym ≠ 2 → at0.readyH = true ∧ at0.fast = true) ∧ (c.sym ≠ 3 → at0.readyL = true ∧ at0.fast = true)
    let Closes (res : List Res) (as : List Nat) : Prop :=
      ∃ t, exec (.strobeClose ch) s = .next t ∧ t.mem = s.mem ∧ (t.dev.pin ch.val).cmps = rest ∧
        (t.dev.pin ch.val).unit = !unit ∧ (t.dev.pin ch.val).res = x.res ++ res ∧
        t.dev.elapsed = max s.dev.elapsed (c.s1 / 256).toNat ∧ s.dev.RegsBut as t.dev ∧ ∀ p, p ≠ ch.val → t.dev.pin p = s.dev.pin p
    let Gives (r : CmpRes) (h l : Bool) : Prop := Closes [⟨c, r, h, l, c.s1⟩] []
    let judged (b : Bool) : CmpRes := if b then .pass else .fail
    (latched → Closes [] []) ∧
    (¬latched → busy → Closes [⟨c, .notMade, false, false, c.s1⟩] [(TSET.STROBE_DROP c.eng).addr]) ∧
    (¬latched → ¬busy → ¬ready → Closes [⟨c, .notMade, false, false, c.s1⟩] [(PINB.CMP_UNREADY (bankOf ch.val)).addr]) ∧
    (¬latched → ¬busy → ready →
      (c.sym = 8 → Gives .capture at0.ch at0.cl) ∧
      (c.window = false →
        (c.sym = 2 → Gives (judged at0.cl) at0.ch at0.cl) ∧ (c.sym = 3 → Gives (judged at0.ch) at0.ch at0.cl) ∧
        (c.sym = 5 → Gives (judged (!at0.ch && !at0.cl)) at0.ch at0.cl) ∧
        (c.sym = 6 → Gives (judged (at0.ch != at0.cl)) at0.ch at0.cl)) ∧
      (c.window = true →
        (c.sym = 2 → Gives (judged (span.all fun y => y.cl)) false (span.any fun y => !y.cl)) ∧
        (c.sym = 3 → Gives (judged (span.all fun y => y.ch)) (span.any fun y => !y.ch) false) ∧
        (c.sym = 5 → Gives (judged (span.all fun y => !y.ch && !y.cl)) (span.any fun y => y.ch) (span.any fun y => y.cl)) ∧
        (c.sym = 6 → Gives (judged (span.all fun y => y.ch || y.cl)) (span.any fun y => !y.ch && !y.cl)
          (span.any fun y => !y.ch && !y.cl)))))

/-- A result arrives 40 TCLK after its close. A pass or one not made changes nothing; a MATCH result counts for its window
and site only; a capture is recorded or counted as skipped; a fail counts for its site, engine and channel, sets the
first fail once, drops the site by FAIL_STOP or its limit at once or pending by DROP_TIMING, is recorded in LOG mode,
and leaves other sites and channels. A stored record moves to the queue and counts, with its map bit set in MAP mode,
its ECC error counted or captured; a spilled one moves to the DRAM ring. Withholding, the drain and a dump begin and
end with their status bits. (R84, R168, R172, R173, R174, R175, R176, R181, R182, R183, R184.) -/
def Obligations.ResultsAndFailMemory : Prop :=
  (∀ (s : State) (ch : PhysPin) (x : Res) (rest : List Res), (s.dev.pin ch.val).res = x :: rest →
    x.cmp.eng < 4 → x.cmp.site < 64 → x.cmp.chan < 1024 →
    let n := x.cmp.eng
    let k := x.cmp.site
    let T := max s.dev.elapsed ((x.close / 256).toNat + 40)
    let cp := x.cmp.failOp.testBit 2
    let fs := x.cmp.failOp.testBit 1
    let limit := s.dev.get (FCAP.SITE_LIMIT k)
    let count := s.dev.get (FCAP.SITE_COUNT k) + 1
    let mode := s.dev.get (FCAP.ENG_CFG_MODE n)
    let Arrives (P : Dev → Prop) : Prop :=
      ∃ t, exec (.compareResult ch) s = .next t ∧ t.mem = s.mem ∧ t.dev.elapsed = T ∧ (t.dev.pin ch.val).res = rest ∧
        (∀ p, p ≠ ch.val → t.dev.pin p = s.dev.pin p) ∧ P t.dev
    let Quiet (d : Dev) : Prop := d.regs = s.dev.regs ∧ d.fcap = s.dev.fcap
    (x.res = .notMade ∨ (x.res = .pass ∧ x.cmp.isMatch = false) ∨ (x.res = .capture ∧ x.cmp.isMatch = true) →
      Arrives fun d => Quiet d ∧ d.engs = s.dev.engs) ∧
    (x.res = .pass ∨ x.res = .fail → x.cmp.isMatch = true →
      let m := (s.dev.eng n).mat
      (x.cmp.vec < m.from_ ∨ x.close ≤ m.since ∨ m.latched.testBit k = true →
        Arrives fun d => Quiet d ∧ (d.eng n).mat = m) ∧
      (m.from_ ≤ x.cmp.vec → m.since < x.close → m.latched.testBit k = false →
        Arrives fun d => Quiet d ∧ (d.eng n).mat.compared.testBit k = true ∧ (d.eng n).mat.latched = m.latched ∧
          (d.eng n).mat.failed.testBit k = (decide (x.res = .fail) || m.failed.testBit k))) ∧
    (x.res = .capture → x.cmp.isMatch = false →
      (cp = true → mode ≤ 1 → s.dev.mayTake poolFT n 1 = true →
        Arrives fun d => d.regs = s.dev.regs ∧ (d.fc n).col.length = (s.dev.fc n).col.length + 1 ∧
          ∃ r ∈ (d.fc n).col, r.kind = 1 ∧ r.vec = x.cmp.vec ∧ r.site = k ∧ r.chan = x.cmp.chan ∧ r.at_ = T) ∧
      (cp = false ∨ 2 ≤ mode →
        Arrives fun d => d.fcap = s.dev.fcap ∧ s.dev.RegsBut [(FCAP.ENG_CAP_SKIPPED n).addr] d ∧
          d.get (FCAP.ENG_CAP_SKIPPED n) = min (2 ^ 32 - 1) (s.dev.get (FCAP.ENG_CAP_SKIPPED n) + 1))) ∧
    (x.res = .fail → x.cmp.isMatch = false →
      Arrives fun d =>
        d.get (FCAP.SITE_COUNT k) = count % 2 ^ 64 ∧ d.get (FCAP.ENG_TOTAL n) = (s.dev.get (FCAP.ENG_TOTAL n) + 1) % 2 ^ 64 ∧
        d.get (FCAP.CH_COUNT x.cmp.chan) = min (2 ^ 32 - 1) (s.dev.get (FCAP.CH_COUNT x.cmp.chan) + 1) ∧
        d.get (FCAP.FIRST_FAIL x.cmp.chan) = (if s.dev.get (FCAP.FIRST_FAIL x.cmp.chan) = 2 ^ 64 - 1 then x.cmp.vec % 2 ^ 64
          else s.dev.get (FCAP.FIRST_FAIL x.cmp.chan)) ∧
        (x.cmp.seg = s.dev.get (SEQ.SEG_NUM n) → d.siteBit FCAP.SEGF k = true) ∧
        (fs = true → d.siteBit FCAP.DROP k = true) ∧
        (fs = false → s.dev.siteBit FCAP.DROP k = false →
          (limit = 0 ∨ count < limit → d.siteBit FCAP.DROP k = false ∧ d.siteBit FCAP.PENDING k = s.dev.siteBit FCAP.PENDING k) ∧
          (limit ≠ 0 → limit ≤ count → s.dev.siteBit FCAP.PENDING k = false →
            (s.dev.on (FCAP.ENG_CFG_DROP_TIMING n) = true → d.siteBit FCAP.DROP k = true ∧ d.siteBit FCAP.PENDING k = false) ∧
            (s.dev.on (FCAP.ENG_CFG_DROP_TIMING n) = false → d.siteBit FCAP.DROP k = false ∧ d.siteBit FCAP.PENDING k = true))) ∧
        (cp = true → mode = 0 → s.dev.mayTake poolFT n 1 = true →
          (d.fc n).col.length = (s.dev.fc n).col.length + 1 ∧
            ∃ r ∈ (d.fc n).col, r.kind = 0 ∧ r.vec = x.cmp.vec ∧ r.site = k ∧ r.chan = x.cmp.chan ∧ r.at_ = T) ∧
        (cp = false ∨ mode = 2 → (d.fc n).col = (s.dev.fc n).col) ∧
        (∀ j, j < 64 → j ≠ k → d.get (FCAP.SITE_COUNT j) = s.dev.get (FCAP.SITE_COUNT j) ∧
          d.siteBit FCAP.DROP j = s.dev.siteBit FCAP.DROP j ∧ d.siteBit FCAP.SEGF j = s.dev.siteBit FCAP.SEGF j) ∧
        (∀ c, c < 1024 → c ≠ x.cmp.chan → d.get (FCAP.CH_COUNT c) = s.dev.get (FCAP.CH_COUNT c) ∧
          d.get (FCAP.FIRST_FAIL c) = s.dev.get (FCAP.FIRST_FAIL c)))) ∧
  (∀ (s : State) (n : Eng) (errors : Nat),
    let d0 := s.dev.failSpill n.val
    let f0 := d0.fc n.val
    let counts := [(FCAP.ENG_WRITTEN n.val).addr, (FCAP.ENG_WRITTEN n.val).addr + 4]
    let Stores (as : List Nat) (P : FcapSt → Prop) : Prop :=
      ∃ t, exec (.failRecordStore (n, errors)) s = .next t ∧ t.mem = s.mem ∧ d0.RegsBut as t.dev ∧ P (t.dev.fc n.val) ∧
        ∀ m, m ≠ n.val → t.dev.fc m = s.dev.fc m
    (∀ q qs, (s.dev.fc n.val).queue = q :: qs → q.spill = true → s.dev.dramUp = true → s.dev.portFree 5 = true →
      (s.dev.fc n.val).dring.length < s.dev.failRing n.val →
      s.dev.dramAllowed 5 (s.dev.get (FCAP.ENG_DRING_BASE n.val) +
        64 * ((s.dev.fc n.val).dringNext % s.dev.failRing n.val / 2)) = true →
      (s.dev.fc n.val).col = [] → s.dev.Calm →
      ∃ t, exec (.failRecordStore (n, errors)) s = .next t ∧ t.mem = s.mem ∧ t.dev.regs = s.dev.regs ∧
        (t.dev.fc n.val).queue = qs ∧ (t.dev.fc n.val).dring = (s.dev.fc n.val).dring ++ [q]) ∧
    (d0.Calm → ∀ r rest, f0.col = r :: rest → d0.blockDown 0x14 = false → errors ≤ 3 →
      let as := if errors = 0 then [] else [(HKS.SRAM_CE 1).addr]
      (r.map = none → f0.queue.length < d0.failRoom n.val →
        Stores (counts ++ as) fun f => f.col = rest ∧
          f.queue = f0.queue ++ [{ r with spill := d0.on (FCAP.ENG_CFG_SPILL_EN n.val) }] ∧ f.map = f0.map ∧ f.dring = f0.dring) ∧
      (∀ i, r.map = some i →
        Stores as fun f => f.col = rest ∧ f.queue = f0.queue ∧ (Tab.get (fun _ => 0) f.map i).testBit r.site = true ∧
          (∀ k, k ≠ r.site → (Tab.get (fun _ => 0) f.map i).testBit k = (Tab.get (fun _ => 0) f0.map i).testBit k) ∧
          ∀ j, j ≠ i → Tab.get (fun _ => 0) f.map j = Tab.get (fun _ => 0) f0.map j)) ∧
    (d0.Calm → ∀ r rest, f0.col = r :: rest → d0.blockDown 0x14 = false → 4 ≤ errors →
      r.map ≠ none ∨ f0.queue.length < d0.failRoom n.val →
      ∃ t, exec (.failRecordStore (n, errors)) s = .next t ∧ t.mem = s.mem ∧ (t.dev.fec 1).valid = true ∧
        (∀ x ∈ (t.dev.fc n.val).queue, x ∈ f0.queue) ∧ (∀ k, r.map = some k → (t.dev.fc n.val).map = f0.map))) ∧
  (∀ (s : State) (n : Eng),
    (∀ w, (s.dev.fc n.val).withheld = some w → s.dev.mayTake poolFT n.val 1 = true → s.dev.blockDown 0x14 = false →
      ∃ t, exec (.withholdingEnd n) s = .next t ∧ t.mem = s.mem ∧ (t.dev.fc n.val).withheld = none ∧
        t.dev.on (FCAP.ENG_STATUS_WITHHOLDING n.val) = false ∧
        s.dev.RegsBut [(FCAP.ENG_STATUS_WITHHOLDING n.val).addr] t.dev) ∧
    ((s.dev.fc n.val).ended = true → s.dev.resultsDone n.val = true → (s.dev.fc n.val).col = [] →
      ∃ t, exec (.runDrainComplete n) s = .next t ∧ t.mem = s.mem ∧ (t.dev.fc n.val).ended = false ∧
        (t.dev.fc n.val).withheld = none ∧ t.dev.on (FCAP.ENG_STATUS_DRAINING n.val) = false ∧
        s.dev.RegsBut [(FCAP.ENG_STATUS_DRAINING n.val).addr] t.dev) ∧
    (s.dev.hostOpen (FCAP.ENG_MAP_CTRL n.val).addr = true →
      let may := s.dev.engState n.val = seqIdle ∧ (s.dev.fc n.val).ended = false
      (may → ∃ t, exec (.dump n) s = .next t ∧ t.mem = s.mem ∧
        (t.dev.fc n.val).dumpAt = some ((s.dev.fc n.val).dumpAt.getD 0) ∧
        t.dev.on (FCAP.ENG_STATUS_DUMP_BUSY n.val) = true ∧ s.dev.RegsBut [(FCAP.ENG_STATUS_DUMP_BUSY n.val).addr] t.dev) ∧
      (¬ may → ∃ t, exec (.dump n) s = .next t ∧ t.mem = s.mem ∧ s.dev.Same t.dev)) ∧
    (∀ i, (s.dev.fc n.val).dumpAt = some i → 32768 * s.dev.get (FCAP.PART_ENG_GRAN n.val) ≤ i →
      ∃ t, exec (.dumpComplete n) s = .next t ∧ t.mem = s.mem ∧ (t.dev.fc n.val).dumpAt = none ∧
        t.dev.on (FCAP.ENG_STATUS_DUMP_BUSY n.val) = false ∧ s.dev.RegsBut [(FCAP.ENG_STATUS_DUMP_BUSY n.val).addr] t.dev))

/-- The fields of ENG_CFG are stored; MODE and MAP_CLR keep their values outside IDLE. PART_ENG answers 2, 3, 4 or 1, and
only a 1 changes the partition and empties it. (R179, R182, R107.) -/
def Obligations.FailConfigWrites : Prop :=
  ∀ (s : State) (n : Eng) (v : W32),
    (s.dev.hostOpen (FCAP.ENG_CFG_MODE n.val).addr = true →
      ∃ t, exec (.fcapCfgWrite n v) s = .next t ∧ t.mem = s.mem ∧ s.dev.Wrote [(FCAP.ENG_CFG_MODE n.val).addr] t.dev ∧
        t.dev.get (FCAP.ENG_CFG_SPILL_EN n.val) = bitsOf v.toNat 8 1 ∧
        t.dev.get (FCAP.ENG_CFG_DROP_TIMING n.val) = bitsOf v.toNat 4 1 ∧
        (s.dev.engState n.val = seqIdle → t.dev.get (FCAP.ENG_CFG_MODE n.val) = bitsOf v.toNat 0 2 ∧
          t.dev.get (FCAP.ENG_CFG_MAP_CLR n.val) = bitsOf v.toNat 9 1) ∧
        (s.dev.engState n.val ≠ seqIdle →
          t.dev.get (FCAP.ENG_CFG_MODE n.val) = s.dev.get (FCAP.ENG_CFG_MODE n.val) ∧
          t.dev.get (FCAP.ENG_CFG_MAP_CLR n.val) = s.dev.get (FCAP.ENG_CFG_MAP_CLR n.val))) ∧
    (s.dev.hostOpen (FCAP.PART_ENG_BASE n.val).addr = true →
      let range := (bitsOf v.toNat 0 5, bitsOf v.toNat 8 6)
      let Meets (m : Nat) : Prop := 0 < range.2 ∧ 0 < s.dev.get (FCAP.PART_ENG_GRAN m) ∧
        range.1 < s.dev.get (FCAP.PART_ENG_BASE m) + s.dev.get (FCAP.PART_ENG_GRAN m) ∧
        s.dev.get (FCAP.PART_ENG_BASE m) < range.1 + range.2
      let Taken : Prop := ∃ m, m < 4 ∧ m ≠ n.val ∧ Meets m
      let Refused (r : Nat) : Prop := ∃ t, exec (.failPartition n v) s = .next t ∧ t.mem = s.mem ∧
        t.dev.get (FCAP.PART_ENG_PART_RESULT n.val) = r ∧
        t.dev.get (FCAP.PART_ENG_BASE n.val) = s.dev.get (FCAP.PART_ENG_BASE n.val) ∧
        t.dev.get (FCAP.PART_ENG_GRAN n.val) = s.dev.get (FCAP.PART_ENG_GRAN n.val) ∧
        s.dev.Wrote [(FCAP.PART_ENG_BASE n.val).addr] t.dev
      (s.dev.engState n.val ≠ seqIdle → Refused 2) ∧
      (s.dev.engState n.val = seqIdle → 32 < range.1 + range.2 → Refused 3) ∧
      (s.dev.engState n.val = seqIdle → range.1 + range.2 ≤ 32 → Taken → Refused 4) ∧
      (s.dev.engState n.val = seqIdle → range.1 + range.2 ≤ 32 → ¬ Taken →
        ∃ t, exec (.failPartition n v) s = .next t ∧ t.mem = s.mem ∧ t.dev.get (FCAP.PART_ENG_PART_RESULT n.val) = 1 ∧
          t.dev.get (FCAP.PART_ENG_BASE n.val) = range.1 ∧ t.dev.get (FCAP.PART_ENG_GRAN n.val) = range.2 ∧
          (t.dev.fc n.val).queue = [] ∧ (t.dev.fc n.val).map = [] ∧ (t.dev.fc n.val).dring = (s.dev.fc n.val).dring ∧
          ((s.dev.fc n.val).queue = [] → s.dev.RegsBut [(FCAP.PART_ENG_BASE n.val).addr] t.dev)))

/-- POR resets the device; another supply out of range leaves every ball high-impedance, every comparator unpowered and no
engine running, and core or VSMC opens every SMC; the return powers the comparators and starts their settling. A
configuration write starts a settle interval of its mode's length; its end resolves each comparator by the side its
input lies on. A transition of a live comparator sets it and leaves the other, sets the selected event bit, and queues
a stamp or, within 2,622 ft of the last, loses and counts it. (R148, R157, R158, R159, R160, R161, R170, R187, R188,
R227, R342, R396.) -/
def Obligations.SuppliesAndComparators : Prop :=
  (∀ (s : State) (w : Supply),
    (w = .powerOnReset → ∃ t, exec (.supplyOutOfRange w) s = .next t ∧ t.dev.regs = Dev.reset.regs ∧ t.mem.sram = [] ∧
      t.mem.dram = [] ∧ t.mem.nvm = s.mem.nvm) ∧
    (w ≠ .powerOnReset → s.dev.Calm →
      ∃ t, exec (.supplyOutOfRange w) s = .next t ∧ t.mem = s.mem ∧ w ∈ t.dev.flt.supplyOut ∧ t.dev.elapsed = s.dev.elapsed ∧
        (∀ p, t.dev.ball p = .highZ) ∧ (∀ p ∈ allPins, (t.dev.pin p).powered = false) ∧
        (∀ n, n < 4 → s.dev.engState n = seqRunning ∨ s.dev.engState n = seqHolding ∨ s.dev.engState n = seqPaused →
          t.dev.engState n = seqIdle) ∧
        (w = .core ∨ w = .smcSupply → ∀ p, p < 256 → s.dev.Leads p → s.dev.smcState p = 2 ∨ s.dev.smcState p = 3 →
          t.dev.smcState p = 4 ∧ (t.dev.sm p).code = zeroV)) ∧
    (∀ g, s.dev.flt.gapFrom = some g → s.dev.Calm →
      ∃ t, exec .supplyReturn s = .next t ∧ t.mem.sram = s.mem.sram ∧ t.mem.nvm = s.mem.nvm ∧ t.dev.flt.supplyOut = [] ∧
        t.dev.flt.gapFrom = none ∧ t.dev.flt.gapCheck = some (g, s.dev.now) ∧
        t.mem.dram = (if Supply.dramPhy ∈ s.dev.flt.supplyOut ∧ s.dev.dramUp = true then [] else s.mem.dram) ∧
        ∀ p ∈ allPins,
          let may := s.dev.blockDown (0x20 + bankOf p) = false ∧ (s.dev.st = stDormant → s.dev.pinGet PINB.SEL_WAKE_SEL p ≠ 0)
          (may → (t.dev.pin p).powered = true) ∧ (¬ may → (t.dev.pin p).powered = (s.dev.pin p).powered) ∧
          (may → s.dev.pinOn PINB.CFG_CMP_EN p = true →
            (t.dev.pin p).high.resolved = false ∧ (t.dev.pin p).low.resolved = false ∧
            (t.dev.pin p).settle = some (s.dev.elapsed + settleTime (t.dev.pin p).mode)))) ∧
  (∀ (s : State) (ch : PhysPin),
    (∀ v : W32, s.dev.hostOpen (PINB.CFG_CMP_EN (bankOf ch.val) (pageOf ch.val)).addr = true →
      let a := (PINB.CFG_CMP_EN (bankOf ch.val) (pageOf ch.val)).addr
      let speed := bitsOf v.toNat 9 2
      let en := s.dev.pinOn PINB.CFG_CMP_EN ch.val
      (s.dev.spareBusy (bankOf ch.val) (pageOf ch.val) = true →
        ∃ t, exec (.pinConfigWrite ch v) s = .next t ∧ t.mem = s.mem ∧ s.dev.Same t.dev) ∧
      (s.dev.spareBusy (bankOf ch.val) (pageOf ch.val) = false →
        ∃ t, exec (.pinConfigWrite ch v) s = .next t ∧ t.mem = s.mem ∧
          t.dev.reg a = keepUnless (· < 5) (s.dev.reg a) 6 3 (keepUnless (· != 3) (s.dev.reg a) 0 2 v) &&& 0x3FFFF ∧
          (en = false → v.getLsbD 11 = true → (s.dev.pin ch.val).powered = true →
            (t.dev.pin ch.val).settle = some (s.dev.elapsed + settleTime speed) ∧ (t.dev.pin ch.val).mode = speed ∧
            (t.dev.pin ch.val).high.resolved = false ∧ (t.dev.pin ch.val).low.resolved = false) ∧
          (en = true → v.getLsbD 11 = true → (s.dev.pin ch.val).powered = true →
            speed ≠ s.dev.pinGet PINB.CFG_CMP_SPEED ch.val →
            (t.dev.pin ch.val).settle = some (s.dev.elapsed + settleTime speed) ∧ (t.dev.pin ch.val).mode = speed ∧
            (t.dev.pin ch.val).high = (s.dev.pin ch.val).high ∧ (t.dev.pin ch.val).low = (s.dev.pin ch.val).low) ∧
          (en = true → v.getLsbD 11 = false → (t.dev.pin ch.val).settle = none) ∧
          (en = false → v.getLsbD 11 = false → t.dev.pin ch.val = s.dev.pin ch.val))) ∧
    (∀ x (high low : Side), (s.dev.pin ch.val).settle = some x →
      ∃ t, exec (.settleEnd ch high low) s = .next t ∧ t.mem = s.mem ∧ t.dev.regs = s.dev.regs ∧
        t.dev.elapsed = max s.dev.elapsed x ∧ (t.dev.pin ch.val).settle = none ∧
        (∀ p, p ≠ ch.val → t.dev.pin p = s.dev.pin p) ∧
        ∀ b, let side := if b then low else high
          let c := (s.dev.pin ch.val).cmpOf b
          let c' := (t.dev.pin ch.val).cmpOf b
          let banded := s.dev.pinGet PINB.CFG_HYST ch.val ≠ 0
          (side ≠ .inside → c.resolved = false ∨ (s.dev.pin ch.val).modeChanged = true →
            c'.resolved = true ∧ c'.out = (decide (side = .above) != b)) ∧
          (c.resolved = true → (s.dev.pin ch.val).modeChanged = false → c' = c) ∧
          (side = .inside → banded → c' = c) ∧ (side = .inside → ¬ banded → c'.resolved = true)) ∧
    (∀ (low value : Bool) (f : BitVec 12) (raw : Nat),
      let x := s.dev.pin ch.val
      let c := x.cmpOf low
      let live := x.powered = true ∧ s.dev.pinOn PINB.CFG_CMP_EN ch.val = true ∧ x.settle = none
      let last := if low then x.lastStamp.2 else x.lastStamp.1
      let at_ := 4096 * s.dev.elapsed + f.toNat
      let streams := (s.dev.pinGet PINB.SEL_STAMP_SEL ch.val).testBit (edgeCode low value) = true ∧
        s.dev.get (PINB.STAMP_CFG (bankOf ch.val)) ≠ 0 ∧ s.dev.pinOnBus ch.val = false ∧ s.dev.st ≠ stDormant
      let evt : Fld := if ch.val < 1024 then ⟨(PINB.CMP_EVT (bankOf ch.val)).addr, ch.val % 32, 1⟩ else PINB.CMP_EVT_SP (bankOf ch.val)
      let Moves (P : Dev → Prop) : Prop :=
        ∃ t, exec (.comparatorTransition ch low value (f, raw)) s = .next t ∧ t.mem = s.mem ∧
          ((t.dev.pin ch.val).cmpOf low).out = value ∧ ((t.dev.pin ch.val).cmpOf low).resolved = true ∧
          (t.dev.pin ch.val).cmpOf (!low) = x.cmpOf (!low) ∧ P t.dev
      (¬ live → exec (.comparatorTransition ch low value (f, raw)) s = .next s) ∧
      (live → c.resolved = false → Moves fun d => d.regs = s.dev.regs ∧ (d.pin ch.val).queue = x.queue) ∧
      (live → c.resolved = true → c.out = value → exec (.comparatorTransition ch low value (f, raw)) s = .next s) ∧
      (live → c.resolved = true → c.out ≠ value →
        (s.dev.pinGet PINB.SEL_IRQ_SEL ch.val).testBit (edgeCode low value) = true → Moves fun d => d.on evt = true) ∧
      (live → c.resolved = true → c.out ≠ value → streams → (∀ l, last = some l → l + 2622 ≤ at_) → x.queue.length < 64 →
        Moves fun d => (d.pin ch.val).queue.length = x.queue.length + 1) ∧
      (live → c.resolved = true → c.out ≠ value → streams → (∀ l, last = some l → at_ < l + 2622) → last ≠ none →
        Moves fun d => (d.pin ch.val).queue = x.queue ∧
          d.get (PINB.STAMP_LOST (bankOf ch.val)) = min (2 ^ 32 - 1) (s.dev.get (PINB.STAMP_LOST (bankOf ch.val)) + 1)) ∧
      (live → c.resolved = true → c.out ≠ value → ¬ streams → Moves fun d => (d.pin ch.val).queue = x.queue)))

/-- LS_PULSE copies, clamped, exactly the shadow levels of the TCLK before it of channels whose group is pulsed and that
are not immediate, and queues one latch for each SMC of a pulsed group at its due instant; a group pulsed twice in a
TCLK counts once (the model's reading, log 108). A stamp moves from its channel to the bank's buffer, and from there
to the DRAM ring through port P6, or to the acquisition unit that takes it, waits for that unit, or is counted
outside. (R152, R165, R166, R189, R190, R211, R238, R240.) -/
def Obligations.StrobedLevelsAndStamps : Prop :=
  (∀ (s : State) (gs : BitVec 8), s.dev.hostOpen GLB.LS_PULSE.addr = true →
    let before := if s.dev.ls.at_ = s.dev.elapsed then s.dev.ls.groups else 0
    let pulsed (g : Nat) : Bool := gs.toNat.testBit g && !before.testBit g
    let due := mclkAt (s.dev.elapsed + 32)
    ∃ t, exec (.lsPulse gs) s = .next t ∧ t.mem = s.mem ∧ t.dev.elapsed = s.dev.elapsed ∧ t.dev.pins = s.dev.pins ∧
      (∀ b i j, b < 32 → i < 33 → j < 8 →
        t.dev.get (PINB.ACT_LVL b i j) =
          if pulsed (s.dev.get (PINB.CFG_LS_GRP b i)) = true ∧ s.dev.on (PINB.CFG_LS_IMM b i) = false
          then clampLevel (s.dev.on (PINB.HV_EN b)) j (regsGet s.dev.shadowRegs (PINB.LVL b i j))
          else s.dev.get (PINB.ACT_LVL b i j)) ∧
      (∀ p, p < 272 →
        let hit := pulsed (s.dev.smcGet SMCG.LS_LS_GRP p) = true ∧ s.dev.smcGet SMCG.LS_LS_IMM p = 0 ∧
          (256 ≤ p ∨ s.dev.smcLogicalOf p ≠ none)
        (hit → (t.dev.sm p).latches.map Prod.fst = (s.dev.sm p).latches.map Prod.fst ++ [due]) ∧
        (¬ hit → t.dev.sm p = s.dev.sm p)) ∧
      s.dev.RegsBut ((List.range 32).flatMap fun b => (PINB.LEVEL_CLAMP b).addr ::
        (List.range 33).flatMap fun i => (List.range 8).map fun j => (PINB.ACT_LVL b i j).addr) t.dev) ∧
  (∀ (s : State) (b : BankIx), s.dev.Calm →
    let cfg := s.dev.get (PINB.STAMP_CFG b.val)
    let d0 := s.dev.stampAdmit b.val
    let size := 4096 * s.dev.get TIA.SRING_SIZE
    let a := (s.dev.get TIA.SRING_BASE + 64 * (s.dev.tia.sringNext % size / 4)) / 64 * 64
    (cfg ∉ [1, 2] →
      ∀ i, ((turnOrder (s.dev.bank b.val).turn).find? fun k => !(s.dev.pin (physOfPage b.val k)).queue.isEmpty) = some i →
      ∀ e rest, (s.dev.pin (physOfPage b.val i)).queue = e :: rest →
      (s.dev.bank b.val).buffer.length < 1024 → s.dev.mayTake poolST b.val 1 = true →
      ∃ t, exec (.stampBufferTransfer b) s = .next t ∧ t.mem = s.mem ∧ t.dev.regs = s.dev.regs ∧
        (t.dev.bank b.val).buffer = (s.dev.bank b.val).buffer ++ [e] ∧
        (t.dev.pin (physOfPage b.val i)).queue = rest) ∧
    (∀ e rest, (d0.bank b.val).buffer = e :: rest →
      (cfg = 1 → s.dev.dramUp = true → s.dev.portFree 6 = true → s.dev.tia.sring.length < size →
        (s.dev.dramAllowed 6 (s.dev.get TIA.SRING_BASE + 64 * (s.dev.tia.sringNext % size / 4)) = true →
          ∃ t, exec (.stampBufferTransfer b) s = .next t ∧ t.mem = s.mem ∧ t.dev.regs = s.dev.regs ∧
            t.dev.tia.sring = s.dev.tia.sring ++ [e] ∧ (t.dev.bank b.val).buffer = rest ∧
            ((t.dev.drc.ported ++ t.dev.drc.writes.flatMap Prod.snd).any fun w => w.port == 6 && w.write && w.addr == a) = true) ∧
        (s.dev.dramAllowed 6 (s.dev.get TIA.SRING_BASE + 64 * (s.dev.tia.sringNext % size / 4)) = false →
          ∃ t, exec (.stampBufferTransfer b) s = .next t ∧ t.mem = s.mem ∧ (t.dev.bank b.val).buffer = rest ∧
            (t.dev.fec 1).valid = true)) ∧
      (cfg = 2 → ∀ u, d0.stampUnit b.val = some u →
        (d0.aqHolds u e = true → ∀ d1, d0.aqEnter u 16 = some d1 →
          ∃ t, exec (.stampBufferTransfer b) s = .next t ∧ t.mem = s.mem ∧ (t.dev.bank b.val).buffer = rest ∧
            t.dev.regs = s.dev.regs ∧ ((s.dev.aq u).seg = none → (t.dev.aq u).entries = (s.dev.aq u).entries ++ [e])) ∧
        (d0.aqHolds u e = true → d0.aqEnter u 16 = none →
          ∃ t, exec (.stampBufferTransfer b) s = .next t ∧ t.mem = s.mem ∧ t.dev.bank b.val = d0.bank b.val ∧
            t.dev.aqs = s.dev.aqs) ∧
        (d0.aqHolds u e = false →
          ∃ t, exec (.stampBufferTransfer b) s = .next t ∧ t.mem = s.mem ∧ (t.dev.bank b.val).buffer = rest ∧
            t.dev.get (AQ.OUTSIDE u) = min (2 ^ 32 - 1) (s.dev.get (AQ.OUTSIDE u) + 1)))))

/-- During an epoch load ARM waits for it. An ARM in the TCLK of a STOP or an earlier ARM is merged with it (log 11); ARM
of an armed measurement is counted and ignored; one judged against ends at once with 5 or 2; any other arms with its
function, its channel and its ready instant. A TDR reflection within its window and gates is appended, any other is
not; a repetition takes 1,024 TCLK, and the measurement ends at its count. (R49, R193, R198, R200, R205, R206.) -/
def Obligations.MeasurementsArmAndCount : Prop :=
  (∀ (s : State) (k : Meas), s.dev.hostOpen (TIA.M_CTRL_ARM k.val).addr = true →
    let m := s.dev.meas k.val
    let func := s.dev.get (TIA.M_CFG_FUNC k.val)
    let chA := s.dev.get (TIA.M_CH_A k.val)
    let chB := s.dev.get (TIA.M_CH_B k.val)
    let pA := s.dev.tiaBind chA
    let pB := s.dev.tiaBind chB
    let two := func = 1 ∨ func = 4
    let len := s.dev.get (TIA.M_GATE_LEN k.val)
    let now := m.armEl = s.dev.elapsed ∧ (m.armed = true ∨ m.func ≠ 0)
    let bad5 := func = 0 ∨ 7 ≤ func ∨ (func ≠ 5 ∧ s.dev.get (TIA.M_CFG_COUNT k.val) = 0) ∨ 1055 < chA ∨ 1055 < chB ∨
      (func = 5 ∧ (len = 0 ∨ s.dev.tiaTimeoutT < len))
    let bad2 := s.dev.on PLN.QUALITY_REFSTEP = true ∨
      s.dev.cmpUsable pA (decide (2 ≤ s.dev.get (TIA.M_CFG_A_EDGE k.val)) && func != 6) = false ∨
      (two ∧ s.dev.cmpUsable pB (decide (2 ≤ s.dev.get (TIA.M_CFG_B_EDGE k.val))) = false) ∨
      s.dev.pinOnBus pA = true ∨ (two ∧ s.dev.pinOnBus pB = true) ∨
      (func = 6 ∧ (s.dev.blockDown (0x20 + bankOf pA) = true ∨ (s.dev.pin pA).measure ≠ none ∨
        (s.dev.eng (s.dev.bankEng (bankOf pA))).aborted = true ∨
        (s.dev.logicalOf pA).any (fun c => s.dev.mapped c && s.dev.engState (s.dev.chanEng c) != seqIdle) = true))
    let arm := PLN.SYNC_CTRL_ARM.addr
    (s.dev.pln.epoch ≠ none →
      ∃ t, exec (.tiaArm k) s = .next t ∧ t.mem = s.mem ∧ t.dev.regs = s.dev.regs ∧ t.dev.tia = s.dev.tia ∧
        t.dev.pln = { s.dev.pln with held := s.dev.pln.held ++ [.tia k] }) ∧
    (s.dev.pln.epoch = none →
      (now → ∃ t, exec (.tiaArm k) s = .next t ∧ t.mem = s.mem ∧ s.dev.Wrote [arm] t.dev) ∧
      (¬ now → m.armed = true →
        ∃ t, exec (.tiaArm k) s = .next t ∧ t.mem = s.mem ∧
          t.dev.get TIA.ARM_IGNORED = min (2 ^ 32 - 1) (s.dev.get TIA.ARM_IGNORED + 1) ∧
          s.dev.Wrote [TIA.ARM_IGNORED.addr, arm] t.dev) ∧
      (¬ now → m.armed = false → bad5 ∨ bad2 →
        ∃ t, exec (.tiaArm k) s = .next t ∧ t.mem = s.mem ∧ (t.dev.meas k.val).armed = false ∧
          (bad5 → t.dev.get (TIA.M_STATE_LAST_STATUS k.val) = 5) ∧
          (¬ bad5 → t.dev.get (TIA.M_STATE_LAST_STATUS k.val) = 2) ∧
          t.dev.tia.results.length = s.dev.tia.results.length + 1 ∧
          (t.dev.get TIA.DONE).testBit k.val = false ∧ (t.dev.get TIA.TMO).testBit k.val = false) ∧
      (¬ now → m.armed = false → ¬ bad5 → ¬ bad2 →
        ∃ t, exec (.tiaArm k) s = .next t ∧ t.mem = s.mem ∧ (t.dev.meas k.val).armed = true ∧
          (t.dev.meas k.val).func = func ∧ (t.dev.meas k.val).open_ = none ∧ (t.dev.meas k.val).chA = pA ∧
          (t.dev.meas k.val).ready = (if s.dev.get (TIA.M_CFG_CLASS k.val) = 0 then some (s.dev.now + 16) else none) ∧
          t.dev.get (TIA.M_STATE_STATE k.val) = (if s.dev.get (TIA.M_CFG_CLASS k.val) = 0 then 2 else 1) ∧
          (t.dev.get TIA.ACTIVE).testBit k.val = true ∧ (t.dev.get TIA.DONE).testBit k.val = false ∧
          (func = 6 → (t.dev.pin pA).measure = some k.val) ∧
          t.dev.tia.results = s.dev.tia.results ∧
          s.dev.RegsBut [TIA.DONE.addr, TIA.DONE.addr + 4, TIA.TMO.addr, TIA.TMO.addr + 4, TIA.ACTIVE.addr, TIA.ACTIVE.addr + 4,
            (TIA.M_STATE_STATE k.val).addr, arm] t.dev))) ∧
  (∀ (s : State) (k : Meas) (o r : Nat), (s.dev.meas k.val).open_ = some o → (s.dev.meas k.val).armed = true →
    (s.dev.meas k.val).func = 6 →
    let m := s.dev.meas k.val
    let at_ := 4096 * (o + 1024 * m.slot + 256) + r
    let counts := r < 512 * 4096 ∧ at_ < 4096 * (o + s.dev.tiaTimeoutT) ∧ (m.gateLen = 0 ∨ at_ < 4096 * (o + m.gateLen))
    let Takes (refl : Option Nat) (vals : List Int) : Prop :=
      ∃ t, exec (.tdrRepetition k refl) s = .next t ∧ t.mem = s.mem ∧ (t.dev.meas k.val).vals = vals ∧
        (t.dev.meas k.val).slot = m.slot + 1 ∧ t.dev.get (TIA.M_STATE_DONE_REPS k.val) = vals.length % 2 ^ 16 ∧
        t.dev.elapsed = max s.dev.elapsed (s.dev.elapsedOf (o + 1024 * (m.slot + 1))) ∧
        (vals.length < m.count → (t.dev.meas k.val).armed = true ∧ t.dev.tia.results = s.dev.tia.results) ∧
        (m.count ≤ vals.length → (t.dev.meas k.val).armed = false ∧ t.dev.get (TIA.M_STATE_LAST_STATUS k.val) = 0 ∧
          (t.dev.pin m.chA).measure = none)
    (counts → Takes (some r) (m.vals ++ [(r : Int)])) ∧ (¬ counts → Takes (some r) m.vals) ∧ Takes none m.vals)

/-- STOP, the timeout and the gate's end end a measurement with status 4, 1 or 0, 3 where a frequency has too few stamps;
a STOP in the TCLK of the ARM is ignored. The gate opens at its instant with the border test of stream stamps, or ends
with 6 where it lies in the past; metrology setup takes 3,200 or 16,000 TCLK and fixes the calibration of both
channels. (R193, R194, R196, R199, R200, R201, R205.) -/
def Obligations.MeasurementsEnd : Prop :=
  ∀ (s : State) (k : Meas),
    let m := s.dev.meas k.val
    let now := m.armEl = s.dev.elapsed ∧ (m.armed = true ∨ m.func ≠ 0)
    let few := (m.stamps.filter fun x => decide (x < 4096 * s.dev.now)).length < 3
    let Ends (i : Instr) (st : Nat) (T : Nat) : Prop :=
      ∃ t, exec i s = .next t ∧ t.mem = s.mem ∧ (t.dev.meas k.val).armed = false ∧
        t.dev.get (TIA.M_STATE_STATE k.val) = 0 ∧ t.dev.get (TIA.M_STATE_LAST_STATUS k.val) = st ∧
        (t.dev.get TIA.ACTIVE).testBit k.val = false ∧ t.dev.tia.results.length = s.dev.tia.results.length + 1 ∧
        t.dev.elapsed = T ∧ (m.func = 6 → (t.dev.pin m.chA).measure = none) ∧ (m.func ≠ 6 → t.dev.pins = s.dev.pins) ∧
        s.dev.RegsBut [(TIA.M_STATE_STATE k.val).addr, TIA.ACTIVE.addr, TIA.ACTIVE.addr + 4] t.dev
    (s.dev.hostOpen (TIA.M_CTRL_STOP k.val).addr = true →
      (m.armed = true → ¬ now → Ends (.tiaStop k) (if m.func = 5 ∧ few then 3 else 4) s.dev.elapsed) ∧
      (m.armed = false ∨ now → ∃ t, exec (.tiaStop k) s = .next t ∧ t.mem = s.mem ∧ s.dev.Same t.dev)) ∧
    (m.armed = true →
      (∀ o, m.open_ = some o →
        Ends (.tiaTimeout k) 1 (max s.dev.elapsed (s.dev.elapsedOf (o + s.dev.tiaTimeoutT))) ∧
        (m.func = 5 → m.gateLen ≠ 0 →
          Ends (.tiaGateEnd k) (if m.stamps.length < 3 then 3 else 0) (max s.dev.elapsed (s.dev.elapsedOf (o + m.gateLen))))) ∧
      (∀ r, m.ready = some r → m.open_ = none →
        (m.gateStart ≠ 0 → m.gateStart < r → Ends (.tiaGateOpen k) 6 (max s.dev.elapsed (s.dev.elapsedOf r))) ∧
        (m.gateStart = 0 ∨ r ≤ m.gateStart →
          let o := if m.gateStart = 0 then r else m.gateStart
          ∃ t, exec (.tiaGateOpen k) s = .next t ∧ t.mem = s.mem ∧ t.dev.elapsed = max s.dev.elapsed (s.dev.elapsedOf o) ∧
            t.dev.meas k.val = { m with open_ := some o, border := (t.dev.meas k.val).border } ∧
            (m.cls = 0 → (t.dev.meas k.val).border = (m.border ||
              m.prior.any fun x => decide (((x.2.2.2 : Int) - 4096 * o).natAbs ≤ 99))) ∧
            t.dev.get (TIA.M_STATE_STATE k.val) = 3 ∧ s.dev.RegsBut [(TIA.M_STATE_STATE k.val).addr] t.dev)) ∧
      (∀ (sums : Option ((Nat × Nat) × (Nat × Nat))), m.cls = 1 → m.ready = none →
        ∃ t, exec (.tiaSetupEnd k sums) s = .next t ∧ t.mem = s.mem ∧
          t.dev.elapsed = max s.dev.elapsed (s.dev.elapsedOf (m.armAt + if sums.isSome then 3200 else 16000)) ∧
          t.dev.meas k.val = { m with
            ready := some t.dev.now, calA := (sums.getD (m.calA, m.calB)).1, calB := (sums.getD (m.calA, m.calB)).2
            calStream := sums.isNone || decide (m.armAt + 16000 < s.dev.now) } ∧
          t.dev.get (TIA.M_STATE_STATE k.val) = 2 ∧ s.dev.RegsBut [(TIA.M_STATE_STATE k.val).addr] t.dev))

/-- A result sets DONE and TMO, its eight dwords and a FIFO entry unless the FIFO is full, which is counted; RES_FIFO pops
dword by dword, reads 0 when empty, and refuses partial reads; a read of RES_0 fixes the other seven. (R203, R204.) -/
def Obligations.ResultsAreRead : Prop :=
  ∀ (s : State) (k : Meas),
    (∀ r, (s.dev.tia.results.find? fun x => x.k == k.val) = some r →
      ∃ t, exec (.tiaResult k) s = .next t ∧ t.mem = s.mem ∧ (t.dev.get TIA.DONE).testBit k.val = true ∧
        (r.status = 1 → (t.dev.get TIA.TMO).testBit k.val = true) ∧ t.dev.tia.results = s.dev.tia.results.erase r ∧
        (∀ j, j < 8 → t.dev.reg (TIA.M_RES k.val j).addr = BitVec.ofNat 32 (ofLeBytes ((r.bytes.drop (4 * j)).take 4))) ∧
        (s.dev.tia.fifo.length < 256 → ∃ x, t.dev.tia.fifo = s.dev.tia.fifo ++ [x] ∧ x.length = 8) ∧
        (256 ≤ s.dev.tia.fifo.length → t.dev.tia.fifo = s.dev.tia.fifo ∧
          t.dev.get TIA.RES_LOST = min (2 ^ 32 - 1) (s.dev.get TIA.RES_LOST + 1))) ∧
    (∀ x rest, s.dev.host.memEn = true → s.dev.served 10 = true → s.dev.tia.fifo = x :: rest →
      ∃ t, exec (.resFifoPop 15) s = .next t ∧ t.mem = s.mem ∧ t.dev.regs = s.dev.regs ∧
        t.dev.readBack TIA.RES_FIFO.addr = x.getD s.dev.tia.popped 0 ∧
        (s.dev.tia.popped = 7 → t.dev.tia.fifo = rest ∧ t.dev.tia.popped = 0) ∧
        (s.dev.tia.popped ≠ 7 → t.dev.tia.fifo = s.dev.tia.fifo ∧ t.dev.tia.popped = s.dev.tia.popped + 1)) ∧
    (∀ be : BitVec 4, s.dev.host.memEn = true → s.dev.served 10 = true →
      (be = 15 → s.dev.tia.fifo = [] → ∃ t, exec (.resFifoPop be) s = .next t ∧ t.mem = s.mem ∧ t.dev.regs = s.dev.regs ∧
        t.dev.readBack TIA.RES_FIFO.addr = 0 ∧ t.dev.tia = s.dev.tia) ∧
      (be ≠ 15 → ∃ t, exec (.resFifoPop be) s = .next t ∧ t.mem = s.mem ∧ s.dev.Same t.dev ∧
        ((s.dev.fec 3).valid = false → (t.dev.fec 3).det = 0x3006))) ∧
    (s.dev.host.memEn = true → s.dev.served 10 = true →
      ∃ t, exec (.resSnapshot k) s = .next t ∧ t.mem = s.mem ∧ t.dev.regs = s.dev.regs ∧
        ∀ j n, 1 ≤ j → j ≤ 7 → (t.dev.pass n).readBack (TIA.M_RES k.val j).addr = s.dev.view (TIA.M_RES k.val j).addr)

/-- OUT_EN on closes an open switch in 16,000 TCLK with the source at zero, pends in RAMP or OPENING, and is refused in
SAFE_HOLD, with a supply out or its block down; with an OFF in the same MCLK the OFF wins. OFF ramps down, opens,
cancels, or waits for a handover. A closed switch becomes ACTIVE, or opens where an OFF came; an opened switch is
OPEN, or closes again where an ON is pending. (R223, R224, R225.) -/
def Obligations.SwitchesFollowOutEn : Prop :=
  ∀ (s : State) (c : PhysSmc), s.dev.Leads c.val →
    let x := s.dev.sm c.val
    let st := s.dev.smcState c.val
    let up (d : Dev) : Prop := d.flt.safeHold = false ∧ d.flt.supplyOut = [] ∧ d.blockDown (smcBlock c.val) = false
    let Enables (i : Instr) : Prop :=
      ∃ t, exec i s = .next t ∧ t.mem = s.mem ∧ t.dev.smcState c.val = 1 ∧ t.dev.smcGet SMCG.OUT_PENDING_ON c.val = 0 ∧
        (t.dev.sm c.val).code = zeroOf (s.dev.smcMode c.val) ∧ (t.dev.sm c.val).switchAt = t.dev.elapsed + 16000
    (st = 1 →
      ∃ t, exec (.switchClosed c) s = .next t ∧ t.mem = s.mem ∧ t.dev.elapsed = max s.dev.elapsed x.switchAt ∧
        (x.offDue = false → t.dev.smcState c.val = 2 ∧ (t.dev.sm c.val).code = x.code ∧ (t.dev.sm c.val).stepDue = t.dev.elapsed) ∧
        (x.offDue = true → t.dev.smcState c.val = 4 ∧ (t.dev.sm c.val).code = zeroV ∧
          (t.dev.sm c.val).switchAt = t.dev.elapsed + 16000)) ∧
    (st = 4 →
      (s.dev.smcGet SMCG.OUT_PENDING_ON c.val = 0 ∨ ¬ up s.dev →
        ∃ t, exec (.switchOpened c) s = .next t ∧ t.mem = s.mem ∧ t.dev.smcState c.val = 0 ∧
          t.dev.elapsed = max s.dev.elapsed x.switchAt ∧ t.dev.smcGet SMCG.OUT_PENDING_ON c.val = 0 ∧
          (s.dev.smcGet SMCG.OUT_PENDING_ON c.val = 1 → t.dev.smcGet SMCG.OUT_OUT_EN c.val = 0) ∧
          (t.dev.sm c.val).code = zeroOf (s.dev.smcMode c.val)) ∧
      (s.dev.smcGet SMCG.OUT_PENDING_ON c.val = 1 → up s.dev → Enables (.switchOpened c))) ∧
    (s.dev.hostOpen (SMCG.OUT_OUT_EN (groupOf c.val) (smcPage c.val)).addr = true →
      (s.dev.smcSpareBusy (groupOf c.val) (smcPage c.val) = true →
        (∃ t, exec (.outEnOn c) s = .next t ∧ t.mem = s.mem ∧ s.dev.Same t.dev) ∧
        ∃ t, exec (.outEnOff c) s = .next t ∧ t.mem = s.mem ∧ s.dev.Same t.dev) ∧
      (s.dev.smcSpareBusy (groupOf c.val) (smcPage c.val) = false →
        let now := ∃ a, x.offReq = some a ∧ a / 20 = s.dev.elapsed / 20
        (¬ up s.dev → ∃ t, exec (.outEnOn c) s = .next t ∧ t.mem = s.mem ∧ s.dev.Still t.dev ∧
          t.dev.smcGet SMCG.OUT_OUT_EN c.val = 0 ∧ t.dev.smcState c.val = st) ∧
        (up s.dev → now → ∃ t, exec (.outEnOn c) s = .next t ∧ t.mem = s.mem ∧ s.dev.Same t.dev) ∧
        (up s.dev → ¬ now →
          (st = 0 → s.dev.smcGet SMCG.OUT_PENDING_ON c.val = 0 → Enables (.outEnOn c)) ∧
          (st = 1 ∨ st = 2 → ∃ t, exec (.outEnOn c) s = .next t ∧ t.mem = s.mem ∧ t.dev.smcState c.val = st ∧
            t.dev.smcGet SMCG.OUT_OUT_EN c.val = 1 ∧ t.dev.sm c.val = x) ∧
          (st = 3 ∨ st = 4 → ∃ t, exec (.outEnOn c) s = .next t ∧ t.mem = s.mem ∧ t.dev.smcState c.val = st ∧
            t.dev.smcGet SMCG.OUT_OUT_EN c.val = 1 ∧ t.dev.smcGet SMCG.OUT_PENDING_ON c.val = 1 ∧ t.dev.sm c.val = x)) ∧
        (st = 0 ∨ s.dev.smcHanding c.val = false →
          ∃ t, exec (.outEnOff c) s = .next t ∧ t.mem = s.mem ∧ t.dev.elapsed = s.dev.elapsed ∧
            t.dev.smcGet SMCG.OUT_OUT_EN c.val = 0 ∧ (t.dev.sm c.val).offReq = some s.dev.elapsed ∧
            (st = 0 → t.dev.smcState c.val = 0) ∧
            (st = 1 → x.offDue = false → x.switchAt / 20 = (s.dev.elapsed + 16000) / 20 → t.dev.smcState c.val = 0) ∧
            (st = 1 → x.offDue = false → x.switchAt / 20 ≠ (s.dev.elapsed + 16000) / 20 → t.dev.smcState c.val = 1 ∧
              (t.dev.sm c.val).offDue = true ∧ t.dev.smcGet SMCG.OUT_OFF_CAUSE c.val = 1) ∧
            (st = 2 → t.dev.smcState c.val = (if forceKind (s.dev.smcMode c.val) = 0 ∧ x.code = zeroV then 4 else 3) ∧
              t.dev.smcGet SMCG.OUT_OFF_CAUSE c.val = 1 ∧ (t.dev.sm c.val).code = x.code) ∧
            (st = 3 ∨ st = 4 → t.dev.smcState c.val = st ∧ t.dev.smcGet SMCG.OUT_PENDING_ON c.val = 0)) ∧
        (st ≠ 0 → s.dev.smcHanding c.val = true →
          ∃ t, exec (.outEnOff c) s = .next t ∧ t.mem = s.mem ∧ t.dev.smcGet SMCG.OUT_OUT_EN c.val = 0 ∧
            t.dev.smcState c.val = st ∧ (t.dev.sm c.val).offHeld ≠ none ∧ (t.dev.sm c.val).code = x.code)))

/-- A latch of a gang member is dropped; a refused range change counts RANGE_REFUSED; any other latch takes mode and force
and fixes the code by state and kind. A slew step moves the code toward its target by its step and sets the next due
time; a shutdown ramps to zero volts and then opens. The DDS plays phase by phase on its grid and stops at a half
period with its offset. (R211, R212, R213, R214.) -/
def Obligations.SourcesMove : Prop :=
  ∀ (s : State) (c : PhysSmc) (m : BitVec 20),
    let x := s.dev.sm c.val
    let st := s.dev.smcState c.val
    (∀ due ws rest, x.latches = (due, ws) :: rest → s.dev.isMember c.val = true →
      ∃ t, exec (.smcLatch c m) s = .next t ∧ t.mem = s.mem ∧ t.dev.regs = s.dev.regs ∧
        t.dev.sm c.val = { x with latches := rest } ∧ t.dev.elapsed = max s.dev.elapsed due) ∧
    (s.dev.Leads c.val →
      (∀ due ws rest, x.latches = (due, ws) :: rest →
        let w := s.dev.smcLatched c.val ws
        let m0 := s.dev.smcMode c.val
        let m1 := w 0 % 8
        let r0 := s.dev.smcGet SMCG.ACT_MODE_IRANGE c.val
        let r1 := bitsOf (w 0) 4 3
        let refused := r0 ≠ r1 ∧ (1 < (s.dev.gangOf c.val).length ∨ (st = 2 ∧ isFi m0 = true ∧ isFi m1 = true ∧
          524288 * rangeNa r1 < ((x.code : Int) - 524288).natAbs * rangeNa r0))
        (refused →
          ∃ t, exec (.smcLatch c m) s = .next t ∧ t.mem = s.mem ∧ t.dev.sm c.val = { x with latches := rest } ∧
            t.dev.elapsed = max s.dev.elapsed due ∧
            t.dev.get (SMCG.RANGE_REFUSED (groupOf c.val)) =
              min (2 ^ 32 - 1) (s.dev.get (SMCG.RANGE_REFUSED (groupOf c.val)) + 1) ∧
            s.dev.RegsBut [(SMCG.RANGE_REFUSED (groupOf c.val)).addr] t.dev) ∧
        (¬ refused →
          ∃ t, exec (.smcLatch c m) s = .next t ∧ t.mem = s.mem ∧ t.dev.elapsed = max s.dev.elapsed due ∧
            (t.dev.sm c.val).latches = rest ∧ t.dev.smcMode c.val = m1 ∧ t.dev.smcState c.val = st ∧
            t.dev.smcGet SMCG.ACT_FORCE c.val = clampForce (s.dev.smcHv c.val) m1 (w 1 % 2 ^ 20) ∧
            (st ≤ 1 → (t.dev.sm c.val).code = if forceKind m0 = forceKind m1 then x.code else zeroOf m1) ∧
            (st = 2 → (t.dev.sm c.val).code =
              if forceKind m0 ≠ forceKind m1 then (if isFn m1 = true then x.code else m.toNat)
              else if isFi m1 = true ∧ r0 ≠ r1 then min 0xFFFFF (rescale x.code (rangeNa r0) (rangeNa r1)).toNat
              else x.code))) ∧
      (st = 2 → s.dev.smcHeld c.val = false → x.dds = .off ∨ x.dds = .toOffset → x.code ≠ s.dev.smcTarget c.val →
        ∃ t, exec (.slewStep c m) s = .next t ∧ t.mem = s.mem ∧ t.dev.elapsed = max s.dev.elapsed x.stepDue ∧
          (t.dev.sm c.val).code = stepToward x.code (s.dev.smcTarget c.val) (s.dev.smcSlew c.val).1 ∧
          (t.dev.sm c.val).stepDue = t.dev.elapsed + (s.dev.smcSlew c.val).2 * 800 ∧ t.dev.smcState c.val = 2) ∧
      (st = 3 →
        let step := (s.dev.smcSlew c.val).1
        let Ramps (code : Nat) : Prop :=
          ∃ t, exec (.slewStep c m) s = .next t ∧ t.mem = s.mem ∧ t.dev.elapsed = max s.dev.elapsed x.stepDue ∧
            (t.dev.sm c.val).code = code ∧
            t.dev.smcState c.val = (if (t.dev.sm c.val).ramp = .voltage ∧ code = zeroV then 4 else 3)
        (x.ramp = .voltage → Ramps (stepToward x.code zeroV step)) ∧
        (x.ramp = .convert → Ramps (stepToward m.toNat zeroV step)) ∧
        (x.ramp = .current → Ramps (if stepToward x.code zeroI step = zeroI then m.toNat else stepToward x.code zeroI step))) ∧
      (st ≠ 3 → (st ≠ 2 ∨ s.dev.smcHeld c.val = true ∨ x.code = s.dev.smcTarget c.val) →
        exec (.slewStep c m) s = .next s) ∧
      (st = 2 → s.dev.smcHeld c.val = false →
        let ftw := s.dev.smcGet SMCG.ACT_DDS_FTW c.val + 2 ^ 32 * s.dev.smcGet SMCG.ACT_DDS_FTW_HI c.val
        let next := (x.phase + ftw) % 2 ^ 48
        let crosses := next / 2 ^ 47 ≠ x.phase / 2 ^ 47
        let Plays (phase code : Nat) (dds : DdsSt) : Prop := ∃ t, exec (.ddsUpdate c) s = .next t ∧ t.mem = s.mem ∧
          (t.dev.sm c.val).phase = phase ∧ (t.dev.sm c.val).dds = dds ∧ (t.dev.sm c.val).code = code ∧
          t.dev.elapsed % 800 = 0 ∧ x.ddsLast < t.dev.elapsed ∧ s.dev.elapsed ≤ t.dev.elapsed ∧ t.dev.smcState c.val = 2
        (x.dds = .waits → Plays 0 (s.dev.ddsCode c.val 0).1 .runs) ∧
        (x.dds = .runs → Plays next (s.dev.ddsCode c.val next).1 .runs) ∧
        (x.dds = .stopping → ¬ crosses → Plays next (s.dev.ddsCode c.val next).1 .stopping) ∧
        (x.dds = .stopping → crosses →
          Plays next (clampForce (s.dev.smcHv c.val) (s.dev.smcMode c.val) (s.dev.smcGet SMCG.ACT_DDS_OFFSET c.val)) .off)))

/-- A conversion shows its readings, counts into its average and adds its charge with the residual kept; a monitor beyond
its threshold for its debounce sets its flag, its event bit and its action. A clamp sets its bit 1 microsecond back
and clears it with its time added; the clamp timeout with OFF selected shuts the leader down with cause 3. A clamp
does nothing in the voltage ramp of a shutdown. (R217, R218, R220, R228.) -/
def Obligations.ConversionsAndClamps : Prop :=
  ∀ (s : State) (c : PhysSmc) (v i : BitVec 18) (fc : Int),
    let x := s.dev.sm c.val
    let lead := s.dev.leaderOf c.val
    let clamped := s.dev.smcBit c.val (SMCG.CLAMPED (groupOf c.val))
    (∃ t, exec (.conversion c v i fc) s = .next t ∧ t.mem = s.mem ∧ (t.dev.sm c.val).lastV = v.toInt ∧
      (t.dev.sm c.val).lastI = i.toInt ∧ (t.dev.sm c.val).convAt = t.dev.elapsed ∧
      t.dev.elapsed = max s.dev.elapsed (x.convAt + 20 * s.dev.smcGet SMCG.CONV_CONV_DIV lead) ∧
      (∀ l, s.dev.meterOf c.val = some l → l < 256 →
        t.dev.get (SMCG.CHARGE (l / 16) (l % 16)) =
          unsignedOf 64 (s.dev.get (SMCG.CHARGE (l / 16) (l % 16)) + ((s.dev.sm l).residual + fc) / 1000) ∧
        (t.dev.sm l).residual = ((s.dev.sm l).residual + fc) % 1000) ∧
      (lead ≠ c.val → (t.dev.sm c.val).mons = x.mons ∧ (t.dev.sm c.val).avgN = x.avgN) ∧
      (s.dev.Leads c.val → c.val < 256 →
        let n := 2 ^ min 10 (s.dev.smcGet SMCG.CONV_AVG c.val)
        (n ≤ x.avgN + 1 → (t.dev.sm c.val).avgN = 0 ∧
          t.dev.smcGet SMCG.MEAS_V c.val = unsignedOf 24 (meanOf (x.sumV + v.toInt) n) ∧
          t.dev.smcGet SMCG.MEAS_STAMP c.val = t.dev.now % 2 ^ 64) ∧
        (x.avgN + 1 < n → (t.dev.sm c.val).avgN = x.avgN + 1 ∧ (t.dev.sm c.val).sumV = x.sumV + v.toInt ∧
          t.dev.smcGet SMCG.MEAS_V c.val = s.dev.smcGet SMCG.MEAS_V c.val))) ∧
    (s.dev.Leads c.val → c.val < 256 → s.dev.smcGet SMCG.CARRY_ON_BUS c.val = 0 →
      ∀ q rest, x.mons = q :: rest → q.flag = false →
      signedOf 18 (s.dev.get (SMCG.TH (groupOf c.val) (smcPage c.val) 0)) < v.toInt →
      max 1 (s.dev.smcGet SMCG.MON_MON_DEB c.val) ≤ q.run + 1 →
      ∃ t, exec (.conversion c v i fc) s = .next t ∧ ((t.dev.sm c.val).mons.head?.map fun y => y.flag) = some true ∧
        t.dev.on (s.dev.smcBit c.val (SMCG.MON_EVT (groupOf c.val))) = true ∧
        (bitsOf (s.dev.smcGet SMCG.MON_MON_ACT c.val) 0 2 = 1 → t.dev.smcGet SMCG.OUT_OUT_EN c.val = 0)) ∧
    (x.clamp = none → s.dev.smcForces lead ≠ 2 →
      ∃ t, exec (.clampEngage c true) s = .next t ∧ t.mem = s.mem ∧
        (t.dev.sm c.val).clamp = some (s.dev.elapsed - usTclk) ∧ t.dev.on clamped = true ∧
        s.dev.RegsBut [(SMCG.CLAMPED (groupOf c.val)).addr] t.dev) ∧
    ((x.clamp ≠ none ∨ s.dev.smcForces lead = 2) → exec (.clampEngage c true) s = .next s) ∧
    (x.clamp = none → exec (.clampEngage c false) s = .next s) ∧
    (∀ a, x.clamp = some a →
      (∃ t, exec (.clampEngage c false) s = .next t ∧ t.mem = s.mem ∧ (t.dev.sm c.val).clamp = none ∧ t.dev.on clamped = false ∧
        (c.val < 256 → s.dev.smcLogicalOf c.val = some c.val →
          t.dev.get (SMCG.CLAMP_TIME (groupOf c.val) (smcPage c.val)) =
            min (2 ^ 32 - 1) (s.dev.get (SMCG.CLAMP_TIME (groupOf c.val) (smcPage c.val)) +
              (s.dev.elapsed - usTclk - x.clampFrom) / usTclk) ∧
          s.dev.RegsBut [(SMCG.CLAMPED (groupOf c.val)).addr, (SMCG.CLAMP_TIME (groupOf c.val) (smcPage c.val)).addr] t.dev)) ∧
      let due := a + usTclk * s.dev.smcGet SMCG.CLAMP_CLAMP_T lead
      (s.dev.smcGet SMCG.CLAMP_CLAMP_ACT lead = 1 → s.dev.Leads lead → s.dev.smcState lead = 2 →
        (s.dev.until due).smcHanding lead = false →
        ∃ t, exec (.clampTimeout c) s = .next t ∧ t.mem = s.mem ∧ t.dev.elapsed = max s.dev.elapsed due ∧
          t.dev.smcGet SMCG.OUT_OUT_EN lead = 0 ∧ t.dev.smcGet SMCG.OUT_OFF_CAUSE lead = 3 ∧
          (t.dev.smcState lead = 3 ∨ t.dev.smcState lead = 4)) ∧
      (s.dev.smcGet SMCG.CLAMP_CLAMP_ACT lead ≠ 1 → exec (.clampTimeout c) s = .next s))

/-- A software pulse drives an owned line for its width, extending a pulse in progress, and leaves a line that is not
owned, which is an FC3 detection; its end releases the line; a readback that differs sets CONTEND; a transition is
stamped, or lost and counted within 32,768 fine ticks of the last. (R231, R232, R233.) -/
def Obligations.TriggerLines : Prop :=
  ∀ (s : State) (n : Line), let d := s.dev; let l := s.dev.line n.val
    (∀ ls : BitVec 8, d.hostOpen TRG.SW_PULSE.addr = true →
      ∃ t, exec (.swPulse ls) s = .next t ∧ t.mem = s.mem ∧ d.Wrote [] { t.dev with trg := d.trg } ∧
        (ls.getLsbD n.val = true → d.ownsLine n.val = true → d.blockDown 9 = false →
          t.dev.line n.val =
            (if l.driven then { l with pulseEnd := max l.pulseEnd (d.elapsed + d.get (TRG.WIDTH n.val)) }
             else { l with driven := true, pulseEnd := d.elapsed + d.get (TRG.WIDTH n.val), checks := l.checks ++ [d.elapsed] })) ∧
        (ls.getLsbD n.val = false ∨ d.ownsLine n.val = false ∨ d.blockDown 9 = true → t.dev.line n.val = l) ∧
        ((d.fec 3).valid = false → d.gdPending 9 = none → (∃ k, k < 8 ∧ ls.getLsbD k = true ∧ d.ownsLine k = false) →
          (t.dev.fec 3).det = 0x3003)) ∧
    (l.driven = false → exec (.trigPulseEnd n) s = .next s) ∧
    (l.driven = true →
      ∃ t, exec (.trigPulseEnd n) s = .next t ∧ t.mem = s.mem ∧ t.dev.regs = d.regs ∧
        t.dev.elapsed = max d.elapsed l.pulseEnd ∧
        t.dev.line n.val = { l with driven := false, checks := l.checks ++ [t.dev.elapsed] }) ∧
    (l.checks = [] → ∀ got, exec (.contendCheck n got) s = .next s) ∧
    (∀ x rest, l.checks = x :: rest → ∀ got : Bool,
      ∃ t, exec (.contendCheck n got) s = .next t ∧ t.mem = s.mem ∧ t.dev.line n.val = { l with checks := rest } ∧
        t.dev.elapsed = max d.elapsed (x + 16) ∧
        (t.dev.get TRG.STATUS_CONTEND).testBit n.val =
          ((d.get TRG.STATUS_CONTEND).testBit n.val || d.ownsLine n.val && got != l.driven) ∧
        d.RegsBut [TRG.STATUS_CONTEND.addr] t.dev) ∧
    (∀ f, exec (.trigTransition n l.level f) s = .next s) ∧
    (∀ f : BitVec 12,
      let at_ := 4096 * d.elapsed + f.toNat
      let lost := l.lastStamp.any fun x => decide (at_ < x + 32768)
      let stamped := d.st != stDormant && !d.blockDown 9 && !lost
      ∃ t, exec (.trigTransition n (!l.level) f) s = .next t ∧ t.mem = s.mem ∧ t.dev.elapsed = d.elapsed ∧
        t.dev.line n.val = { l with level := !l.level, hist := (t.dev.line n.val).hist
                                    lastStamp := if stamped then some at_ else l.lastStamp
                                    gap := if stamped then false
                                      else l.gap || d.st != stDormant && !d.blockDown 9 && lost } ∧
        t.dev.get TRG.LOST =
          (if d.st != stDormant && !d.blockDown 9 && lost then min (2 ^ 32 - 1) (d.get TRG.LOST + 1) else d.get TRG.LOST) ∧
        d.RegsBut [TRG.LOST.addr] t.dev)

/-- ARM waits for an epoch load, is ignored while armed, answers 2, 3 or 4, or arms with 1 and enters DEAD with its
counters cleared; a software trigger is queued with its skew in a running unit; DISARM, unless an ARM of the same CCLK
was refused or taken later, ends the run in IDLE and closes the open segment. A configuration value the unit takes is
stored, any other leaves the register. PART answers 2, 3, 4 or 1, and only a 1 changes it. The order of commands
within a CCLK period is log 11's. (R49, R107, R234, R239, R241, R244, R248.) -/
def Obligations.AcquisitionCommands : Prop :=
  (∀ (s : State) (u : UnitIx), let d := s.dev; let a := s.dev.aq u.val
    let Only (i : Instr) (as : List Nat) (P : Dev → Prop) : Prop := ∃ t, exec i s = .next t ∧ t.mem = s.mem ∧ P t.dev ∧
      d.Wrote as { t.dev with aqs := d.aqs } ∧ ∀ w, w ≠ u.val → t.dev.aq w = d.aq w
    let Keeps (d' : Dev) : Prop := d'.aq u.val = { a with cmds := (d'.aq u.val).cmds }
    let armed := [(AQ.STATUS_STATE u.val).addr, (AQ.ARM_NUM u.val).addr, PLN.SYNC_CTRL_ARM.addr]
    (d.hostOpen (AQ.CTRL_ARM u.val).addr = true →
      (d.pln.epoch.isSome = true → ∃ t, exec (.acqArm u) s = .next t ∧ t.mem = s.mem ∧
        t.dev.pln = { d.pln with held := d.pln.held ++ [.acq u] } ∧ d.Same { t.dev with pln := d.pln }) ∧
      (d.pln.epoch = none →
        (d.aqState u.val = aqReset ∨ d.aqRuns u.val = true → Only (.acqArm u) [PLN.SYNC_CTRL_ARM.addr] fun d' =>
          d'.aqState u.val = d.aqState u.val ∧ Keeps d') ∧
        (d.aqQuiet u.val = true →
          let refused (r : Nat) := Only (.acqArm u) [(AQ.STATUS_ARM_RESULT u.val).addr, PLN.SYNC_CTRL_ARM.addr] fun d' =>
            d'.get (AQ.STATUS_ARM_RESULT u.val) = r ∧ d'.aqState u.val = d.aqState u.val ∧ Keeps d'
          (d.aqConfigOk u.val = false → refused 2) ∧
          (d.aqConfigOk u.val = true → d.aqClaimed u.val = true → refused 3) ∧
          (d.aqConfigOk u.val = true → d.aqClaimed u.val = false → d.on PLN.QUALITY_REFSTEP = true → refused 4) ∧
          (d.aqConfigOk u.val = true → d.aqClaimed u.val = false → d.on PLN.QUALITY_REFSTEP = false →
            Only (.acqArm u) armed fun d' =>
              d'.get (AQ.STATUS_ARM_RESULT u.val) = 1 ∧ d'.aqState u.val = aqDead ∧ d'.get (AQ.STATUS_SEG u.val) = 0 ∧
              d'.on (AQ.STATUS_POST_DONE u.val) = false ∧ d'.on (AQ.STATUS_SUPP u.val) = false ∧
              d'.get (AQ.ARM_NUM u.val) = (d.get (AQ.ARM_NUM u.val) + 1) % 2 ^ (AQ.ARM_NUM u.val).w ∧
              (d'.aq u.val).samples = [] ∧ (d'.aq u.val).entries = [] ∧ (d'.aq u.val).done = a.done ∧
              ((d.aqCmds u.val).trigs = [] → (d'.aq u.val).trigs = []) ∧
              (d.aqFree u.val = true → (d'.aq u.val).dead = some (d'.aq u.val).next) ∧
              (d.aqFree u.val = false → (d'.aq u.val).dead = none))))) ∧
    (d.hostOpen (AQ.CTRL_TRIGGER u.val).addr = true → Only (.acqTrigger u) [] fun d' =>
      d'.aq u.val = { a with
        cmds := (d'.aq u.val).cmds
        trigs := if d.aqRuns u.val then
            insertTrig ⟨4096 * d.now + signedOf 16 (d.get (AQ.TRIG_SKEW u.val)), 0, 8192⟩ a.trigs
          else a.trigs }) ∧
    (d.hostOpen (AQ.CTRL_DISARM u.val).addr = true →
      (d.aqCmds u.val).arm ≠ 1 → (d.aqCmds u.val).arm ≠ 2 →
        (d.aqState u.val = aqIdle ∨ d.aqState u.val = aqReset →
          ∃ t, exec (.acqDisarm u) s = .next t ∧ t.mem = s.mem ∧ d.Same t.dev) ∧
        (d.aqState u.val ≠ aqIdle → d.aqState u.val ≠ aqReset →
          ∃ t, exec (.acqDisarm u) s = .next t ∧ t.mem = s.mem ∧ t.dev.aqState u.val = aqIdle ∧
            (t.dev.aq u.val).seg = none ∧ (t.dev.aq u.val).trigs = [] ∧ (t.dev.aq u.val).samples = [] ∧
            (t.dev.aq u.val).entries = [] ∧ (t.dev.aq u.val).fill = 0 ∧ (∀ w, w ≠ u.val → t.dev.aq w = d.aq w) ∧
            (t.dev.aq u.val).done.length = a.done.length + bit a.seg.isSome ∧
            d.RegsBut [(AQ.STATUS_STATE u.val).addr, (AQ.OUTSIDE u.val).addr] t.dev)) ∧
    (d.hostOpen (AQ.CTRL_DISARM u.val).addr = true → (d.aqCmds u.val).arm = 1 →
      ∃ t, exec (.acqDisarm u) s = .next t ∧ t.mem = s.mem ∧ d.Same t.dev)) ∧
  (∀ (s : State) (u : UnitIx) (off : BitVec 8) (v : W32) (r : RegRow) (w : Window) (n i j addr : Nat) (c : Bool),
    decodeReg (0xB0000 + 0x2000 * u.val + off.toNat) = .reg r w n i j addr c → isAcqConfig (off.toNat / 4 * 4) = true →
    s.dev.hostOpen addr = true →
    (∀ x, s.dev.taken 0x18 u.val i (off.toNat / 4 * 4) (s.dev.reg addr) v = some x →
      ∃ t, exec (.acqConfigWrite u off v) s = .next t ∧ t.mem = s.mem ∧ t.dev.reg addr = r.stores (s.dev.reg addr) x ∧
        s.dev.Wrote [addr] t.dev) ∧
    (s.dev.taken 0x18 u.val i (off.toNat / 4 * 4) (s.dev.reg addr) v = none →
      ∃ t, exec (.acqConfigWrite u off v) s = .next t ∧ t.mem = s.mem ∧ s.dev.Same t.dev)) ∧
  (∀ (s : State) (u : UnitIx) (v : W32), s.dev.hostOpen (AQ.PART_BASE u.val).addr = true →
    let range := (bitsOf v.toNat 0 6, bitsOf v.toNat 8 7)
    let taken : Prop := ∃ w, w < 8 ∧ w ≠ u.val ∧
      rangesMeet range (s.dev.get (AQ.PART_BASE w), s.dev.get (AQ.PART_GRAN w)) = true
    let Refused (r : Nat) : Prop := ∃ t, exec (.acqPartWrite u v) s = .next t ∧ t.mem = s.mem ∧
      t.dev.get (AQ.PART_PART_RESULT u.val) = r ∧ t.dev.get (AQ.PART_BASE u.val) = s.dev.get (AQ.PART_BASE u.val) ∧
      t.dev.get (AQ.PART_GRAN u.val) = s.dev.get (AQ.PART_GRAN u.val) ∧ s.dev.Wrote [(AQ.PART_BASE u.val).addr] t.dev
    (s.dev.aqQuiet u.val = false ∨ (s.dev.aq u.val).done ≠ [] → Refused 2) ∧
    (s.dev.aqQuiet u.val = true → (s.dev.aq u.val).done = [] → 64 < range.1 + range.2 → Refused 3) ∧
    (s.dev.aqQuiet u.val = true → (s.dev.aq u.val).done = [] → range.1 + range.2 ≤ 64 → taken → Refused 4) ∧
    (s.dev.aqQuiet u.val = true → (s.dev.aq u.val).done = [] → range.1 + range.2 ≤ 64 → ¬ taken →
      ∃ t, exec (.acqPartWrite u v) s = .next t ∧ t.mem = s.mem ∧ t.dev.get (AQ.PART_PART_RESULT u.val) = 1 ∧
        t.dev.get (AQ.PART_BASE u.val) = range.1 ∧ t.dev.get (AQ.PART_GRAN u.val) = range.2 ∧
        s.dev.Wrote [(AQ.PART_BASE u.val).addr] t.dev))

/-- A trigger during a segment, dead time or prefill, or not after the last, is suppressed and counted; one after it opens
a segment at its sample, which is complete at once where its samples are there. A sample is taken at its instant and
moves the unit from PREFILL to READY. A finished segment moves to the DRAM ring or, with the ring enabled and free, to
ring 6. (R235, R236, R237, R240, R242, R243, R245, R246.) -/
def Obligations.TriggersAreJudged : Prop :=
  ∀ (s : State) (u : UnitIx), let d := s.dev; let a := s.dev.aq u.val
    (a.trigs = [] → exec (.triggerJudge u) s = .next s) ∧
    (∀ x rest, a.trigs = x :: rest →
      let k := d.aqTrigSample u.val x.stamp
      let Suppressed : Prop := ∃ t, exec (.triggerJudge u) s = .next t ∧ t.mem = s.mem ∧
        t.dev.get (AQ.TRIG_SUPPRESSED u.val) = min (2 ^ 32 - 1) (d.get (AQ.TRIG_SUPPRESSED u.val) + 1) ∧
        t.dev.on (AQ.STATUS_SUPP u.val) = true ∧ t.dev.aq u.val = { a with trigs := rest } ∧
        d.RegsBut [(AQ.TRIG_SUPPRESSED u.val).addr, (AQ.STATUS_STATE u.val).addr] t.dev ∧
        t.dev.aqState u.val = d.aqState u.val ∧
        t.dev.elapsed =
          if d.aqRuns u.val then max d.elapsed (d.elapsedOf (ceilDiv x.stamp.toNat 4096 + 64)) else d.elapsed
      (d.aqRuns u.val = false →
        (d.aqState u.val = aqDone → d.aqInLast u.val k = true → Suppressed) ∧
        (d.aqState u.val ≠ aqDone ∨ d.aqInLast u.val k = false →
          ∃ t, exec (.triggerJudge u) s = .next t ∧ t.mem = s.mem ∧ t.dev.aq u.val = { a with trigs := rest } ∧
            t.dev.regs = d.regs ∧ t.dev.elapsed = d.elapsed)) ∧
      (d.aqRuns u.val = true →
        (a.seg.isSome = true ∨ a.dead = none → Suppressed) ∧
        (∀ dd, a.dead = some dd → a.seg = none →
          let dead := decide (k < dd + 32 + d.get (AQ.PRE u.val)) || a.lastK.any fun j => decide (k ≤ j)
          (dead = true → Suppressed) ∧
          (dead = false → a.next < k + d.get (AQ.POST u.val) →
            ∃ t, exec (.triggerJudge u) s = .next t ∧ t.mem = s.mem ∧ t.dev.aqState u.val = aqPost ∧
              (∃ g, (t.dev.aq u.val).seg = some g ∧ g.k = k ∧ g.trig = x ∧ g.seg = d.get (AQ.STATUS_SEG u.val)) ∧
              (t.dev.aq u.val).trigs = rest ∧ (t.dev.aq u.val).lastK = some k ∧
              (t.dev.aq u.val).samples = a.samples ∧ t.dev.on (AQ.STATUS_POST_DONE u.val) = false ∧
              t.dev.elapsed = max d.elapsed (d.elapsedOf (ceilDiv x.stamp.toNat 4096 + 64))) ∧
          (dead = false → k + d.get (AQ.POST u.val) ≤ a.next → 1 ≤ d.get (AQ.POST u.val) →
            ∃ t, exec (.triggerJudge u) s = .next t ∧ t.mem = s.mem ∧ (t.dev.aq u.val).seg = none ∧
              (∃ bytes, (t.dev.aq u.val).done = a.done ++ [bytes]) ∧ (t.dev.aq u.val).trigs = rest ∧
              t.dev.on (AQ.STATUS_POST_DONE u.val) = true ∧
              t.dev.get (AQ.STATUS_SEG u.val) = (d.get (AQ.STATUS_SEG u.val) + 1) % 2 ^ (AQ.STATUS_SEG u.val).w)))) ∧
    (d.aqRuns u.val = false → exec (.acqSample u) s = .next s) ∧
    (d.aqRuns u.val = true →
      let at_ := max d.elapsed (d.aqSampledAt u.val a.next)
      let now := d.until (d.aqSampledAt u.val a.next)
      let x := if d.aqKind u.val = 1 then now.smcSampleOf u.val a.next else now.cmpSampleOf u.val a.next
      ∃ t, exec (.acqSample u) s = .next t ∧ t.mem = s.mem ∧ a.next + 1 ≤ (t.dev.aq u.val).next ∧ t.dev.elapsed = at_ ∧
        (∀ dd, a.dead = some dd → a.seg = none → dd + 32 ≤ a.next →
          t.dev.aqState u.val = (if dd + 32 + d.get (AQ.PRE u.val) ≤ a.next then aqReady else aqPrefill) ∧
          (d.aqKind u.val ≠ 2 →
            (t.dev.aq u.val).samples.getLast? = some x ∨
            (t.dev.aq u.val).samples.getLast? = some { x with bytes := x.bytes.map fun _ => 0, lost := true }))) ∧
    (a.done = [] → d.Calm → exec (.segmentDelivery u) s = .next s) ∧
    (∀ x rest, a.done = x :: rest → d.Calm →
      let spills := d.on (AQ.SPILL u.val) && !d.drcOos
      let size := 64 * d.get (AQ.SLOT u.val)
      let slots := 65536 * d.get (AQ.DRING_SIZE u.val) / max 1 size
      let base := d.get (AQ.DRING_BASE u.val) + size * (a.dringNext % max 1 slots)
      let room := if spills then d.dramUp && d.portFree 6 && decide (a.out.length < slots)
        else d.on (HDMA.RING_CTRL_EN 6) && a.out.isEmpty
      (room = false → exec (.segmentDelivery u) s = .next s) ∧
      (room = true → (spills = true → ∀ i, i < ceilDiv x.length 64 → d.dramAllowed 6 (base + 64 * i) = true) →
        ∃ t, exec (.segmentDelivery u) s = .next t ∧ t.mem = s.mem ∧ (t.dev.aq u.val).done = rest ∧
          (t.dev.aq u.val).out = a.out ++ [x] ∧ (spills = false → t.dev.regs = d.regs)))

/-- A reference check shows VREF_OK, RREF_OK, TREF_SEEN and the hold at its instant; a TREF edge shows; a bus becomes
overdue when its oldest clean end is and returns when it is not; a constant within its window is stored, one outside
or a band outside 1 to 16 counts a conflict and changes nothing. (R252, R256, R267, R268, R270.) -/
def Obligations.ReferencesAgesConstants : Prop :=
  (∀ (s : State) (v r : Nat), let d := s.dev
    (d.blockDown 11 = true ∨ d.st = stDormant → exec (.referenceCheck v r) s = .next s ∧ exec .calTrefEdge s = .next s) ∧
    (d.blockDown 11 = false → d.st ≠ stDormant →
      (∃ t, exec (.referenceCheck v r) s = .next t ∧ t.mem = s.mem ∧
        t.dev.elapsed = max d.elapsed (d.cal.refAt + 1000 * msTclk) ∧ t.dev.cal.refAt = t.dev.elapsed ∧
        t.dev.cal.trefSeen = false ∧ t.dev.cal.trefQuiet = (if d.cal.trefSeen then 0 else d.cal.trefQuiet + 1) ∧
        t.dev.on CAL.REF_STATUS_VREF_OK = refAgrees v (d.get CAL.VREF_UV) ∧
        t.dev.on CAL.REF_STATUS_RREF_OK = refAgrees r (d.get CAL.RREF_MOHM) ∧
        t.dev.on CAL.REF_STATUS_TREF_SEEN =
          (d.on CAL.REF_STATUS_TREF_SEEN && !(d.on CAL.TREF_CFG_EN && decide (10 ≤ t.dev.cal.trefQuiet))) ∧
        t.dev.on CAL.ROT_STATUS_REF_HOLD =
          (!refAgrees v (d.get CAL.VREF_UV) || !refAgrees r (d.get CAL.RREF_MOHM)) ∧
        d.RegsBut [CAL.REF_STATUS_VREF_OK.addr, CAL.ROT_STATUS_REF_HOLD.addr] t.dev) ∧
      (d.on CAL.TREF_CFG_EN = false → exec .calTrefEdge s = .next s) ∧
      (d.on CAL.TREF_CFG_EN = true →
        ∃ t, exec .calTrefEdge s = .next t ∧ t.mem = s.mem ∧ t.dev.on CAL.REF_STATUS_TREF_SEEN = true ∧
          t.dev.cal.trefSeen = true ∧ t.dev.cal.trefQuiet = 0 ∧ t.dev.elapsed = d.elapsed ∧
          d.RegsBut [CAL.REF_STATUS_VREF_OK.addr] t.dev))) ∧
  (∀ (s : State) (b : Bus) (a : Off) (v : W32), let d := s.dev
    let k := busNum b
    let oldest := ((d.carryingPages k).map (d.cleanEnd k)).foldl min d.elapsed
    let Shows (x : Bool) (at_ : Nat) : Prop := ∃ t, exec (.ageOverdue b) s = .next t ∧ t.mem = s.mem ∧
      (t.dev.bus k).overdue = x ∧ (t.dev.get CAL.OVERDUE).testBit k = x ∧ t.dev.elapsed = at_ ∧
      d.RegsBut [CAL.OVERDUE.addr, CAL.OVERDUE.addr + 4] t.dev
    (d.blockDown 11 = true ∨ d.st = stDormant → exec (.ageOverdue b) s = .next s) ∧
    (d.blockDown 11 = false → d.st ≠ stDormant →
      ((d.bus k).overdue = false → Shows true (max d.elapsed (oldest + d.ageLimit + 1))) ∧
      ((d.bus k).overdue = true → d.elapsed ≤ oldest + d.ageLimit → Shows false d.elapsed) ∧
      ((d.bus k).overdue = true → oldest + d.ageLimit < d.elapsed → exec (.ageOverdue b) s = .next s)) ∧
    (constOf a.toNat = none → exec (.constantWrite a v) s = .next s) ∧
    (∀ k i j, constOf a.toNat = some (k, i, j) → d.hostOpen a.toNat = true →
      let w := d.window k j
      (w.1 ≤ signedOf 32 v.toNat ∧ signedOf 32 v.toNat ≤ w.2.1 →
        ∃ t, exec (.constantWrite a v) s = .next t ∧ t.mem = s.mem ∧ t.dev.get (constF k i j) = v.toNat ∧
          d.Wrote [(constF k i j).addr] t.dev) ∧
      (signedOf 32 v.toNat < w.1 ∨ w.2.1 < signedOf 32 v.toNat →
        ∃ t, exec (.constantWrite a v) s = .next t ∧ t.mem = s.mem ∧
          t.dev.get (constF k i j) = d.get (constF k i j) ∧
          t.dev.get CAL.CONFLICT_COUNT = min (2 ^ CAL.CONFLICT_COUNT.w - 1) (d.get CAL.CONFLICT_COUNT + 1) ∧
          d.Wrote [CAL.CONFLICT_COUNT.addr] t.dev)) ∧
    (d.hostOpen CAL.BAND_PIN.addr = true →
      let p := bitsOf v.toNat 0 5
      let q := bitsOf v.toNat 8 5
      (1 ≤ p ∧ p ≤ 16 ∧ 1 ≤ q ∧ q ≤ 16 → ∃ t, exec (.bandWrite v) s = .next t ∧ t.mem = s.mem ∧
        t.dev.get CAL.BAND_PIN = p ∧ t.dev.get CAL.BAND_SMC = q ∧ d.Wrote [CAL.BAND_PIN.addr] t.dev) ∧
      (p = 0 ∨ 16 < p ∨ q = 0 ∨ 16 < q → ∃ t, exec (.bandWrite v) s = .next t ∧ t.mem = s.mem ∧
        t.dev.get CAL.BAND_PIN = d.get CAL.BAND_PIN ∧ t.dev.get CAL.BAND_SMC = d.get CAL.BAND_SMC ∧
        t.dev.get CAL.CONFLICT_COUNT = min (2 ^ CAL.CONFLICT_COUNT.w - 1) (d.get CAL.CONFLICT_COUNT + 1) ∧
        d.Wrote [CAL.CONFLICT_COUNT.addr] t.dev)))

/-- The page whose clean end is oldest comes next: without a free spare it is worked on in place where it may be; the
spare starts its pass at once; any other is mirrored for 16,000 TCLK with the mirrored registers copied, after which
the bus waits for its handover. A pass keeps the references declared at its begin. (R254, R259, R266.) -/
def Obligations.PassesBegin : Prop :=
  ∀ (s : State) (b : Bus), let d := s.dev; let k := busNum b
    let at_ := match (d.bus k).lastEnd with | some x => max d.elapsed (x + d.paceWait) | none => d.elapsed
    let page (i : Nat) := if isPinBus k then (PINB.CFG_ABORT_STATE k i).addr else (SMCG.MODE_MODE (k - 32) i).addr
    let Takes (i : Nat) (inPlace : Bool) (d' : Dev) : Prop :=
      (d'.bus k).pass = some ⟨busPhys k i, inPlace, d.on CAL.REF_STATUS_VREF_OK, d.on CAL.REF_STATUS_RREF_OK,
        d.get CAL.VREF_UV, d.get CAL.RREF_MOHM⟩ ∧ d'.on (onBusF k i) = true ∧
      d'.get (busCurF k) = (if i = sparePage k then 0x3F else i % 64) ∧
      d.RegsBut [(busStateF k).addr, (onBusF k i).addr] d'
    (d.calRuns k = false ∨ d.on CAL.CTRL = false ∨ (d.bus k).pass.isSome = true → exec (.passStart b) s = .next s) ∧
    (d.calRuns k = true → d.on CAL.CTRL = true → (d.bus k).pass = none →
      (∀ i, d.oldestPage k ((d.passPages k).filter (d.inPlaceOk k)) = some i → d.noSpareFree k = true →
        d.busState k = calFree ∨ d.busState k = calCommitted →
        ∃ t, exec (.passStart b) s = .next t ∧ t.mem = s.mem ∧ t.dev.elapsed = at_ ∧ t.dev.busState k = d.busState k ∧
          Takes i true t.dev) ∧
      (∀ i, d.oldestPage k (d.passPages k) = some i → d.noSpareFree k = false → d.busState k = calFree →
        ∃ t, exec (.passStart b) s = .next t ∧ t.mem = s.mem ∧ t.dev.elapsed = at_ ∧
          (i = sparePage k → t.dev.busState k = calSpare ∧ Takes i false t.dev) ∧
          (i ≠ sparePage k → t.dev.busState k = calMirrorOut ∧ t.dev.get (busCurF k) = i % 64 ∧
            (t.dev.bus k).mirrorEnd = some (at_ + 16000) ∧ (t.dev.bus k).pass = none ∧
            (∀ o, o ∈ (if isPinBus k then pinMirror else smcMirror) →
              t.dev.reg (page (sparePage k) + o) = d.reg (page i + o)) ∧
            d.RegsBut ((busStateF k).addr :: (if isPinBus k then pinMirror else smcMirror).map (page (sparePage k) + ·))
              t.dev)) ∧
      ((if d.noSpareFree k then d.oldestPage k ((d.passPages k).filter (d.inPlaceOk k)) else d.oldestPage k (d.passPages k)) =
          none ∨ d.busState k ≠ calFree ∧ (d.busState k ≠ calCommitted ∨ d.noSpareFree k = false) →
        ∃ t, exec (.passStart b) s = .next t ∧ t.mem = s.mem ∧ t.dev.elapsed = at_ ∧ t.dev.regs = d.regs ∧
          t.dev.cal = d.cal)) ∧
    ((d.bus k).mirrorEnd = none ∨ d.calRuns k = false → exec (.mirrorEnd b) s = .next s) ∧
    (∀ x, (d.bus k).mirrorEnd = some x → d.calRuns k = true →
      ∃ t, exec (.mirrorEnd b) s = .next t ∧ t.mem = s.mem ∧ t.dev.elapsed = max d.elapsed x ∧
        t.dev.busState k = (if d.busState k = calMirrorOut then calWaitOut else calWaitBack) ∧
        (t.dev.bus k).mirrorEnd = none ∧ (t.dev.bus k).waitFrom = some t.dev.elapsed ∧
        d.RegsBut [(busStateF k).addr] t.dev)

/-- At the eligible instant the carriers are exchanged, forth or back, and counted; the pin overlap ends 28 or 32 TCLK
later, the SMC overlap after the make-before-break of 16,000 TCLK each way; then the bus carries with its pass begun,
is free, mirrors back from a failed spare, or commits the channel of a pending FC2. (R259, R260, R261, R262, R263,
R264, R271.) -/
def Obligations.HandoversMoveCarriers : Prop :=
  ∀ (s : State) (b : BankIx) (g : GroupIx), let d := s.dev
    let Done (k : Nat) (d' : Dev) : Prop := (d'.bus k).overlap = none ∧
      (d.busState k = calWaitBack →
        ((d.bus k).failSpare = true → d'.busState k = calFree ∧ d'.on (busSpFailedF k) = true) ∧
        ((d.bus k).failSpare = false → (d.bus k).fc2 = none → d'.busState k = calFree) ∧
        (∀ i, (d.bus k).fc2 = some i → (d.bus k).failSpare = false →
          d'.busState k = calMirrorOut ∧ d'.get (busCurF k) = i % 64)) ∧
      (d.busState k ≠ calWaitBack →
        ((d.bus k).failSpare = true → d'.busState k = calMirrorBack) ∧
        ((d.bus k).failSpare = false → (d.bus k).fc2 = none →
          d'.busState k = calCarry ∧ ∃ p, (d'.bus k).pass = some p ∧ p.phys = busPhys k (d.get (busCurF k))) ∧
        (∀ i, (d.bus k).fc2 = some i → (d.bus k).failSpare = false →
          d'.busState k = calCommitted ∧ d'.get (busCommitF k) = i % 64))
    let Moved (k : Nat) (d' : Dev) : Prop := let c := d.get (busCurF k)
      (d.busState k ≠ calWaitBack → d'.get (carrierF k c) = busPhys k (sparePage k) ∧
        d'.get (carrierF k (sparePage k)) = busLogical k c ∧ (d'.bus k).overlap = some (busPhys k c, busPhys k (sparePage k), d'.elapsed)) ∧
      (d.busState k = calWaitBack → d'.get (carrierF k c) = busPhys k c ∧ d'.get (carrierF k (sparePage k)) = noCarrier k ∧
        (d'.bus k).overlap = some (busPhys k (sparePage k), busPhys k c, d'.elapsed)) ∧
      (d'.bus k).waitFrom = none ∧ (d'.bus k).commit = none ∧
      d'.get CAL.HANDOVER_COUNT = min (2 ^ CAL.HANDOVER_COUNT.w - 1) (d.get CAL.HANDOVER_COUNT + 1)
    d.Calm →
    (d.eligible b.val = none → exec (.handover b) s = .next s) ∧
    (∀ h, d.eligible b.val = some h → d.get (busCurF b.val) < 32 →
      ∃ t, exec (.handover b) s = .next t ∧ t.mem = s.mem ∧ t.dev.elapsed = max d.elapsed h ∧ Moved b.val t.dev ∧
        (d.busState b.val ≠ calWaitBack → (t.dev.pin (32 * 32 + b.val)).out = (d.pin (32 * b.val + d.get (busCurF b.val))).out)) ∧
    ((d.bus b.val).overlap = none → exec (.overlapEnd b) s = .next s) ∧
    (∀ out inn h, (d.bus b.val).overlap = some (out, inn, h) →
      ∃ t, exec (.overlapEnd b) s = .next t ∧ t.mem = s.mem ∧ (t.dev.pin out).out = .off ∧ Done b.val t.dev ∧
        t.dev.elapsed = max d.elapsed (if d.busState b.val = calWaitBack then h + 28 else h + 32)) ∧
    (let k := 32 + g.val
      let begun := d.busWaits k && !d.flt.safeHold && d.flt.fc0.isNone && !d.blockDown (0x40 + g.val)
      ((d.bus k).commit = none ∨ begun = false → exec (.smcHandoverClose g) s = .next s) ∧
      (∀ h, (d.bus k).commit = some h → begun = true → d.get (busCurF k) < 16 →
        ∃ t, exec (.smcHandoverClose g) s = .next t ∧ t.mem = s.mem ∧ t.dev.elapsed = max d.elapsed (h + 16000) ∧
          Moved k t.dev) ∧
      ((d.bus k).overlap = none → exec (.smcHandoverOpen g) s = .next s) ∧
      (∀ out inn h, (d.bus k).overlap = some (out, inn, h) →
        ∃ t, exec (.smcHandoverOpen g) s = .next t ∧ t.mem = s.mem ∧
          t.dev.elapsed = max d.elapsed (mclkAt (h + 20) + 16000) ∧ Done k t.dev))

/-- A pass that ends counts and frees its channel; with its references good at begin and end and every constant accepted
it clears CAL_FAILS and, unless trims are pinned, stores every constant and the time; otherwise it counts a fail, and
only constants accepted and well fed are stored. The third fail and a pass without response are FC2. (R254, R256,
R257.) -/
def Obligations.PassesAreJudged : Prop :=
  ∀ (s : State) (b : Bus) (values : List Int) (up : Bool), let d := s.dev; let k := busNum b
    ((d.bus k).pass = none ∨ d.calRuns k = false → d.Calm → exec (.passEnd b values up) s = .next s) ∧
    (∀ p, (d.bus k).pass = some p → d.calRuns k = true → d.Calm → ∀ i : Nat, i ≤ sparePage k → p.phys = busPhys k i →
      let fails := if isPinBus k then PINB.CAL_FAILS k i else SMCG.CAL_FAILS (k - 32) i
      let fed (j : Nat) : Bool := match constFeed k j with
        | 1 => p.vref && d.on CAL.REF_STATUS_VREF_OK
        | 2 => p.rref && d.on CAL.REF_STATUS_RREF_OK
        | _ => true
      let accepted (j : Nat) : Bool := d.constTest k j (signedOf 32 (d.get (constF k i j))) (values.getD j 0) == 0
      let clean := (List.range (constCount k)).all fun j => fed j && accepted j
      let pinned := d.trimPinned k p.phys
      let n := if clean then 0 else min 3 (d.get fails + 1)
      ∃ t, exec (.passEnd b values up) s = .next t ∧ t.mem = s.mem ∧ t.dev.elapsed = d.elapsed ∧
        (t.dev.bus k).pass = none ∧ (t.dev.bus k).lastEnd = some d.elapsed ∧ t.dev.on (onBusF k i) = false ∧
        t.dev.get CAL.PASS_COUNT = min (2 ^ CAL.PASS_COUNT.w - 1) (d.get CAL.PASS_COUNT + 1) ∧ t.dev.get fails = n ∧
        (∀ j, j < constCount k → t.dev.get (constF k i j) =
          if fed j && accepted j && !pinned then unsignedOf 32 (values.getD j 0) else d.get (constF k i j)) ∧
        t.dev.get (calEndF k i) = (if clean && !pinned then d.now % 2 ^ (calEndF k i).w else d.get (calEndF k i)) ∧
        (up = true → (n = 3 → d.get fails = 3) →
          t.dev.busState k = (if p.inPlace then d.busState k else if i = sparePage k then calFree else calMirrorBack)) ∧
        ((d.fec 2).valid = false →
          (up = false → (t.dev.fec 2).det = 0x2002) ∧
          (up = true → n = 3 → d.get fails ≠ 3 → (t.dev.fec 2).det = 0x2001)))

/-- A record of the wrong sequence is an FC0. Any other leaves its col: after the seal it is counted, before the front it
is held, and a late or NT one is placed, tallied without room, or follows a SUMMARY. A release takes exactly the
records below the front and the NT ones and, with room and no summaries, places them in order and advances NEXT_SEQ by
their slots; without room they are tallied by path. The merger's order is a permutation ascending by full stamp and
then PATH that keeps the order of arrival among equals. (R77, R284, R285, R286, R288, R293, R299, R334, R337.) -/
def Obligations.RecordsAreMerged : Prop :=
  (∀ (s : State) (p : Byte), let d := s.dev
    d.Calm →
    (d.st = stDormant ∨ d.blockDown 0 = true ∨ (d.path p.toNat).col = [] → exec (.recordArrival p) s = .next s) ∧
    (∀ r rest, (d.path p.toNat).col = r :: rest → d.st ≠ stDormant → d.blockDown 0 = false →
      let n := recordsOf r.payload
      let tally := (d.tally r.path).count + r.ovf.1
      let Arrives (P : Dev → Prop) : Prop := ∃ t, exec (.recordArrival p) s = .next t ∧ t.mem = s.mem ∧
        t.dev.elapsed = d.elapsed ∧ (t.dev.path p.toNat).col = rest ∧ (t.dev.path p.toNat).rx = (r.pseq + n) % 2 ^ 32 ∧
        (∀ q, q ≠ p.toNat → t.dev.path q = d.path q) ∧ P t.dev
      let Placed (late : Bool) (d' : Dev) : Prop := d'.ldg.held = d.ldg.held ∧
        (d.placeable r.path = false → d'.ldg.cur = d.ldg.cur ∧ (d'.tally r.path).count = tally + n) ∧
        (d.placeable r.path = true → tally = 0 → d.ldg.cur.length + n < 126 →
          d'.ldg.cur = d.ldg.cur ++ ({ r with late := late } : Rec).bytes ∧
          d'.get LDG.NEXT_SEQ = (d.get LDG.NEXT_SEQ + n) % 2 ^ 64) ∧
        (d.placeable r.path = true → tally ≠ 0 → d.ldg.cur.length + 2 + n < 126 →
          d'.ldg.cur.length = d.ldg.cur.length + 2 + n ∧ (d'.tally r.path).count = 0 ∧
          d'.ldg.cur.drop (d.ldg.cur.length + 2) = ({ r with late := late } : Rec).bytes ∧
          d'.get LDG.SUMMARY_COUNT = min (2 ^ LDG.SUMMARY_COUNT.w - 1) (d.get LDG.SUMMARY_COUNT + 1) ∧
          d'.get LDG.NEXT_SEQ = (d.get LDG.NEXT_SEQ + 2 + n) % 2 ^ 64)
      let joins := { d.ldg with held := d.ldg.held ++ [r] }
      (r.pseq ≠ (d.path p.toNat).rx → (d.fec 0).valid = false → ∃ t, exec (.recordArrival p) s = .next t ∧
        (t.dev.fec 0).det = 1) ∧
      (r.pseq = (d.path p.toNat).rx →
        (d.merging = false → Arrives fun d' => d'.ldg = d.ldg ∧ d.RegsBut [LDG.POST_SEAL.addr] d' ∧
          d'.get LDG.POST_SEAL = min (2 ^ LDG.POST_SEAL.w - 1) (d.get LDG.POST_SEAL + n)) ∧
        (d.merging = true → d.ldg.chain = false ∨ r.nt = false ∧ 4096 * d.front ≤ r.full →
          Arrives fun d' => { d'.ldg with tallies := d.ldg.tallies } = joins ∧ (d'.tally r.path).count = tally ∧
            d'.regs = d.regs) ∧
        (d.merging = true → d.ldg.chain = true → r.nt = true → Arrives (Placed r.late)) ∧
        (d.merging = true → d.ldg.chain = true → r.nt = false → r.full < 4096 * d.front →
          Arrives fun d' => Placed true d' ∧
            d'.get LDG.LATE_COUNT = min (2 ^ LDG.LATE_COUNT.w - 1) (d.get LDG.LATE_COUNT + n))))) ∧
  (∀ s : State, let d := s.dev
    let released (r : Rec) : Bool := r.nt || decide (r.full < 4096 * d.front)
    let go := d.ldg.held.filter released
    (d.ledgerWorks = false → exec .mergerRelease s = .next s) ∧
    (d.ledgerWorks = true →
      ∃ t, exec .mergerRelease s = .next t ∧ t.mem = s.mem ∧ t.dev.elapsed = d.elapsed ∧
        t.dev.ldg.held = d.ldg.held.filter (fun r => !released r) ∧
        (d.ldg.collapsed = false → 8 < d.ldgFree → (∀ p, (d.tally p).count = 0) → d.ldg.ownFirst = false →
          d.ldg.cur.length + slotsOf go + slotsOf d.ldg.own < 126 →
          t.dev.ldg.cur.take (d.ldg.cur.length + slotsOf go) =
            d.ldg.cur ++ (sortRecs (go.filter fun r => !r.nt) ++ go.filter fun r => r.nt).flatMap Rec.bytes ∧
          t.dev.ldg.cur.length = d.ldg.cur.length + slotsOf go + slotsOf d.ldg.own ∧ t.dev.ldg.own = [] ∧
          t.dev.ldg.buffer = d.ldg.buffer ∧
          t.dev.get LDG.NEXT_SEQ = (d.get LDG.NEXT_SEQ + slotsOf go + slotsOf d.ldg.own) % 2 ^ 64 ∧
          d.RegsBut [LDG.NEXT_SEQ.addr, LDG.NEXT_SEQ.addr + 4] t.dev) ∧
        (d.ldgFree ≤ 8 ∨ d.ldg.collapsed = true ∧ d.ldgFree < 16 →
          ∀ p, p < 128 → p ≠ 2 →
            (t.dev.tally p).count = (d.tally p).count + slotsOf (go.filter fun r => r.path == p)))) ∧
  ∀ rs : List Rec, (sortRecs rs).Perm rs ∧
    (sortRecs rs).Pairwise (fun a b => a.full < b.full ∨ a.full = b.full ∧ a.path ≤ b.path) ∧
    ∀ f p, (sortRecs rs).filter (fun r => r.full == f && r.path == p) = rs.filter (fun r => r.full == f && r.path == p)

/-- FLUSH_T, LDG flush, a deferred close and a signing tick close the block under construction (what a release of the same
CCLK placed stays): its number, first record, count, flags, previous digest and digest over its 4,096 bytes,
LAST_DIGEST and NEXT_BLOCK; with no free buffer block the close waits; the first block of a chain begun at READY has
the digest of "VYRL" and CHAIN_ID before it; a signing tick asks for the signature of the newest closed block. (R287.) -/
def Obligations.BlocksClose : Prop :=
  (∀ s : State, let d := s.dev
    let Closes (i : Instr) (extra n at_ : Nat) (P : Dev → Prop) : Prop := ∃ t, exec i s = .next t ∧ t.mem = s.mem ∧
      t.dev.elapsed = max d.elapsed at_ ∧ d.ClosedInto extra n t.dev ∧ P t.dev
    let Waits (i : Instr) (at_ : Nat) : Prop := ∃ t, exec i s = .next t ∧ t.mem = s.mem ∧
      t.dev.elapsed = max d.elapsed at_ ∧ t.dev.ldg.closeDue = true ∧ t.dev.ldg.cur = d.ldg.cur ∧
      t.dev.ldg.buffer = d.ldg.buffer
    let Skips (i : Instr) (at_ : Nat) : Prop := ∃ t, exec i s = .next t ∧ t.mem = s.mem ∧
      t.dev.elapsed = max d.elapsed at_ ∧ t.dev.ldg = d.ldg ∧ t.dev.regs = d.regs
    let flushAt := d.ldg.curSince + usTclk * d.get LDG.FLUSH_T
    let tickAt := d.ldg.lastTick + msTclk * d.get LDG.SIGN_INTERVAL
    let keyed := !(d.get GLB.OTP_STATUS_ROW_ERR).testBit 1
    (d.ledgerWorks = false ∨ d.ldg.cur = [] → exec .flushTExpiry s = .next s) ∧
    (d.ledgerWorks = true → d.ldg.cur ≠ [] → let n := (d.until flushAt).closing
      (d.ldgFree = 0 → Waits .flushTExpiry flushAt) ∧
      (d.ldgFree ≠ 0 → n ≠ 0 → Closes .flushTExpiry 0 n flushAt fun _ => True) ∧
      (d.ldgFree ≠ 0 → n = 0 → Skips .flushTExpiry flushAt)) ∧
    (d.hostOpen LDG.CTRL.addr = true →
      (d.ldg.cur ≠ [] → d.ldgFree = 0 → Waits .ldgFlush 0) ∧
      (d.ldgFree ≠ 0 → d.closing ≠ 0 → Closes .ldgFlush 0 d.closing 0 fun _ => True) ∧
      (d.ldg.cur = [] ∨ d.ldgFree ≠ 0 ∧ d.closing = 0 → Skips .ldgFlush 0)) ∧
    (d.ldgRuns = false ∨ d.ldg.closeDue = false ∨ d.ldgFree = 0 → exec .blockCloseDeferred s = .next s) ∧
    (d.ldgRuns = true → d.ldg.closeDue = true → d.ldgFree ≠ 0 → d.ldg.cur ≠ [] →
      (∃ t, exec .blockCloseDeferred s = .next t ∧ t.mem = s.mem ∧ t.dev.elapsed = d.elapsed ∧
        ∃ b, t.dev.ldg.buffer[d.ldg.buffer.length]? = some b ∧ b.num = d.get LDG.NEXT_BLOCK ∧ b.slots = d.ldg.cur ∧
          b.prev = d.ldg.prev ∧ b.digest = sha256 b.bytes ∧ b.flags.testBit 4 = (d.ldg.curFlags.testBit 4 || d.ldg.closeSign)) ∧
      (d.ldg.own = [] → (∀ p, (d.tally p).count = 0) → d.on LDG.STATUS_SIGN_PENDING = false → d.ldg.closeSign = false →
        Closes .blockCloseDeferred 0 d.ldg.cur.length 0 fun _ => True)) ∧
    (d.ledgerWorks = false → exec .signingTick s = .next s) ∧
    (d.ledgerWorks = true → let n := (d.until tickAt).closing
      (d.ldg.cur ≠ [] → d.ldgFree = 0 → Waits .signingTick tickAt) ∧
      (d.ldgFree ≠ 0 → n ≠ 0 → Closes .signingTick 16 n tickAt fun d' => d'.ldg.lastTick = d'.elapsed ∧
        (keyed = true → d.get LDG.NEXT_BLOCK < 2 ^ 64 - 1 → d.ldg.signed ≠ some (d.get LDG.NEXT_BLOCK) →
          d'.ldg.signWait = some (d.get LDG.NEXT_BLOCK, d'.ldg.prev)) ∧
        (keyed = false → d'.ldg.signWait = d.ldg.signWait)) ∧
      (∀ b, d.ldg.recent.getLast? = some b → d.ldg.cur = [] ∨ d.ldgFree ≠ 0 ∧ n = 0 →
        ∃ t, exec .signingTick s = .next t ∧ t.mem = s.mem ∧ t.dev.elapsed = max d.elapsed tickAt ∧
          t.dev.ldg.lastTick = t.dev.elapsed ∧ t.dev.ldg.buffer = d.ldg.buffer ∧
          t.dev.ldg.signWait =
            (if keyed && d.get LDG.NEXT_BLOCK != 0 && d.ldg.signed != some b.num then some (b.num, b.digest)
             else d.ldg.signWait)))) ∧
  (∀ s : State, s.dev.st = stBoot → s.dev.get GLB.STATE_STEP = 10 →
    ∃ t, exec .ready s = .next t ∧ t.mem = s.mem ∧ t.dev.ldg.curFlags = 1 ∧ t.dev.ldg.cur = [] ∧
      t.dev.ldg.prev = sha256 (vyrl ++ leBytes 8 (t.dev.get LDG.CHAIN_ID)))

/-- A waiting signature becomes a group of seven records in the block with room for it, or waits for a free buffer block;
SIGN_INTERVAL is stored from 100 to 60,000; the oldest block moves to the DRAM ring with its buffer errors counted or
captured, and from there, byte for byte, to the host slot of PI, which advances past it; the seal ends SEALED or
SEAL_FAILED. (R382.) -/
def Obligations.SignaturesAndDelivery : Prop :=
  ∀ (s : State) (v : W32) (errors : Nat), let d := s.dev
    (d.ledgerWorks = false → exec .signaturePlaced s = .next s) ∧
    (d.ledgerWorks = true → d.on LDG.STATUS_SIGN_PENDING = false →
      (d.ldg.signWait = none → exec .signaturePlaced s = .next s) ∧
      (∀ b g, d.ldg.signWait = some (b, g) →
        (d.ldgFree = 0 → ∃ t, exec .signaturePlaced s = .next t ∧ t.mem = s.mem ∧ t.dev.ldg = d.ldg ∧
          t.dev.on LDG.STATUS_SIGN_PENDING = true ∧ d.RegsBut [LDG.STATUS_SIGN_PENDING.addr] t.dev) ∧
        (d.ldgFree ≠ 0 →
          ∃ t, exec .signaturePlaced s = .next t ∧ t.mem = s.mem ∧ t.dev.elapsed = d.elapsed ∧
            t.dev.ldg.signWait = none ∧ t.dev.ldg.signed = some b ∧
            (let r : Rec := ⟨d.front, 0, d.qualAt d.front, d.tokenDisc 0, false, 1, 0, 0, d.signature b g, d.ldg.ownPseq, (0, 0, 0)⟩
             (d.ldg.cur.length < 119 → t.dev.ldg.cur = d.ldg.cur ++ r.bytes ∧ t.dev.ldg.buffer = d.ldg.buffer) ∧
              (d.ldg.cur.length = 119 → t.dev.ldg.cur = [] ∧
                ∃ x : Blk, t.dev.ldg.buffer = d.ldg.buffer ++ [x] ∧ x.slots = d.ldg.cur ++ r.bytes) ∧
              (119 < d.ldg.cur.length → t.dev.ldg.cur = r.bytes ∧
                ∃ x : Blk, t.dev.ldg.buffer = d.ldg.buffer ++ [x] ∧ x.slots = d.ldg.cur)) ∧
            t.dev.get LDG.NEXT_SEQ = (d.get LDG.NEXT_SEQ + 7) % 2 ^ 64 ∧ t.dev.on LDG.STATUS_SIGN_PENDING = false ∧
            t.dev.get LDG.SIGN_COUNT = min (2 ^ LDG.SIGN_COUNT.w - 1) (d.get LDG.SIGN_COUNT + 1)))) ∧
    (d.ledgerWorks = true → d.on LDG.STATUS_SIGN_PENDING = true →
      (d.ldgFree = 0 → exec .signaturePlaced s = .next s) ∧
      (2 ≤ d.ldgFree → d.ldg.own = [] → (∀ p, (d.tally p).count = 0) → d.ldg.cur ≠ [] →
        d.get LDG.NEXT_BLOCK < 2 ^ 64 - 1 → d.ldg.signed ≠ some (d.get LDG.NEXT_BLOCK) →
        (d.get GLB.OTP_STATUS_ROW_ERR).testBit 1 = false →
        ∃ t, exec .signaturePlaced s = .next t ∧ t.mem = s.mem ∧ t.dev.elapsed = d.elapsed ∧
          t.dev.ldg.signed = some (d.get LDG.NEXT_BLOCK) ∧ t.dev.ldg.cur.length = 7 ∧
          t.dev.on LDG.STATUS_SIGN_PENDING = false ∧
          ∃ x : Blk, t.dev.ldg.buffer = d.ldg.buffer ++ [x] ∧ x.slots = d.ldg.cur ∧ x.num = d.get LDG.NEXT_BLOCK)) ∧
    (d.hostOpen LDG.SIGN_INTERVAL.addr = true →
      ∃ t, exec (.signIntervalWrite v) s = .next t ∧ t.mem = s.mem ∧ t.dev.elapsed = d.elapsed ∧
        (100 ≤ v.toNat → v.toNat ≤ 60000 → t.dev.reg LDG.SIGN_INTERVAL.addr = v ∧
          t.dev.ldg.lastTick =
            if d.ldgRuns && d.merging && decide (d.ldg.lastTick + msTclk * v.toNat < d.elapsed) then d.elapsed
            else d.ldg.lastTick) ∧
        (v.toNat < 100 ∨ 60000 < v.toNat → d.Same t.dev)) ∧
    (let ready := d.dramUp && d.portFree 7 && d.ledgerRingRoom
     (d.Calm → d.ldg.buffer = [] ∨ ready = false → exec (.blockToDram errors) s = .next s) ∧
      (∀ b rest, d.ldg.buffer = b :: rest → d.Calm → ready = true →
        (∀ i, i < 64 → d.dramAllowed 7 (d.ledgerSlotAt d.ldg.dring.length + 64 * i) = true) →
        (errors ≤ 3 → ∃ t, exec (.blockToDram errors) s = .next t ∧ t.mem = s.mem ∧ t.dev.elapsed = d.elapsed ∧
          t.dev.ldg = { d.ldg with buffer := rest, dring := d.ldg.dring ++ [b] } ∧
          t.dev.get (HKS.SRAM_CE 3) =
            (if errors = 0 then d.get (HKS.SRAM_CE 3) else min (2 ^ 32 - 1) (d.get (HKS.SRAM_CE 3) + 1)) ∧
          d.RegsBut [(HKS.SRAM_CE 3).addr] t.dev) ∧
        (3 < errors → (d.fec 1).valid = false → d.on FLT.REACT_OOS_FC0 = false →
          ∃ t, exec (.blockToDram errors) s = .next t ∧ t.mem = s.mem ∧ (t.dev.fec 1).det = 0x1002))) ∧
    (let Sent (b : Blk) (l : LdgSt) : Prop := ∃ t, exec .blockToHost s = .next t ∧ t.mem = s.mem ∧ t.dev.elapsed = d.elapsed ∧
        t.dev.host.posted = d.host.posted ++
          [.block 8 (d.get (HDMA.RING_DEV_PTR 8) % max 1 (d.get (HDMA.RING_SIZE 8))) b.bytes] ∧
        t.dev.get (HDMA.RING_DEV_PTR 8) = (d.get (HDMA.RING_DEV_PTR 8) + 1) % 2 ^ 32 ∧
        t.dev.ldg = { l with accepted := some (b.num, b.firstSeq + b.count, b.digest) }
     (∀ b rest, d.ldg.dring = b :: rest → d.outOpen 8 = true →
        Sent b { d.ldg with dring := rest, dringHead := d.ldg.dringHead + 1 }) ∧
      (∀ b rest, d.ldg.buffer = b :: rest → d.outOpen 8 = true → d.ldg.dring = [] → d.drcOos = true →
        Sent b { d.ldg with buffer := rest }) ∧
      (d.outOpen 8 = false ∨ d.ldg.dring = [] ∧ (d.ldg.buffer = [] ∨ d.drcOos = false) →
        exec .blockToHost s = .next s)) ∧
    (∀ ok, (∀ since, d.ldg.sealSt ≠ .merging since) → exec (.sealClose ok) s = .next s) ∧
    (∀ since, d.ldg.sealSt = .merging since →
      (d.ldgFree < 8 → exec (.sealClose true) s = .next s) ∧
      (8 ≤ d.ldgFree → ∃ t, exec (.sealClose true) s = .next t ∧ t.mem = s.mem ∧ t.dev.on LDG.STATUS_SEALED = true ∧
        t.dev.on LDG.STATUS_SEALING = false ∧ t.dev.ldg.sealSt = .done ∧ t.dev.ldg.held = [] ∧
        t.dev.elapsed = max d.elapsed (since + msTclk)) ∧
      ∃ t, exec (.sealClose false) s = .next t ∧ t.mem = s.mem ∧ t.dev.on LDG.STATUS_SEAL_FAILED = true ∧
        t.dev.on LDG.STATUS_SEALING = false ∧ t.dev.ldg = { d.ldg with sealSt := .done } ∧
        d.Wrote [LDG.STATUS_SEALED.addr] t.dev)

/-- Under every map and every set of pairs in service, two usable data addresses have the same place exactly when they lie
in one 64-byte line, and every place lies inside the pairs in service and the data rows. (R308, R310, R311, R312.) -/
def Obligations.DataAddressesHaveTheirOwnPlace : Prop :=
  ∀ (d : Dev) (a b : Nat), d.pairsIn ≠ [] → a < d.usableBytes → b < d.usableBytes →
    (d.decodeDram a).1 ∈ d.pairsIn ∧ (d.decodeDram a).2.1 < 16 ∧ (d.decodeDram a).2.2.1 < d.dataRows ∧
      (d.decodeDram a).2.2.2 < 64 ∧ (d.decodeDram a = d.decodeDram b ↔ a / 64 = b / 64)

/-- For every data string the eight check bytes make its codeword vanish at the eight powers of alpha; all-zero data has
all-zero check bytes; the code is linear. An SRAM write leaves the check bytes of exactly the codewords it covers
those of their data, merged bytes included. For every state whose written DRAM lines carry the check bytes of their
data, so does every next state of step. Where the check bytes stand in the model's memory is its own choice (log 5).
(R302, R304, R301.) -/
def Obligations.CodewordsAreKept : Prop :=
  (∀ data : List Byte, (rsCheck data).length = 8 ∧
    ∀ j, j < 8 → gfEval (gfPow j) ((data ++ rsCheck data).map BitVec.toNat) = 0) ∧
  (∀ n, rsCheck (List.replicate n 0) = List.replicate 8 0) ∧
  (∀ a b : List Byte, a.length = b.length →
    rsCheck (List.zipWith (· ^^^ ·) a b) = List.zipWith (· ^^^ ·) (rsCheck a) (rsCheck b)) ∧
  (∀ (m : Mem) (a : Nat) (bs : List Byte), m.wf = true → let m' := m.writeSram a bs
    (∀ c ∈ sramOver a bs.length, bytesAt m'.sramCheck (8 * c.num) 8 = rsCheck (bytesAt m'.sram c.base c.k)) ∧
    (∀ n, (∀ c ∈ sramOver a bs.length, c.num ≠ n) → bytesAt m'.sramCheck (8 * n) 8 = bytesAt m.sramCheck (8 * n) 8)) ∧
  (∀ s t : State, s.Inv → s.mem.DramCoded → step s = .next t → t.mem.DramCoded)

/-- A request beyond its port's range is an FC1; a legal one enters its port's queue at its place, a write with its token
or waiting for it. A slot's refresh lowers its bank's debt and closes its row, a read is issued with the bytes DRAM
holds, a write stores its 64 bytes and check bytes and no other; returning data counts corrected and uncorrectable
errors. Whenever a bank's debt exceeds eight intervals, the slot refreshes a bank with the largest debt. (R302, R303,
R312, R313, R315, R318, R321, R322, R329, R331.) -/
def Obligations.RequestsAndSlots : Prop :=
  (∀ (s : State) (port : Port) (write : Bool) (addr : BitVec 40) (data : List Byte), let d := s.dev
    let a := addr.toNat / 64 * 64
    let x := d.decodeDram a
    let r : DrcReq := ⟨port.val, write, a, x.1, x.2.1, x.2.2.1, x.2.2.2, padTo 64 data, d.elapsed, d.drc.next, false⟩
    let open_ := (d.dramUp || d.drc.retiring.isSome) && !(decide (port.val ≤ 3) && write)
    d.Calm →
    (open_ = false → exec (.portRequest port write addr data) s = .next s) ∧
    (open_ = true → d.dramAllowed port.val a = false → (d.fec 1).valid = false → d.on FLT.REACT_OOS_FC0 = false →
      ∃ t, exec (.portRequest port write addr data) s = .next t ∧ t.mem = s.mem ∧ (t.dev.fec 1).det = 0x1009 ∧
        (t.dev.fec 1).block = portBlock port.val ∧ (t.dev.fec 1).addr = a) ∧
    (open_ = true → d.dramAllowed port.val a = true →
      ∃ t, exec (.portRequest port write addr data) s = .next t ∧ t.mem = s.mem ∧ t.dev.elapsed = d.elapsed ∧
        t.dev.regs = d.regs ∧ t.dev.drc.reads = (if write then d.drc.reads else d.drc.reads ++ [r]) ∧
        (write = true → r ∈ t.dev.drc.ported ∨ r ∈ t.dev.writeQueue r.pair) ∧
        (d.drc.ported = [] →
          let room := write && decide ((d.writeQueue r.pair).length < 64) && d.mayTake 5 (port.val - 4) 1
          (room = true → t.dev.writeQueue r.pair = d.writeQueue r.pair ++ [r] ∧ t.dev.drc.ported = [] ∧
            t.dev.tok.outOf 5 (port.val - 4) = d.tok.outOf 5 (port.val - 4) + 1) ∧
          (room = false → t.dev.drc.writes = d.drc.writes ∧ t.dev.tok = d.tok ∧
            t.dev.drc.ported = if write then [r] else [])))) ∧
  (∀ (s : State) (pair : PairIx), let p := pair.val; let d := s.dev
    (d.slotRuns p = false → exec (.commandSlot pair) s = .next s) ∧
    (s.Inv → d.slotRuns p = true →
      ((d.atSlot p).choose p = none → ∃ t, exec (.commandSlot pair) s = .next t ∧ t.mem = s.mem ∧ t.dev = d.atSlot p) ∧
      (∀ b, (d.atSlot p).choose p = some (.refresh b) →
        ∃ t, exec (.commandSlot pair) s = .next t ∧ t.mem = s.mem ∧ t.dev.elapsed = d.elapsed ∧
          t.dev.debt p b = max (-(8 * (d.atSlot p).interval p)) (d.debt p b - (d.atSlot p).interval p) ∧
          t.dev.drc.openRow = d.drc.openRow.insert (16 * p + b) none ∧ t.dev.drc.issued = d.drc.issued ∧
          (∀ c, c ≠ b → c < 16 → b < 16 → t.dev.debt p c = d.debt p c)) ∧
      (∀ r, (d.atSlot p).choose p = some (.read r) →
        ∃ t, exec (.commandSlot pair) s = .next t ∧ t.mem = s.mem ∧ t.dev.elapsed = d.elapsed ∧
          (Tab.get (fun _ => []) t.dev.drc.issued r.port =
            Tab.get (fun _ => []) d.drc.issued r.port ++ [{ r with data := s.mem.dramBytes r.addr 64 }]) ∧
          (∀ x ∈ t.dev.drc.reads, x.seq ≠ r.seq)) ∧
      (∀ w, (d.atSlot p).choose p = some (.write w) → w.data.length = 64 →
        ∃ t, exec (.commandSlot pair) s = .next t ∧ t.mem.sram = s.mem.sram ∧ t.mem.nvm = s.mem.nvm ∧
          t.mem.sramCheck = s.mem.sramCheck ∧ t.dev.elapsed = d.elapsed ∧
          (∀ i, i < 64 → t.mem.dramByte (w.addr + i) = w.data.getD i 0) ∧
          (∀ a, a < w.addr ∨ w.addr + 64 ≤ a → t.mem.dramByte a = s.mem.dramByte a) ∧
          (w.addr % 64 = 0 → ∀ i, i < 8 →
            Tab.get ramByte t.mem.dramCheck (8 * (w.addr / 64) + i) = (rsCheck w.data).getD i 0)))) ∧
  (∀ (s : State) (port : Port) (errors : Nat), let d := s.dev
    let issued (d : Dev) := Tab.get (fun _ => []) d.drc.issued port.val
    d.Calm →
    (issued d = [] → exec (.readDataReturn port errors) s = .next s) ∧
    (∀ r rest, issued d = r :: rest →
      ∃ t, exec (.readDataReturn port errors) s = .next t ∧ (4 ≤ port.val → t.mem = s.mem) ∧ t.mem.dram = s.mem.dram ∧
        t.mem.nvm = s.mem.nvm ∧ t.dev.elapsed = d.elapsed ∧ issued t.dev = rest ∧
        t.dev.get DRC.CE_COUNT = min (2 ^ DRC.CE_COUNT.w - 1) (d.get DRC.CE_COUNT + bit (0 < errors && decide (errors ≤ 3))) ∧
        t.dev.get DRC.UE_COUNT = min (2 ^ DRC.UE_COUNT.w - 1) (d.get DRC.UE_COUNT + bit (decide (4 ≤ errors))) ∧
        (4 ≤ errors → t.dev.get DRC.LAST_UE = r.addr % 2 ^ DRC.LAST_UE.w))) ∧
  (∀ (d : Dev) (p b : Nat), b < 16 → 8 * d.interval p < d.debt p b →
    ∃ c, d.choose p = some (.refresh c) ∧ c < 16 ∧ 8 * d.interval p < d.debt p c ∧ d.debt p b ≤ d.debt p c)

/-- MR4 sets the refresh multiplier without changing debts and a hot one is an FC3; a drift check waits for urgent work,
moves the lanes and holds its pair, or retires the pair or DRAM; a retirement ends with DRAM lost and the sweep
restarted; the sweep moves one row and ends with the last; scrubs advance and count errors; an idle pair enters
power-down. (R303, R306, R309, R316, R323, R326, R328, R329, R330.) -/
def Obligations.DramIsKept : Prop :=
  ∀ (s : State) (pair : PairIx) (bank : Fin 16) (rate : Fin 4) (hot : Bool)
      (lanes : List (Bool × Bool × Bool × Bool × Bool)) (errors : Nat) (overtaken : Bool), let d := s.dev
    let p := pair.val
    (d.pairsIn.contains p = false ∨ d.drc.selfRefresh = true → exec (.mr4Read pair rate hot) s = .next s) ∧
    (d.pairsIn.contains p = true → d.drc.selfRefresh = false →
      let f := if hot then 3 else rate.val
      ∃ t, exec (.mr4Read pair rate hot) s = .next t ∧ t.mem = s.mem ∧ t.dev.elapsed = d.elapsed ∧
        t.dev.get (DRC.REF_PAIR_F p) = f ∧ (∀ b, t.dev.debt p b = d.debt p b) ∧
        t.dev.drc.fChanged = (if d.get (DRC.REF_PAIR_F p) = f then d.drc.fChanged
          else d.drc.fChanged.insert p (some d.elapsed)) ∧
        d.RegsBut [(DRC.REF_PAIR_F p).addr, (DRC.REF_PAIR_MAX_DEBT p).addr] t.dev ∧
        (hot = true → (d.fec 3).valid = false → (t.dev.fec 3).det = 0x3007)) ∧
    (let open_ := d.dramUp && d.pairsIn.contains p && d.drc.retiring.isNone && !d.drc.selfRefresh
     let due := (Tab.get (fun _ => none) d.drc.fChanged p).getD
       (Tab.get (fun _ => 0) d.drc.lastCheck p + msTclk * d.get DRC.VERIFY_PERIOD)
     let d' := d.until due
     let waits := ((d.drc.reads ++ d.drc.ported ++ d.writeQueue p).any fun r => r.pair == p && d'.ownUrgency r == 3) &&
       decide (d'.elapsed < due + 16000000)
     let w : Int := d.get DRC.VERIFY_W
     let step_ (i : Nat) : Int := ((laneCentre (lanes.getD i (false, false, false, false, false))).getD 0) * w
     let works := (List.range 8).all fun i => (laneCentre (lanes.getD i (false, false, false, false, false))).isSome &&
       (step_ i == 0 || decide ((Tab.get (fun _ => (0 : Int)) d.drc.shift (8 * p + i) + step_ i).natAbs ≤ 4 * w.natAbs))
     d.Calm → (open_ = false → exec (.driftCheck pair lanes) s = .next s) ∧
      (open_ = true → waits = true → ∃ t, exec (.driftCheck pair lanes) s = .next t ∧ t.mem = s.mem ∧
        t.dev = d.until due) ∧
      (open_ = true → waits = false → lanes.length = 8 →
        (works = true → w ≠ 0 → ∃ t, exec (.driftCheck pair lanes) s = .next t ∧ t.mem = s.mem ∧
          t.dev.elapsed = max d.elapsed due ∧ t.dev.pairHeld p = true ∧
          Tab.get (fun _ => 0) t.dev.drc.lastCheck p = t.dev.elapsed ∧ t.dev.drc.retiring = none ∧
          (∀ i, i < 8 → t.dev.get (laneField p i) = unsignedOf 14 ((d.get (laneField p i) : Int) + step_ i)) ∧
          t.dev.get DRC.DRIFT_COUNT = min (2 ^ DRC.DRIFT_COUNT.w - 1)
            (d.get DRC.DRIFT_COUNT + ((List.range 8).filter fun i => step_ i != 0).length)) ∧
        (works = false → w ≠ 0 → 2 < d.pairsIn.length → ∃ t, exec (.driftCheck pair lanes) s = .next t ∧ t.mem = s.mem ∧
          t.dev.drc.retiring = some (max d.elapsed due) ∧ t.dev.pairsIn.contains p = false ∧
          (t.dev.get DRC.STATUS_RETIRED).testBit p = true) ∧
        (works = false → w ≠ 0 → d.pairsIn.length ≤ 2 → ∃ t, exec (.driftCheck pair lanes) s = .next t ∧ t.mem = s.mem ∧
          t.dev.dramUp = false ∧ t.dev.drcOos = true))) ∧
    (d.Calm → d.drc.retiring = none → exec .retirementEnd s = .next s) ∧
    (∀ x, d.drc.retiring = some x → d.Calm →
      ∃ t, exec .retirementEnd s = .next t ∧ t.mem.dram = [] ∧ t.mem.dramCheck = [] ∧ t.mem.nvm = s.mem.nvm ∧
        t.dev.drc.retiring = none ∧ t.dev.elapsed = max d.elapsed (x + 3200000) ∧
        t.dev.on DRC.STATUS_INIT_DONE = false ∧ t.dev.drc.front = [] ∧
        t.dev.get DRC.USABLE = d.usableBytes % 2 ^ DRC.USABLE.w ∧ (d.ldg.buffer = [] → t.dev.ldg.dring = [])) ∧
    (let front := fun (x : Dev) => Tab.get (fun _ => 0) x.drc.front (16 * p + bank.val)
     let open_ := d.dramUp && d.pairsIn.contains p && decide (front d < d.dataRows)
     (open_ = false → exec (.initSweepRow pair bank) s = .next s) ∧
      (open_ = true →
        ∃ t, exec (.initSweepRow pair bank) s = .next t ∧ t.mem = s.mem ∧ t.dev.elapsed = d.elapsed ∧
          front t.dev = front d + 1 ∧ d.RegsBut [DRC.STATUS_INIT_DONE.addr] t.dev ∧
          (t.dev.on DRC.STATUS_INIT_DONE = true ↔ d.on DRC.STATUS_INIT_DONE = true ∨ ∀ q ∈ d.pairsIn, ∀ b, b < 16 →
            d.dataRows ≤ Tab.get (fun _ => 0) t.dev.drc.front (16 * q + b)))) ∧
    (let open_ := d.dramUp && d.drc.retiring.isNone && !d.drc.selfRefresh
     d.Calm → (open_ = false → exec (.dramScrub errors) s = .next s) ∧
      (open_ = true → ∃ t, exec (.dramScrub errors) s = .next t ∧ t.mem = s.mem ∧ t.dev.elapsed = d.elapsed ∧
        t.dev.drc = { d.drc with scrubAt := if d.get DRC.USABLE ≤ d.drc.scrubAt + 64 then 0 else d.drc.scrubAt + 64 } ∧
        t.dev.get DRC.CE_COUNT =
          min (2 ^ DRC.CE_COUNT.w - 1) (d.get DRC.CE_COUNT + bit (0 < errors && decide (errors ≤ 3))) ∧
        t.dev.get DRC.UE_COUNT = min (2 ^ DRC.UE_COUNT.w - 1) (d.get DRC.UE_COUNT + bit (decide (4 ≤ errors))) ∧
        t.dev.get DRC.LAST_UE = (if errors ≤ 3 then d.get DRC.LAST_UE else d.drc.scrubAt % 2 ^ DRC.LAST_UE.w) ∧
        d.RegsBut [DRC.CE_COUNT.addr, DRC.UE_COUNT.addr, DRC.LAST_UE.addr, DRC.LAST_UE.addr + 4] t.dev)) ∧
    (let region := (sweepAt d.hks.scrubAt sweepRegions).1
     d.Calm → (d.blockDown 12 = true ∨ d.st = stDormant → exec (.sramScrubRead errors overtaken) s = .next s) ∧
      (d.blockDown 12 = false → d.st ≠ stDormant → ∃ t, exec (.sramScrubRead errors overtaken) s = .next t ∧
        t.mem = s.mem ∧ t.dev.elapsed = d.elapsed ∧
        t.dev.hks.scrubAt = (if sweepLength ≤ d.hks.scrubAt + 1 then 0 else d.hks.scrubAt + 1) ∧
        (errors = 0 → t.dev.regs = d.regs) ∧
        (1 ≤ errors → errors ≤ 3 → t.dev.get (HKS.SRAM_CE region) =
          min (2 ^ (HKS.SRAM_CE region).w - 1) (d.get (HKS.SRAM_CE region) + 1) ∧ d.RegsBut [(HKS.SRAM_CE region).addr] t.dev) ∧
        (4 ≤ errors → t.dev.get (HKS.SRAM_UE region) =
          min (2 ^ (HKS.SRAM_UE region).w - 1) (d.get (HKS.SRAM_UE region) + 1)))) ∧
    (let idle := d.on DRC.CONFIG_PD_EN && d.dramUp && d.pairsIn.contains p && !d.drc.selfRefresh &&
       (d.drc.reads ++ d.drc.ported ++ d.writeQueue p).all fun r => r.pair != p
     (idle = false → exec (.dramPowerDown pair) s = .next s) ∧
      (idle = true →
        ∃ t, exec (.dramPowerDown pair) s = .next t ∧ t.mem = s.mem ∧ t.dev.regs = d.regs ∧ t.dev.drc.asleep.testBit p = true ∧
          t.dev.elapsed = max d.elapsed (Tab.get (fun _ => 0) d.drc.lastUse p + 16 * d.get DRC.CONFIG_PD_IDLE)))

/-- In a pool whose counts sum to its size and whose reserves are covered by its free tokens, a permitted grant and a
return keep both, stay within the cap, and change no other holder. (R331, R332, R341.) -/
def Obligations.GrantsKeepReserves : Prop :=
  ∀ (t : TokSt) (p h n : Nat), p < 7 → h ∈ poolHolders p → t.sums p = true → t.setAside p ≤ t.freeOf p →
    (t.mayTake p h n = true → t.outOf p h ≤ poolCap p →
      (t.take p h n).sums p = true ∧ (t.take p h n).setAside p ≤ (t.take p h n).freeOf p ∧
      (t.take p h n).outOf p h = t.outOf p h + n ∧ (t.take p h n).outOf p h ≤ poolCap p ∧
      ∀ q k, (q, k) ≠ (p, h) → k < 128 → q < 7 → (t.take p h n).outOf q k = t.outOf q k) ∧
    (n ≤ t.outOf p h →
      (t.give p h n).sums p = true ∧ (t.give p h n).setAside p ≤ (t.give p h n).freeOf p ∧
      (t.give p h n).outOf p h = t.outOf p h - n ∧
      ∀ q k, (q, k) ≠ (p, h) → k < 128 → q < 7 → (t.give p h n).outOf q k = t.outOf q k)

/-- A permitted grant moves the oldest waiting record, stamp or write into its stretch with its tokens, any other does
nothing; a clean audit shows every pool OK and a failed one is an FC0; reconciliation fixes the counts of every pool
and holder, and completes with them counted and shown, or is an FC0 where they differ; MIN_CLR restarts MIN_FREE and
PEAK of the pools selected. (R332, R335, R341, R342, R343.) -/
def Obligations.TokensAreGrantedAndAudited : Prop :=
  ∀ s : State, let d := s.dev
    (∀ (p : Pool) (h : Byte), let n := d.wants p.val h.toNat
      let may := n != 0 && (poolHolders p.val).contains h.toNat && d.mayTake p.val h.toNat n && !d.outranked p.val h.toNat
      (may = false → exec (.tokenGrant p h) s = .next s) ∧
      (may = true →
        (∀ r rest, (d.path h.toNat).pend = r :: rest → p.val = 4 →
          ∃ t, exec (.tokenGrant p h) s = .next t ∧ t.mem = s.mem ∧ d.Same t.dev ∧ (t.dev.path h.toNat).pend = rest ∧
            (t.dev.path h.toNat).col = (d.path h.toNat).col ++ [{ r with pseq := (d.path h.toNat).pseq, ovf := (d.path h.toNat).ovf }] ∧
            (∀ q, q ≠ h.toNat → t.dev.path q = d.path q) ∧
            t.dev.tok.outOf 4 h.toNat = d.tok.outOf 4 h.toNat + recordsOf r.payload) ∧
        (p.val = 2 → (d.bank h.toNat).buffer.length < 1024 →
          ∃ t, exec (.tokenGrant p h) s = .next t ∧ t.mem = s.mem ∧ t.dev.regs = d.regs ∧ t.dev.elapsed = d.elapsed ∧
            (∃ e, (t.dev.bank h.toNat).buffer = (d.bank h.toNat).buffer ++ [e]) ∧
            (∀ b, b ≠ h.toNat → t.dev.bank b = d.bank b) ∧ t.dev.tok.outOf 2 h.toNat = d.tok.outOf 2 h.toNat + 1) ∧
        (∀ w rest, d.drc.ported = w :: rest → rest = [] → p.val = 5 → (d.writeQueue w.pair).length < 64 →
          ∃ t, exec (.tokenGrant p h) s = .next t ∧ t.mem = s.mem ∧ t.dev.regs = d.regs ∧ t.dev.elapsed = d.elapsed ∧
            t.dev.writeQueue w.pair = d.writeQueue w.pair ++ [w] ∧ t.dev.drc.ported = [] ∧
            t.dev.tok.outOf 5 h.toNat = d.tok.outOf 5 h.toNat + 1))) ∧
    (let d' := d.aqDrain
     let good := (List.range 7).all fun p => d'.tok.sums p && !d.tok.auditBad.testBit p
     d.Calm → ∀ self_ : Bool,
      (good = true → self_ = false →
        ∃ t, exec (.tokenAudit false) s = .next t ∧ t.mem = s.mem ∧ d.Wrote [TOK.STATUS_AUDIT_OK.addr] { t.dev with acq := d.acq } ∧
          t.dev.get TOK.STATUS_AUDIT_OK = 0x7F ∧ t.dev.tok = { d'.tok with auditBad := 0 } ∧ t.dev.acq = d'.acq) ∧
      (good = false ∨ self_ = true → d.flt.fc0 = none → ∃ t, exec (.tokenAudit self_) s = .next t ∧ t.mem = s.mem ∧
        t.dev.flt.fc0 = some (0x0001, d.now))) ∧
    (d.st = stDormant ∨ d.tok.round.isSome = true → exec .reconciliation s = .next s) ∧
    (d.st ≠ stDormant → d.tok.round = none → let d' := d.aqDrain
      ∃ (t : State) (free : Tab Nat) (outs : Tab (Nat × Nat)), exec .reconciliation s = .next t ∧
        t = { s with dev := { d' with tok := { d'.tok with round := some (free, outs) } } } ∧
        (∀ p, p < 7 → Tab.get poolSizeOf free p = d'.tok.freeOf p) ∧
        ∀ p, p < 7 → ∀ h ∈ poolHolders p, d.excluded p h = false →
          (outs.find? fun x => x.1 == 128 * p + h) = some (128 * p + h, d'.tok.outOf p h, d'.inFlight p h)) ∧
    (d.Calm → d.tok.round = none → exec .reconciliationComplete s = .next s) ∧
    (∀ free outs, d.tok.round = some (free, outs) → d.Calm → let equal := outs.all fun x => x.2.1 == x.2.2
      (equal = true →
        ∃ t, exec .reconciliationComplete s = .next t ∧ t.mem = s.mem ∧
          d.Wrote [TOK.RECON_COUNT.addr, TOK.STATUS_AUDIT_OK.addr] t.dev ∧ t.dev.tok.round = none ∧ t.dev.flt.gapCheck = none ∧
          t.dev.get TOK.RECON_COUNT = min (2 ^ TOK.RECON_COUNT.w - 1) (d.get TOK.RECON_COUNT + 1) ∧
          t.dev.get TOK.STATUS_AUDIT_OK % 128 = d.get TOK.STATUS_AUDIT_OK % 128 ∧
          (d.flt.gapCheck.isSome = true → (d.fec 3).valid = false → (t.dev.fec 3).det = 0x3008) ∧
          ∀ p, p < 7 → (t.dev.poolShown p).1 = Tab.get poolSizeOf free p) ∧
      (equal = false → (outs.all fun x => decide (x.1 / 128 < 7)) = true → d.flt.fc0 = none →
        ∃ t, exec .reconciliationComplete s = .next t ∧ t.mem = s.mem ∧ t.dev.flt.fc0 = some (0x0001, d.now))) ∧
    (∀ pools : BitVec 7, d.hostOpen TOK.CTRL.addr = true →
      ∃ t, exec (.minClr pools) s = .next t ∧ t.mem = s.mem ∧ d.Same t.dev ∧
        ∀ p, p < 7 → pools.toNat.testBit p = true → Tab.get poolSizeOf t.dev.tok.minFree p = poolSizeOf p ∧
          ∀ h, h < 128 → t.dev.tok.peakOf p h = t.dev.tok.outOf p h)

/-- An FC0 detection keeps the first detector and stamp, fills an empty capture or adds to its count, and ends every run.
SAFE_HOLD_BEGIN shows SAFE_HOLD, starts the seal, puts every path under token discipline, ends acquisition and asks
for replacement. A corrupt Plain is an FC0. (R345, R347, R348, R349, R299, R38.) -/
def Obligations.GraveFaultsAreHeld : Prop :=
  (∀ (s : State) (det : BitVec 16) (block master : Byte) (access : BitVec 4) (addr : W64) (detail : W32), let d := s.dev
    d.Calm →
    (det.toNat = 0 ∨ 7 < det.toNat → exec (.fc0Detection det block master access addr detail) s = .next s) ∧
    (1 ≤ det.toNat → det.toNat ≤ 7 →
      ∃ t, exec (.fc0Detection det block master access addr detail) s = .next t ∧ t.mem = s.mem ∧ t.dev.elapsed = d.elapsed ∧
        t.dev.flt.fc0 = some (d.flt.fc0.getD (det.toNat, d.now)) ∧
        t.dev.fec 0 = (if (d.fec 0).valid then { d.fec 0 with count := min (2 ^ 32 - 1) ((d.fec 0).count + 1) }
          else ⟨det.toNat, block.toNat, master.toNat, addr.toNat, d.now, 0, access.toNat, true⟩) ∧
        (d.flt.fc0.isSome = true → t.dev.regs = d.regs ∧ t.dev.engs = d.engs) ∧
        (d.flt.fc0 = none → ∀ n, n < 4 → t.dev.engState n =
          if d.engState n = seqRunning ∨ d.engState n = seqHolding ∨ d.engState n = seqPaused then seqIdle else d.engState n))) ∧
  (∀ s : State, let d := s.dev
    d.Calm → (d.flt.fc0 = none ∨ d.flt.safeHold = true → exec .safeHoldBegin s = .next s) ∧
    (d.flt.fc0 ≠ none → d.flt.safeHold = false →
      ∃ t, exec .safeHoldBegin s = .next t ∧ t.mem = s.mem ∧ t.dev.elapsed = d.elapsed ∧ t.dev.st = stSafeHold ∧
        t.dev.on FLT.STATUS_SAFE_HOLD = true ∧ t.dev.flt.safeHold = true ∧ t.dev.ldg.sealSt = .merging d.elapsed ∧
        t.dev.on LDG.STATUS_SEALING = true ∧ (∀ p ∈ allPaths, t.dev.tokenDisc p = true) ∧
        t.dev.flt.replace.testBit 5 = true ∧ ∀ u, u < 8 → t.dev.aqRuns u = false)) ∧
  (∀ s : State, s.dev.Calm → ∃ t, exec .plainCorrupt s = .next t ∧ t.mem = s.mem ∧
    t.dev.flt.fc0 = some (s.dev.flt.fc0.getD (0x0003, s.dev.now)))

/-- An FC1 outside a shadow puts its block into RESET with its dependents and recovery noted, or, at the limit, out of
service; 0x1006 begins a thermal hold instead; REACT bits make it an FC0. The reset phase ends in RECOVERING, the
quiet period in service, the shadow at its instant with what persists detected, and recoveries leave the window in
time; no other block's phase changes. (R347, R348, R351, R352, R353, R354, R359, R360.) -/
def Obligations.BlocksResetAndRecover : Prop :=
  ∀ (s : State) (block : Byte), let d := s.dev
    let b := block.toNat
    (∀ (det : BitVec 16) (master : Byte) (access : BitVec 4) (addr : W64) (detail : W32), d.Calm →
      let Detects (P : Dev → Prop) : Prop := ∃ t, exec (.fc1Detection det block master access addr detail) s = .next t ∧
        t.mem = s.mem ∧ t.dev.elapsed = d.elapsed ∧ P t.dev
      let grave := (d.on FLT.REACT_LINK_FC0 && det == 0x1005) ||
        (d.on FLT.REACT_OOS_FC0 && d.atLimit b && !d.shadowed b det.toNat)
      (det.toNat < 0x1001 ∨ 0x100A < det.toNat →
        exec (.fc1Detection det block master access addr detail) s = .next s) ∧
      (0x1001 ≤ det.toNat → det.toNat ≤ 0x100A →
        (grave = false → (d.fec 1).valid = false → Detects fun d' =>
          d'.fec 1 = ⟨det.toNat, b, master.toNat, addr.toNat, d.now, 0, access.toNat, true⟩) ∧
        (d.shadowed b det.toNat = true ∧ (d.on FLT.REACT_LINK_FC0 && det == 0x1005) = false ∨
            hasFc1 b = false ∧ grave = false ∧ d.flt.fc0 = none ∨ d.flt.fc0.isSome = true →
          Detects fun d' => d'.flt.blks = d.flt.blks ∧ d'.regs = d.regs) ∧
        (grave = true → d.shadowed b det.toNat = false → d.flt.fc0 = none → Detects fun d' =>
          d'.flt.fc0 = some (det.toNat, d.now)) ∧
        (hasFc1 b = true → d.flt.fc0 = none → d.shadowed b det.toNat = false → grave = false →
          (det = 0x1006 → d.on GOV.STATE_THERM_HOLD = false → Detects fun d' => d'.on GOV.STATE_THERM_HOLD = true ∧
            (d'.blk 3).lastDet = 0x1006 ∧ (d'.blk 3).state = if d.atLimit 3 then 3 else (d.blk 3).state) ∧
          (det ≠ 0x1006 →
            ((d.blk b).state = 1 → Detects fun d' => d'.blk b = { d.blk b with
              lastDet := if (d.blk b).resetAt = d.now then min (d.blk b).lastDet det.toNat else det.toNat }) ∧
            ((d.blk b).state = 3 → Detects fun d' => d'.blk b = d.blk b) ∧
            ((d.blk b).state = 0 ∨ (d.blk b).state = 2 → Detects fun d' => (d'.blk b).lastDet = det.toNat ∧
              (d.atLimit b = false → (d'.blk b).state = 1 ∧ (d'.blk b).resetAt = d.now ∧
                (d'.blk b).recovs = d.recovs b ++ [d.elapsed] ∧ (d'.blk b).deps = d.dependents b) ∧
              (d.atLimit b = true → (d'.blk b).state = 3 ∧ d'.flt.replace.testBit 3 = true)))))) ∧
    (let waits := (b == 1 && !d.on PLN.QUALITY_PLLT_LOCK) || (b == 7 && !d.on HDMA.LINK_STATUS_L0) ||
       (b == 8 && d.drc.retiring.isSome)
     ((d.blk b).state ≠ 1 ∨ waits = true ∨ d.flt.fc0.isSome = true → exec (.resetPhaseEnd block) s = .next s) ∧
      (d.Calm → (d.blk b).state = 1 → waits = false → d.flt.fc0 = none →
        ∃ t, exec (.resetPhaseEnd block) s = .next t ∧ (b ≠ 11 → t.mem = s.mem) ∧ t.mem.dram = s.mem.dram ∧
          t.mem.nvm = s.mem.nvm ∧ t.dev.elapsed = d.elapsed ∧
          (t.dev.blk b).state = 2 ∧ (t.dev.blk b).resetEnd = some d.elapsed ∧ (t.dev.blk b).quietFrom = d.elapsed ∧
          (∀ c, c ≠ b → t.dev.blk c = d.blk c) ∧
          (∀ n, n < 4 → b = 0x10 + n → t.dev.engState n = seqIdle))) ∧
    ((d.blk b).state ≠ 2 ∨ d.flt.fc0.isSome = true → exec (.quietPeriodExpiry block) s = .next s) ∧
    ((d.blk b).state = 2 → d.flt.fc0 = none →
      ∃ t, exec (.quietPeriodExpiry block) s = .next t ∧ t.mem = s.mem ∧ t.dev.regs = d.regs ∧
        t.dev.elapsed = max d.elapsed ((d.blk b).quietFrom + msTclk * d.get FLT.QUIET_T) ∧
        t.dev.blk b = { d.blk b with state := 0 } ∧ ∀ c, c ≠ b → t.dev.blk c = d.blk c) ∧
    (∀ persisting : List (Byte × BitVec 16),
      ((d.blk b).resetEnd = none → exec (.shadowEnd block persisting) s = .next s) ∧
      (∀ x, (d.blk b).resetEnd = some x → d.Calm →
        ((∀ y ∈ persisting, y.1.toNat ∉ (d.blk b).deps) →
          ∃ t, exec (.shadowEnd block persisting) s = .next t ∧ t.mem = s.mem ∧ t.dev.regs = d.regs ∧
            t.dev.elapsed = max d.elapsed (x + msTclk) ∧ t.dev.blk b = { d.blk b with resetEnd := none, deps := [] } ∧
            ∀ c, c ≠ b → t.dev.blk c = d.blk c) ∧
        (∀ y rest, persisting = y :: rest → rest = [] → y.1.toNat ∈ (d.blk b).deps →
          d.on FLT.REACT_LINK_FC0 = false → d.on FLT.REACT_OOS_FC0 = false → y.2.toNat < 0x4000 →
          ∃ t, exec (.shadowEnd block persisting) s = .next t ∧ t.mem = s.mem ∧
            t.dev.elapsed = max d.elapsed (x + msTclk) ∧
            ((d.fec (y.2.toNat / 4096)).valid = false →
              (t.dev.fec (y.2.toNat / 4096)).det = y.2.toNat ∧ (t.dev.fec (y.2.toNat / 4096)).block = y.1.toNat)))) ∧
    ((d.blk b).recovs = [] → exec (.recovWindowExpiry block) s = .next s) ∧
    (∀ x rest, (d.blk b).recovs = x :: rest →
      ∃ t, exec (.recovWindowExpiry block) s = .next t ∧ t.mem = s.mem ∧ t.dev.regs = d.regs ∧
        t.dev.elapsed = max d.elapsed (x + 1000 * msTclk * d.get FLT.RECOV_WINDOW) ∧
        (t.dev.blk b).recovs = rest.filter fun y => decide (t.dev.elapsed < y + 1000 * msTclk * d.get FLT.RECOV_WINDOW))

/-- FEC VALID clears one capture. INJECT in factory mode makes the detection it names, raises a notice for one not listed,
and is ignored otherwise. A governor tick shows its readings at its instant, begins a thermal hold at 115 degrees and
an FC0 at 125, and while hot lowers the next idle bank, paces calibration or powers DRAM down, in that order; a
thermal hold ends after QUIET_T. (R347, R357, R358, R359, R361.) -/
def Obligations.CapturesAndGovernor : Prop :=
  ∀ s : State, let d := s.dev
    (∀ cls : Fin 4, d.hostOpen (FLT.FEC_CTRL_VALID cls.val).addr = true →
      ∃ t, exec (.fecClear cls) s = .next t ∧ t.mem = s.mem ∧ d.Same t.dev ∧ t.dev.fec cls.val = .reset ∧
        (d.gdPending 2 = none → ∀ c, c ≠ cls.val → t.dev.fec c = d.fec c)) ∧
    (∀ (det : BitVec 16) (block : Byte), d.hostOpen FLT.INJECT_GO.addr = true → d.gdPending 2 = none → d.Calm →
      let c := det.toNat / 4096
      let b := block.toNat
      let here : Fec := ⟨det.toNat, b, 0xFF, 0, d.now, 0, 0, true⟩
      let Shown (d' : Dev) : Prop := d'.get FLT.INJECT_DETECTOR = det.toNat ∧ d'.get FLT.INJECT_BLOCK = b
      (d.on FLT.STATUS_FACTORY = false → ∃ t, exec (.inject det block) s = .next t ∧ t.mem = s.mem ∧ d.Same t.dev) ∧
      (d.on FLT.STATUS_FACTORY = true → detectorListed det.toNat = false ∨ c = 3 →
        ∃ t, exec (.inject det block) s = .next t ∧ t.mem = s.mem ∧ Shown t.dev ∧
          d.Wrote [FLT.INJECT_DETECTOR.addr, FLT.INJECT_BLOCK.addr] t.dev ∧
          ((d.fec 3).valid = false → detectorListed det.toNat = true → t.dev.fec 3 = here)) ∧
      (d.on FLT.STATUS_FACTORY = true → detectorListed det.toNat = true → d.flt.fc0 = none →
        d.shadowed b det.toNat = false → d.on FLT.REACT_LINK_FC0 = false → d.on FLT.REACT_OOS_FC0 = false →
        (c = 0 → ∃ t, exec (.inject det block) s = .next t ∧ t.mem = s.mem ∧ t.dev.flt.fc0 = some (det.toNat, d.now)) ∧
        (c = 1 → hasFc1 b = true → det ≠ 0x1006 → (d.blk b).state = 0 → d.atLimit b = false →
          ∃ t, exec (.inject det block) s = .next t ∧ t.mem = s.mem ∧ (t.dev.blk b).state = 1 ∧
            (t.dev.blk b).lastDet = det.toNat) ∧
        (c = 1 ∨ c = 2 → (d.fec c).valid = false →
          ∃ t, exec (.inject det block) s = .next t ∧ t.mem = s.mem ∧ t.dev.fec c = here))) ∧
    (∀ (temps : List (BitVec 16)) (power : BitVec 16), d.Calm →
      let d' := d.until (msTclk * (d.elapsed / msTclk + 1))
      ∃ t, exec (.govTick temps power) s = .next t ∧ t.mem = s.mem ∧ t.dev.elapsed = d'.elapsed ∧
        (∀ k, k < 16 → t.dev.get (GOV.TJ k) = (temps.getD k 0).toNat) ∧ t.dev.get GOV.POWER = power.toNat ∧
        t.dev.gov.coolFrom =
          (if t.dev.hottest < 110 * 16 then some (d.gov.coolFrom.getD t.dev.elapsed) else none) ∧
        t.dev.gov.warned = (decide (105 * 16 ≤ t.dev.hottest) || d.gov.warned && !decide (t.dev.hottest < 102 * 16)) ∧
        (115 * 16 ≤ t.dev.hottest → d'.hottest < 115 * 16 → d.flt.fc0 = none → d.on FLT.REACT_OOS_FC0 = false →
          t.dev.hottest < 125 * 16 → d'.shadowed 3 0x1006 = false → t.dev.on GOV.STATE_THERM_HOLD = true) ∧
        (125 * 16 ≤ t.dev.hottest → d'.hottest < 125 * 16 → t.dev.flt.fc0.isSome = true) ∧
        (let hot := decide (((16 * d.get GOV.TARGET : Nat) : Int) ≤ t.dev.hottest) || decide (10 * d.get GOV.PWR_LIMIT ≤ power.toNat)
         hot = true → d.st ≠ stDormant → d.blockDown 3 = false → d.inBoot = false →
          (∀ b, d'.nextIdleBank = some b → (t.dev.get GOV.STATE_ACTIONS).testBit 0 = true ∧
            ∀ p ∈ d'.lowerable b, (t.dev.pin p).lowered = true) ∧
          (d'.nextIdleBank = none → d.on CAL.ROT_STATUS_PACED = false → 0 < d.get CAL.PACE_MAX →
            t.dev.on CAL.ROT_STATUS_PACED = true ∧ (t.dev.get GOV.STATE_ACTIONS).testBit 1 = true) ∧
          (d'.nextIdleBank = none → d.on CAL.ROT_STATUS_PACED = true ∨ d.get CAL.PACE_MAX = 0 →
            d.on DRC.CONFIG_PD_EN = false →
            t.dev.on DRC.CONFIG_PD_EN = true ∧ (t.dev.get GOV.STATE_ACTIONS).testBit 2 = true))) ∧
    (d.Calm → d.gov.coolFrom = none ∨ d.on GOV.STATE_THERM_HOLD = false ∨ d.gov.permanent = true ∨ d.flt.fc0.isSome = true →
      exec .thermalHoldEnd s = .next s) ∧
    (∀ x, d.gov.coolFrom = some x → d.Calm → d.on GOV.STATE_THERM_HOLD = true → d.gov.permanent = false → d.flt.fc0 = none →
      ∃ t, exec .thermalHoldEnd s = .next t ∧ t.mem = s.mem ∧ t.dev.on GOV.STATE_THERM_HOLD = false ∧
        t.dev.elapsed = max d.elapsed (x + msTclk * d.get FLT.QUIET_T) ∧ (∀ n, n < 4 → (t.dev.eng n).thermal = false) ∧
        ((∀ n, n < 4 → (d.eng n).thermal = false) → d.RegsBut [GOV.STATE_THERM_HOLD.addr] t.dev))

/-- A legal doorbell moves the host pointer and an illegal one sets PTR_ERR; a partial or misplaced one is REG_DECODE; in
SAFE_HOLD only ring 8's acts; in DORMANT it is kept and wakes. Enable, disable, SKIP and RETRY act on their ring or
are refused with a notice; a pointer due is posted; a failed read stops its ring and is captured, a good one changes
nothing. (R350, R367, R369, R372, R373, R374, R375, R414.) -/
def Obligations.DoorbellsAndRings : Prop :=
  ∀ (s : State) (r : Ring), let d := s.dev
    let host := HDMA.RING_HOST_PTR r.val
    let dev := HDMA.RING_DEV_PTR r.val
    let en := HDMA.RING_CTRL_EN r.val
    let status := (HDMA.RING_STATUS_HOST_ERR r.val).addr
    (∀ (off : BitVec 20) (v : W32) (be : BitVec 4), let named := off.toNat = 0x1000 * r.val ∧ be = 15
      let Bell (P : Dev → Prop) : Prop :=
        ∃ t, exec (.doorbell off v be) s = .next t ∧ t.mem = s.mem ∧ t.dev.elapsed = d.elapsed ∧ P t.dev
      (d.host.memEn = false → exec (.doorbell off v be) s = .next s) ∧
      (d.host.memEn = true →
        (d.flt.safeHold = true → (off.toNat ≠ 0x8000 ∨ be ≠ 15) → (d.st = stDormant → be ≠ 15 ∨ off.toNat % 0x1000 ≠ 0) →
          Bell fun d' => d.Same d' ∧ d.Noted 0x3003 7 hostMaster 2 off.toNat d') ∧
        (d.flt.safeHold = false → (be ≠ 15 ∨ off.toNat % 0x1000 ≠ 0 ∨ 0x8000 < off.toNat) →
          Bell fun d' => d.Same d' ∧ d.Noted 0x3006 7 hostMaster 2 off.toNat d') ∧
        (named → d.st ≠ stDormant → d.flt.safeHold = false ∨ r.val = 8 →
          (d.bellOk r.val v.toNat = true → Bell fun d' => d'.get host = v.toNat ∧ d.Wrote [host.addr] d') ∧
          (d.bellOk r.val v.toNat = false → Bell fun d' => d'.on (HDMA.RING_STATUS_PTR_ERR r.val) = true ∧
            d.Wrote [status] d' ∧ d.Noted 0x3003 7 hostMaster 2 off.toNat d')) ∧
        (named → d.st = stDormant → Bell fun d' => d.boot.wake = true ∨ d.boot.dormEntry = false →
          Tab.get (fun _ => 0) d'.boot.wakeBells r.val = v.toNat ∧
          (∀ k, k ≠ r.val → Tab.get (fun _ => 0) d'.boot.wakeBells k = Tab.get (fun _ => 0) d.boot.wakeBells k) ∧
          d'.boot.wake = (d.boot.wake || d.on GLB.WAKE_CFG_DB_EN) ∧ d'.get host = d.get host))) ∧
    (d.hostOpen en.addr = false →
      ∀ i ∈ [Instr.ringEnable r, .ringDisable r, .skip r, .retry r], ∃ t, exec i s = .next t ∧ t.mem = s.mem ∧ d.Same t.dev ∧
        (d.host.memEn = false → t = s)) ∧
    (d.hostOpen en.addr = true → d.gdPending 7 = none →
      let Refused (i : Instr) (addr : Nat) : Prop := ∃ t, exec i s = .next t ∧ t.mem = s.mem ∧ d.Same t.dev ∧
        d.Noted 0x3003 7 d.writeMaster d.writeAccess addr t.dev
      (d.on en = true → exec (.ringEnable r) s = .next s) ∧
      (d.on en = false →
        ∃ t, exec (.ringEnable r) s = .next t ∧ t.mem = s.mem ∧ t.dev.on en = true ∧ t.dev.get host = 0 ∧
          t.dev.get dev = 0 ∧ (t.dev.ring r).bseq = 0 ∧ d.Wrote [en.addr, host.addr, dev.addr] t.dev) ∧
      (∃ t, exec (.ringDisable r) s = .next t ∧ t.mem = s.mem ∧ t.dev.on en = false ∧ d.Wrote [en.addr] t.dev ∧
        t.dev.host = d.host) ∧
      (let ready := r.val < 4 ∧ d.engState r.val = seqIdle ∨ r.val = 4 ∧ ∀ n, n < 4 → d.engState n ≠ seqLoading
       (¬ ready → Refused (.skip r) (HDMA.RING_CTRL_SKIP r.val).addr) ∧
       (ready → ∃ t, exec (.skip r) s = .next t ∧ t.mem = s.mem ∧ t.dev.elapsed = d.elapsed ∧ t.dev.get dev = d.get host ∧
         (d.get dev ≠ d.get host → t.dev.host.wbDue.testBit r.val = true) ∧
         (r.val < 4 → d.RegsBut [dev.addr] t.dev ∧ (∀ b ∈ (t.dev.eng r.val).stream.bufs, b.past = true) ∧
           (t.dev.eng r.val).stream.bufs.length = (d.eng r.val).stream.bufs.length) ∧
         (r.val = 4 → t.dev.on (HDMA.RING_STATUS_DESC_ERR 4) = false ∧ d.Wrote [dev.addr, status] t.dev))) ∧
      (let stopped := d.on (HDMA.RING_STATUS_HOST_ERR r.val) = true ∨ r.val = 4 ∧ d.on (HDMA.RING_STATUS_DESC_ERR r.val) = true
       (¬ stopped → Refused (.retry r) (HDMA.RING_CTRL_RETRY r.val).addr) ∧
       (stopped → ∃ t, exec (.retry r) s = .next t ∧ t.mem = s.mem ∧ t.dev.on (HDMA.RING_STATUS_HOST_ERR r.val) = false ∧
         t.dev.on (HDMA.RING_STATUS_DESC_ERR r.val) = false ∧
         t.dev.on (HDMA.RING_STATUS_PTR_ERR r.val) = d.on (HDMA.RING_STATUS_PTR_ERR r.val) ∧ d.Wrote [status] t.dev))) ∧
    (d.host.wbDue.testBit r.val = false ∨ d.hdmaRuns = false → exec (.pointerWriteback r) s = .next s) ∧
    (d.host.wbDue.testBit r.val = true → d.hdmaRuns = true →
      ∃ t, exec (.pointerWriteback r) s = .next t ∧ t.mem = s.mem ∧
        t.dev.host.posted = d.host.posted ++ [.pointer r.val (BitVec.ofNat 32 (d.get dev))] ∧
        (∀ k, t.dev.host.wbDue.testBit k = (d.host.wbDue.testBit k && k != r.val)) ∧
        d.Wrote [HDMA.LINK_STATUS_L0.addr] t.dev) ∧
    (∀ i ∈ [Instr.completionTimeout r, .completionReceived r .unsupported, .completionReceived r .aborted,
        .completionReceived r .poisoned],
      (r.val < 5 → d.on en = true →
        ∃ t, exec i s = .next t ∧ t.mem = s.mem ∧ t.dev.on (HDMA.RING_STATUS_HOST_ERR r.val) = true ∧
          t.dev.ringLive r.val = false ∧ d.Wrote [status] t.dev ∧ d.Noted 0x300C 7 7 3 0 t.dev) ∧
      (5 ≤ r.val ∨ d.on en = false → exec i s = .next s)) ∧
    exec (.completionReceived r .success) s = .next s

/-- A descriptor that fails its check stops ring 4. PROGRAM, PINNED and DRAM_WRITE store their bytes at their place and no
other byte; DRAM_READ posts the bytes DRAM holds, zeros for lines in error; each posts its status 1, 2, 3 or 4 and
advances the ring and the expected SEQ. A line barred to port P4 is an FC1. (R97, R108, R312, R377, R378, R379, R380.) -/
def Obligations.LoadsAreCarriedOut : Prop :=
  ∀ (s : State) (x : LoadDesc), let d := s.dev
    let n := loadEng x
    let a := x.devAddr.toNat
    let count := x.count.toNat
    let index := d.get (HDMA.RING_DEV_PTR 4)
    s.Inv → d.Calm →
    (∀ words bytes ok bad, ∀ i ∈ [(Instr.program x words, 0), (.pinned x bytes, 1), (.dramWrite x bytes ok, 2), (.dramRead x bad, 3)],
      let opens := d.hdmaRuns && d.ringLive 4 && 0 < d.ringCount 4 && d.mayTake 6 4 1 && loadType x == i.2
      (opens = false → exec i.1 s = .next s) ∧
      (opens = true → d.loadCond x ≠ 0 →
        ∃ t, exec i.1 s = .next t ∧ t.mem = s.mem ∧ t.dev.on (HDMA.RING_STATUS_DESC_ERR 4) = true ∧
          t.dev.get (HDMA.RING_DEV_PTR 4) = index ∧ t.dev.host.posted = d.host.posted ∧
          d.Wrote [(HDMA.RING_STATUS_DESC_ERR 4).addr, HDMA.LINK_STATUS_L0.addr] t.dev ∧
          d.Noted 0x300E 7 0xFF 0 0 t.dev)) ∧
    (∀ words, d.Loads 0 x → let e := d.eng n
      let refused := e.loadRefused || (!e.loading && d.engState n != seqIdle)
      (refused = true → ∃ t, exec (.program x words) s = .next t ∧ d.Loaded 2 x [] t.dev ∧ t.mem = s.mem ∧
        (t.dev.eng n).loadRefused = !loadLast x ∧ t.dev.engState n = d.engState n) ∧
      (refused = false → ∃ t, exec (.program x words) s = .next t ∧ d.Loaded 1 x [] t.dev ∧
        (t.dev.eng n).loading = !loadLast x ∧
        t.dev.engState n = (if d.engState n = seqIdle then seqLoading else d.engState n) ∧
        t.dev.get (SEQ.PROG_ID n) = (if loadLast x then x.ident.toNat else d.get (SEQ.PROG_ID n)) ∧
        (∀ i, i < count → t.mem.sramBytes (microAddr n (a + i)) 22 = leBytes 22 (words.getD i 0).toNat) ∧
        (∀ b, b < microAddr n a ∨ microAddr n (a + count) ≤ b → t.mem.sramByte b = s.mem.sramByte b) ∧
        t.mem.dram = s.mem.dram ∧ t.mem.dramCheck = s.mem.dramCheck ∧ t.mem.nvm = s.mem.nvm)) ∧
    (∀ bytes, d.Loads 1 x →
      let first := (d.pinnedRange n).1 + a * d.stride n
      let len := count * d.stride n
      let room := a + count ≤ (d.pinnedRange n).2 / d.stride n
      (d.engState n ≠ seqIdle → ∃ t, exec (.pinned x bytes) s = .next t ∧ d.Loaded 2 x [] t.dev ∧ t.mem = s.mem) ∧
      (d.engState n = seqIdle → ¬ room → ∃ t, exec (.pinned x bytes) s = .next t ∧ d.Loaded 3 x [] t.dev ∧ t.mem = s.mem) ∧
      (d.engState n = seqIdle → room →
        ∃ t, exec (.pinned x bytes) s = .next t ∧ d.Loaded 1 x [] t.dev ∧ t.mem.sramBytes first len = padTo len bytes ∧
          (∀ b, b < first ∨ first + len ≤ b → t.mem.sramByte b = s.mem.sramByte b) ∧
          t.mem.dram = s.mem.dram ∧ t.mem.dramCheck = s.mem.dramCheck ∧ t.mem.nvm = s.mem.nvm)) ∧
    (∀ bytes ok, d.Loads 2 x →
      let Done (status : Nat) (P : State → Prop) : Prop :=
        ∃ t, exec (.dramWrite x bytes ok) s = .next t ∧ d.Loaded status x [] t.dev ∧ P t
      (d.get DRC.USABLE < a + 64 * count → Done 3 fun t => t.mem = s.mem) ∧
      (a + 64 * count ≤ d.get DRC.USABLE → d.dramUp = false ∨ ok = false →
        Done 4 fun t => t.mem = s.mem ∧ d.Noted 0x300C 7 7 6 a t.dev) ∧
      (a + 64 * count ≤ d.get DRC.USABLE → d.dramUp = true → ok = true →
        (d.barredLine x = none → Done 1 fun t =>
          t.mem.dramBytes a (64 * count) = padTo (64 * count) bytes ∧
          (∀ b, b < a ∨ a + 64 * count ≤ b → t.mem.dramByte b = s.mem.dramByte b) ∧
          t.mem.sram = s.mem.sram ∧ t.mem.sramCheck = s.mem.sramCheck ∧ t.mem.nvm = s.mem.nvm) ∧
        (∀ i, d.barredLine x = some i → ∃ t, exec (.dramWrite x bytes ok) s = .next t ∧ t.mem = s.mem ∧
          t.dev.host.posted = d.host.posted ++ [.status (index % max 1 (d.get (HDMA.RING_SIZE 4))) 4] ∧
          ((d.fec 1).valid = false → d.on FLT.REACT_OOS_FC0 = false →
            t.dev.fec 1 = ⟨0x1009, 7, 7, a + 64 * i, d.now, 0, 6, true⟩)))) ∧
    (∀ bad, d.Loads 3 x → let len := 64 * count
      let Done (status : Nat) (data : List Byte) (P : Dev → Prop) : Prop := ∃ t, exec (.dramRead x bad) s = .next t ∧
        t.mem = s.mem ∧ d.Loaded status x [.data x.hostAddr.toNat data] t.dev ∧ P t.dev
      (d.get DRC.USABLE < a + len → ∃ t, exec (.dramRead x bad) s = .next t ∧ t.mem = s.mem ∧ d.Loaded 3 x [] t.dev) ∧
      (a + len ≤ d.get DRC.USABLE → d.dramUp = false →
        Done 4 (List.replicate len 0) fun d' => d.Noted 0x300C 7 7 5 a d') ∧
      (a + len ≤ d.get DRC.USABLE → d.dramUp = true →
        (d.barredLine x = none →
          ((∀ k ∈ bad, count ≤ k) → Done 1 (s.mem.dramBytes a len) fun d' => d'.get DRC.UE_COUNT = d.get DRC.UE_COUNT) ∧
          (∀ k rest, bad.filter (· < count) = k :: rest →
            Done 4 ((List.range count).flatMap fun i =>
                if bad.contains i then List.replicate 64 0 else s.mem.dramBytes (a + 64 * i) 64) fun d' =>
              d'.get DRC.UE_COUNT = min (2 ^ 32 - 1) (d.get DRC.UE_COUNT + 1 + rest.length) ∧
              d'.get DRC.LAST_UE = a + 64 * (k :: rest).getLastD 0 ∧ d.Noted 0x300C 7 7 5 (a + 64 * k) d')) ∧
        (∀ i, d.barredLine x = some i → ∃ t, exec (.dramRead x bad) s = .next t ∧ t.mem = s.mem ∧
          t.dev.host.posted = d.host.posted ++
            [.data x.hostAddr.toNat (s.mem.dramBytes a (64 * i) ++ List.replicate (64 * (count - i)) 0),
             .status (index % max 1 (d.get (HDMA.RING_SIZE 4))) 4] ∧
          ((d.fec 1).valid = false → d.on FLT.REACT_OOS_FC0 = false →
            t.dev.fec 1 = ⟨0x1009, 7, 7, a + 64 * i, d.now, 0, 5, true⟩))))

/-- Blocks of fail records, map dumps, segments, stamps and ledger blocks are posted byte for byte, source after source,
with their items gone; the flush timer sends what there is; a message due and not masked is posted after its interval;
table and configuration writes are stored, or discarded in SAFE_HOLD; L1 entry, hot reset, link loss and link up act
on the link and its rings. (R350, R360, R364, R365, R366, R368, R381, R382, R383, R384, R385.) -/
def Obligations.BlocksMessagesAndLink : Prop :=
  ∀ s : State, let d := s.dev
    let slot := fun (r : Nat) => d.get (HDMA.RING_DEV_PTR r) % max 1 (d.get (HDMA.RING_SIZE r))
    let bseq := fun (r : Nat) => (d.ring r).bseq
    let Sent (i : Instr) (r : Nat) (bytes : List Byte) (P : Dev → Prop) : Prop := ∃ t, exec i s = .next t ∧ t.mem = s.mem ∧
      t.dev.host.posted = d.host.posted ++ [.block r (slot r) bytes] ∧ (t.dev.ring r).bseq = bseq r + 1 ∧
      t.dev.get (HDMA.RING_DEV_PTR r) = (d.get (HDMA.RING_DEV_PTR r) + 1) % 2 ^ 32 ∧ t.dev.host.wbDue.testBit r = true ∧
      t.dev.host.due.testBit (4 + r) = true ∧ P t.dev
    let Turn (of from_ : Nat) (ready : Nat → Bool) (n : Nat) : Prop :=
      ready n = true ∧ ∀ k, k < (n + of - from_ % of) % of → ready ((from_ + k) % of) = false
    let items := fun (n : Nat) => d.failItems n
    let records := fun (n : Nat) => (((items n).take 127).map FRec.bytes).flatten
    let recordBlock := fun (n : Nat) => blockHeader 0x46525956 0 (records n).length (bseq 5) n 0 0 0 ++ records n
    let stamps := (d.stampItems.take 254).flatten
    let stampBlock := blockHeader 0x54525956 0 stamps.length (bseq 7) 0xFFFFFFFF 0 0 0 ++ stamps
    let dumping := fun (n : Nat) => (d.fc n).dumpAt.any fun i => decide (i < d.mapWords n)
    let ready5 := fun (n : Nat) => dumping n || decide (127 ≤ (items n).length) || d.failDrained n
    (∀ r : Ring, let waits := d.outOpen r.val = false ∨ r.val < 5 ∨ r.val = 5 ∧ (∀ n, n < 4 → ready5 n = false) ∨
        r.val = 6 ∧ (∀ u, u < 8 → (d.aq u).out = []) ∨ r.val = 7 ∧ d.stampItems.length < 254 ∨
        r.val = 8 ∧ d.ldg.dring = [] ∧ (d.ldg.buffer = [] ∨ d.drcOos = false)
      waits → ∃ t, exec (.outboundBlock r) s = .next t ∧ t.mem = s.mem ∧ d.Same t.dev ∧ t.dev.ldg = d.ldg ∧
        t.dev.host.posted = d.host.posted) ∧
    (∀ n, n < 4 → d.outOpen 5 = true → Turn 4 (d.ring 5).source ready5 n →
      (dumping n = false → Sent (.outboundBlock 5) 5 (recordBlock n) fun d' => d'.elapsed = d.elapsed ∧
        d'.failItems n = (items n).drop 127 ∧ (d'.ring 5).source = (n + 1) % 4) ∧
      (∀ i, (d.fc n).dumpAt = some i → i < d.mapWords n →
        let words := (List.range' i (min 508 (d.mapWords n - i))).flatMap fun k => leBytes 8 (Tab.get (fun _ => 0) (d.fc n).map k)
        let last := d.mapWords n ≤ i + 508
        Sent (.outboundBlock 5) 5
          (blockHeader 0x46525956 1 words.length (bseq 5) n (8 * i) (8 * d.mapWords n) (if last then 1 else 0) ++ words) fun d' =>
            d'.elapsed = d.elapsed ∧ (d'.fc n).dumpAt = some (i + min 508 (d.mapWords n - i)) ∧ d'.failItems n = items n)) ∧
    (∀ u, u < 8 → ∀ seg rest, (d.aq u).out = seg :: rest → d.outOpen 6 = true →
      Turn 8 (d.ring 6).source (fun u => !(d.aq u).out.isEmpty) u →
      let at_ := (d.ring 6).offset
      let part := (seg.drop at_).take 4064
      let last := seg.length ≤ at_ + 4064
      Sent (.outboundBlock 6) 6
        (blockHeader 0x41525956 0 part.length (bseq 6) u at_ seg.length (if last then 1 else 0) ++ part) fun d' =>
          d'.elapsed = d.elapsed ∧ (last → (d'.aq u).out = rest ∧ (d'.ring 6).offset = 0 ∧ (d'.ring 6).source = (u + 1) % 8) ∧
          (¬ last → (d'.aq u).out = seg :: rest ∧ (d'.ring 6).offset = at_ + 4064 ∧ (d'.ring 6).source = u)) ∧
    (d.outOpen 7 = true → 254 ≤ d.stampItems.length →
      Sent (.outboundBlock 7) 7 stampBlock fun d' => d'.elapsed = d.elapsed ∧ d'.stampItems = d.stampItems.drop 254) ∧
    (∀ b rest, d.ldg.dring = b :: rest → d.outOpen 8 = true →
      Sent (.outboundBlock 8) 8 b.bytes fun d' => d'.elapsed = d.elapsed ∧ d'.ldg.dring = rest ∧
        d'.ldg.dringHead = d.ldg.dringHead + 1 ∧ d'.ldg.buffer = d.ldg.buffer ∧
        d'.ldg.accepted = some (b.num, b.firstSeq + b.count, b.digest)) ∧
    (∀ b rest, d.ldg.buffer = b :: rest → d.ldg.dring = [] → d.drcOos = true → d.outOpen 8 = true →
      Sent (.outboundBlock 8) 8 b.bytes fun d' => d'.elapsed = d.elapsed ∧ d'.ldg.buffer = rest ∧
        d'.ldg.accepted = some (b.num, b.firstSeq + b.count, b.digest)) ∧
    (∀ r : Ring, (d.ring r.val).openSince = none →
      ∃ t, exec (.hdmaFlushExpiry r) s = .next t ∧ t.mem = s.mem ∧ d.Same t.dev ∧ t.dev.host.posted = d.host.posted) ∧
    (∀ (r : Ring) (since : Nat), (d.ring r.val).openSince = some since →
      let due := max d.elapsed (since + usTclk * d.get HDMA.FLUSH_US)
      (d.outOpen r.val = false ∨ r.val ≠ 5 ∧ r.val ≠ 7 ∨ r.val = 5 ∧ (∀ n, n < 4 → items n = []) ∨ r.val = 7 ∧ d.stampItems = [] →
        ∃ t, exec (.hdmaFlushExpiry r) s = .next t ∧ t.mem = s.mem ∧ t.dev.elapsed = due ∧ t.dev.regs = d.regs ∧
          t.dev.host.posted = d.host.posted) ∧
      (r.val = 5 → d.outOpen 5 = true → ∀ n, n < 4 → Turn 4 (d.ring 5).source (fun n => !(items n).isEmpty) n →
        Sent (.hdmaFlushExpiry r) 5 (recordBlock n) fun d' => d'.elapsed = due ∧ d'.failItems n = (items n).drop 127 ∧
          (d'.ring 5).source = (n + 1) % 4) ∧
      (r.val = 7 → d.outOpen 7 = true → d.stampItems ≠ [] →
        Sent (.hdmaFlushExpiry r) 7 stampBlock fun d' => d'.elapsed = due ∧ d'.stampItems = d.stampItems.drop 254)) ∧
    (∀ v : Fin 64,
      let goes := d.host.due.testBit v.val && !d.msixMasked v.val && d.reported v.val && d.hdmaRuns
      (goes = false → exec (.msixMessage v) s = .next s) ∧
      (goes = true →
        ∃ t, exec (.msixMessage v) s = .next t ∧ t.mem = s.mem ∧ t.dev.host.posted = d.host.posted ++ [.message v.val] ∧
          (∀ w, t.dev.host.due.testBit w = (d.host.due.testBit w && w != v.val)) ∧
          t.dev.elapsed = (match d.host.lastMsg.find? (fun (k, _) => k == v.val) with
            | some (_, at_) => max d.elapsed (at_ + usTclk * d.get (HDMA.VEC_MOD v.val))
            | none => d.elapsed))) ∧
    (∀ (v : Fin 64) (dword : Fin 4) (value : W32),
      let cell := 4 * v.val + dword.val
      (d.host.memEn = false → exec (.msixTableWrite v dword value) s = .next s) ∧
      (d.host.memEn = true → d.flt.safeHold = true →
        ∃ t, exec (.msixTableWrite v dword value) s = .next t ∧ t.mem = s.mem ∧ d.Same t.dev ∧ t.dev.host = d.host ∧
          d.Noted 0x3003 7 hostMaster 2 (4 * cell) t.dev) ∧
      (d.host.memEn = true → d.flt.safeHold = false →
        ∃ t, exec (.msixTableWrite v dword value) s = .next t ∧ t.mem = s.mem ∧ d.Same t.dev ∧
          Tab.get msixReset t.dev.host.msix cell = value ∧
          ∀ i, i ≠ cell → Tab.get msixReset t.dev.host.msix i = Tab.get msixReset d.host.msix i)) ∧
    (∀ m b h, ∃ t, exec (.pciConfigWrite m b h) s = .next t ∧ t.mem = s.mem ∧
      t.dev = { d with host := { d.host with memEn := m, master := b, d3 := h } }) ∧
    (d.on HDMA.LINK_STATUS_L0 = false ∨ d.linkIdle = false → exec .aspmL1Entry s = .next s) ∧
    (d.on HDMA.LINK_STATUS_L0 = true → d.linkIdle = true →
      ∃ t, exec .aspmL1Entry s = .next t ∧ t.mem = s.mem ∧ t.dev.on HDMA.LINK_STATUS_L0 = false ∧
        t.dev.on HDMA.LINK_STATUS_L1 = true ∧ d.Wrote [HDMA.LINK_STATUS_L0.addr] t.dev) ∧
    (∀ perst, ∃ t, exec (.hotReset perst) s = .next t ∧ t.mem = s.mem ∧ t.dev.host.memEn = false ∧ t.dev.host.master = false ∧
      t.dev.host.d3 = false ∧ t.dev.host.msix = [] ∧ t.dev.host.posted = d.host.posted ∧ t.dev.on HDMA.LINK_STATUS_L0 = false ∧
      t.dev.on HDMA.LINK_STATUS_L1 = false ∧
      (∀ r, r < 9 → t.dev.on (HDMA.RING_CTRL_EN r) = false) ∧
      d.Wrote (HDMA.LINK_STATUS_L0.addr :: (List.range 9).map fun r => (HDMA.RING_CTRL_EN r).addr) t.dev) ∧
    (let up := d.on HDMA.LINK_STATUS_L0 || d.on HDMA.LINK_STATUS_L1
     (up = false → d.Calm → exec .linkLoss s = .next s) ∧
     (up = true → d.Calm →
      ∃ t, exec .linkLoss s = .next t ∧ t.mem = s.mem ∧ t.dev.elapsed = d.elapsed ∧ t.dev.on HDMA.LINK_STATUS_L0 = false ∧
        t.dev.on HDMA.LINK_STATUS_L1 = false ∧
        t.dev.get HDMA.LINK_STATUS_DOWNS = min 65535 (d.get HDMA.LINK_STATUS_DOWNS + 1) ∧
        (∀ r, r < 9 → t.dev.get (HDMA.RING_HOST_PTR r) = d.get (HDMA.RING_HOST_PTR r) ∧
          t.dev.get (HDMA.RING_DEV_PTR r) = d.get (HDMA.RING_DEV_PTR r) ∧
          t.dev.on (HDMA.RING_CTRL_EN r) = d.on (HDMA.RING_CTRL_EN r)) ∧
        (d.flt.fc0 = none → d.shadowed 7 0x1005 = false →
          (d.on FLT.REACT_LINK_FC0 = true → (t.dev.blk 7).state = (d.blk 7).state ∧ t.dev.flt.fc0 = some (0x1005, d.now)) ∧
          (d.on FLT.REACT_LINK_FC0 = false → (d.blk 7).state = 0 ∨ (d.blk 7).state = 2 → d.atLimit 7 = false →
            (t.dev.blk 7).state = 1 ∧ t.dev.flt.fc0 = none)))) ∧
    (∀ width speed : BitVec 4, ∃ t, exec (.linkUp width speed) s = .next t ∧ t.mem = s.mem ∧
      t.dev.get HDMA.LINK_STATUS_WIDTH = width.toNat ∧ t.dev.get HDMA.LINK_STATUS_SPEED = speed.toNat ∧
      t.dev.on HDMA.LINK_STATUS_L0 = true ∧ t.dev.on HDMA.LINK_STATUS_L1 = false ∧
      d.Wrote [HDMA.LINK_STATUS_L0.addr] t.dev)

/-- Each step of start-up acts at its STEP and moves to the next: the pins read, headers judged and a copy chosen; the
copy checked, its payloads stored and applied; the DRAM bins tried and pairs put in service; the patch loaded or its
status shown; CALTAB loaded; READY with a fresh chain and every constant's time. A copy that fails at any step shows
its code, and the start-up restarts once on the other copy or ends UNCONFIGURED. (R257, R282, R397, R399, R401, R402,
R403, R405, R406, R408, R409, R410.) -/
def Obligations.StartUpSteps : Prop :=
  ∀ s : State, let d := s.dev
    let step := d.get GLB.STATE_STEP
    let c := d.boot.chosen
    let Does (i : Instr) (P : Dev → Prop) : Prop := ∃ t, exec i s = .next t ∧ t.mem = s.mem ∧ t.dev.elapsed = d.elapsed ∧ P t.dev
    let Fails (i : Instr) (code : Nat) : Prop := let other := 3 - c
      let goes := d.get (copyState other) = 1 ∧ ¬ d.boot.tried.contains other = true ∧ d.on BOOT.STATUS_RESTARTED = false
      (goes → Does i fun d' => d'.count = d.count ∧ d'.st = stBoot ∧ d'.get GLB.STATE_STEP = 6 ∧
        d'.on BOOT.STATUS_RESTARTED = true ∧ d'.boot.chosen = other ∧ d'.boot.tried = d.boot.tried ++ [other] ∧
        d'.get (copyState c) = code ∧ d'.get (copyState other) = 1 ∧ d'.get BOOT.STATUS_LOADED = 0) ∧
      (¬ goes → Does i fun d' => d'.st = stUnconfigured ∧ d'.get (copyState c) = code ∧ d'.get BOOT.STATUS_LOADED = 0)
    d.Calm →
    (∀ (testMode octal : Bool) (rowErr : BitVec 4) (errA errB : Bool),
      (d.st ≠ stBoot ∨ step ≠ 1 → exec (.powerOnResetRelease testMode octal rowErr errA errB) s = .next s) ∧
      (d.st = stBoot → step = 1 → Does (.powerOnResetRelease testMode octal rowErr errA errB) fun d' =>
        let a := s.mem.headerState 1 errA
        let b := s.mem.headerState 2 errB
        let newer := (d'.get BOOT.SEQ_B + 2 ^ 32 - d'.get BOOT.SEQ_A) % 2 ^ 32
        d'.st = stBoot ∧ d'.get GLB.STATE_STEP = 5 ∧ d'.on FLT.STATUS_STRAP = testMode ∧ d'.on BOOT.STATUS_OCTAL = octal ∧
        d'.get GLB.OTP_STATUS_ROW_ERR = rowErr.toNat ∧ d'.get BOOT.STATUS_A_STATE = a ∧ d'.get BOOT.STATUS_B_STATE = b ∧
        d'.get BOOT.SEQ_A = (if errA then d.get BOOT.SEQ_A else s.mem.nvmNum 12 4) ∧
        d'.get BOOT.SEQ_B = (if errB then d.get BOOT.SEQ_B else s.mem.nvmNum (0x2000000 + 12) 4) ∧
        d'.boot.chosen = (if a = 1 ∧ b = 1 then (if 1 ≤ newer ∧ newer < 2 ^ 31 then 2 else 1)
          else if a = 1 then 1 else if b = 1 then 2 else 0))) ∧
    (let begun := d.put GLB.STATE_STEP 6
     let runs := d.st = stBoot ∧ c ≠ 0 ∧ (step = 5 ∨ step = 6) ∧ d.on PLN.QUALITY_PLLT_LOCK = true
     let entered := begun.applyEntries (fun _ => true) (s.mem.optional c 1)
     let payloads := s.mem.optional c 1 ++ s.mem.optional c 4 ++ s.mem.optional c 6
     (¬ runs → exec .imageApply s = .next s) ∧
     (runs → copyCheck s.mem begun ≠ 1 → Fails .imageApply (copyCheck s.mem begun)) ∧
     (runs → copyCheck s.mem begun = 1 → entered.Calm →
       (entered.loadChmap (s.mem.optional c 4) = none → d.RegsBut [GLB.STATE_STEP.addr] entered → Fails .imageApply 7) ∧
       (∀ d', entered.loadChmap (s.mem.optional c 4) = some d' →
         let after := d'.mapCommit.applyEntries governorAddr (s.mem.optional c 6)
         after.Calm → ∃ t, exec .imageApply s = .next t ∧ t.dev.get BOOT.STATUS_LOADED = c ∧ t.dev.get GLB.STATE_STEP = 7 ∧
           after.Wrote [BOOT.STATUS_LOADED.addr, GLB.STATE_STEP.addr] t.dev ∧
           t.mem.sramBytes 0x1FE0000 (min 0x10000 payloads.length) = payloads.take 0x10000 ∧
           (∀ b, b < 0x1FE0000 ∨ 0x1FF0000 ≤ b → t.mem.sramByte b = s.mem.sramByte b) ∧
           t.mem.dram = s.mem.dram ∧ t.mem.nvm = s.mem.nvm))) ∧
    (∀ bins, let found := s.mem.sectionOf c 2
      let runs := d.st = stBoot ∧ step = 7
      (¬ runs → exec (.dramVerify bins) s = .next s) ∧
      (runs → found = none → Fails (.dramVerify bins) 6) ∧
      (∀ x, found = some x → runs →
        let blocks := (binBlocks (s.mem.payload x)).filter fun (b, _) => decide (b ≤ 2)
        let top := d.get DRC.CONFIG_BIN_MAX
        let tries := [2, 1, 0].filter fun b => decide (b ≤ top) && blocks.any fun (y, _) => y == b
        let Out (d' : Dev) : Prop := d'.get GLB.STATE_STEP = 8 ∧ d'.on DRC.STATUS_AVAIL = false ∧ (d'.blk 8).state = 3 ∧
          d'.flt.replace.testBit 3 = true
        (s.mem.crcOk x = false → Fails (.dramVerify bins) 5) ∧
        (s.mem.crcOk x = true → blocks = [] → Fails (.dramVerify bins) 6) ∧
        (s.mem.crcOk x = true → blocks ≠ [] →
          (tries = [] → Does (.dramVerify bins) Out) ∧
          (∀ b pass, verifyBins tries bins = some (b, pass) →
            let good := ((List.range 4).filter pass.testBit).length
            (good < 2 → Does (.dramVerify bins) fun d' => Out d' ∧ d'.get DRC.STATUS_BIN = b) ∧
            (2 ≤ good → Does (.dramVerify bins) fun d' => d'.get GLB.STATE_STEP = 8 ∧ d'.get DRC.STATUS_BIN = b ∧
              d'.get DRC.STATUS_FALLBACK = (if b < top then 1 else d.get DRC.STATUS_FALLBACK) ∧
              d'.get DRC.STATUS_IN_SERVICE = pass ∧ d'.get DRC.STATUS_RETIRED = 15 - pass ∧
              d'.get DRC.USABLE = d'.usableBytes ∧ d'.flt.replace.testBit 4 = (d.flt.replace.testBit 4 || pass != 15) ∧
              (pass = 15 → d'.on DRC.STATUS_AVAIL = true) ∧
              (pass ≠ 15 → (d.fec 1).valid = false → d.on FLT.REACT_OOS_FC0 = false → d'.fec 1 = ⟨0x100A, 8, 0xFF, 0, d.now, 0, 0, true⟩)))))) ∧
    (let found := s.mem.sectionOf c 5
     (d.st ≠ stBoot ∨ step ≠ 8 → exec .patchLoad s = .next s) ∧
     (d.st = stBoot → step = 8 →
       (found = none → Does .patchLoad fun d' => d'.get GLB.STATE_STEP = 9 ∧ d'.get HKS.PATCH_STATUS = 0 ∧
         d'.get HKS.VERSION_PATCH_LEVEL = 0 ∧
         d.Wrote [GLB.STATE_STEP.addr, HKS.PATCH_STATUS.addr, HKS.VERSION_PATCH_LEVEL.addr] d') ∧
       (∀ x, found = some x → let r := patchCheck (s.mem.crcOk x) (s.mem.payload x) (d.put GLB.STATE_STEP 9)
         Does .patchLoad fun d' => d'.get GLB.STATE_STEP = 9 ∧ d'.get HKS.PATCH_STATUS = r.1 ∧ d'.boot.patch = r.2 ∧
           d'.get HKS.VERSION_PATCH_LEVEL = (if r.1 = 1 then ofLeBytes ((s.mem.payload x).take 2) else 0) ∧
           (r.1 ≠ 1 → d.Noted 0x300B 12 0xFF 0 0 d') ∧
           d.Wrote [GLB.STATE_STEP.addr, HKS.PATCH_STATUS.addr, HKS.VERSION_PATCH_LEVEL.addr] d'))) ∧
    (let found := s.mem.sectionOf c 3
     (d.st ≠ stBoot ∨ step ≠ 9 → exec .caltabLoad s = .next s) ∧
     (d.st = stBoot → step = 9 → (found = none → Fails .caltabLoad 6) ∧
       (∀ x, found = some x →
         let word := fun k => ofLeBytes (((s.mem.payload x).drop k).take 4)
         (s.mem.crcOk x = false → Fails .caltabLoad 5) ∧
         (s.mem.crcOk x = true →
           ∃ t, exec .caltabLoad s = .next t ∧ t.mem.dram = s.mem.dram ∧ t.mem.nvm = s.mem.nvm ∧ t.dev.elapsed = d.elapsed ∧
             (∀ b, b < 0x1F60000 ∨ 0x1FA0000 ≤ b → t.mem.sramByte b = s.mem.sramByte b) ∧
             t.dev.get GLB.STATE_STEP = 10 ∧ t.dev.get CAL.VREF_UV = word 0 ∧ t.dev.get CAL.RREF_MOHM = word 4 ∧
             t.dev.get CAL.TREF_CFG_EN = word 8 % 2 ∧ t.dev.cal.windows = calWindows (s.mem.payload x) ∧
             (∀ p j, p < 1056 → j < 23 → t.dev.get (PINB.CAL (bankOf p) (pageOf p) j) = word (664 + 92 * p + 4 * j)) ∧
             ∀ p j, p < 272 → j < 27 → t.dev.get (SMCG.CAL (groupOf p) (smcPage p) j) = word (97816 + 108 * p + 4 * j))))) ∧
    (d.st ≠ stBoot ∨ step ≠ 10 → exec .ready s = .next s) ∧
    (d.st = stBoot → step = 10 → Does .ready fun d' =>
      d'.st = stReady ∧ d'.get GLB.STATE_STEP = 11 ∧ d'.ldg.chain = true ∧ d'.ldg.cur = [] ∧
        d'.get LDG.NEXT_BLOCK = 0 ∧ d'.get LDG.NEXT_SEQ = 0 ∧ d'.get LDG.CHAIN_ID = (Config.chainDraw d.ldg.chains).toNat ∧
        d'.ldg.prev = sha256 (vyrl ++ leBytes 8 (Config.chainDraw d.ldg.chains).toNat) ∧
        ∀ k i, k < 48 → i < 33 → i ≤ sparePage k → d'.get (calEndF k i) = d.now)

/-- DORMANT is accepted in READY with a wake source enabled and refused with 2 or 3 otherwise; its entry stops the PLL,
closes the ledger and leaves wake comparators in mode W; an enabled source wakes, at once where the entry is not done,
and doorbells are kept; the wake ends in READY at a REFCLK edge with comparators settling and quality capped. PLL loss
leaves no engine, measurement or unit running, quality 0 and PLN in RESET. (R39, R45, R57, R134, R160, R171, R413,
R414, R415.) -/
def Obligations.PowerStates : Prop :=
  ∀ s : State, let d := s.dev
    let edge := 16 * ceilDiv d.elapsed 16
    let a := GLB.POWER_CTRL_DORMANT.addr
    (d.hostOpen a = false → ∃ t, exec .dormant s = .next t ∧ t.mem = s.mem ∧ d.Same t.dev ∧ t.dev.boot = d.boot) ∧
    (d.hostOpen a = true → d.gdPending 5 = none →
      let sources := d.on GLB.WAKE_CFG_DB_EN || d.on GLB.WAKE_CFG_CMP_EN || d.get GLB.WAKE_CFG_TRIG_EN != 0
      let Refused (result : Nat) : Prop := ∃ t, exec .dormant s = .next t ∧ t.mem = s.mem ∧
        t.dev.get GLB.POWER_CTRL_DORMANT_RESULT = result ∧ t.dev.boot.dormEntry = d.boot.dormEntry ∧
        t.dev.boot.wake = d.boot.wake ∧ t.dev.boot.wakeBells = d.boot.wakeBells ∧ d.Wrote [a] t.dev ∧
        d.Noted 0x3003 5 d.writeMaster d.writeAccess a t.dev
      (d.st ≠ stReady ∨ d.running = true → Refused 2) ∧
      (d.st = stReady → d.running = false →
        (sources = false → Refused 3) ∧
        (sources = true →
          ∃ t, exec .dormant s = .next t ∧ t.mem = s.mem ∧ t.dev.st = stDormant ∧ t.dev.boot.dormEntry = true ∧
            t.dev.boot.wake = false ∧ t.dev.boot.wakeBells = [] ∧ d.Wrote [GLB.STATE_STATE.addr] t.dev))) ∧
    (d.boot.dormEntry = false → exec .dormantEntryDone s = .next s) ∧
    (d.boot.dormEntry = true →
      ∃ t, exec .dormantEntryDone s = .next t ∧ t.mem = s.mem ∧ t.dev.elapsed = edge ∧ t.dev.boot.dormEntry = false ∧
        t.dev.on PLN.QUALITY_PLLT_LOCK = false ∧ t.dev.on PLN.QUALITY_REFSTEP = true ∧ t.dev.drc.selfRefresh = true ∧
        t.dev.get GLB.POWER_CTRL_DORMANT_RESULT = 1 ∧ t.dev.ldg.cur = [] ∧
        (d.dramUp = true → d.ldg.buffer.length + d.ldg.dring.length < 256 * d.get LDG.DRING_SIZE → t.dev.ldg.buffer = []) ∧
        ∀ p ∈ allPins,
          (d.pinGet PINB.SEL_WAKE_SEL p ≠ 0 → (t.dev.pin p).mode = 3 ∧ (t.dev.pin p).powered = (d.pin p).powered ∧
            (t.dev.pin p).high = (d.pin p).high ∧ (t.dev.pin p).low = (d.pin p).low ∧ (t.dev.pin p).settle = (d.pin p).settle) ∧
          (d.pinGet PINB.SEL_WAKE_SEL p = 0 → (t.dev.pin p).powered = false)) ∧
    (∀ w : WakeSource,
      let bells := match w with
        | .doorbell r v => d.boot.wakeBells.insert r.val v.toNat
        | _ => d.boot.wakeBells
      let shown : Nat × Nat × Nat × Bool := match w with
        | .comparator ch k => (1, 0, ch.val, d.on GLB.WAKE_CFG_CMP_EN && (d.pinGet PINB.SEL_WAKE_SEL ch.val).testBit k.val &&
            d.cmpReady ch.val (decide (2 ≤ k.val)))
        | .trigger line rising => (2, line.val, 0, (d.get GLB.WAKE_CFG_TRIG_EN).testBit line.val &&
            ((d.get GLB.WAKE_CFG_TRIG_FALL).testBit line.val != rising))
        | .doorbell r _ => (3, r.val, 0, d.on GLB.WAKE_CFG_DB_EN)
        | .graveFault => (4, 0, 0, d.flt.fc0.isSome)
      let Shows (d' : Dev) : Prop := d'.get GLB.WAKE_STATUS_SOURCE = shown.1 ∧ d'.get GLB.WAKE_STATUS_LINE = shown.2.1 ∧
        d'.get GLB.WAKE_STATUS_CHAN = shown.2.2.1 ∧ d'.get GLB.WAKE_STAMP = d.now
      (d.st ≠ stDormant → exec (.wakeEvent w) s = .next s) ∧
      (d.st = stDormant →
        (shown.2.2.2 = false ∨ d.boot.wake = true →
          exec (.wakeEvent w) s = .next { s with dev := { d with boot := { d.boot with wakeBells := bells } } }) ∧
        (shown.2.2.2 = true → d.boot.wake = false →
          (d.boot.dormEntry = false →
            ∃ t, exec (.wakeEvent w) s = .next t ∧ t.mem = s.mem ∧ Shows t.dev ∧ t.dev.boot.wake = true ∧
              t.dev.boot.wakeBells = bells ∧ t.dev.st = stDormant ∧
              d.Wrote [GLB.WAKE_STATUS_SOURCE.addr, GLB.WAKE_STAMP.addr, GLB.WAKE_STAMP.addr + 4, HDMA.LINK_STATUS_L0.addr] t.dev) ∧
          (d.boot.dormEntry = true →
            ∃ t, exec (.wakeEvent w) s = .next t ∧ t.mem = s.mem ∧ t.dev.elapsed = d.elapsed ∧ Shows t.dev ∧
              t.dev.boot.wake = false ∧ t.dev.boot.dormEntry = false ∧ t.dev.boot.wakeBells = [] ∧ t.dev.st = stReady ∧
              t.dev.get GLB.POWER_CTRL_DORMANT_RESULT = 4 ∧ t.dev.pins = d.pins ∧ t.dev.drc = d.drc)))) ∧
    (d.Calm → d.st ≠ stDormant ∨ d.boot.wake = false → exec .wakeComplete s = .next s) ∧
    (d.Calm → d.st = stDormant → d.boot.wake = true →
      ∃ t, exec .wakeComplete s = .next t ∧ t.mem = s.mem ∧ t.dev.elapsed = edge ∧
        t.dev.st = stReady ∧ t.dev.on PLN.QUALITY_PLLT_LOCK = true ∧ t.dev.on PLN.QUALITY_REFSTEP = false ∧
        t.dev.boot.wake = false ∧ t.dev.drc.selfRefresh = false ∧ t.dev.boot.wakeBells = [] ∧ t.dev.boot.dormStore = [] ∧
        (d.qual = 3 → t.dev.on PLN.QUALITY_WAKE_CAP = true ∧ t.dev.qual = 2) ∧
        (∀ r v, d.boot.wakeBells = [(r, v)] → d.bellOk r v = true → t.dev.get (HDMA.RING_HOST_PTR r) = v) ∧
        ∀ p ∈ allPins, d.flt.supplyOut = [] → d.blockDown (0x20 + bankOf p) = false → (t.dev.pin p).powered = true ∧
          (d.pinOn PINB.CFG_CMP_EN p = true → let mode := d.pinGet PINB.CFG_CMP_SPEED p
            (t.dev.pin p).mode = mode ∧ (t.dev.pin p).settle = some (edge + settleTime mode) ∧
            (t.dev.pin p).high.resolved = false ∧ (t.dev.pin p).low.resolved = false)) ∧
    (let lost := d.on PLN.QUALITY_PLLT_LOCK && d.on PLN.QUALITY_REFCLK_OK && d.st != stDormant
     (lost = false → exec .pllLoss s = .next s) ∧
     (lost = true → d.Calm →
      ∃ t, exec .pllLoss s = .next t ∧ t.mem = s.mem ∧ t.dev.elapsed = edge ∧
        t.dev.on PLN.QUALITY_PLLT_LOCK = false ∧ t.dev.on PLN.QUALITY_REFSTEP = true ∧ t.dev.qual = 0 ∧
        (d.flt.fc0 = none → d.shadowed 1 0x1007 = false → d.on FLT.REACT_OOS_FC0 = false → (d.blk 1).state = 0 → d.atLimit 1 = false →
          (t.dev.blk 1).state = 1) ∧
        (∀ n, n < 4 → t.dev.engState n ≠ seqRunning ∧ t.dev.engState n ≠ seqHolding ∧ t.dev.engState n ≠ seqPaused ∧
          (d.engState n = seqIdle → (d.eng n).idleNext.isSome = true → (t.dev.eng n).idleStop = true)) ∧
        (∀ i, i < 16 → (t.dev.meas i).armed = false) ∧ ∀ u, u < 8 → t.dev.aqRuns u = false))
end

