-- ==== Sys2Proof/Laws/State.lean ====
section
/-! SUPPORT. What the named updates of the device leave alone: one lemma per field and update, so that no proof unfolds a
record update. -/

namespace Sys2Proof.Machine

/-! ### `setReg` -/

@[simp] theorem Dev.setReg_count (d : Dev) (a : Nat) (v : W32) : (d.setReg a v).count = d.count := rfl
@[simp] theorem Dev.setReg_elapsed (d : Dev) (a : Nat) (v : W32) : (d.setReg a v).elapsed = d.elapsed := rfl
@[simp] theorem Dev.setReg_snaps (d : Dev) (a : Nat) (v : W32) : (d.setReg a v).snaps = d.snaps := rfl
@[simp] theorem Dev.setReg_draws (d : Dev) (a : Nat) (v : W32) : (d.setReg a v).draws = d.draws := rfl
@[simp] theorem Dev.setReg_disc (d : Dev) (a : Nat) (v : W32) : (d.setReg a v).disc = d.disc := rfl
@[simp] theorem Dev.setReg_paths (d : Dev) (a : Nat) (v : W32) : (d.setReg a v).paths = d.paths := rfl
@[simp] theorem Dev.setReg_ldg (d : Dev) (a : Nat) (v : W32) : (d.setReg a v).ldg = d.ldg := rfl
@[simp] theorem Dev.setReg_tok (d : Dev) (a : Nat) (v : W32) : (d.setReg a v).tok = d.tok := rfl
@[simp] theorem Dev.setReg_flt (d : Dev) (a : Nat) (v : W32) : (d.setReg a v).flt = d.flt := rfl
@[simp] theorem Dev.setReg_host (d : Dev) (a : Nat) (v : W32) : (d.setReg a v).host = d.host := rfl
@[simp] theorem Dev.setReg_pln (d : Dev) (a : Nat) (v : W32) : (d.setReg a v).pln = d.pln := rfl
@[simp] theorem Dev.setReg_maps (d : Dev) (a : Nat) (v : W32) : (d.setReg a v).maps = d.maps := rfl
@[simp] theorem Dev.setReg_ls (d : Dev) (a : Nat) (v : W32) : (d.setReg a v).ls = d.ls := rfl
@[simp] theorem Dev.setReg_engs (d : Dev) (a : Nat) (v : W32) : (d.setReg a v).engs = d.engs := rfl
@[simp] theorem Dev.setReg_tsets (d : Dev) (a : Nat) (v : W32) : (d.setReg a v).tsets = d.tsets := rfl
@[simp] theorem Dev.setReg_pins (d : Dev) (a : Nat) (v : W32) : (d.setReg a v).pins = d.pins := rfl
@[simp] theorem Dev.setReg_banks (d : Dev) (a : Nat) (v : W32) : (d.setReg a v).banks = d.banks := rfl
@[simp] theorem Dev.setReg_fcap (d : Dev) (a : Nat) (v : W32) : (d.setReg a v).fcap = d.fcap := rfl
@[simp] theorem Dev.setReg_tia (d : Dev) (a : Nat) (v : W32) : (d.setReg a v).tia = d.tia := rfl
@[simp] theorem Dev.setReg_cal (d : Dev) (a : Nat) (v : W32) : (d.setReg a v).cal = d.cal := rfl
@[simp] theorem Dev.setReg_trg (d : Dev) (a : Nat) (v : W32) : (d.setReg a v).trg = d.trg := rfl
@[simp] theorem Dev.setReg_aqs (d : Dev) (a : Nat) (v : W32) : (d.setReg a v).aqs = d.aqs := rfl
@[simp] theorem Dev.setReg_acq (d : Dev) (a : Nat) (v : W32) : (d.setReg a v).acq = d.acq := rfl
@[simp] theorem Dev.setReg_smc (d : Dev) (a : Nat) (v : W32) : (d.setReg a v).smc = d.smc := rfl
@[simp] theorem Dev.setReg_drc (d : Dev) (a : Nat) (v : W32) : (d.setReg a v).drc = d.drc := rfl
@[simp] theorem Dev.setReg_hks (d : Dev) (a : Nat) (v : W32) : (d.setReg a v).hks = d.hks := rfl
@[simp] theorem Dev.setReg_boot (d : Dev) (a : Nat) (v : W32) : (d.setReg a v).boot = d.boot := rfl
@[simp] theorem Dev.setReg_gov (d : Dev) (a : Nat) (v : W32) : (d.setReg a v).gov = d.gov := rfl

/-! ### `put` -/

@[simp] theorem Dev.put_count (d : Dev) (f : Fld) (v : Nat) : (d.put f v).count = d.count := by unfold Dev.put; split <;> rfl
@[simp] theorem Dev.put_elapsed (d : Dev) (f : Fld) (v : Nat) : (d.put f v).elapsed = d.elapsed := by unfold Dev.put; split <;> rfl
@[simp] theorem Dev.put_snaps (d : Dev) (f : Fld) (v : Nat) : (d.put f v).snaps = d.snaps := by unfold Dev.put; split <;> rfl
@[simp] theorem Dev.put_draws (d : Dev) (f : Fld) (v : Nat) : (d.put f v).draws = d.draws := by unfold Dev.put; split <;> rfl
@[simp] theorem Dev.put_disc (d : Dev) (f : Fld) (v : Nat) : (d.put f v).disc = d.disc := by unfold Dev.put; split <;> rfl
@[simp] theorem Dev.put_paths (d : Dev) (f : Fld) (v : Nat) : (d.put f v).paths = d.paths := by unfold Dev.put; split <;> rfl
@[simp] theorem Dev.put_ldg (d : Dev) (f : Fld) (v : Nat) : (d.put f v).ldg = d.ldg := by unfold Dev.put; split <;> rfl
@[simp] theorem Dev.put_tok (d : Dev) (f : Fld) (v : Nat) : (d.put f v).tok = d.tok := by unfold Dev.put; split <;> rfl
@[simp] theorem Dev.put_flt (d : Dev) (f : Fld) (v : Nat) : (d.put f v).flt = d.flt := by unfold Dev.put; split <;> rfl
@[simp] theorem Dev.put_host (d : Dev) (f : Fld) (v : Nat) : (d.put f v).host = d.host := by unfold Dev.put; split <;> rfl
@[simp] theorem Dev.put_pln (d : Dev) (f : Fld) (v : Nat) : (d.put f v).pln = d.pln := by unfold Dev.put; split <;> rfl
@[simp] theorem Dev.put_maps (d : Dev) (f : Fld) (v : Nat) : (d.put f v).maps = d.maps := by unfold Dev.put; split <;> rfl
@[simp] theorem Dev.put_ls (d : Dev) (f : Fld) (v : Nat) : (d.put f v).ls = d.ls := by unfold Dev.put; split <;> rfl
@[simp] theorem Dev.put_engs (d : Dev) (f : Fld) (v : Nat) : (d.put f v).engs = d.engs := by unfold Dev.put; split <;> rfl
@[simp] theorem Dev.put_tsets (d : Dev) (f : Fld) (v : Nat) : (d.put f v).tsets = d.tsets := by unfold Dev.put; split <;> rfl
@[simp] theorem Dev.put_pins (d : Dev) (f : Fld) (v : Nat) : (d.put f v).pins = d.pins := by unfold Dev.put; split <;> rfl
@[simp] theorem Dev.put_banks (d : Dev) (f : Fld) (v : Nat) : (d.put f v).banks = d.banks := by unfold Dev.put; split <;> rfl
@[simp] theorem Dev.put_fcap (d : Dev) (f : Fld) (v : Nat) : (d.put f v).fcap = d.fcap := by unfold Dev.put; split <;> rfl
@[simp] theorem Dev.put_tia (d : Dev) (f : Fld) (v : Nat) : (d.put f v).tia = d.tia := by unfold Dev.put; split <;> rfl
@[simp] theorem Dev.put_cal (d : Dev) (f : Fld) (v : Nat) : (d.put f v).cal = d.cal := by unfold Dev.put; split <;> rfl
@[simp] theorem Dev.put_trg (d : Dev) (f : Fld) (v : Nat) : (d.put f v).trg = d.trg := by unfold Dev.put; split <;> rfl
@[simp] theorem Dev.put_aqs (d : Dev) (f : Fld) (v : Nat) : (d.put f v).aqs = d.aqs := by unfold Dev.put; split <;> rfl
@[simp] theorem Dev.put_acq (d : Dev) (f : Fld) (v : Nat) : (d.put f v).acq = d.acq := by unfold Dev.put; split <;> rfl
@[simp] theorem Dev.put_smc (d : Dev) (f : Fld) (v : Nat) : (d.put f v).smc = d.smc := by unfold Dev.put; split <;> rfl
@[simp] theorem Dev.put_drc (d : Dev) (f : Fld) (v : Nat) : (d.put f v).drc = d.drc := by unfold Dev.put; split <;> rfl
@[simp] theorem Dev.put_hks (d : Dev) (f : Fld) (v : Nat) : (d.put f v).hks = d.hks := by unfold Dev.put; split <;> rfl
@[simp] theorem Dev.put_boot (d : Dev) (f : Fld) (v : Nat) : (d.put f v).boot = d.boot := by unfold Dev.put; split <;> rfl
@[simp] theorem Dev.put_gov (d : Dev) (f : Fld) (v : Nat) : (d.put f v).gov = d.gov := by unfold Dev.put; split <;> rfl

/-! ### `bumpBy` -/

@[simp] theorem Dev.bumpBy_count (d : Dev) (f : Fld) (n : Nat) : (d.bumpBy f n).count = d.count := Dev.put_count d _ _
@[simp] theorem Dev.bumpBy_elapsed (d : Dev) (f : Fld) (n : Nat) : (d.bumpBy f n).elapsed = d.elapsed := Dev.put_elapsed d _ _
@[simp] theorem Dev.bumpBy_snaps (d : Dev) (f : Fld) (n : Nat) : (d.bumpBy f n).snaps = d.snaps := Dev.put_snaps d _ _
@[simp] theorem Dev.bumpBy_draws (d : Dev) (f : Fld) (n : Nat) : (d.bumpBy f n).draws = d.draws := Dev.put_draws d _ _
@[simp] theorem Dev.bumpBy_disc (d : Dev) (f : Fld) (n : Nat) : (d.bumpBy f n).disc = d.disc := Dev.put_disc d _ _
@[simp] theorem Dev.bumpBy_paths (d : Dev) (f : Fld) (n : Nat) : (d.bumpBy f n).paths = d.paths := Dev.put_paths d _ _
@[simp] theorem Dev.bumpBy_ldg (d : Dev) (f : Fld) (n : Nat) : (d.bumpBy f n).ldg = d.ldg := Dev.put_ldg d _ _
@[simp] theorem Dev.bumpBy_tok (d : Dev) (f : Fld) (n : Nat) : (d.bumpBy f n).tok = d.tok := Dev.put_tok d _ _
@[simp] theorem Dev.bumpBy_flt (d : Dev) (f : Fld) (n : Nat) : (d.bumpBy f n).flt = d.flt := Dev.put_flt d _ _
@[simp] theorem Dev.bumpBy_host (d : Dev) (f : Fld) (n : Nat) : (d.bumpBy f n).host = d.host := Dev.put_host d _ _
@[simp] theorem Dev.bumpBy_pln (d : Dev) (f : Fld) (n : Nat) : (d.bumpBy f n).pln = d.pln := Dev.put_pln d _ _
@[simp] theorem Dev.bumpBy_maps (d : Dev) (f : Fld) (n : Nat) : (d.bumpBy f n).maps = d.maps := Dev.put_maps d _ _
@[simp] theorem Dev.bumpBy_ls (d : Dev) (f : Fld) (n : Nat) : (d.bumpBy f n).ls = d.ls := Dev.put_ls d _ _
@[simp] theorem Dev.bumpBy_engs (d : Dev) (f : Fld) (n : Nat) : (d.bumpBy f n).engs = d.engs := Dev.put_engs d _ _
@[simp] theorem Dev.bumpBy_tsets (d : Dev) (f : Fld) (n : Nat) : (d.bumpBy f n).tsets = d.tsets := Dev.put_tsets d _ _
@[simp] theorem Dev.bumpBy_pins (d : Dev) (f : Fld) (n : Nat) : (d.bumpBy f n).pins = d.pins := Dev.put_pins d _ _
@[simp] theorem Dev.bumpBy_banks (d : Dev) (f : Fld) (n : Nat) : (d.bumpBy f n).banks = d.banks := Dev.put_banks d _ _
@[simp] theorem Dev.bumpBy_fcap (d : Dev) (f : Fld) (n : Nat) : (d.bumpBy f n).fcap = d.fcap := Dev.put_fcap d _ _
@[simp] theorem Dev.bumpBy_tia (d : Dev) (f : Fld) (n : Nat) : (d.bumpBy f n).tia = d.tia := Dev.put_tia d _ _
@[simp] theorem Dev.bumpBy_cal (d : Dev) (f : Fld) (n : Nat) : (d.bumpBy f n).cal = d.cal := Dev.put_cal d _ _
@[simp] theorem Dev.bumpBy_trg (d : Dev) (f : Fld) (n : Nat) : (d.bumpBy f n).trg = d.trg := Dev.put_trg d _ _
@[simp] theorem Dev.bumpBy_aqs (d : Dev) (f : Fld) (n : Nat) : (d.bumpBy f n).aqs = d.aqs := Dev.put_aqs d _ _
@[simp] theorem Dev.bumpBy_acq (d : Dev) (f : Fld) (n : Nat) : (d.bumpBy f n).acq = d.acq := Dev.put_acq d _ _
@[simp] theorem Dev.bumpBy_smc (d : Dev) (f : Fld) (n : Nat) : (d.bumpBy f n).smc = d.smc := Dev.put_smc d _ _
@[simp] theorem Dev.bumpBy_drc (d : Dev) (f : Fld) (n : Nat) : (d.bumpBy f n).drc = d.drc := Dev.put_drc d _ _
@[simp] theorem Dev.bumpBy_hks (d : Dev) (f : Fld) (n : Nat) : (d.bumpBy f n).hks = d.hks := Dev.put_hks d _ _
@[simp] theorem Dev.bumpBy_boot (d : Dev) (f : Fld) (n : Nat) : (d.bumpBy f n).boot = d.boot := Dev.put_boot d _ _
@[simp] theorem Dev.bumpBy_gov (d : Dev) (f : Fld) (n : Nat) : (d.bumpBy f n).gov = d.gov := Dev.put_gov d _ _

/-! ### `bump` -/

@[simp] theorem Dev.bump_count (d : Dev) (f : Fld) : (d.bump f).count = d.count := Dev.bumpBy_count d _ _
@[simp] theorem Dev.bump_elapsed (d : Dev) (f : Fld) : (d.bump f).elapsed = d.elapsed := Dev.bumpBy_elapsed d _ _
@[simp] theorem Dev.bump_snaps (d : Dev) (f : Fld) : (d.bump f).snaps = d.snaps := Dev.bumpBy_snaps d _ _
@[simp] theorem Dev.bump_draws (d : Dev) (f : Fld) : (d.bump f).draws = d.draws := Dev.bumpBy_draws d _ _
@[simp] theorem Dev.bump_disc (d : Dev) (f : Fld) : (d.bump f).disc = d.disc := Dev.bumpBy_disc d _ _
@[simp] theorem Dev.bump_paths (d : Dev) (f : Fld) : (d.bump f).paths = d.paths := Dev.bumpBy_paths d _ _
@[simp] theorem Dev.bump_ldg (d : Dev) (f : Fld) : (d.bump f).ldg = d.ldg := Dev.bumpBy_ldg d _ _
@[simp] theorem Dev.bump_tok (d : Dev) (f : Fld) : (d.bump f).tok = d.tok := Dev.bumpBy_tok d _ _
@[simp] theorem Dev.bump_flt (d : Dev) (f : Fld) : (d.bump f).flt = d.flt := Dev.bumpBy_flt d _ _
@[simp] theorem Dev.bump_host (d : Dev) (f : Fld) : (d.bump f).host = d.host := Dev.bumpBy_host d _ _
@[simp] theorem Dev.bump_pln (d : Dev) (f : Fld) : (d.bump f).pln = d.pln := Dev.bumpBy_pln d _ _
@[simp] theorem Dev.bump_maps (d : Dev) (f : Fld) : (d.bump f).maps = d.maps := Dev.bumpBy_maps d _ _
@[simp] theorem Dev.bump_ls (d : Dev) (f : Fld) : (d.bump f).ls = d.ls := Dev.bumpBy_ls d _ _
@[simp] theorem Dev.bump_engs (d : Dev) (f : Fld) : (d.bump f).engs = d.engs := Dev.bumpBy_engs d _ _
@[simp] theorem Dev.bump_tsets (d : Dev) (f : Fld) : (d.bump f).tsets = d.tsets := Dev.bumpBy_tsets d _ _
@[simp] theorem Dev.bump_pins (d : Dev) (f : Fld) : (d.bump f).pins = d.pins := Dev.bumpBy_pins d _ _
@[simp] theorem Dev.bump_banks (d : Dev) (f : Fld) : (d.bump f).banks = d.banks := Dev.bumpBy_banks d _ _
@[simp] theorem Dev.bump_fcap (d : Dev) (f : Fld) : (d.bump f).fcap = d.fcap := Dev.bumpBy_fcap d _ _
@[simp] theorem Dev.bump_tia (d : Dev) (f : Fld) : (d.bump f).tia = d.tia := Dev.bumpBy_tia d _ _
@[simp] theorem Dev.bump_cal (d : Dev) (f : Fld) : (d.bump f).cal = d.cal := Dev.bumpBy_cal d _ _
@[simp] theorem Dev.bump_trg (d : Dev) (f : Fld) : (d.bump f).trg = d.trg := Dev.bumpBy_trg d _ _
@[simp] theorem Dev.bump_aqs (d : Dev) (f : Fld) : (d.bump f).aqs = d.aqs := Dev.bumpBy_aqs d _ _
@[simp] theorem Dev.bump_acq (d : Dev) (f : Fld) : (d.bump f).acq = d.acq := Dev.bumpBy_acq d _ _
@[simp] theorem Dev.bump_smc (d : Dev) (f : Fld) : (d.bump f).smc = d.smc := Dev.bumpBy_smc d _ _
@[simp] theorem Dev.bump_drc (d : Dev) (f : Fld) : (d.bump f).drc = d.drc := Dev.bumpBy_drc d _ _
@[simp] theorem Dev.bump_hks (d : Dev) (f : Fld) : (d.bump f).hks = d.hks := Dev.bumpBy_hks d _ _
@[simp] theorem Dev.bump_boot (d : Dev) (f : Fld) : (d.bump f).boot = d.boot := Dev.bumpBy_boot d _ _
@[simp] theorem Dev.bump_gov (d : Dev) (f : Fld) : (d.bump f).gov = d.gov := Dev.bumpBy_gov d _ _

/-! ### `setEng` -/

@[simp] theorem Dev.setEng_count (d : Dev) (n : Nat) (e : EngSt) : (d.setEng n e).count = d.count := rfl
@[simp] theorem Dev.setEng_elapsed (d : Dev) (n : Nat) (e : EngSt) : (d.setEng n e).elapsed = d.elapsed := rfl
@[simp] theorem Dev.setEng_regs (d : Dev) (n : Nat) (e : EngSt) : (d.setEng n e).regs = d.regs := rfl
@[simp] theorem Dev.setEng_snaps (d : Dev) (n : Nat) (e : EngSt) : (d.setEng n e).snaps = d.snaps := rfl
@[simp] theorem Dev.setEng_draws (d : Dev) (n : Nat) (e : EngSt) : (d.setEng n e).draws = d.draws := rfl
@[simp] theorem Dev.setEng_disc (d : Dev) (n : Nat) (e : EngSt) : (d.setEng n e).disc = d.disc := rfl
@[simp] theorem Dev.setEng_paths (d : Dev) (n : Nat) (e : EngSt) : (d.setEng n e).paths = d.paths := rfl
@[simp] theorem Dev.setEng_ldg (d : Dev) (n : Nat) (e : EngSt) : (d.setEng n e).ldg = d.ldg := rfl
@[simp] theorem Dev.setEng_tok (d : Dev) (n : Nat) (e : EngSt) : (d.setEng n e).tok = d.tok := rfl
@[simp] theorem Dev.setEng_flt (d : Dev) (n : Nat) (e : EngSt) : (d.setEng n e).flt = d.flt := rfl
@[simp] theorem Dev.setEng_host (d : Dev) (n : Nat) (e : EngSt) : (d.setEng n e).host = d.host := rfl
@[simp] theorem Dev.setEng_pln (d : Dev) (n : Nat) (e : EngSt) : (d.setEng n e).pln = d.pln := rfl
@[simp] theorem Dev.setEng_maps (d : Dev) (n : Nat) (e : EngSt) : (d.setEng n e).maps = d.maps := rfl
@[simp] theorem Dev.setEng_ls (d : Dev) (n : Nat) (e : EngSt) : (d.setEng n e).ls = d.ls := rfl
@[simp] theorem Dev.setEng_tsets (d : Dev) (n : Nat) (e : EngSt) : (d.setEng n e).tsets = d.tsets := rfl
@[simp] theorem Dev.setEng_pins (d : Dev) (n : Nat) (e : EngSt) : (d.setEng n e).pins = d.pins := rfl
@[simp] theorem Dev.setEng_banks (d : Dev) (n : Nat) (e : EngSt) : (d.setEng n e).banks = d.banks := rfl
@[simp] theorem Dev.setEng_fcap (d : Dev) (n : Nat) (e : EngSt) : (d.setEng n e).fcap = d.fcap := rfl
@[simp] theorem Dev.setEng_tia (d : Dev) (n : Nat) (e : EngSt) : (d.setEng n e).tia = d.tia := rfl
@[simp] theorem Dev.setEng_cal (d : Dev) (n : Nat) (e : EngSt) : (d.setEng n e).cal = d.cal := rfl
@[simp] theorem Dev.setEng_trg (d : Dev) (n : Nat) (e : EngSt) : (d.setEng n e).trg = d.trg := rfl
@[simp] theorem Dev.setEng_aqs (d : Dev) (n : Nat) (e : EngSt) : (d.setEng n e).aqs = d.aqs := rfl
@[simp] theorem Dev.setEng_acq (d : Dev) (n : Nat) (e : EngSt) : (d.setEng n e).acq = d.acq := rfl
@[simp] theorem Dev.setEng_smc (d : Dev) (n : Nat) (e : EngSt) : (d.setEng n e).smc = d.smc := rfl
@[simp] theorem Dev.setEng_drc (d : Dev) (n : Nat) (e : EngSt) : (d.setEng n e).drc = d.drc := rfl
@[simp] theorem Dev.setEng_hks (d : Dev) (n : Nat) (e : EngSt) : (d.setEng n e).hks = d.hks := rfl
@[simp] theorem Dev.setEng_boot (d : Dev) (n : Nat) (e : EngSt) : (d.setEng n e).boot = d.boot := rfl
@[simp] theorem Dev.setEng_gov (d : Dev) (n : Nat) (e : EngSt) : (d.setEng n e).gov = d.gov := rfl

/-! ### `modEng` -/

@[simp] theorem Dev.modEng_count (d : Dev) (n : Nat) (f : EngSt → EngSt) : (d.modEng n f).count = d.count := rfl
@[simp] theorem Dev.modEng_elapsed (d : Dev) (n : Nat) (f : EngSt → EngSt) : (d.modEng n f).elapsed = d.elapsed := rfl
@[simp] theorem Dev.modEng_regs (d : Dev) (n : Nat) (f : EngSt → EngSt) : (d.modEng n f).regs = d.regs := rfl
@[simp] theorem Dev.modEng_snaps (d : Dev) (n : Nat) (f : EngSt → EngSt) : (d.modEng n f).snaps = d.snaps := rfl
@[simp] theorem Dev.modEng_draws (d : Dev) (n : Nat) (f : EngSt → EngSt) : (d.modEng n f).draws = d.draws := rfl
@[simp] theorem Dev.modEng_disc (d : Dev) (n : Nat) (f : EngSt → EngSt) : (d.modEng n f).disc = d.disc := rfl
@[simp] theorem Dev.modEng_paths (d : Dev) (n : Nat) (f : EngSt → EngSt) : (d.modEng n f).paths = d.paths := rfl
@[simp] theorem Dev.modEng_ldg (d : Dev) (n : Nat) (f : EngSt → EngSt) : (d.modEng n f).ldg = d.ldg := rfl
@[simp] theorem Dev.modEng_tok (d : Dev) (n : Nat) (f : EngSt → EngSt) : (d.modEng n f).tok = d.tok := rfl
@[simp] theorem Dev.modEng_flt (d : Dev) (n : Nat) (f : EngSt → EngSt) : (d.modEng n f).flt = d.flt := rfl
@[simp] theorem Dev.modEng_host (d : Dev) (n : Nat) (f : EngSt → EngSt) : (d.modEng n f).host = d.host := rfl
@[simp] theorem Dev.modEng_pln (d : Dev) (n : Nat) (f : EngSt → EngSt) : (d.modEng n f).pln = d.pln := rfl
@[simp] theorem Dev.modEng_maps (d : Dev) (n : Nat) (f : EngSt → EngSt) : (d.modEng n f).maps = d.maps := rfl
@[simp] theorem Dev.modEng_ls (d : Dev) (n : Nat) (f : EngSt → EngSt) : (d.modEng n f).ls = d.ls := rfl
@[simp] theorem Dev.modEng_tsets (d : Dev) (n : Nat) (f : EngSt → EngSt) : (d.modEng n f).tsets = d.tsets := rfl
@[simp] theorem Dev.modEng_pins (d : Dev) (n : Nat) (f : EngSt → EngSt) : (d.modEng n f).pins = d.pins := rfl
@[simp] theorem Dev.modEng_banks (d : Dev) (n : Nat) (f : EngSt → EngSt) : (d.modEng n f).banks = d.banks := rfl
@[simp] theorem Dev.modEng_fcap (d : Dev) (n : Nat) (f : EngSt → EngSt) : (d.modEng n f).fcap = d.fcap := rfl
@[simp] theorem Dev.modEng_tia (d : Dev) (n : Nat) (f : EngSt → EngSt) : (d.modEng n f).tia = d.tia := rfl
@[simp] theorem Dev.modEng_cal (d : Dev) (n : Nat) (f : EngSt → EngSt) : (d.modEng n f).cal = d.cal := rfl
@[simp] theorem Dev.modEng_trg (d : Dev) (n : Nat) (f : EngSt → EngSt) : (d.modEng n f).trg = d.trg := rfl
@[simp] theorem Dev.modEng_aqs (d : Dev) (n : Nat) (f : EngSt → EngSt) : (d.modEng n f).aqs = d.aqs := rfl
@[simp] theorem Dev.modEng_acq (d : Dev) (n : Nat) (f : EngSt → EngSt) : (d.modEng n f).acq = d.acq := rfl
@[simp] theorem Dev.modEng_smc (d : Dev) (n : Nat) (f : EngSt → EngSt) : (d.modEng n f).smc = d.smc := rfl
@[simp] theorem Dev.modEng_drc (d : Dev) (n : Nat) (f : EngSt → EngSt) : (d.modEng n f).drc = d.drc := rfl
@[simp] theorem Dev.modEng_hks (d : Dev) (n : Nat) (f : EngSt → EngSt) : (d.modEng n f).hks = d.hks := rfl
@[simp] theorem Dev.modEng_boot (d : Dev) (n : Nat) (f : EngSt → EngSt) : (d.modEng n f).boot = d.boot := rfl
@[simp] theorem Dev.modEng_gov (d : Dev) (n : Nat) (f : EngSt → EngSt) : (d.modEng n f).gov = d.gov := rfl

/-! ### `modTset` -/

@[simp] theorem Dev.modTset_count (d : Dev) (n : Nat) (f : TsetSt → TsetSt) : (d.modTset n f).count = d.count := rfl
@[simp] theorem Dev.modTset_elapsed (d : Dev) (n : Nat) (f : TsetSt → TsetSt) : (d.modTset n f).elapsed = d.elapsed := rfl
@[simp] theorem Dev.modTset_regs (d : Dev) (n : Nat) (f : TsetSt → TsetSt) : (d.modTset n f).regs = d.regs := rfl
@[simp] theorem Dev.modTset_snaps (d : Dev) (n : Nat) (f : TsetSt → TsetSt) : (d.modTset n f).snaps = d.snaps := rfl
@[simp] theorem Dev.modTset_draws (d : Dev) (n : Nat) (f : TsetSt → TsetSt) : (d.modTset n f).draws = d.draws := rfl
@[simp] theorem Dev.modTset_disc (d : Dev) (n : Nat) (f : TsetSt → TsetSt) : (d.modTset n f).disc = d.disc := rfl
@[simp] theorem Dev.modTset_paths (d : Dev) (n : Nat) (f : TsetSt → TsetSt) : (d.modTset n f).paths = d.paths := rfl
@[simp] theorem Dev.modTset_ldg (d : Dev) (n : Nat) (f : TsetSt → TsetSt) : (d.modTset n f).ldg = d.ldg := rfl
@[simp] theorem Dev.modTset_tok (d : Dev) (n : Nat) (f : TsetSt → TsetSt) : (d.modTset n f).tok = d.tok := rfl
@[simp] theorem Dev.modTset_flt (d : Dev) (n : Nat) (f : TsetSt → TsetSt) : (d.modTset n f).flt = d.flt := rfl
@[simp] theorem Dev.modTset_host (d : Dev) (n : Nat) (f : TsetSt → TsetSt) : (d.modTset n f).host = d.host := rfl
@[simp] theorem Dev.modTset_pln (d : Dev) (n : Nat) (f : TsetSt → TsetSt) : (d.modTset n f).pln = d.pln := rfl
@[simp] theorem Dev.modTset_maps (d : Dev) (n : Nat) (f : TsetSt → TsetSt) : (d.modTset n f).maps = d.maps := rfl
@[simp] theorem Dev.modTset_ls (d : Dev) (n : Nat) (f : TsetSt → TsetSt) : (d.modTset n f).ls = d.ls := rfl
@[simp] theorem Dev.modTset_engs (d : Dev) (n : Nat) (f : TsetSt → TsetSt) : (d.modTset n f).engs = d.engs := rfl
@[simp] theorem Dev.modTset_pins (d : Dev) (n : Nat) (f : TsetSt → TsetSt) : (d.modTset n f).pins = d.pins := rfl
@[simp] theorem Dev.modTset_banks (d : Dev) (n : Nat) (f : TsetSt → TsetSt) : (d.modTset n f).banks = d.banks := rfl
@[simp] theorem Dev.modTset_fcap (d : Dev) (n : Nat) (f : TsetSt → TsetSt) : (d.modTset n f).fcap = d.fcap := rfl
@[simp] theorem Dev.modTset_tia (d : Dev) (n : Nat) (f : TsetSt → TsetSt) : (d.modTset n f).tia = d.tia := rfl
@[simp] theorem Dev.modTset_cal (d : Dev) (n : Nat) (f : TsetSt → TsetSt) : (d.modTset n f).cal = d.cal := rfl
@[simp] theorem Dev.modTset_trg (d : Dev) (n : Nat) (f : TsetSt → TsetSt) : (d.modTset n f).trg = d.trg := rfl
@[simp] theorem Dev.modTset_aqs (d : Dev) (n : Nat) (f : TsetSt → TsetSt) : (d.modTset n f).aqs = d.aqs := rfl
@[simp] theorem Dev.modTset_acq (d : Dev) (n : Nat) (f : TsetSt → TsetSt) : (d.modTset n f).acq = d.acq := rfl
@[simp] theorem Dev.modTset_smc (d : Dev) (n : Nat) (f : TsetSt → TsetSt) : (d.modTset n f).smc = d.smc := rfl
@[simp] theorem Dev.modTset_drc (d : Dev) (n : Nat) (f : TsetSt → TsetSt) : (d.modTset n f).drc = d.drc := rfl
@[simp] theorem Dev.modTset_hks (d : Dev) (n : Nat) (f : TsetSt → TsetSt) : (d.modTset n f).hks = d.hks := rfl
@[simp] theorem Dev.modTset_boot (d : Dev) (n : Nat) (f : TsetSt → TsetSt) : (d.modTset n f).boot = d.boot := rfl
@[simp] theorem Dev.modTset_gov (d : Dev) (n : Nat) (f : TsetSt → TsetSt) : (d.modTset n f).gov = d.gov := rfl

/-! ### `modPin` -/

@[simp] theorem Dev.modPin_count (d : Dev) (c : Nat) (f : PinSt → PinSt) : (d.modPin c f).count = d.count := rfl
@[simp] theorem Dev.modPin_elapsed (d : Dev) (c : Nat) (f : PinSt → PinSt) : (d.modPin c f).elapsed = d.elapsed := rfl
@[simp] theorem Dev.modPin_regs (d : Dev) (c : Nat) (f : PinSt → PinSt) : (d.modPin c f).regs = d.regs := rfl
@[simp] theorem Dev.modPin_snaps (d : Dev) (c : Nat) (f : PinSt → PinSt) : (d.modPin c f).snaps = d.snaps := rfl
@[simp] theorem Dev.modPin_draws (d : Dev) (c : Nat) (f : PinSt → PinSt) : (d.modPin c f).draws = d.draws := rfl
@[simp] theorem Dev.modPin_disc (d : Dev) (c : Nat) (f : PinSt → PinSt) : (d.modPin c f).disc = d.disc := rfl
@[simp] theorem Dev.modPin_paths (d : Dev) (c : Nat) (f : PinSt → PinSt) : (d.modPin c f).paths = d.paths := rfl
@[simp] theorem Dev.modPin_ldg (d : Dev) (c : Nat) (f : PinSt → PinSt) : (d.modPin c f).ldg = d.ldg := rfl
@[simp] theorem Dev.modPin_tok (d : Dev) (c : Nat) (f : PinSt → PinSt) : (d.modPin c f).tok = d.tok := rfl
@[simp] theorem Dev.modPin_flt (d : Dev) (c : Nat) (f : PinSt → PinSt) : (d.modPin c f).flt = d.flt := rfl
@[simp] theorem Dev.modPin_host (d : Dev) (c : Nat) (f : PinSt → PinSt) : (d.modPin c f).host = d.host := rfl
@[simp] theorem Dev.modPin_pln (d : Dev) (c : Nat) (f : PinSt → PinSt) : (d.modPin c f).pln = d.pln := rfl
@[simp] theorem Dev.modPin_maps (d : Dev) (c : Nat) (f : PinSt → PinSt) : (d.modPin c f).maps = d.maps := rfl
@[simp] theorem Dev.modPin_ls (d : Dev) (c : Nat) (f : PinSt → PinSt) : (d.modPin c f).ls = d.ls := rfl
@[simp] theorem Dev.modPin_engs (d : Dev) (c : Nat) (f : PinSt → PinSt) : (d.modPin c f).engs = d.engs := rfl
@[simp] theorem Dev.modPin_tsets (d : Dev) (c : Nat) (f : PinSt → PinSt) : (d.modPin c f).tsets = d.tsets := rfl
@[simp] theorem Dev.modPin_banks (d : Dev) (c : Nat) (f : PinSt → PinSt) : (d.modPin c f).banks = d.banks := rfl
@[simp] theorem Dev.modPin_fcap (d : Dev) (c : Nat) (f : PinSt → PinSt) : (d.modPin c f).fcap = d.fcap := rfl
@[simp] theorem Dev.modPin_tia (d : Dev) (c : Nat) (f : PinSt → PinSt) : (d.modPin c f).tia = d.tia := rfl
@[simp] theorem Dev.modPin_cal (d : Dev) (c : Nat) (f : PinSt → PinSt) : (d.modPin c f).cal = d.cal := rfl
@[simp] theorem Dev.modPin_trg (d : Dev) (c : Nat) (f : PinSt → PinSt) : (d.modPin c f).trg = d.trg := rfl
@[simp] theorem Dev.modPin_aqs (d : Dev) (c : Nat) (f : PinSt → PinSt) : (d.modPin c f).aqs = d.aqs := rfl
@[simp] theorem Dev.modPin_acq (d : Dev) (c : Nat) (f : PinSt → PinSt) : (d.modPin c f).acq = d.acq := rfl
@[simp] theorem Dev.modPin_smc (d : Dev) (c : Nat) (f : PinSt → PinSt) : (d.modPin c f).smc = d.smc := rfl
@[simp] theorem Dev.modPin_drc (d : Dev) (c : Nat) (f : PinSt → PinSt) : (d.modPin c f).drc = d.drc := rfl
@[simp] theorem Dev.modPin_hks (d : Dev) (c : Nat) (f : PinSt → PinSt) : (d.modPin c f).hks = d.hks := rfl
@[simp] theorem Dev.modPin_boot (d : Dev) (c : Nat) (f : PinSt → PinSt) : (d.modPin c f).boot = d.boot := rfl
@[simp] theorem Dev.modPin_gov (d : Dev) (c : Nat) (f : PinSt → PinSt) : (d.modPin c f).gov = d.gov := rfl

/-! ### `modFc` -/

@[simp] theorem Dev.modFc_count (d : Dev) (n : Nat) (f : FcapSt → FcapSt) : (d.modFc n f).count = d.count := rfl
@[simp] theorem Dev.modFc_elapsed (d : Dev) (n : Nat) (f : FcapSt → FcapSt) : (d.modFc n f).elapsed = d.elapsed := rfl
@[simp] theorem Dev.modFc_regs (d : Dev) (n : Nat) (f : FcapSt → FcapSt) : (d.modFc n f).regs = d.regs := rfl
@[simp] theorem Dev.modFc_snaps (d : Dev) (n : Nat) (f : FcapSt → FcapSt) : (d.modFc n f).snaps = d.snaps := rfl
@[simp] theorem Dev.modFc_draws (d : Dev) (n : Nat) (f : FcapSt → FcapSt) : (d.modFc n f).draws = d.draws := rfl
@[simp] theorem Dev.modFc_disc (d : Dev) (n : Nat) (f : FcapSt → FcapSt) : (d.modFc n f).disc = d.disc := rfl
@[simp] theorem Dev.modFc_paths (d : Dev) (n : Nat) (f : FcapSt → FcapSt) : (d.modFc n f).paths = d.paths := rfl
@[simp] theorem Dev.modFc_ldg (d : Dev) (n : Nat) (f : FcapSt → FcapSt) : (d.modFc n f).ldg = d.ldg := rfl
@[simp] theorem Dev.modFc_tok (d : Dev) (n : Nat) (f : FcapSt → FcapSt) : (d.modFc n f).tok = d.tok := rfl
@[simp] theorem Dev.modFc_flt (d : Dev) (n : Nat) (f : FcapSt → FcapSt) : (d.modFc n f).flt = d.flt := rfl
@[simp] theorem Dev.modFc_host (d : Dev) (n : Nat) (f : FcapSt → FcapSt) : (d.modFc n f).host = d.host := rfl
@[simp] theorem Dev.modFc_pln (d : Dev) (n : Nat) (f : FcapSt → FcapSt) : (d.modFc n f).pln = d.pln := rfl
@[simp] theorem Dev.modFc_maps (d : Dev) (n : Nat) (f : FcapSt → FcapSt) : (d.modFc n f).maps = d.maps := rfl
@[simp] theorem Dev.modFc_ls (d : Dev) (n : Nat) (f : FcapSt → FcapSt) : (d.modFc n f).ls = d.ls := rfl
@[simp] theorem Dev.modFc_engs (d : Dev) (n : Nat) (f : FcapSt → FcapSt) : (d.modFc n f).engs = d.engs := rfl
@[simp] theorem Dev.modFc_tsets (d : Dev) (n : Nat) (f : FcapSt → FcapSt) : (d.modFc n f).tsets = d.tsets := rfl
@[simp] theorem Dev.modFc_pins (d : Dev) (n : Nat) (f : FcapSt → FcapSt) : (d.modFc n f).pins = d.pins := rfl
@[simp] theorem Dev.modFc_banks (d : Dev) (n : Nat) (f : FcapSt → FcapSt) : (d.modFc n f).banks = d.banks := rfl
@[simp] theorem Dev.modFc_tia (d : Dev) (n : Nat) (f : FcapSt → FcapSt) : (d.modFc n f).tia = d.tia := rfl
@[simp] theorem Dev.modFc_cal (d : Dev) (n : Nat) (f : FcapSt → FcapSt) : (d.modFc n f).cal = d.cal := rfl
@[simp] theorem Dev.modFc_trg (d : Dev) (n : Nat) (f : FcapSt → FcapSt) : (d.modFc n f).trg = d.trg := rfl
@[simp] theorem Dev.modFc_aqs (d : Dev) (n : Nat) (f : FcapSt → FcapSt) : (d.modFc n f).aqs = d.aqs := rfl
@[simp] theorem Dev.modFc_acq (d : Dev) (n : Nat) (f : FcapSt → FcapSt) : (d.modFc n f).acq = d.acq := rfl
@[simp] theorem Dev.modFc_smc (d : Dev) (n : Nat) (f : FcapSt → FcapSt) : (d.modFc n f).smc = d.smc := rfl
@[simp] theorem Dev.modFc_drc (d : Dev) (n : Nat) (f : FcapSt → FcapSt) : (d.modFc n f).drc = d.drc := rfl
@[simp] theorem Dev.modFc_hks (d : Dev) (n : Nat) (f : FcapSt → FcapSt) : (d.modFc n f).hks = d.hks := rfl
@[simp] theorem Dev.modFc_boot (d : Dev) (n : Nat) (f : FcapSt → FcapSt) : (d.modFc n f).boot = d.boot := rfl
@[simp] theorem Dev.modFc_gov (d : Dev) (n : Nat) (f : FcapSt → FcapSt) : (d.modFc n f).gov = d.gov := rfl

/-! ### `modBank` -/

@[simp] theorem Dev.modBank_count (d : Dev) (b : Nat) (f : BankSt → BankSt) : (d.modBank b f).count = d.count := rfl
@[simp] theorem Dev.modBank_elapsed (d : Dev) (b : Nat) (f : BankSt → BankSt) : (d.modBank b f).elapsed = d.elapsed := rfl
@[simp] theorem Dev.modBank_regs (d : Dev) (b : Nat) (f : BankSt → BankSt) : (d.modBank b f).regs = d.regs := rfl
@[simp] theorem Dev.modBank_snaps (d : Dev) (b : Nat) (f : BankSt → BankSt) : (d.modBank b f).snaps = d.snaps := rfl
@[simp] theorem Dev.modBank_draws (d : Dev) (b : Nat) (f : BankSt → BankSt) : (d.modBank b f).draws = d.draws := rfl
@[simp] theorem Dev.modBank_disc (d : Dev) (b : Nat) (f : BankSt → BankSt) : (d.modBank b f).disc = d.disc := rfl
@[simp] theorem Dev.modBank_paths (d : Dev) (b : Nat) (f : BankSt → BankSt) : (d.modBank b f).paths = d.paths := rfl
@[simp] theorem Dev.modBank_ldg (d : Dev) (b : Nat) (f : BankSt → BankSt) : (d.modBank b f).ldg = d.ldg := rfl
@[simp] theorem Dev.modBank_tok (d : Dev) (b : Nat) (f : BankSt → BankSt) : (d.modBank b f).tok = d.tok := rfl
@[simp] theorem Dev.modBank_flt (d : Dev) (b : Nat) (f : BankSt → BankSt) : (d.modBank b f).flt = d.flt := rfl
@[simp] theorem Dev.modBank_host (d : Dev) (b : Nat) (f : BankSt → BankSt) : (d.modBank b f).host = d.host := rfl
@[simp] theorem Dev.modBank_pln (d : Dev) (b : Nat) (f : BankSt → BankSt) : (d.modBank b f).pln = d.pln := rfl
@[simp] theorem Dev.modBank_maps (d : Dev) (b : Nat) (f : BankSt → BankSt) : (d.modBank b f).maps = d.maps := rfl
@[simp] theorem Dev.modBank_ls (d : Dev) (b : Nat) (f : BankSt → BankSt) : (d.modBank b f).ls = d.ls := rfl
@[simp] theorem Dev.modBank_engs (d : Dev) (b : Nat) (f : BankSt → BankSt) : (d.modBank b f).engs = d.engs := rfl
@[simp] theorem Dev.modBank_tsets (d : Dev) (b : Nat) (f : BankSt → BankSt) : (d.modBank b f).tsets = d.tsets := rfl
@[simp] theorem Dev.modBank_pins (d : Dev) (b : Nat) (f : BankSt → BankSt) : (d.modBank b f).pins = d.pins := rfl
@[simp] theorem Dev.modBank_fcap (d : Dev) (b : Nat) (f : BankSt → BankSt) : (d.modBank b f).fcap = d.fcap := rfl
@[simp] theorem Dev.modBank_tia (d : Dev) (b : Nat) (f : BankSt → BankSt) : (d.modBank b f).tia = d.tia := rfl
@[simp] theorem Dev.modBank_cal (d : Dev) (b : Nat) (f : BankSt → BankSt) : (d.modBank b f).cal = d.cal := rfl
@[simp] theorem Dev.modBank_trg (d : Dev) (b : Nat) (f : BankSt → BankSt) : (d.modBank b f).trg = d.trg := rfl
@[simp] theorem Dev.modBank_aqs (d : Dev) (b : Nat) (f : BankSt → BankSt) : (d.modBank b f).aqs = d.aqs := rfl
@[simp] theorem Dev.modBank_acq (d : Dev) (b : Nat) (f : BankSt → BankSt) : (d.modBank b f).acq = d.acq := rfl
@[simp] theorem Dev.modBank_smc (d : Dev) (b : Nat) (f : BankSt → BankSt) : (d.modBank b f).smc = d.smc := rfl
@[simp] theorem Dev.modBank_drc (d : Dev) (b : Nat) (f : BankSt → BankSt) : (d.modBank b f).drc = d.drc := rfl
@[simp] theorem Dev.modBank_hks (d : Dev) (b : Nat) (f : BankSt → BankSt) : (d.modBank b f).hks = d.hks := rfl
@[simp] theorem Dev.modBank_boot (d : Dev) (b : Nat) (f : BankSt → BankSt) : (d.modBank b f).boot = d.boot := rfl
@[simp] theorem Dev.modBank_gov (d : Dev) (b : Nat) (f : BankSt → BankSt) : (d.modBank b f).gov = d.gov := rfl

/-! ### `modMeas` -/

@[simp] theorem Dev.modMeas_count (d : Dev) (k : Nat) (f : TiaM → TiaM) : (d.modMeas k f).count = d.count := rfl
@[simp] theorem Dev.modMeas_elapsed (d : Dev) (k : Nat) (f : TiaM → TiaM) : (d.modMeas k f).elapsed = d.elapsed := rfl
@[simp] theorem Dev.modMeas_regs (d : Dev) (k : Nat) (f : TiaM → TiaM) : (d.modMeas k f).regs = d.regs := rfl
@[simp] theorem Dev.modMeas_snaps (d : Dev) (k : Nat) (f : TiaM → TiaM) : (d.modMeas k f).snaps = d.snaps := rfl
@[simp] theorem Dev.modMeas_draws (d : Dev) (k : Nat) (f : TiaM → TiaM) : (d.modMeas k f).draws = d.draws := rfl
@[simp] theorem Dev.modMeas_disc (d : Dev) (k : Nat) (f : TiaM → TiaM) : (d.modMeas k f).disc = d.disc := rfl
@[simp] theorem Dev.modMeas_paths (d : Dev) (k : Nat) (f : TiaM → TiaM) : (d.modMeas k f).paths = d.paths := rfl
@[simp] theorem Dev.modMeas_ldg (d : Dev) (k : Nat) (f : TiaM → TiaM) : (d.modMeas k f).ldg = d.ldg := rfl
@[simp] theorem Dev.modMeas_tok (d : Dev) (k : Nat) (f : TiaM → TiaM) : (d.modMeas k f).tok = d.tok := rfl
@[simp] theorem Dev.modMeas_flt (d : Dev) (k : Nat) (f : TiaM → TiaM) : (d.modMeas k f).flt = d.flt := rfl
@[simp] theorem Dev.modMeas_host (d : Dev) (k : Nat) (f : TiaM → TiaM) : (d.modMeas k f).host = d.host := rfl
@[simp] theorem Dev.modMeas_pln (d : Dev) (k : Nat) (f : TiaM → TiaM) : (d.modMeas k f).pln = d.pln := rfl
@[simp] theorem Dev.modMeas_maps (d : Dev) (k : Nat) (f : TiaM → TiaM) : (d.modMeas k f).maps = d.maps := rfl
@[simp] theorem Dev.modMeas_ls (d : Dev) (k : Nat) (f : TiaM → TiaM) : (d.modMeas k f).ls = d.ls := rfl
@[simp] theorem Dev.modMeas_engs (d : Dev) (k : Nat) (f : TiaM → TiaM) : (d.modMeas k f).engs = d.engs := rfl
@[simp] theorem Dev.modMeas_tsets (d : Dev) (k : Nat) (f : TiaM → TiaM) : (d.modMeas k f).tsets = d.tsets := rfl
@[simp] theorem Dev.modMeas_pins (d : Dev) (k : Nat) (f : TiaM → TiaM) : (d.modMeas k f).pins = d.pins := rfl
@[simp] theorem Dev.modMeas_banks (d : Dev) (k : Nat) (f : TiaM → TiaM) : (d.modMeas k f).banks = d.banks := rfl
@[simp] theorem Dev.modMeas_fcap (d : Dev) (k : Nat) (f : TiaM → TiaM) : (d.modMeas k f).fcap = d.fcap := rfl
@[simp] theorem Dev.modMeas_cal (d : Dev) (k : Nat) (f : TiaM → TiaM) : (d.modMeas k f).cal = d.cal := rfl
@[simp] theorem Dev.modMeas_trg (d : Dev) (k : Nat) (f : TiaM → TiaM) : (d.modMeas k f).trg = d.trg := rfl
@[simp] theorem Dev.modMeas_aqs (d : Dev) (k : Nat) (f : TiaM → TiaM) : (d.modMeas k f).aqs = d.aqs := rfl
@[simp] theorem Dev.modMeas_acq (d : Dev) (k : Nat) (f : TiaM → TiaM) : (d.modMeas k f).acq = d.acq := rfl
@[simp] theorem Dev.modMeas_smc (d : Dev) (k : Nat) (f : TiaM → TiaM) : (d.modMeas k f).smc = d.smc := rfl
@[simp] theorem Dev.modMeas_drc (d : Dev) (k : Nat) (f : TiaM → TiaM) : (d.modMeas k f).drc = d.drc := rfl
@[simp] theorem Dev.modMeas_hks (d : Dev) (k : Nat) (f : TiaM → TiaM) : (d.modMeas k f).hks = d.hks := rfl
@[simp] theorem Dev.modMeas_boot (d : Dev) (k : Nat) (f : TiaM → TiaM) : (d.modMeas k f).boot = d.boot := rfl
@[simp] theorem Dev.modMeas_gov (d : Dev) (k : Nat) (f : TiaM → TiaM) : (d.modMeas k f).gov = d.gov := rfl

/-! ### `modBlk` -/

@[simp] theorem Dev.modBlk_count (d : Dev) (b : Nat) (f : BlkRt → BlkRt) : (d.modBlk b f).count = d.count := rfl
@[simp] theorem Dev.modBlk_elapsed (d : Dev) (b : Nat) (f : BlkRt → BlkRt) : (d.modBlk b f).elapsed = d.elapsed := rfl
@[simp] theorem Dev.modBlk_regs (d : Dev) (b : Nat) (f : BlkRt → BlkRt) : (d.modBlk b f).regs = d.regs := rfl
@[simp] theorem Dev.modBlk_snaps (d : Dev) (b : Nat) (f : BlkRt → BlkRt) : (d.modBlk b f).snaps = d.snaps := rfl
@[simp] theorem Dev.modBlk_draws (d : Dev) (b : Nat) (f : BlkRt → BlkRt) : (d.modBlk b f).draws = d.draws := rfl
@[simp] theorem Dev.modBlk_disc (d : Dev) (b : Nat) (f : BlkRt → BlkRt) : (d.modBlk b f).disc = d.disc := rfl
@[simp] theorem Dev.modBlk_paths (d : Dev) (b : Nat) (f : BlkRt → BlkRt) : (d.modBlk b f).paths = d.paths := rfl
@[simp] theorem Dev.modBlk_ldg (d : Dev) (b : Nat) (f : BlkRt → BlkRt) : (d.modBlk b f).ldg = d.ldg := rfl
@[simp] theorem Dev.modBlk_tok (d : Dev) (b : Nat) (f : BlkRt → BlkRt) : (d.modBlk b f).tok = d.tok := rfl
@[simp] theorem Dev.modBlk_host (d : Dev) (b : Nat) (f : BlkRt → BlkRt) : (d.modBlk b f).host = d.host := rfl
@[simp] theorem Dev.modBlk_pln (d : Dev) (b : Nat) (f : BlkRt → BlkRt) : (d.modBlk b f).pln = d.pln := rfl
@[simp] theorem Dev.modBlk_maps (d : Dev) (b : Nat) (f : BlkRt → BlkRt) : (d.modBlk b f).maps = d.maps := rfl
@[simp] theorem Dev.modBlk_ls (d : Dev) (b : Nat) (f : BlkRt → BlkRt) : (d.modBlk b f).ls = d.ls := rfl
@[simp] theorem Dev.modBlk_engs (d : Dev) (b : Nat) (f : BlkRt → BlkRt) : (d.modBlk b f).engs = d.engs := rfl
@[simp] theorem Dev.modBlk_tsets (d : Dev) (b : Nat) (f : BlkRt → BlkRt) : (d.modBlk b f).tsets = d.tsets := rfl
@[simp] theorem Dev.modBlk_pins (d : Dev) (b : Nat) (f : BlkRt → BlkRt) : (d.modBlk b f).pins = d.pins := rfl
@[simp] theorem Dev.modBlk_banks (d : Dev) (b : Nat) (f : BlkRt → BlkRt) : (d.modBlk b f).banks = d.banks := rfl
@[simp] theorem Dev.modBlk_fcap (d : Dev) (b : Nat) (f : BlkRt → BlkRt) : (d.modBlk b f).fcap = d.fcap := rfl
@[simp] theorem Dev.modBlk_tia (d : Dev) (b : Nat) (f : BlkRt → BlkRt) : (d.modBlk b f).tia = d.tia := rfl
@[simp] theorem Dev.modBlk_cal (d : Dev) (b : Nat) (f : BlkRt → BlkRt) : (d.modBlk b f).cal = d.cal := rfl
@[simp] theorem Dev.modBlk_trg (d : Dev) (b : Nat) (f : BlkRt → BlkRt) : (d.modBlk b f).trg = d.trg := rfl
@[simp] theorem Dev.modBlk_aqs (d : Dev) (b : Nat) (f : BlkRt → BlkRt) : (d.modBlk b f).aqs = d.aqs := rfl
@[simp] theorem Dev.modBlk_acq (d : Dev) (b : Nat) (f : BlkRt → BlkRt) : (d.modBlk b f).acq = d.acq := rfl
@[simp] theorem Dev.modBlk_smc (d : Dev) (b : Nat) (f : BlkRt → BlkRt) : (d.modBlk b f).smc = d.smc := rfl
@[simp] theorem Dev.modBlk_drc (d : Dev) (b : Nat) (f : BlkRt → BlkRt) : (d.modBlk b f).drc = d.drc := rfl
@[simp] theorem Dev.modBlk_hks (d : Dev) (b : Nat) (f : BlkRt → BlkRt) : (d.modBlk b f).hks = d.hks := rfl
@[simp] theorem Dev.modBlk_boot (d : Dev) (b : Nat) (f : BlkRt → BlkRt) : (d.modBlk b f).boot = d.boot := rfl
@[simp] theorem Dev.modBlk_gov (d : Dev) (b : Nat) (f : BlkRt → BlkRt) : (d.modBlk b f).gov = d.gov := rfl

/-! ### `setPath` -/

@[simp] theorem Dev.setPath_count (d : Dev) (p : Nat) (q : PathQ) : (d.setPath p q).count = d.count := rfl
@[simp] theorem Dev.setPath_elapsed (d : Dev) (p : Nat) (q : PathQ) : (d.setPath p q).elapsed = d.elapsed := rfl
@[simp] theorem Dev.setPath_regs (d : Dev) (p : Nat) (q : PathQ) : (d.setPath p q).regs = d.regs := rfl
@[simp] theorem Dev.setPath_snaps (d : Dev) (p : Nat) (q : PathQ) : (d.setPath p q).snaps = d.snaps := rfl
@[simp] theorem Dev.setPath_draws (d : Dev) (p : Nat) (q : PathQ) : (d.setPath p q).draws = d.draws := rfl
@[simp] theorem Dev.setPath_disc (d : Dev) (p : Nat) (q : PathQ) : (d.setPath p q).disc = d.disc := rfl
@[simp] theorem Dev.setPath_ldg (d : Dev) (p : Nat) (q : PathQ) : (d.setPath p q).ldg = d.ldg := rfl
@[simp] theorem Dev.setPath_tok (d : Dev) (p : Nat) (q : PathQ) : (d.setPath p q).tok = d.tok := rfl
@[simp] theorem Dev.setPath_flt (d : Dev) (p : Nat) (q : PathQ) : (d.setPath p q).flt = d.flt := rfl
@[simp] theorem Dev.setPath_host (d : Dev) (p : Nat) (q : PathQ) : (d.setPath p q).host = d.host := rfl
@[simp] theorem Dev.setPath_pln (d : Dev) (p : Nat) (q : PathQ) : (d.setPath p q).pln = d.pln := rfl
@[simp] theorem Dev.setPath_maps (d : Dev) (p : Nat) (q : PathQ) : (d.setPath p q).maps = d.maps := rfl
@[simp] theorem Dev.setPath_ls (d : Dev) (p : Nat) (q : PathQ) : (d.setPath p q).ls = d.ls := rfl
@[simp] theorem Dev.setPath_engs (d : Dev) (p : Nat) (q : PathQ) : (d.setPath p q).engs = d.engs := rfl
@[simp] theorem Dev.setPath_tsets (d : Dev) (p : Nat) (q : PathQ) : (d.setPath p q).tsets = d.tsets := rfl
@[simp] theorem Dev.setPath_pins (d : Dev) (p : Nat) (q : PathQ) : (d.setPath p q).pins = d.pins := rfl
@[simp] theorem Dev.setPath_banks (d : Dev) (p : Nat) (q : PathQ) : (d.setPath p q).banks = d.banks := rfl
@[simp] theorem Dev.setPath_fcap (d : Dev) (p : Nat) (q : PathQ) : (d.setPath p q).fcap = d.fcap := rfl
@[simp] theorem Dev.setPath_tia (d : Dev) (p : Nat) (q : PathQ) : (d.setPath p q).tia = d.tia := rfl
@[simp] theorem Dev.setPath_cal (d : Dev) (p : Nat) (q : PathQ) : (d.setPath p q).cal = d.cal := rfl
@[simp] theorem Dev.setPath_trg (d : Dev) (p : Nat) (q : PathQ) : (d.setPath p q).trg = d.trg := rfl
@[simp] theorem Dev.setPath_aqs (d : Dev) (p : Nat) (q : PathQ) : (d.setPath p q).aqs = d.aqs := rfl
@[simp] theorem Dev.setPath_acq (d : Dev) (p : Nat) (q : PathQ) : (d.setPath p q).acq = d.acq := rfl
@[simp] theorem Dev.setPath_smc (d : Dev) (p : Nat) (q : PathQ) : (d.setPath p q).smc = d.smc := rfl
@[simp] theorem Dev.setPath_drc (d : Dev) (p : Nat) (q : PathQ) : (d.setPath p q).drc = d.drc := rfl
@[simp] theorem Dev.setPath_hks (d : Dev) (p : Nat) (q : PathQ) : (d.setPath p q).hks = d.hks := rfl
@[simp] theorem Dev.setPath_boot (d : Dev) (p : Nat) (q : PathQ) : (d.setPath p q).boot = d.boot := rfl
@[simp] theorem Dev.setPath_gov (d : Dev) (p : Nat) (q : PathQ) : (d.setPath p q).gov = d.gov := rfl

/-! ### `take` -/

@[simp] theorem Dev.take_count (d : Dev) (p h n : Nat) : (d.take p h n).count = d.count := rfl
@[simp] theorem Dev.take_elapsed (d : Dev) (p h n : Nat) : (d.take p h n).elapsed = d.elapsed := rfl
@[simp] theorem Dev.take_regs (d : Dev) (p h n : Nat) : (d.take p h n).regs = d.regs := rfl
@[simp] theorem Dev.take_snaps (d : Dev) (p h n : Nat) : (d.take p h n).snaps = d.snaps := rfl
@[simp] theorem Dev.take_draws (d : Dev) (p h n : Nat) : (d.take p h n).draws = d.draws := rfl
@[simp] theorem Dev.take_disc (d : Dev) (p h n : Nat) : (d.take p h n).disc = d.disc := rfl
@[simp] theorem Dev.take_paths (d : Dev) (p h n : Nat) : (d.take p h n).paths = d.paths := rfl
@[simp] theorem Dev.take_ldg (d : Dev) (p h n : Nat) : (d.take p h n).ldg = d.ldg := rfl
@[simp] theorem Dev.take_flt (d : Dev) (p h n : Nat) : (d.take p h n).flt = d.flt := rfl
@[simp] theorem Dev.take_host (d : Dev) (p h n : Nat) : (d.take p h n).host = d.host := rfl
@[simp] theorem Dev.take_pln (d : Dev) (p h n : Nat) : (d.take p h n).pln = d.pln := rfl
@[simp] theorem Dev.take_maps (d : Dev) (p h n : Nat) : (d.take p h n).maps = d.maps := rfl
@[simp] theorem Dev.take_ls (d : Dev) (p h n : Nat) : (d.take p h n).ls = d.ls := rfl
@[simp] theorem Dev.take_engs (d : Dev) (p h n : Nat) : (d.take p h n).engs = d.engs := rfl
@[simp] theorem Dev.take_tsets (d : Dev) (p h n : Nat) : (d.take p h n).tsets = d.tsets := rfl
@[simp] theorem Dev.take_pins (d : Dev) (p h n : Nat) : (d.take p h n).pins = d.pins := rfl
@[simp] theorem Dev.take_banks (d : Dev) (p h n : Nat) : (d.take p h n).banks = d.banks := rfl
@[simp] theorem Dev.take_fcap (d : Dev) (p h n : Nat) : (d.take p h n).fcap = d.fcap := rfl
@[simp] theorem Dev.take_tia (d : Dev) (p h n : Nat) : (d.take p h n).tia = d.tia := rfl
@[simp] theorem Dev.take_cal (d : Dev) (p h n : Nat) : (d.take p h n).cal = d.cal := rfl
@[simp] theorem Dev.take_trg (d : Dev) (p h n : Nat) : (d.take p h n).trg = d.trg := rfl
@[simp] theorem Dev.take_aqs (d : Dev) (p h n : Nat) : (d.take p h n).aqs = d.aqs := rfl
@[simp] theorem Dev.take_acq (d : Dev) (p h n : Nat) : (d.take p h n).acq = d.acq := rfl
@[simp] theorem Dev.take_smc (d : Dev) (p h n : Nat) : (d.take p h n).smc = d.smc := rfl
@[simp] theorem Dev.take_drc (d : Dev) (p h n : Nat) : (d.take p h n).drc = d.drc := rfl
@[simp] theorem Dev.take_hks (d : Dev) (p h n : Nat) : (d.take p h n).hks = d.hks := rfl
@[simp] theorem Dev.take_boot (d : Dev) (p h n : Nat) : (d.take p h n).boot = d.boot := rfl
@[simp] theorem Dev.take_gov (d : Dev) (p h n : Nat) : (d.take p h n).gov = d.gov := rfl

/-! ### `give` -/

@[simp] theorem Dev.give_count (d : Dev) (p h n : Nat) : (d.give p h n).count = d.count := rfl
@[simp] theorem Dev.give_elapsed (d : Dev) (p h n : Nat) : (d.give p h n).elapsed = d.elapsed := rfl
@[simp] theorem Dev.give_regs (d : Dev) (p h n : Nat) : (d.give p h n).regs = d.regs := rfl
@[simp] theorem Dev.give_snaps (d : Dev) (p h n : Nat) : (d.give p h n).snaps = d.snaps := rfl
@[simp] theorem Dev.give_draws (d : Dev) (p h n : Nat) : (d.give p h n).draws = d.draws := rfl
@[simp] theorem Dev.give_disc (d : Dev) (p h n : Nat) : (d.give p h n).disc = d.disc := rfl
@[simp] theorem Dev.give_paths (d : Dev) (p h n : Nat) : (d.give p h n).paths = d.paths := rfl
@[simp] theorem Dev.give_ldg (d : Dev) (p h n : Nat) : (d.give p h n).ldg = d.ldg := rfl
@[simp] theorem Dev.give_flt (d : Dev) (p h n : Nat) : (d.give p h n).flt = d.flt := rfl
@[simp] theorem Dev.give_host (d : Dev) (p h n : Nat) : (d.give p h n).host = d.host := rfl
@[simp] theorem Dev.give_pln (d : Dev) (p h n : Nat) : (d.give p h n).pln = d.pln := rfl
@[simp] theorem Dev.give_maps (d : Dev) (p h n : Nat) : (d.give p h n).maps = d.maps := rfl
@[simp] theorem Dev.give_ls (d : Dev) (p h n : Nat) : (d.give p h n).ls = d.ls := rfl
@[simp] theorem Dev.give_engs (d : Dev) (p h n : Nat) : (d.give p h n).engs = d.engs := rfl
@[simp] theorem Dev.give_tsets (d : Dev) (p h n : Nat) : (d.give p h n).tsets = d.tsets := rfl
@[simp] theorem Dev.give_pins (d : Dev) (p h n : Nat) : (d.give p h n).pins = d.pins := rfl
@[simp] theorem Dev.give_banks (d : Dev) (p h n : Nat) : (d.give p h n).banks = d.banks := rfl
@[simp] theorem Dev.give_fcap (d : Dev) (p h n : Nat) : (d.give p h n).fcap = d.fcap := rfl
@[simp] theorem Dev.give_tia (d : Dev) (p h n : Nat) : (d.give p h n).tia = d.tia := rfl
@[simp] theorem Dev.give_cal (d : Dev) (p h n : Nat) : (d.give p h n).cal = d.cal := rfl
@[simp] theorem Dev.give_trg (d : Dev) (p h n : Nat) : (d.give p h n).trg = d.trg := rfl
@[simp] theorem Dev.give_aqs (d : Dev) (p h n : Nat) : (d.give p h n).aqs = d.aqs := rfl
@[simp] theorem Dev.give_acq (d : Dev) (p h n : Nat) : (d.give p h n).acq = d.acq := rfl
@[simp] theorem Dev.give_smc (d : Dev) (p h n : Nat) : (d.give p h n).smc = d.smc := rfl
@[simp] theorem Dev.give_drc (d : Dev) (p h n : Nat) : (d.give p h n).drc = d.drc := rfl
@[simp] theorem Dev.give_hks (d : Dev) (p h n : Nat) : (d.give p h n).hks = d.hks := rfl
@[simp] theorem Dev.give_boot (d : Dev) (p h n : Nat) : (d.give p h n).boot = d.boot := rfl
@[simp] theorem Dev.give_gov (d : Dev) (p h n : Nat) : (d.give p h n).gov = d.gov := rfl

/-! ### `deny` -/

@[simp] theorem Dev.deny_count (d : Dev) (p n : Nat) : (d.deny p n).count = d.count := rfl
@[simp] theorem Dev.deny_elapsed (d : Dev) (p n : Nat) : (d.deny p n).elapsed = d.elapsed := rfl
@[simp] theorem Dev.deny_regs (d : Dev) (p n : Nat) : (d.deny p n).regs = d.regs := rfl
@[simp] theorem Dev.deny_snaps (d : Dev) (p n : Nat) : (d.deny p n).snaps = d.snaps := rfl
@[simp] theorem Dev.deny_draws (d : Dev) (p n : Nat) : (d.deny p n).draws = d.draws := rfl
@[simp] theorem Dev.deny_disc (d : Dev) (p n : Nat) : (d.deny p n).disc = d.disc := rfl
@[simp] theorem Dev.deny_paths (d : Dev) (p n : Nat) : (d.deny p n).paths = d.paths := rfl
@[simp] theorem Dev.deny_ldg (d : Dev) (p n : Nat) : (d.deny p n).ldg = d.ldg := rfl
@[simp] theorem Dev.deny_flt (d : Dev) (p n : Nat) : (d.deny p n).flt = d.flt := rfl
@[simp] theorem Dev.deny_host (d : Dev) (p n : Nat) : (d.deny p n).host = d.host := rfl
@[simp] theorem Dev.deny_pln (d : Dev) (p n : Nat) : (d.deny p n).pln = d.pln := rfl
@[simp] theorem Dev.deny_maps (d : Dev) (p n : Nat) : (d.deny p n).maps = d.maps := rfl
@[simp] theorem Dev.deny_ls (d : Dev) (p n : Nat) : (d.deny p n).ls = d.ls := rfl
@[simp] theorem Dev.deny_engs (d : Dev) (p n : Nat) : (d.deny p n).engs = d.engs := rfl
@[simp] theorem Dev.deny_tsets (d : Dev) (p n : Nat) : (d.deny p n).tsets = d.tsets := rfl
@[simp] theorem Dev.deny_pins (d : Dev) (p n : Nat) : (d.deny p n).pins = d.pins := rfl
@[simp] theorem Dev.deny_banks (d : Dev) (p n : Nat) : (d.deny p n).banks = d.banks := rfl
@[simp] theorem Dev.deny_fcap (d : Dev) (p n : Nat) : (d.deny p n).fcap = d.fcap := rfl
@[simp] theorem Dev.deny_tia (d : Dev) (p n : Nat) : (d.deny p n).tia = d.tia := rfl
@[simp] theorem Dev.deny_cal (d : Dev) (p n : Nat) : (d.deny p n).cal = d.cal := rfl
@[simp] theorem Dev.deny_trg (d : Dev) (p n : Nat) : (d.deny p n).trg = d.trg := rfl
@[simp] theorem Dev.deny_aqs (d : Dev) (p n : Nat) : (d.deny p n).aqs = d.aqs := rfl
@[simp] theorem Dev.deny_acq (d : Dev) (p n : Nat) : (d.deny p n).acq = d.acq := rfl
@[simp] theorem Dev.deny_smc (d : Dev) (p n : Nat) : (d.deny p n).smc = d.smc := rfl
@[simp] theorem Dev.deny_drc (d : Dev) (p n : Nat) : (d.deny p n).drc = d.drc := rfl
@[simp] theorem Dev.deny_hks (d : Dev) (p n : Nat) : (d.deny p n).hks = d.hks := rfl
@[simp] theorem Dev.deny_boot (d : Dev) (p n : Nat) : (d.deny p n).boot = d.boot := rfl
@[simp] theorem Dev.deny_gov (d : Dev) (p n : Nat) : (d.deny p n).gov = d.gov := rfl

/-! ### `signal` -/

@[simp] theorem Dev.signal_count (d : Dev) (v : Nat) : (d.signal v).count = d.count := rfl
@[simp] theorem Dev.signal_elapsed (d : Dev) (v : Nat) : (d.signal v).elapsed = d.elapsed := rfl
@[simp] theorem Dev.signal_regs (d : Dev) (v : Nat) : (d.signal v).regs = d.regs := rfl
@[simp] theorem Dev.signal_snaps (d : Dev) (v : Nat) : (d.signal v).snaps = d.snaps := rfl
@[simp] theorem Dev.signal_draws (d : Dev) (v : Nat) : (d.signal v).draws = d.draws := rfl
@[simp] theorem Dev.signal_disc (d : Dev) (v : Nat) : (d.signal v).disc = d.disc := rfl
@[simp] theorem Dev.signal_paths (d : Dev) (v : Nat) : (d.signal v).paths = d.paths := rfl
@[simp] theorem Dev.signal_ldg (d : Dev) (v : Nat) : (d.signal v).ldg = d.ldg := rfl
@[simp] theorem Dev.signal_tok (d : Dev) (v : Nat) : (d.signal v).tok = d.tok := rfl
@[simp] theorem Dev.signal_flt (d : Dev) (v : Nat) : (d.signal v).flt = d.flt := rfl
@[simp] theorem Dev.signal_pln (d : Dev) (v : Nat) : (d.signal v).pln = d.pln := rfl
@[simp] theorem Dev.signal_maps (d : Dev) (v : Nat) : (d.signal v).maps = d.maps := rfl
@[simp] theorem Dev.signal_ls (d : Dev) (v : Nat) : (d.signal v).ls = d.ls := rfl
@[simp] theorem Dev.signal_engs (d : Dev) (v : Nat) : (d.signal v).engs = d.engs := rfl
@[simp] theorem Dev.signal_tsets (d : Dev) (v : Nat) : (d.signal v).tsets = d.tsets := rfl
@[simp] theorem Dev.signal_pins (d : Dev) (v : Nat) : (d.signal v).pins = d.pins := rfl
@[simp] theorem Dev.signal_banks (d : Dev) (v : Nat) : (d.signal v).banks = d.banks := rfl
@[simp] theorem Dev.signal_fcap (d : Dev) (v : Nat) : (d.signal v).fcap = d.fcap := rfl
@[simp] theorem Dev.signal_tia (d : Dev) (v : Nat) : (d.signal v).tia = d.tia := rfl
@[simp] theorem Dev.signal_cal (d : Dev) (v : Nat) : (d.signal v).cal = d.cal := rfl
@[simp] theorem Dev.signal_trg (d : Dev) (v : Nat) : (d.signal v).trg = d.trg := rfl
@[simp] theorem Dev.signal_aqs (d : Dev) (v : Nat) : (d.signal v).aqs = d.aqs := rfl
@[simp] theorem Dev.signal_acq (d : Dev) (v : Nat) : (d.signal v).acq = d.acq := rfl
@[simp] theorem Dev.signal_smc (d : Dev) (v : Nat) : (d.signal v).smc = d.smc := rfl
@[simp] theorem Dev.signal_drc (d : Dev) (v : Nat) : (d.signal v).drc = d.drc := rfl
@[simp] theorem Dev.signal_hks (d : Dev) (v : Nat) : (d.signal v).hks = d.hks := rfl
@[simp] theorem Dev.signal_boot (d : Dev) (v : Nat) : (d.signal v).boot = d.boot := rfl
@[simp] theorem Dev.signal_gov (d : Dev) (v : Nat) : (d.signal v).gov = d.gov := rfl

/-! ### `pass` -/

@[simp] theorem Dev.pass_regs (d : Dev) (k : Nat) : (d.pass k).regs = d.regs := rfl
@[simp] theorem Dev.pass_snaps (d : Dev) (k : Nat) : (d.pass k).snaps = d.snaps := rfl
@[simp] theorem Dev.pass_draws (d : Dev) (k : Nat) : (d.pass k).draws = d.draws := rfl
@[simp] theorem Dev.pass_disc (d : Dev) (k : Nat) : (d.pass k).disc = d.disc := rfl
@[simp] theorem Dev.pass_paths (d : Dev) (k : Nat) : (d.pass k).paths = d.paths := rfl
@[simp] theorem Dev.pass_ldg (d : Dev) (k : Nat) : (d.pass k).ldg = d.ldg := rfl
@[simp] theorem Dev.pass_tok (d : Dev) (k : Nat) : (d.pass k).tok = d.tok := rfl
@[simp] theorem Dev.pass_host (d : Dev) (k : Nat) : (d.pass k).host = d.host := rfl
@[simp] theorem Dev.pass_pln (d : Dev) (k : Nat) : (d.pass k).pln = d.pln := rfl
@[simp] theorem Dev.pass_maps (d : Dev) (k : Nat) : (d.pass k).maps = d.maps := rfl
@[simp] theorem Dev.pass_ls (d : Dev) (k : Nat) : (d.pass k).ls = d.ls := rfl
@[simp] theorem Dev.pass_engs (d : Dev) (k : Nat) : (d.pass k).engs = d.engs := rfl
@[simp] theorem Dev.pass_tsets (d : Dev) (k : Nat) : (d.pass k).tsets = d.tsets := rfl
@[simp] theorem Dev.pass_pins (d : Dev) (k : Nat) : (d.pass k).pins = d.pins := rfl
@[simp] theorem Dev.pass_banks (d : Dev) (k : Nat) : (d.pass k).banks = d.banks := rfl
@[simp] theorem Dev.pass_fcap (d : Dev) (k : Nat) : (d.pass k).fcap = d.fcap := rfl
@[simp] theorem Dev.pass_tia (d : Dev) (k : Nat) : (d.pass k).tia = d.tia := rfl
@[simp] theorem Dev.pass_cal (d : Dev) (k : Nat) : (d.pass k).cal = d.cal := rfl
@[simp] theorem Dev.pass_trg (d : Dev) (k : Nat) : (d.pass k).trg = d.trg := rfl
@[simp] theorem Dev.pass_aqs (d : Dev) (k : Nat) : (d.pass k).aqs = d.aqs := rfl
@[simp] theorem Dev.pass_acq (d : Dev) (k : Nat) : (d.pass k).acq = d.acq := rfl
@[simp] theorem Dev.pass_smc (d : Dev) (k : Nat) : (d.pass k).smc = d.smc := rfl
@[simp] theorem Dev.pass_drc (d : Dev) (k : Nat) : (d.pass k).drc = d.drc := rfl
@[simp] theorem Dev.pass_hks (d : Dev) (k : Nat) : (d.pass k).hks = d.hks := rfl
@[simp] theorem Dev.pass_boot (d : Dev) (k : Nat) : (d.pass k).boot = d.boot := rfl
@[simp] theorem Dev.pass_gov (d : Dev) (k : Nat) : (d.pass k).gov = d.gov := rfl

/-! ### `until` -/

@[simp] theorem Dev.until_regs (d : Dev) (t : Nat) : (d.until t).regs = d.regs := by unfold Dev.until; split <;> rfl
@[simp] theorem Dev.until_snaps (d : Dev) (t : Nat) : (d.until t).snaps = d.snaps := by unfold Dev.until; split <;> rfl
@[simp] theorem Dev.until_draws (d : Dev) (t : Nat) : (d.until t).draws = d.draws := by unfold Dev.until; split <;> rfl
@[simp] theorem Dev.until_disc (d : Dev) (t : Nat) : (d.until t).disc = d.disc := by unfold Dev.until; split <;> rfl
@[simp] theorem Dev.until_paths (d : Dev) (t : Nat) : (d.until t).paths = d.paths := by unfold Dev.until; split <;> rfl
@[simp] theorem Dev.until_ldg (d : Dev) (t : Nat) : (d.until t).ldg = d.ldg := by unfold Dev.until; split <;> rfl
@[simp] theorem Dev.until_tok (d : Dev) (t : Nat) : (d.until t).tok = d.tok := by unfold Dev.until; split <;> rfl
@[simp] theorem Dev.until_host (d : Dev) (t : Nat) : (d.until t).host = d.host := by unfold Dev.until; split <;> rfl
@[simp] theorem Dev.until_pln (d : Dev) (t : Nat) : (d.until t).pln = d.pln := by unfold Dev.until; split <;> rfl
@[simp] theorem Dev.until_maps (d : Dev) (t : Nat) : (d.until t).maps = d.maps := by unfold Dev.until; split <;> rfl
@[simp] theorem Dev.until_ls (d : Dev) (t : Nat) : (d.until t).ls = d.ls := by unfold Dev.until; split <;> rfl
@[simp] theorem Dev.until_engs (d : Dev) (t : Nat) : (d.until t).engs = d.engs := by unfold Dev.until; split <;> rfl
@[simp] theorem Dev.until_tsets (d : Dev) (t : Nat) : (d.until t).tsets = d.tsets := by unfold Dev.until; split <;> rfl
@[simp] theorem Dev.until_pins (d : Dev) (t : Nat) : (d.until t).pins = d.pins := by unfold Dev.until; split <;> rfl
@[simp] theorem Dev.until_banks (d : Dev) (t : Nat) : (d.until t).banks = d.banks := by unfold Dev.until; split <;> rfl
@[simp] theorem Dev.until_fcap (d : Dev) (t : Nat) : (d.until t).fcap = d.fcap := by unfold Dev.until; split <;> rfl
@[simp] theorem Dev.until_tia (d : Dev) (t : Nat) : (d.until t).tia = d.tia := by unfold Dev.until; split <;> rfl
@[simp] theorem Dev.until_cal (d : Dev) (t : Nat) : (d.until t).cal = d.cal := by unfold Dev.until; split <;> rfl
@[simp] theorem Dev.until_trg (d : Dev) (t : Nat) : (d.until t).trg = d.trg := by unfold Dev.until; split <;> rfl
@[simp] theorem Dev.until_aqs (d : Dev) (t : Nat) : (d.until t).aqs = d.aqs := by unfold Dev.until; split <;> rfl
@[simp] theorem Dev.until_acq (d : Dev) (t : Nat) : (d.until t).acq = d.acq := by unfold Dev.until; split <;> rfl
@[simp] theorem Dev.until_smc (d : Dev) (t : Nat) : (d.until t).smc = d.smc := by unfold Dev.until; split <;> rfl
@[simp] theorem Dev.until_drc (d : Dev) (t : Nat) : (d.until t).drc = d.drc := by unfold Dev.until; split <;> rfl
@[simp] theorem Dev.until_hks (d : Dev) (t : Nat) : (d.until t).hks = d.hks := by unfold Dev.until; split <;> rfl
@[simp] theorem Dev.until_boot (d : Dev) (t : Nat) : (d.until t).boot = d.boot := by unfold Dev.until; split <;> rfl
@[simp] theorem Dev.until_gov (d : Dev) (t : Nat) : (d.until t).gov = d.gov := by unfold Dev.until; split <;> rfl

end Sys2Proof.Machine
end

