-- ==== Sys2Proof/Laws/Tab.lean ====
section
/-! SUPPORT. Laws of sparse tables: reads after writes, and the canonical form that every write keeps. -/

namespace Sys2Proof.Machine

@[simp] theorem Tab.get_nil {α : Type} (dflt : Nat → α) (k : Nat) : Tab.get dflt [] k = dflt k := rfl

@[simp] theorem Tab.get_insert_self {α : Type} (dflt : Nat → α) (t : Tab α) (k : Nat) (v : α) :
    Tab.get dflt (t.insert k v) k = v := by
  induction t with
  | nil => simp [Tab.insert, Tab.get]
  | cons e t ih =>
    obtain ⟨j, w⟩ := e
    simp only [Tab.insert]
    split_ifs with h1 h2
    · simp [Tab.get]
    · simp [Tab.get]
    · simp [Tab.get, h1, h2, ih]

theorem Tab.get_insert_ne {α : Type} (dflt : Nat → α) (t : Tab α) {k j : Nat} (v : α) (h : j ≠ k) :
    Tab.get dflt (t.insert k v) j = Tab.get dflt t j := by
  induction t with
  | nil => simp [Tab.insert, Tab.get, h]
  | cons e t ih =>
    obtain ⟨i, w⟩ := e
    simp only [Tab.insert]
    split_ifs with h1 h2
    · subst h1; simp [Tab.get, h]
    · by_cases hj : j < k
      · have : j ≠ i := by omega
        have h3 : j < i := by omega
        simp [Tab.get, h, hj, this, h3]
      · simp [Tab.get, h, hj]
    · simp only [Tab.get, ih]

/-- Raising the lower bound of a table's keys is harmless below its first key. -/
theorem Tab.wfAbove_mono {α : Type} [DecidableEq α] {dflt : Nat → α} {t : Tab α} {lo lo' : Option Nat}
    (h : Tab.wfAbove dflt lo t = true)
    (hl : ∀ k v r, t = (k, v) :: r → (match lo' with | none => true | some l => decide (l < k)) = true) :
    Tab.wfAbove dflt lo' t = true := by
  cases t with
  | nil => rfl
  | cons e t =>
    obtain ⟨k, v⟩ := e
    have := hl k v t rfl
    simp only [Tab.wfAbove, Bool.and_eq_true] at h ⊢
    exact ⟨⟨this, h.1.2⟩, h.2⟩

theorem Tab.wfAbove_erase {α : Type} [DecidableEq α] {dflt : Nat → α} {t : Tab α} {lo : Option Nat} (k : Nat)
    (h : Tab.wfAbove dflt lo t = true) : Tab.wfAbove dflt lo (t.erase k) = true := by
  induction t generalizing lo with
  | nil => rfl
  | cons e t ih =>
    obtain ⟨j, w⟩ := e
    have h' := h
    simp only [Tab.wfAbove, Bool.and_eq_true] at h'
    simp only [Tab.erase]
    split_ifs with h1 h2
    · refine Tab.wfAbove_mono h'.2 ?_
      intro k' v' r' e'
      subst e'
      have h3 := h'.2
      simp only [Tab.wfAbove, Bool.and_eq_true, decide_eq_true_eq] at h3
      have h4 := h'.1.1
      cases lo with
      | none => rfl
      | some l => simp at h4 ⊢; omega
    · exact h
    · simp only [Tab.wfAbove, Bool.and_eq_true]
      exact ⟨h'.1, ih h'.2⟩

theorem Tab.wfAbove_insert {α : Type} [DecidableEq α] {dflt : Nat → α} {k : Nat} {v : α} (hv : v ≠ dflt k) :
    ∀ (t : Tab α) (lo : Option Nat), Tab.wfAbove dflt lo t = true → (∀ l, lo = some l → l < k) →
      Tab.wfAbove dflt lo (t.insert k v) = true := by
  intro t
  induction t with
  | nil =>
    intro lo _ hk
    cases lo <;> simp_all [Tab.insert, Tab.wfAbove]
  | cons e t ih =>
    obtain ⟨j, w⟩ := e
    intro lo h hk
    simp only [Tab.wfAbove, Bool.and_eq_true, decide_eq_true_eq] at h
    simp only [Tab.insert]
    split_ifs with h1 h2
    · subst h1
      cases lo <;> simp_all [Tab.wfAbove]
    · cases lo <;> simp_all [Tab.wfAbove]
    · have := ih (some j) h.2 (by intro l e; cases e; omega)
      cases lo <;> simp_all [Tab.wfAbove]

/-- Every filter of a canonical table is canonical. -/
theorem Tab.wfAbove_filter {α : Type} [DecidableEq α] {dflt : Nat → α} (p : Nat × α → Bool) :
    ∀ (t : Tab α) (lo : Option Nat), Tab.wfAbove dflt lo t = true → Tab.wfAbove dflt lo (t.filter p) = true := by
  intro t
  induction t with
  | nil => intro lo h; exact h
  | cons e t ih =>
    obtain ⟨j, w⟩ := e
    intro lo h
    have h0 := h
    simp only [Tab.wfAbove, Bool.and_eq_true, decide_eq_true_eq] at h
    have h1 := ih (some j) h.2
    cases hp : p (j, w) with
    | true => cases lo <;> simp_all [Tab.wfAbove]
    | false =>
      rw [List.filter_cons_of_neg (by simp [hp])]
      refine ih lo (Tab.wfAbove_mono h.2 ?_)
      intro k v r e
      have h2 := h.2
      rw [e] at h2
      simp only [Tab.wfAbove, Bool.and_eq_true, decide_eq_true_eq] at h2
      cases lo with
      | none => rfl
      | some l => have := h.1.1; simp_all; omega

/-- A write keeps the canonical form. -/
theorem Tab.wf_set {α : Type} [DecidableEq α] {dflt : Nat → α} {t : Tab α} (k : Nat) (v : α)
    (h : t.wf dflt = true) : (t.set dflt k v).wf dflt = true := by
  unfold Tab.wf at h
  unfold Tab.wf Tab.set
  split_ifs with hv
  · exact Tab.wfAbove_erase k h
  · exact Tab.wfAbove_insert hv t none h (by simp)

/-- The empty table is canonical. -/
@[simp] theorem Tab.wf_nil {α : Type} [DecidableEq α] (dflt : Nat → α) : Tab.wf dflt [] = true := rfl

end Sys2Proof.Machine
end

