-- ==== Sys2Proof/Laws/Ops.lean ====
section
/-! SUPPORT. Laws of the shared operations: fields of registers, named parts of the state, time, reports, and what a
host write meets before its register. -/

namespace Sys2Proof.Machine

/-! ### A meaning answers a next state -/

@[simp] theorem State.onDev_eq (s : State) (f : Dev → Dev) : s.onDev f = .next { s with dev := f s.dev } := rfl

@[simp] theorem State.onBoth_eq (s : State) (f : Mem → Dev → Dev × Mem) :
    s.onBoth f = .next { s with dev := (f s.mem s.dev).1, mem := (f s.mem s.dev).2 } := rfl

/-! ### Registers -/

theorem Dev.get_congr {d d' : Dev} (h : d'.regs = d.regs) (f : Fld) : d'.get f = d.get f := by
  unfold Dev.get Dev.reg; rw [h]

theorem Dev.on_congr {d d' : Dev} (h : d'.regs = d.regs) (f : Fld) : d'.on f = d.on f := by
  unfold Dev.on; rw [Dev.get_congr h]

@[simp] theorem Dev.reg_setReg_self (d : Dev) (a : Nat) (v : W32) : (d.setReg a v).reg a = v := by
  simp [Dev.reg, Dev.setReg]

theorem Dev.reg_setReg_ne (d : Dev) {a b : Nat} (v : W32) (h : b ≠ a) : (d.setReg a v).reg b = d.reg b := by
  simp [Dev.reg, Dev.setReg, Tab.get_insert_ne _ _ _ h]

theorem spliceBits_toNat (old lo w v : Nat) (ho : old < 2 ^ 32) (hw : lo + w ≤ 32) :
    (spliceBits old lo w v).toNat = old % 2 ^ lo + v % 2 ^ w * 2 ^ lo + old / 2 ^ (lo + w) * 2 ^ (lo + w) := by
  unfold spliceBits
  rw [BitVec.toNat_ofNat, Nat.mod_eq_of_lt]
  have h1 : old % 2 ^ lo < 2 ^ lo := Nat.mod_lt _ (by positivity)
  have h2 : v % 2 ^ w < 2 ^ w := Nat.mod_lt _ (by positivity)
  have h3 : (old / 2 ^ (lo + w) + 1) * 2 ^ (lo + w) ≤ 2 ^ 32 := by
    have : old / 2 ^ (lo + w) < 2 ^ (32 - (lo + w)) := by
      apply Nat.div_lt_of_lt_mul
      rw [← pow_add]; rwa [show lo + w + (32 - (lo + w)) = 32 by omega]
    calc (old / 2 ^ (lo + w) + 1) * 2 ^ (lo + w) ≤ 2 ^ (32 - (lo + w)) * 2 ^ (lo + w) := Nat.mul_le_mul_right _ this
      _ = 2 ^ 32 := by rw [← pow_add]; congr 1; omega
  have h4 : (v % 2 ^ w + 1) * 2 ^ lo ≤ 2 ^ (lo + w) := by
    calc (v % 2 ^ w + 1) * 2 ^ lo ≤ 2 ^ w * 2 ^ lo := Nat.mul_le_mul_right _ h2
      _ = 2 ^ (lo + w) := by rw [← pow_add, Nat.add_comm]
  nlinarith

theorem bitsOf_splice_self (old lo w v : Nat) (ho : old < 2 ^ 32) (hw : lo + w ≤ 32) :
    bitsOf (spliceBits old lo w v).toNat lo w = v % 2 ^ w := by
  rw [spliceBits_toNat old lo w v ho hw]
  unfold bitsOf
  have h1 : old % 2 ^ lo < 2 ^ lo := Nat.mod_lt _ (by positivity)
  rw [show old % 2 ^ lo + v % 2 ^ w * 2 ^ lo + old / 2 ^ (lo + w) * 2 ^ (lo + w) =
      old % 2 ^ lo + (v % 2 ^ w + old / 2 ^ (lo + w) * 2 ^ w) * 2 ^ lo by rw [pow_add]; ring]
  rw [Nat.add_mul_div_right _ _ (by positivity), Nat.div_eq_of_lt h1, Nat.zero_add, Nat.add_mul_mod_self_right,
    Nat.mod_mod]

theorem bitsOf_splice_above (old lo w v l k : Nat) (ho : old < 2 ^ 32) (hw : lo + w ≤ 32) (h : lo + w ≤ l) :
    bitsOf (spliceBits old lo w v).toNat l k = bitsOf old l k := by
  rw [spliceBits_toNat old lo w v ho hw]
  unfold bitsOf
  congr 1
  have h1 : old % 2 ^ lo < 2 ^ lo := Nat.mod_lt _ (by positivity)
  have h2 : v % 2 ^ w < 2 ^ w := Nat.mod_lt _ (by positivity)
  have h4 : old % 2 ^ lo + v % 2 ^ w * 2 ^ lo < 2 ^ (lo + w) := by
    have : (v % 2 ^ w + 1) * 2 ^ lo ≤ 2 ^ w * 2 ^ lo := Nat.mul_le_mul_right _ h2
    rw [← pow_add, Nat.add_comm w lo] at this
    nlinarith
  obtain ⟨e, rfl⟩ := Nat.exists_eq_add_of_le h
  rw [pow_add 2 (lo + w) e, ← Nat.div_div_eq_div_mul, ← Nat.div_div_eq_div_mul,
    Nat.add_mul_div_right _ _ (by positivity), Nat.div_eq_of_lt h4, Nat.zero_add]

theorem bitsOf_splice_below (old lo w v l k : Nat) (ho : old < 2 ^ 32) (hw : lo + w ≤ 32) (h : l + k ≤ lo) :
    bitsOf (spliceBits old lo w v).toNat l k = bitsOf old l k := by
  rw [spliceBits_toNat old lo w v ho hw]
  unfold bitsOf
  have hs : ∀ x : Nat, x / 2 ^ l % 2 ^ k = x % 2 ^ (l + k) / 2 ^ l := fun x => by
    rw [Nat.pow_add, Nat.mod_mul_right_div_self]
  rw [hs, hs old]
  congr 1
  have e : lo = (l + k) + (lo - (l + k)) := by omega
  have m1 : (v % 2 ^ w * 2 ^ lo) % 2 ^ (l + k) = 0 := by
    rw [e, pow_add, ← Nat.mul_assoc, Nat.mul_right_comm, Nat.mul_mod_left]
  have m2 : (old / 2 ^ (lo + w) * 2 ^ (lo + w)) % 2 ^ (l + k) = 0 := by
    rw [show lo + w = (l + k) + (lo + w - (l + k)) by omega, pow_add, ← Nat.mul_assoc, Nat.mul_right_comm,
      Nat.mul_mod_left]
  rw [Nat.add_mod, m2, Nat.add_zero, Nat.mod_mod, Nat.add_mod, m1, Nat.add_zero, Nat.mod_mod]
  rw [e, pow_add, Nat.mod_mul_right_mod]

/-- A field reads back what was written, cut to its width. -/
theorem Dev.get_put_self (d : Dev) (f : Fld) (v : Nat) (hw : f.lo + f.w ≤ 32) : (d.put f v).get f = v % 2 ^ f.w := by
  have h : f.w ≠ 64 := by omega
  simp only [Dev.get, Dev.put, h, if_false, Dev.reg_setReg_self]
  exact bitsOf_splice_self _ _ _ _ (d.reg f.addr).isLt hw

/-- A 64-bit field reads back what was written. -/
theorem Dev.get_put_pair (d : Dev) (f : Fld) (v : Nat) (hw : f.w = 64) : (d.put f v).get f = v % 2 ^ 64 := by
  simp only [Dev.get, Dev.put, hw, if_true, Dev.reg]
  rw [Tab.get_insert_ne _ _ _ (show f.addr ≠ f.addr + 4 by omega)]
  simp only [Tab.get_insert_self, BitVec.toNat_ofNat]
  rw [show (2 : Nat) ^ 64 = 2 ^ 32 * 2 ^ 32 by norm_num, Nat.mod_mul]

/-- Fields of different dwords do not touch each other. -/
theorem Dev.get_put_ne (d : Dev) {f g : Fld} (v : Nat) (h1 : g.addr ≠ f.addr) (h2 : g.addr ≠ f.addr + 4 ∨ f.w ≠ 64)
    (h3 : g.addr + 4 ≠ f.addr ∨ g.w ≠ 64) (h4 : g.addr + 4 ≠ f.addr + 4 ∨ g.w ≠ 64 ∨ f.w ≠ 64) :
    (d.put f v).get g = d.get g := by
  unfold Dev.put Dev.get
  split_ifs with a b
  all_goals simp only [Dev.reg, Dev.setReg]
  all_goals (repeat rw [Tab.get_insert_ne])
  all_goals omega

/-- Fields of one dword whose bits do not overlap do not touch each other. -/
theorem Dev.get_put_beside (d : Dev) {f g : Fld} (v : Nat) (ha : g.addr = f.addr) (hf : f.lo + f.w ≤ 32)
    (hg : g.lo + g.w ≤ 32) (h : f.lo + f.w ≤ g.lo ∨ g.lo + g.w ≤ f.lo) : (d.put f v).get g = d.get g := by
  have h1 : f.w ≠ 64 := by omega
  have h2 : g.w ≠ 64 := by omega
  simp only [Dev.get, Dev.put, h1, h2, if_false, ha, Dev.reg_setReg_self]
  rcases h with h | h
  · exact bitsOf_splice_above _ _ _ _ _ _ (d.reg f.addr).isLt hf h
  · exact bitsOf_splice_below _ _ _ _ _ _ (d.reg f.addr).isLt hf h

/-- A field that no element's operation touches keeps its value over the list. -/
theorem Dev.get_each {α : Type} (l : List α) (f : α → Dev → Dev) (g : Fld) (d : Dev)
    (h : ∀ x ∈ l, ∀ d, (f x d).get g = d.get g) : (d.each l f).get g = d.get g := by
  unfold Dev.each
  induction l generalizing d with
  | nil => rfl
  | cons a l ih => rw [List.foldl_cons, ih _ fun x hx => h x (List.mem_cons_of_mem _ hx), h a List.mem_cons_self]

/-- A property that every element's operation keeps holds after the list. -/
theorem Dev.each_keeps {α : Type} {P : Dev → Prop} (l : List α) (f : α → Dev → Dev) (d : Dev) (hd : P d)
    (h : ∀ x ∈ l, ∀ d, P d → P (f x d)) : P (d.each l f) := by
  unfold Dev.each
  induction l generalizing d with
  | nil => exact hd
  | cons a l ih => exact ih _ (h a List.mem_cons_self d hd) fun x hx => h x (List.mem_cons_of_mem _ hx)

/-- Two fields of dwords that lie apart, neither a 64-bit pair. -/
theorem Dev.get_put_other (d : Dev) {f g : Fld} (v : Nat) (h : g.addr ≠ f.addr) (hf : f.w ≠ 64) (hg : g.w ≠ 64) :
    (d.put f v).get g = d.get g := d.get_put_ne v h (.inr hf) (.inr hg) (.inr (.inl hg))

/-! ### Named parts of the state -/

@[simp] theorem Dev.eng_setEng_self (d : Dev) (n : Nat) (e : EngSt) : (d.setEng n e).eng n = e := by
  simp [Dev.eng, Dev.setEng]
@[simp] theorem Dev.eng_modEng_self (d : Dev) (n : Nat) (f : EngSt → EngSt) : (d.modEng n f).eng n = f (d.eng n) := by
  simp [Dev.modEng]
@[simp] theorem Dev.tset_modTset_self (d : Dev) (n : Nat) (f : TsetSt → TsetSt) : (d.modTset n f).tset n = f (d.tset n) := by
  simp [Dev.tset, Dev.modTset]
@[simp] theorem Dev.pin_modPin_self (d : Dev) (c : Nat) (f : PinSt → PinSt) : (d.modPin c f).pin c = f (d.pin c) := by
  simp [Dev.pin, Dev.modPin]
@[simp] theorem Dev.fc_modFc_self (d : Dev) (n : Nat) (f : FcapSt → FcapSt) : (d.modFc n f).fc n = f (d.fc n) := by
  simp [Dev.fc, Dev.modFc]
@[simp] theorem Dev.bank_modBank_self (d : Dev) (b : Nat) (f : BankSt → BankSt) : (d.modBank b f).bank b = f (d.bank b) := by
  simp [Dev.bank, Dev.modBank]
@[simp] theorem Dev.meas_modMeas_self (d : Dev) (k : Nat) (f : TiaM → TiaM) : (d.modMeas k f).meas k = f (d.meas k) := by
  simp [Dev.meas, Dev.modMeas]
@[simp] theorem Dev.blk_modBlk_self (d : Dev) (b : Nat) (f : BlkRt → BlkRt) : (d.modBlk b f).blk b = f (d.blk b) := by
  simp [Dev.blk, Dev.modBlk]

theorem Dev.pin_modPin_ne (d : Dev) {c c' : Nat} (f : PinSt → PinSt) (h : c' ≠ c) : (d.modPin c f).pin c' = d.pin c' := by
  simp [Dev.pin, Dev.modPin, Tab.get_insert_ne _ _ _ h]
theorem Dev.eng_modEng_ne (d : Dev) {n m : Nat} (f : EngSt → EngSt) (h : m ≠ n) : (d.modEng n f).eng m = d.eng m := by
  simp [Dev.eng, Dev.modEng, Dev.setEng, Tab.get_insert_ne _ _ _ h]
theorem Dev.meas_modMeas_ne (d : Dev) {k j : Nat} (f : TiaM → TiaM) (h : j ≠ k) : (d.modMeas k f).meas j = d.meas j := by
  simp [Dev.meas, Dev.modMeas, Tab.get_insert_ne _ _ _ h]

/-! ### Time -/

/-- Moving the clock to an instant ends at that instant or later. -/
theorem Dev.until_elapsed (d : Dev) (t : Nat) : (d.until t).elapsed = max d.elapsed t := by
  unfold Dev.until
  by_cases h : d.elapsed < t
  · rw [if_pos h]
    change d.elapsed + (t - d.elapsed) = _
    omega
  · rw [if_neg h]; omega

/-- The clock does not move backward to an instant that has passed. -/
theorem Dev.until_past (d : Dev) {t : Nat} (h : t ≤ d.elapsed) : d.until t = d := by
  unfold Dev.until; rw [if_neg (by omega)]

/-! ### What a report leaves alone -/

theorem Dev.Still.refl (d : Dev) : d.Still d := by constructor <;> rfl

theorem Dev.Still.trans {a b c : Dev} (h : a.Still b) (k : b.Still c) : a.Still c where
  count := k.count.trans h.count
  elapsed := k.elapsed.trans h.elapsed
  snaps := k.snaps.trans h.snaps
  draws := k.draws.trans h.draws
  disc := k.disc.trans h.disc
  pln := k.pln.trans h.pln
  maps := k.maps.trans h.maps
  engs := k.engs.trans h.engs
  tsets := k.tsets.trans h.tsets
  pins := k.pins.trans h.pins
  banks := k.banks.trans h.banks
  fcap := k.fcap.trans h.fcap
  tia := k.tia.trans h.tia
  cal := k.cal.trans h.cal
  trg := k.trg.trans h.trg
  aqs := k.aqs.trans h.aqs
  acq := k.acq.trans h.acq
  smc := k.smc.trans h.smc
  drc := k.drc.trans h.drc
  hks := k.hks.trans h.hks
  gov := k.gov.trans h.gov

theorem Dev.Same.refl (d : Dev) : d.Same d := ⟨.refl d, rfl⟩

theorem Dev.Same.trans {a b c : Dev} (h : a.Same b) (k : b.Same c) : a.Same c :=
  ⟨h.still.trans k.still, k.regs.trans h.regs⟩

theorem Dev.Same.get {a b : Dev} (h : a.Same b) (f : Fld) : b.get f = a.get f := Dev.get_congr h.regs f

theorem Dev.Same.on {a b : Dev} (h : a.Same b) (f : Fld) : b.on f = a.on f := Dev.on_congr h.regs f

theorem Dev.Same.reg {a b : Dev} (h : a.Same b) (x : Nat) : b.reg x = a.reg x := by unfold Dev.reg; rw [h.regs]

theorem Dev.Same.wrote {a b : Dev} (h : a.Same b) (as : List Nat) : a.Wrote as b := ⟨h.still, fun x _ => h.reg x⟩

theorem Dev.Wrote.trans {a b c : Dev} {as : List Nat} (h : a.Wrote as b) (k : b.Wrote as c) : a.Wrote as c :=
  ⟨h.still.trans k.still, fun x hx => (k.regs x hx).trans (h.regs x hx)⟩

theorem Dev.Wrote.mono {a b : Dev} {as bs : List Nat} (h : a.Wrote as b) (hs : as ⊆ bs) : a.Wrote bs b :=
  ⟨h.still, fun x hx => h.regs x fun hm => hx (hs hm)⟩

theorem Dev.wrote_setReg (d : Dev) (a : Nat) (v : W32) : d.Wrote [a] (d.setReg a v) :=
  ⟨by constructor <;> rfl, fun x hx => Dev.reg_setReg_ne d v (by simpa using hx)⟩

/-- Writing a field touches its dword, or its pair of dwords. -/
theorem Dev.wrote_put (d : Dev) (f : Fld) (v : Nat) : d.Wrote [f.addr, f.addr + 4] (d.put f v) := by
  refine ⟨by constructor <;> simp, fun x hx => ?_⟩
  simp only [List.mem_cons, List.not_mem_nil, or_false, not_or] at hx
  unfold Dev.put Dev.reg Dev.setReg
  split_ifs
  · simp only [Tab.get_insert_ne _ _ _ hx.1, Tab.get_insert_ne _ _ _ hx.2]
  · simp only [Tab.get_insert_ne _ _ _ hx.1]

/-- Writing a field of one dword touches that dword. -/
theorem Dev.wrote_put_dword (d : Dev) (f : Fld) (v : Nat) (h : f.w ≠ 64) : d.Wrote [f.addr] (d.put f v) := by
  unfold Dev.put; rw [if_neg h]; exact d.wrote_setReg _ _

theorem Dev.same_signal (d : Dev) (v : Nat) : d.Same (d.signal v) := ⟨by constructor <;> rfl, rfl⟩
theorem Dev.same_deny (d : Dev) (p n : Nat) : d.Same (d.deny p n) := ⟨by constructor <;> rfl, rfl⟩
theorem Dev.same_take (d : Dev) (p h n : Nat) : d.Same (d.take p h n) := ⟨by constructor <;> rfl, rfl⟩
theorem Dev.same_give (d : Dev) (p h n : Nat) : d.Same (d.give p h n) := ⟨by constructor <;> rfl, rfl⟩
theorem Dev.same_setPath (d : Dev) (p : Nat) (q : PathQ) : d.Same (d.setPath p q) := ⟨by constructor <;> rfl, rfl⟩
theorem Dev.same_modBlk (d : Dev) (b : Nat) (f : BlkRt → BlkRt) : d.Same (d.modBlk b f) := ⟨by constructor <;> rfl, rfl⟩

theorem Dev.same_produce (d : Dev) (r : Rec) : d.Same (d.produce r) := by
  unfold Dev.produce
  dsimp only
  split_ifs <;> exact ⟨by constructor <;> rfl, rfl⟩

theorem Dev.same_emitAt (d : Dev) (c f p t fl : Nat) (x : List Byte) : d.Same (d.emitAt c f p t fl x) := by
  unfold Dev.emitAt
  dsimp only
  split_ifs
  · exact ⟨by constructor <;> rfl, rfl⟩
  · exact d.same_produce _

theorem Dev.same_emit (d : Dev) (p t : Nat) (x : List Byte) : d.Same (d.emit p t x) := d.same_emitAt _ _ _ _ _ _

theorem Dev.same_capture (d : Dev) (a : Detection) : d.Same (d.capture a) := ⟨by constructor <;> rfl, rfl⟩

theorem Dev.same_noticeRecord (d : Dev) (a : Detection) (x : List Byte) : d.Same (d.noticeRecord a x) :=
  d.same_emitAt _ _ _ _ _ _

theorem Dev.same_faultRecord (d : Dev) (a : Detection) : d.Same (d.faultRecord a) := d.same_emitAt _ _ _ _ _ _

theorem Dev.same_noticeOf (d : Dev) (a : Detection) (x : List Byte) : d.Same (d.noticeOf a x) :=
  ((d.same_capture a).trans (Dev.same_noticeRecord _ a x)).trans (Dev.same_signal _ 1)

theorem Dev.same_notice (d : Dev) (det b : Nat) (x : List Byte) : d.Same (d.notice det b x) := d.same_noticeOf _ _

theorem Dev.same_ignored (d : Dev) (a : Nat) : d.Same (d.ignored a) := d.same_noticeOf _ _

theorem Dev.same_alarm (d : Dev) (a : Detection) : d.Same (d.alarm a) := by
  unfold Dev.alarm
  have h := ((d.same_faultRecord a).trans (Dev.same_capture _ a)).trans (Dev.same_signal _ 0)
  dsimp only
  split_ifs
  · exact h
  · exact h.trans ⟨by constructor <;> rfl, rfl⟩

theorem Dev.same_fault (d : Dev) (det b : Nat) : d.Same (d.fault det b) := d.same_alarm _

theorem Dev.same_replaceReq (d : Dev) (c : Nat) : d.Same (d.replaceReq c) := by
  unfold Dev.replaceReq
  dsimp only
  split_ifs <;> exact ⟨by constructor <;> rfl, rfl⟩

theorem Dev.same_regDecode (d : Dev) (w : Bool) (a : Nat) : d.Same (d.regDecode w a) := d.same_noticeOf _ _

theorem Dev.same_gdDiscard (d : Dev) (a : Nat) : d.Same (d.gdDiscard a) := d.same_noticeOf _ _

theorem Dev.same_gdForget (d : Dev) (b : Nat) : d.Same (d.gdForget b) := ⟨by constructor <;> rfl, rfl⟩

theorem Dev.same_safeHoldDiscard (d : Dev) (b a : Nat) : d.Same (d.safeHoldDiscard b a) := d.same_capture _

/-- Another write to a block discards a pending guarded value and changes nothing else. -/
theorem Dev.same_gdBreak (d : Dev) (b : Nat) : d.Same (d.gdBreak b) := by
  unfold Dev.gdBreak
  split
  · exact (d.same_gdForget b).trans (Dev.same_gdDiscard _ _)
  · exact Dev.Same.refl d

/-- A host write that does not reach its register changes nothing but reports. -/
theorem Dev.same_hostStop (d : Dev) (a : Nat) : d.Same (d.hostStop a) := by
  unfold Dev.hostStop
  split_ifs
  · exact Dev.Same.refl d
  · exact d.same_safeHoldDiscard _ _
  · exact d.same_regDecode _ _

/-- What a host write to a named register does, in one statement. -/
theorem Dev.hostWrite_cases (d : Dev) (a : Nat) (f : Dev → Dev) :
    (d.hostOpen a = true ∧ d.hostWrite a f = f (d.gdBreak (blockOfAddr a))) ∨
      (d.hostOpen a = false ∧ d.hostWrite a f = d.hostStop a) := by
  cases h : d.hostOpen a <;> simp [Dev.hostWrite, h]

@[simp] theorem Dev.hostWrite_open {d : Dev} {a : Nat} (f : Dev → Dev) (h : d.hostOpen a = true) :
    d.hostWrite a f = f (d.gdBreak (blockOfAddr a)) := by simp [Dev.hostWrite, h]

theorem Dev.hostWrite_stop {d : Dev} {a : Nat} (f : Dev → Dev) (h : d.hostOpen a = false) :
    d.hostWrite a f = d.hostStop a := by simp [Dev.hostWrite, h]

end Sys2Proof.Machine
end

