-- ==== Sys2Proof/Laws/Reports.lean ====
section
/-! SUPPORT. Laws of reports and reactions: what a notice captures, that a notice asks for no reaction, and that a
command ends where it stands when no detection waits. -/

namespace Sys2Proof.Machine

/-! ### A notice asks for no reaction -/

@[simp] theorem Dev.alarms_produce (d : Dev) (r : Rec) : (d.produce r).flt = d.flt := by
  unfold Dev.produce
  dsimp only
  split_ifs <;> rfl

@[simp] theorem Dev.alarms_emitAt (d : Dev) (c f p t fl : Nat) (x : List Byte) : (d.emitAt c f p t fl x).flt = d.flt := by
  unfold Dev.emitAt
  dsimp only
  split_ifs
  · rfl
  · exact d.alarms_produce _

@[simp] theorem Dev.alarms_emit (d : Dev) (p t : Nat) (x : List Byte) : (d.emit p t x).flt = d.flt :=
  d.alarms_emitAt _ _ _ _ _ _

theorem Dev.Calm.of_flt {d d' : Dev} (h : d'.flt = d.flt) (c : d.Calm) : d'.Calm := by unfold Dev.Calm; rw [h]; exact c

theorem Dev.Calm.capture {d : Dev} (c : d.Calm) (a : Detection) : (d.capture a).Calm := c

theorem Dev.Calm.noticeOf {d : Dev} (c : d.Calm) (a : Detection) (x : List Byte) : (d.noticeOf a x).Calm := by
  unfold Dev.noticeOf Dev.noticeRecord Dev.Calm
  simp only [Dev.signal_flt, Dev.alarms_emitAt]
  exact c

theorem Dev.Calm.notice {d : Dev} (c : d.Calm) (det b : Nat) (x : List Byte) : (d.notice det b x).Calm := c.noticeOf _ _
theorem Dev.Calm.ignored {d : Dev} (c : d.Calm) (a : Nat) : (d.ignored a).Calm := c.noticeOf _ _
theorem Dev.Calm.regDecode {d : Dev} (c : d.Calm) (w : Bool) (a : Nat) : (d.regDecode w a).Calm := c.noticeOf _ _
theorem Dev.Calm.put {d : Dev} (c : d.Calm) (f : Fld) (v : Nat) : (d.put f v).Calm := by
  unfold Dev.Calm; rw [Dev.put_flt]; exact c
theorem Dev.Calm.setReg {d : Dev} (c : d.Calm) (a : Nat) (v : W32) : (d.setReg a v).Calm := c
theorem Dev.Calm.emit {d : Dev} (c : d.Calm) (p t : Nat) (x : List Byte) : (d.emit p t x).Calm :=
  c.of_flt (Dev.alarms_emit _ _ _ _)

theorem Dev.Calm.gdBreak {d : Dev} (c : d.Calm) (b : Nat) : (d.gdBreak b).Calm := by
  unfold Dev.gdBreak
  split
  · exact Dev.Calm.noticeOf (d := d.gdForget b) c _ _
  · exact c

/-! ### Reactions -/

/-- With no detection waiting, a command ends where it stands. -/
theorem Dev.settle_calm {d : Dev} (c : d.Calm) : d.settle = d := by
  unfold Dev.Calm at c
  simp [Dev.settle, Dev.settleN, Dev.nextAlarm, c]

/-! ### First-error captures (R347) -/

theorem Dev.fec_capture_self (d : Dev) (a : Detection) :
    (d.capture a).fec (d.classOf a) =
      if (d.fec (d.classOf a)).valid then
        { d.fec (d.classOf a) with count := min (2 ^ 32 - 1) ((d.fec (d.classOf a)).count + 1) }
      else ⟨a.det, a.block, a.master, a.addr, d.now, 0, a.access, true⟩ := by
  unfold Dev.capture Dev.fec
  dsimp only
  rw [Tab.get_insert_self]

theorem Dev.fec_capture_ne (d : Dev) (a : Detection) {c : Nat} (h : c ≠ d.classOf a) : (d.capture a).fec c = d.fec c := by
  simp [Dev.capture, Dev.fec, Tab.get_insert_ne _ _ _ h]

theorem Dev.fec_noticeOf (d : Dev) (a : Detection) (x : List Byte) (c : Nat) : (d.noticeOf a x).fec c = (d.capture a).fec c := by
  unfold Dev.fec Dev.noticeOf Dev.noticeRecord
  simp only [Dev.signal_flt, Dev.alarms_emitAt]

end Sys2Proof.Machine
end

