-- ==== Sys2Proof/Laws/Host.lean ====
section
/-! SUPPORT. Laws of host writes: the way of one dword to its register, and of a guarded pair (R386 to R390). -/

namespace Sys2Proof.Machine

/-- All bits of a dword. -/
theorem W32.and_ones (x : W32) : x &&& 4294967295#32 = x := BitVec.and_allOnes

theorem Dev.hostOpen_parts {d : Dev} {a : Nat} (h : d.hostOpen a = true) :
    d.host.memEn = true ∧ d.flt.safeHold = false ∧ d.served (blockOfAddr a) = true := by
  simp [Dev.hostOpen] at h; tauto

/-- A write of one dword is that dword's write. -/
theorem Dev.bar0Write_one (d : Dev) (a : Nat) (v : W32) (be lb : Nat) :
    d.bar0Write a [v] be lb = d.dwordWrite ((a / 4 * 4) % 2 ^ 26) v be := by
  simp [Dev.bar0Write, Dev.each, dwordBe]

/-- A full write that reaches an unguarded register has the register's effect. -/
theorem Dev.dwordWrite_full {d : Dev} {a : Nat} {v : W32} {r w n i j} (hd : decodeReg a = .reg r w n i j a false)
    (h : d.hostOpen a = true) (hg : r.kind ≠ .gd) :
    d.dwordWrite a v 15 = Dev.regEffect w r n i a v (d.gdBreak (blockOfAddr a)) := by
  obtain ⟨h1, h2, h3⟩ := Dev.hostOpen_parts h
  unfold Dev.dwordWrite
  simp [h1, h2, hd, h3, hg, h]

/-- A partial write to a register that holds a command or clearing field, or takes masked writes, is discarded (R387). -/
theorem Dev.dwordWrite_partial {d : Dev} {a : Nat} {v : W32} {be : Nat} {r w n i j}
    (hd : decodeReg a = .reg r w n i j a false) (h : d.hostOpen a = true) (hg : r.kind ≠ .plain)
    (h0 : be % 16 ≠ 0) (h1 : be % 16 ≠ 15) : d.dwordWrite a v be = d.regDecode true a := by
  obtain ⟨k1, k2, k3⟩ := Dev.hostOpen_parts h
  unfold Dev.dwordWrite
  simp [k1, k2, hd, k3, hg, h0, h1]

/-- A notice of a listed code is of class 3. -/
theorem Dev.classOf_notice (d : Dev) (a : Detection) (h : a.det / 4096 = 3) : d.classOf a = 3 := by
  unfold Dev.classOf
  have h1 : a.det ≠ 0x1005 := by omega
  simp [h1, h]

/-- A notice fills an empty FC3 capture. -/
theorem Dev.fec_noticeOf_empty (d : Dev) (a : Detection) (x : List Byte) (h : a.det / 4096 = 3)
    (he : (d.fec 3).valid = false) :
    (d.noticeOf a x).fec 3 = ⟨a.det, a.block, a.master, a.addr, d.now, 0, a.access, true⟩ := by
  rw [Dev.fec_noticeOf]
  have hc := d.classOf_notice a h
  rw [← hc, Dev.fec_capture_self, hc, he]
  simp

/-- A completed guarded write in time has its effect (R390). -/
theorem Dev.guarded_completes {d : Dev} {a : Nat} {v : W32} {t : Nat} (f : Nat → Dev → Dev) (ho : d.hostOpen a = true)
    (hp : d.gdPending (blockOfAddr a) = some ⟨a, v, t⟩) (ht : d.elapsed ≤ t + 16000) :
    d.guarded a (~~~ v) f = f v.toNat (d.gdForget (blockOfAddr a)) := by
  have h1 : (d.gdForget (blockOfAddr a)).elapsed ≤ t + 16000 := ht
  simp [Dev.guarded, ho, hp, h1]

/-- A complement that is wrong or late discards the pair (R390). -/
theorem Dev.guarded_fails {d : Dev} {a : Nat} {v c : W32} {t : Nat} (f : Nat → Dev → Dev) (ho : d.hostOpen a = true)
    (hp : d.gdPending (blockOfAddr a) = some ⟨a, v, t⟩) (h : c ≠ ~~~ v ∨ t + 16000 < d.elapsed) :
    d.guarded a c f = (d.gdForget (blockOfAddr a)).gdDiscard a := by
  have : ¬ (c = ~~~ v ∧ (d.gdForget (blockOfAddr a)).elapsed ≤ t + 16000) := by
    change ¬ (c = ~~~ v ∧ d.elapsed ≤ t + 16000)
    rintro ⟨h1, h2⟩; rcases h with h | h; exact h h1; omega
  simp only [Dev.guarded, ho, hp]
  simp only [Bool.not_true, Bool.false_eq_true, if_false, Bool.and_eq_true, decide_eq_true_eq, if_true]
  rw [if_neg this]


end Sys2Proof.Machine
end

