-- ==== Sys2Proof/Laws/Memory.lean ====
section
/-! SUPPORT. Laws of the three memories: a read after a write, and that every operation keeps the canonical form. -/

namespace Sys2Proof.Machine

/-! ### A table that is written -/

/-- An erased key reads as unlisted. -/
theorem Tab.get_erase_self {α : Type} [DecidableEq α] {dflt : Nat → α} (k : Nat) :
    ∀ (t : Tab α) (lo : Option Nat), Tab.wfAbove dflt lo t = true → Tab.get dflt (t.erase k) k = dflt k := by
  intro t
  induction t with
  | nil => intro lo _; rfl
  | cons e t ih =>
    obtain ⟨j, v⟩ := e
    intro lo h
    simp only [Tab.wfAbove, Bool.and_eq_true, decide_eq_true_eq] at h
    unfold Tab.erase
    split_ifs with h1 h2
    · subst h1
      cases t with
      | nil => rfl
      | cons e t =>
        have h3 := h.2
        simp only [Tab.wfAbove, Bool.and_eq_true, decide_eq_true_eq] at h3
        rw [Tab.get, if_neg (by omega), if_pos (by omega)]
    · rw [Tab.get, if_neg h1, if_pos h2]
    · rw [Tab.get, if_neg h1, if_neg h2]; exact ih (some j) h.2

/-- Erasing a key leaves every other key as it was. -/
theorem Tab.get_erase_ne {α : Type} [DecidableEq α] {dflt : Nat → α} {k i : Nat} (hi : i ≠ k) :
    ∀ (t : Tab α) (lo : Option Nat), Tab.wfAbove dflt lo t = true → Tab.get dflt (t.erase k) i = Tab.get dflt t i := by
  intro t
  induction t with
  | nil => intro lo _; rfl
  | cons e t ih =>
    obtain ⟨j, v⟩ := e
    intro lo h
    simp only [Tab.wfAbove, Bool.and_eq_true, decide_eq_true_eq] at h
    unfold Tab.erase
    split_ifs with h1 h2
    · subst h1
      rw [Tab.get, if_neg hi]
      split_ifs with h4
      · cases t with
        | nil => rfl
        | cons e t =>
          have h3 := h.2
          simp only [Tab.wfAbove, Bool.and_eq_true, decide_eq_true_eq] at h3
          rw [Tab.get, if_neg (by omega), if_pos (by omega)]
      · rfl
    · rfl
    · rw [Tab.get, Tab.get, ih (some j) h.2]

/-- What a write puts at its key reads back. -/
theorem Tab.get_set_self {α : Type} [DecidableEq α] {dflt : Nat → α} {t : Tab α} (k : Nat) (v : α)
    (h : t.wf dflt = true) : Tab.get dflt (t.set dflt k v) k = v := by
  unfold Tab.set
  split_ifs with hv
  · rw [hv]; exact Tab.get_erase_self k t none h
  · exact Tab.get_insert_self dflt t k v

/-- A write leaves every other key as it was. -/
theorem Tab.get_set_ne {α : Type} [DecidableEq α] {dflt : Nat → α} {t : Tab α} {k i : Nat} (v : α)
    (h : t.wf dflt = true) (hi : i ≠ k) : Tab.get dflt (t.set dflt k v) i = Tab.get dflt t i := by
  unfold Tab.set
  split_ifs with hv
  · exact Tab.get_erase_ne hi t none h
  · exact Tab.get_insert_ne dflt t v hi

/-! ### Bytes in a row -/

/-- Writes at keys given by a function keep the canonical form. -/
theorem Tab.wf_sets {dflt : Nat → Byte} (key : Nat → Nat) : ∀ (l : List (Byte × Nat)) (t : Tab Byte), t.wf dflt = true →
    (l.foldl (fun t (b, i) => t.set dflt (key i) b) t).wf dflt = true
  | [], _, h => h
  | (b, i) :: l, _, h => Tab.wf_sets key l _ (Tab.wf_set (key i) b h)

/-- Writes leave a key as it was that none of them has. -/
theorem Tab.get_sets_ne {dflt : Nat → Byte} (key : Nat → Nat) (a : Nat) : ∀ (l : List (Byte × Nat)) (t : Tab Byte),
    t.wf dflt = true → (∀ x ∈ l, key x.2 ≠ a) →
      Tab.get dflt (l.foldl (fun t (b, i) => t.set dflt (key i) b) t) a = Tab.get dflt t a
  | [], _, _, _ => rfl
  | (b, i) :: l, t, h, hn => by
    rw [List.foldl_cons, Tab.get_sets_ne key a l _ (Tab.wf_set (key i) b h) fun x hx => hn x (.tail _ hx)]
    exact Tab.get_set_ne b h (Ne.symm (hn (b, i) (.head _)))

/-- Bytes stored in a row keep the canonical form. -/
theorem wf_storeAt {t : Tab Byte} (key : Nat → Nat) (bs : List Byte) (h : t.wf ramByte = true) :
    (storeAt t key bs).wf ramByte = true := Tab.wf_sets key _ _ h

/-- Bytes stored in a row leave a key as it was that none of them has. -/
theorem get_storeAt_ne {t : Tab Byte} (key : Nat → Nat) (bs : List Byte) (a : Nat) (h : t.wf ramByte = true)
    (hn : ∀ i < bs.length, key i ≠ a) : Tab.get ramByte (storeAt t key bs) a = Tab.get ramByte t a :=
  Tab.get_sets_ne key a _ _ h fun y hy => hn y.2 (by have := List.snd_lt_of_mem_zipIdx hy; omega)

/-- The check bytes of any codewords keep the canonical form of their table. -/
theorem wf_encodeOver (data : Tab Byte) : ∀ (cs : List Codeword) (t : Tab Byte), t.wf ramByte = true →
    (encodeOver data cs t).wf ramByte = true
  | [], _, h => h
  | _ :: cs, _, h => wf_encodeOver data cs _ (wf_storeAt _ _ h)

/-! ### The operations over the memories -/

/-- The canonical form, memory by memory. -/
theorem Mem.wf_iff (m : Mem) : m.wf = true ↔ m.sram.wf ramByte = true ∧ m.dram.wf ramByte = true ∧
    m.nvm.wf nvmByte = true ∧ m.sramCheck.wf ramByte = true ∧ m.dramCheck.wf ramByte = true := by
  simp only [Mem.wf, Bool.and_eq_true, and_assoc]

theorem Mem.wf_writeSram {m : Mem} (a : Nat) (bs : List Byte) (h : m.wf = true) : (m.writeSram a bs).wf = true := by
  rw [Mem.wf_iff] at *
  exact ⟨wf_storeAt _ _ h.1, h.2.1, h.2.2.1, wf_encodeOver _ _ _ h.2.2.2.1, h.2.2.2.2⟩

theorem Mem.wf_writeRing {m : Mem} (base size o : Nat) (bs : List Byte) (h : m.wf = true) :
    (m.writeRing base size o bs).wf = true := by
  rw [Mem.wf_iff] at *
  exact ⟨wf_storeAt (fun i => base + (o + i) % max 1 size) bs h.1, h.2.1, h.2.2.1, wf_encodeOver _ _ _ h.2.2.2.1, h.2.2.2.2⟩

theorem Mem.wf_writeDram {m : Mem} (a : Nat) (bs : List Byte) (h : m.wf = true) : (m.writeDram a bs).wf = true := by
  rw [Mem.wf_iff] at *
  exact ⟨h.1, wf_storeAt _ _ h.2.1, h.2.2.1, h.2.2.2.1, wf_encodeOver _ _ _ h.2.2.2.2⟩

theorem Mem.wf_dropDram {m : Mem} (h : m.wf = true) : m.dropDram.wf = true := by
  rw [Mem.wf_iff] at *
  exact ⟨h.1, rfl, h.2.2.1, h.2.2.2.1, rfl⟩

theorem Mem.wf_dropRam {m : Mem} (h : m.wf = true) : m.dropRam.wf = true := by
  rw [Mem.wf_iff] at *
  exact ⟨rfl, rfl, h.2.2.1, rfl, rfl⟩

/-- A store in SRAM leaves every byte before and after it as it was. -/
theorem Mem.writeSram_frame {m : Mem} (a x : Nat) (bs : List Byte) (h : m.wf = true) (hx : x < a ∨ a + bs.length ≤ x) :
    Tab.get ramByte (m.writeSram a bs).sram x = Tab.get ramByte m.sram x :=
  get_storeAt_ne _ _ _ ((Mem.wf_iff m).1 h).1 fun i hi => by omega

/-- A store in DRAM leaves every byte before and after it as it was. -/
theorem Mem.writeDram_frame {m : Mem} (a x : Nat) (bs : List Byte) (h : m.wf = true) (hx : x < a ∨ a + bs.length ≤ x) :
    Tab.get ramByte (m.writeDram a bs).dram x = Tab.get ramByte m.dram x :=
  get_storeAt_ne _ _ _ ((Mem.wf_iff m).1 h).2.1 fun i hi => by omega

/-- Programming a byte keeps the canonical form. -/
theorem wf_programByte {m : Mem} (a i v : Nat) (d : Dev) (h : m.wf = true) : (programByte a i v m d).2.wf = true := by
  rw [Mem.wf_iff] at h
  unfold programByte
  dsimp only
  split_ifs <;> exact (Mem.wf_iff _).2 ⟨h.1, h.2.1, Tab.wf_set _ _ h.2.2.1, h.2.2.2⟩

/-- So does programming a page, and erasing. -/
theorem wf_nvmEffect {m : Mem} (cmd a : Nat) (d : Dev) (h : m.wf = true) : (nvmEffect cmd a m d).2.wf = true := by
  have page : ∀ (l : List Nat) (x : Dev × Mem), x.2.wf = true → (l.foldl (fun (d, m) i =>
      programByte a i (bitsOf (d.get (BOOT.NVM_BUF (i / 4))) (8 * (i % 4)) 8) m d) x).2.wf = true := by
    intro l
    induction l with
    | nil => exact fun _ h => h
    | cons i l ih => exact fun x h => ih _ (wf_programByte a i _ x.1 h)
  have cleared (lo hi : Nat) : ({ m with nvm := m.nvm.clearRange lo hi } : Mem).wf = true := by
    rw [Mem.wf_iff] at *
    exact ⟨h.1, h.2.1, Tab.wfAbove_filter _ _ _ h.2.2.1, h.2.2.2⟩
  unfold nvmEffect
  split
  · exact h
  · generalize List.range 256 = l; exact page l (d, m) h
  · exact cleared _ _
  · exact cleared _ _

/-- The memories right after reset. -/
theorem State.reset_mem_wf : State.reset.mem.wf = true := rfl

end Sys2Proof.Machine
end

