-- ==== Sys2Proof/Tests/Slice0.lean ====
section
/-! SUPPORT. The sitting's own tests: what `WellFormed` refuses, states that meet the hypotheses of every statement, and
single steps. A theorem test_hyps_X meets the hypotheses of Obligations.X: one conjunct for each clause (clauses that one
sample meets stand together), on sample devices defined beside it. -/

namespace Sys2Proof.Tests

open Sys2Proof.Machine

set_option Elab.async false

/-! ### States -/

/-- The state of a device with nothing in its memories and no command waiting. -/
def withDev (d : Dev) : State := { State.reset with dev := d }

/-- A device that is READY, counting by TCLK with a good reference, memory space and bus mastering on, the link in L0. -/
def up : Dev :=
  let d := { Dev.reset with
    count := 1000000
    elapsed := 2000000
    host := { HostSt.reset with memEn := true, master := true }
    pln := { PlnSt.reset with everLocked := true } }
  (((((d.put GLB.STATE_STATE stReady).put GLB.STATE_STEP 11).put PLN.QUALITY_PLLT_LOCK 1).put PLN.QUALITY_REFSTEP 0).put
      PLN.QUALITY_REFCLK_OK 1).put HDMA.LINK_STATUS_L0 1

/-- The same in SAFE_HOLD. -/
def safe : Dev := { up with flt := { up.flt with safeHold := true } }

/-! ### What `WellFormed` refuses -/

theorem test_wf_write : WellFormed (.registerWrite 0x10 [1, 2] 15 15) = true ∧
    WellFormed (.registerWrite 0x12 [1] 15 0) = false ∧ WellFormed (.registerWrite 0x10 [] 15 0) = false ∧
    WellFormed (.registerWrite 0x3FFFFFC [1, 2] 15 15) = false ∧ WellFormed (.registerWrite 0x10 [1] 15 3) = false ∧
    WellFormed (.registerWrite 0x10 [1, 2] 0 15) = false := by decide

theorem test_wf_aligned : WellFormed (.maskedWrite 0x100018 0) = true ∧ WellFormed (.maskedWrite 0x100019 0) = false ∧
    WellFormed (.gdValueWrite 2 0) = false ∧ WellFormed (.constantWrite 1 0) = false ∧
    WellFormed (.snapshotRead 3) = false := by decide

theorem test_wf_refill : WellFormed (.streamRefill 0 (List.replicate 64 0) false) = true ∧
    WellFormed (.streamRefill 0 (List.replicate 63 0) false) = false := by decide

theorem test_wf_portRequest : WellFormed (.portRequest 4 true 64 (List.replicate 64 0)) = true ∧
    WellFormed (.portRequest 4 true 65 (List.replicate 64 0)) = false ∧ WellFormed (.portRequest 4 true 64 []) = false ∧
    WellFormed (.portRequest 0 false 64 [1]) = false := by decide

theorem test_wf_lanes_temps : WellFormed (.driftCheck 0 [(true, true, true, true, true)]) = false ∧
    WellFormed (.govTick (List.replicate 15 0) 0) = false ∧ WellFormed (.govTick (List.replicate 16 0) 0) = true := by decide

theorem test_wf_passEnd : WellFormed (.passEnd (.bank 0) (List.replicate 27 0) true) = false ∧
    WellFormed (.passEnd (.group 0) (List.replicate 23 0) true) = false ∧
    WellFormed (.passEnd (.group 0) (List.replicate 27 0) true) = true := by decide

theorem test_wf_dramVerify : WellFormed (.dramVerify []) = false ∧ WellFormed (.dramVerify [1, 2, 3, 4]) = false ∧
    WellFormed (.dramVerify [15]) = true := by decide

/-- A ring 4 descriptor of a type, for `count` items at device address `a`. -/
def load (typ a count : Nat) : LoadDesc := ⟨0x1000, BitVec.ofNat 48 a, BitVec.ofNat 8 typ, BitVec.ofNat 32 count, 0, 0⟩

theorem test_wf_loads : WellFormed (.program (load 1 0 1) [0]) = false ∧ WellFormed (.program (load 0 0 2) [0]) = false ∧
    WellFormed (.program (load 0 0 1) [0]) = true ∧ WellFormed (.pinned (load 0 0 1) []) = false ∧
    WellFormed (.dramWrite (load 2 0 1) [1] true) = false ∧ WellFormed (.dramWrite (load 3 0 0) [] true) = false ∧
    WellFormed (.dramRead (load 3 0 1) [1]) = false ∧ WellFormed (.dramRead (load 2 0 1) []) = false := by decide

theorem test_wf_link : WellFormed (.linkUp 3 1) = false ∧ WellFormed (.linkUp 8 0) = false ∧
    WellFormed (.linkUp 8 6) = false ∧ WellFormed (.linkUp 8 5) = true := by decide

theorem test_wf_rings : WellFormed (.completionReceived 5 .success) = false ∧ WellFormed (.completionTimeout 5) = false ∧
    WellFormed (.outboundBlock 4) = false ∧ WellFormed (.hdmaFlushExpiry 4) = false ∧
    WellFormed (.outboundBlock 5) = true := by decide

/-! ### Steps, SAFE_HOLD and snapshots -/

theorem test_hyps_StepRunsTheFrontCommand : ({ withDev up with pending := [.disarm] } : State).pending = .disarm :: [] ∧
    (withDev up).pending = [] := ⟨rfl, rfl⟩

theorem test_hyps_StepKeepsInv : State.reset.Inv ∧ ∃ t, step State.reset = .next t := ⟨by unfold State.Inv; decide +kernel, _, rfl⟩

theorem test_hyps_SafeHoldDiscardsWrites : let d := (withDev safe).dev
    d.host.memEn = true ∧ d.flt.safeHold = true ∧ d.Calm ∧ (0 : Ring).val ≠ 8 ∧ d.st ≠ stDormant ∧
    (0 : BitVec 20).toNat = 0x1000 * (0 : Ring).val ∧ (0x7000 : BitVec 20).toNat = 0x1000 * (7 : Ring).val := by
  unfold Dev.Calm; decide +kernel

theorem test_hyps_SnapshotReads : up.host.memEn = true ∧ up.served 1 = true ∧
    up.served (blockOfAddr (entryAddr (0 : Eng).val false 0 0 0)) = true ∧
    up.served (blockOfAddr (entryAddr (3 : Eng).val true 31 255 0)) = true ∧ up.served 6 = true := by decide +kernel

/-! ### Maps, the Plain and the engines -/

/-- The load that SYNC_EDGE with fine part `fine` sets up. -/
def edgeDue (d : Dev) (fine : Nat) : EpochDue :=
  { raw := d.now, fine := d.finePart fine, load := d.get PLN.SYNC_LOAD, deskew := d.get PLN.SYNC_DESKEW,
    due := d.elapsed + 32 }

theorem mapAffected_lt (d : Dev) (n : Nat) (h : n ∈ d.mapAffected) : n < 4 := by
  unfold Dev.mapAffected at h; exact List.mem_range.1 (List.mem_filter.1 h).1

/-- A map that leaves every channel unmapped breaks no rule. -/
theorem mapFirstBad_of_unmapped (d : Dev)
    (h : ∀ c, c < 1024 → d.on (PINB.MAP_UNMAPPED (c / 32) (c % 32)) = true) : d.mapFirstBad = none := by
  have : ((List.range 1024).filter fun c => !(d.shadowChan c).2.2) = [] :=
    List.filter_eq_nil_iff.2 fun c hc => by simp [Dev.shadowChan, h c (List.mem_range.1 hc)]
  unfold Dev.mapFirstBad; rw [this]; rfl

/-- In `up` each of 128 channels from `a` on is unmapped. -/
def unmappedFrom (a : Nat) : Bool := (List.range 128).all fun c => up.on (PINB.MAP_UNMAPPED ((a + c) / 32) ((a + c) % 32))

theorem unmapped0 : unmappedFrom 0 = true := by decide +kernel
theorem unmapped1 : unmappedFrom 128 = true := by decide +kernel
theorem unmapped2 : unmappedFrom 256 = true := by decide +kernel
theorem unmapped3 : unmappedFrom 384 = true := by decide +kernel
theorem unmapped4 : unmappedFrom 512 = true := by decide +kernel
theorem unmapped5 : unmappedFrom 640 = true := by decide +kernel
theorem unmapped6 : unmappedFrom 768 = true := by decide +kernel
theorem unmapped7 : unmappedFrom 896 = true := by decide +kernel

theorem unmappedFrom_spec {a : Nat} (h : unmappedFrom a = true) (c : Nat) (h1 : a ≤ c) (h2 : c < a + 128) :
    up.on (PINB.MAP_UNMAPPED (c / 32) (c % 32)) = true := by
  have := List.all_eq_true.1 h (c - a) (List.mem_range.2 (by omega))
  simpa only [show a + (c - a) = c by omega] using this

theorem up_mapFirstBad : up.mapFirstBad = none := by
  apply mapFirstBad_of_unmapped
  intro c hc
  rcases (by omega : c / 128 = 0 ∨ c / 128 = 1 ∨ c / 128 = 2 ∨ c / 128 = 3 ∨ c / 128 = 4 ∨ c / 128 = 5 ∨ c / 128 = 6 ∨
    c / 128 = 7) with h | h | h | h | h | h | h | h
  · exact unmappedFrom_spec unmapped0 c (by omega) (by omega)
  · exact unmappedFrom_spec unmapped1 c (by omega) (by omega)
  · exact unmappedFrom_spec unmapped2 c (by omega) (by omega)
  · exact unmappedFrom_spec unmapped3 c (by omega) (by omega)
  · exact unmappedFrom_spec unmapped4 c (by omega) (by omega)
  · exact unmappedFrom_spec unmapped5 c (by omega) (by omega)
  · exact unmappedFrom_spec unmapped6 c (by omega) (by omega)
  · exact unmappedFrom_spec unmapped7 c (by omega) (by omega)

theorem up_engines_idle : ∀ n, n < 4 → up.engState n = seqIdle := by decide +kernel

/-- The empty DRAM holds the codeword of every line of its data. -/
theorem reset_dramCoded : State.reset.mem.DramCoded := by
  have bytes (n : Nat) : ∀ a, bytesAt [] a n = List.replicate n 0 := fun a => by
    unfold bytesAt; exact List.map_const'.trans (by rw [List.length_range]; rfl)
  intro i
  show bytesAt [] (8 * i) 8 = rsCheck (bytesAt [] (64 * i) 64)
  rw [bytes, bytes]; decide +kernel

/-! ### Registers -/

namespace Registers

theorem test_hyps_RegisterWritesStore :
    ((match decodeReg 0x10 with
        | Decoded.reg r w n i _ addr _ => decide (
            (r.kind ≠ RegKind.gd) ∧ (up.flt.alarms = []) ∧ (up.hostOpen addr = true) ∧ (ownWrite w.block (addr - (w.base +
              w.stride * n)) = false) ∧ (up.taken w.block n i (addr - (w.base + w.stride * n)) (up.reg addr) (0xffffffff :
              W32)).isSome = true)
        | _ => false) = true) ∧
    ((match decodeReg 0x10024 with
        | Decoded.reg r w n i _ addr _ => decide (
            (r.kind ≠ RegKind.gd) ∧ (up.flt.alarms = []) ∧ (up.hostOpen addr = true) ∧ (ownWrite w.block (addr - (w.base +
              w.stride * n)) = false) ∧ (up.taken w.block n i (addr - (w.base + w.stride * n)) (up.reg addr) (0xffffffff :
              W32) = none))
        | _ => false) = true) ∧
    ((match decodeReg 0x10 with
        | Decoded.reg r _ _ _ _ addr _ => decide (
            (r.kind ≠ RegKind.gd) ∧ (up.flt.alarms = []) ∧ (up.hostOpen addr = true) ∧ ((6 : BitVec 4) ≠ 0) ∧ ((6 : BitVec
              4) ≠ 15) ∧ (r.kind = RegKind.plain))
        | _ => false) = true) ∧
    ((match decodeReg 0x14 with
        | Decoded.reg r _ _ _ _ addr _ => decide (
            (r.kind ≠ RegKind.gd) ∧ (up.flt.alarms = []) ∧ (up.hostOpen addr = true) ∧ ((6 : BitVec 4) ≠ 0) ∧ ((6 : BitVec
              4) ≠ 15) ∧ (r.kind ≠ RegKind.plain))
        | _ => false) = true) ∧
    ((match decodeReg 0x18 with
        | Decoded.reg r w n i _ addr _ => decide (
            (match decodeReg ((0x18 / 4 * 4 + 4) % 2 ^ 26) with
                | Decoded.reg r' w' n' i' _ addr' _ => decide (
                    (r.kind ≠ RegKind.gd) ∧ (r'.kind ≠ RegKind.gd) ∧ (up.flt.alarms = []) ∧ (up.hostOpen addr = true) ∧
                      (up.hostOpen addr' = true) ∧ (ownWrite w.block (addr - (w.base + w.stride * n)) = false) ∧ (ownWrite
                      w'.block (addr' - (w'.base + w'.stride * n')) = false) ∧
                      (match up.taken w.block n i (addr - (w.base + w.stride * n)) (up.reg addr) (0xffffffff : W32) with
                        | some _ => decide (
                            (up.taken w'.block n' i' (addr' - (w'.base + w'.stride * n')) (up.reg addr') (0xffffffff :
                              W32)).isSome = true)
                        | _ => false) = true)
                | _ => false) = true)
        | _ => false) = true) ∧
    (0x100018 = 1048600 + 65536 * 0 ∧ up.hostOpen 0x100018 = true ∧ up.flt.alarms = []) := by 
  refine ⟨?_, ?_, ?_, ?_, ?_, ?_⟩ <;> decide +kernel

end Registers

/-! ### Pages of channels -/

namespace Pages

theorem test_hyps_PageWrites :
    (((match decodeReg 0x2000004 with
        | Decoded.reg _ w n i _ addr _ => decide (
            (up.flt.alarms = []) ∧ (up.hostOpen addr = true) ∧ (w.block = 32) ∧ (addr - (w.base + w.stride * n) < 33792) ∧
              (0 < (addr - (w.base + w.stride * n)) % 1024) ∧ ((addr - (w.base + w.stride * n)) % 1024 < 64) ∧ (up.spareBusy
              n i = false) ∧ ((addr - (w.base + w.stride * n)) % 1024 = 16 ∨ (addr - (w.base + w.stride * n)) % 1024 = 20 →
              -4096 ≤ signedOf 16 0xffffffff ∧ signedOf 16 0xffffffff ≤ 4095))
        | _ => false) = true)) ∧
    ((match decodeReg 0x3000000 with
        | Decoded.reg _ w n i _ addr _ => decide (
            (up.flt.alarms = []) ∧ (up.hostOpen addr = true) ∧ (w.block = 64) ∧ (addr - (w.base + w.stride * n) < 17408) ∧
              ((addr - (w.base + w.stride * n)) % 1024 < 136) ∧ ((addr - (w.base + w.stride * n)) % 1024 ∉ [16, 20, 120,
              128]) ∧ (up.smcSpareBusy n i = false))
        | _ => false) = true) ∧
    ((match decodeReg 0x3000014 with
        | Decoded.reg _ w n i _ addr _ => decide (
            (up.flt.alarms = []) ∧ (up.hostOpen addr = true) ∧ (w.block = 64) ∧ (addr - (w.base + w.stride * n) < 17408) ∧
              ((addr - (w.base + w.stride * n)) % 1024 = 20) ∧ (up.smcSpareBusy n i = false))
        | _ => false) = true) := by 
  refine ⟨?_, ?_, ?_⟩ <;> decide +kernel

end Pages

/-! ### Command registers -/

namespace Commands

theorem test_hyps_CommandRegisters :
    up.flt.alarms = [] ∧ (([((SEQ.CTRL_START 3).addr, 1, Instr.start (3 : Eng)), ((SEQ.CTRL_START 3).addr, 2, Instr.pause (3
      : Eng)), ((SEQ.CTRL_START 3).addr, 4, Instr.resume (3 : Eng)), ((SEQ.CTRL_START 3).addr, 8, Instr.abort (3 : Eng)),
      (GLB.ABORT_ALL.addr, 1, Instr.abortAll), (GLB.MAP_COMMIT.addr, 1, Instr.mapCommit), (GLB.POWER_CTRL_DORMANT.addr, 1,
      Instr.dormant), (GLB.LS_PULSE.addr, BitVec.zeroExtend 32 (0x85 : BitVec 8), Instr.lsPulse (0x85 : BitVec 8)),
      (PLN.EPOCH_TAG.addr + 4, (0xffffffff : W32), Instr.epochMark (0xffffffff : W32)), ((SEQ.CONFIG_POS_COUNT 3).addr,
      (0xffffffff : W32), Instr.configWrite (3 : Eng) (0xffffffff : W32)), ((SEQ.CACHE_PART_S_BASE 3).addr, (0xffffffff :
      W32), Instr.cachePart (3 : Eng) (0xffffffff : W32)), ((SEQ.STREAM_CTRL 3).addr, 1, Instr.flush (3 : Eng)),
      ((SEQ.IDLE_COMMIT 3).addr, 1, Instr.idleCommit (3 : Eng)), ((TSET.STAGE_WRITE_TS 3).addr, (0xffffffff : W32),
      Instr.stageWrite (3 : Eng) (0xffffffff : W32)), ((TSET.COMMIT_COMMIT 3).addr, 1, Instr.tsetCommit (3 : Eng)),
      ((TSET.ORIGIN 3).addr, (0xffffffff : W32), Instr.originWrite (3 : Eng) false (0xffffffff : W32)), ((TSET.ORIGIN
      3).addr + 4, (0xffffffff : W32), Instr.originWrite (3 : Eng) true (0xffffffff : W32)), ((FCAP.ENG_CFG_MODE 3).addr,
      (0xffffffff : W32), Instr.fcapCfgWrite (3 : Eng) (0xffffffff : W32)), ((FCAP.PART_ENG_BASE 3).addr, (0xffffffff :
      W32), Instr.failPartition (3 : Eng) (0xffffffff : W32)), ((FCAP.ENG_MAP_CTRL 3).addr, 1, Instr.dump (3 : Eng)),
      ((TIA.M_CTRL_ARM 63).addr, 1, Instr.tiaArm (63 : Meas)), ((TIA.M_CTRL_ARM 63).addr, 2, Instr.tiaStop (63 : Meas)),
      ((AQ.CTRL_ARM 7).addr, 1, Instr.acqArm (7 : UnitIx)), ((AQ.CTRL_ARM 7).addr, 2, Instr.acqTrigger (7 : UnitIx)),
      ((AQ.CTRL_ARM 7).addr, 4, Instr.acqDisarm (7 : UnitIx)), ((AQ.PART_BASE 7).addr, (0xffffffff : W32),
      Instr.acqPartWrite (7 : UnitIx) (0xffffffff : W32)), (CAL.BAND_PIN.addr, (0xffffffff : W32), Instr.bandWrite
      (0xffffffff : W32)), (LDG.CTRL.addr, 1, Instr.ldgFlush), (LDG.SIGN_INTERVAL.addr, (0xffffffff : W32),
      Instr.signIntervalWrite (0xffffffff : W32)), (TRG.SW_PULSE.addr, BitVec.zeroExtend 32 (0x85 : BitVec 8), Instr.swPulse
      (0x85 : BitVec 8)), ((PINB.CFG_CMP_EN (bankOf 1055) (pageOf 1055)).addr, (0xffffffff : W32), Instr.pinConfigWrite
      (1055 : PhysPin) (0xffffffff : W32)), ((TSET.SH_PERIOD_HI 3 31).addr, (0xffffffff : W32), Instr.periodWrite (3 : Eng)
      (31 : Fin 32) (0xffffffff : W32)), ((TSET.SH_SITE_DESKEW 3 63).addr, (0xffffffff : W32), Instr.siteDeskewWrite (3 :
      Eng) (63 : Fin 64) (0xffffffff : W32)), ((FLT.FEC_CTRL_VALID 3).addr, 256, Instr.fecClear (3 : Eng)), (TOK.CTRL.addr,
      BitVec.zeroExtend 32 (0x85 : BitVec 8), Instr.minClr (BitVec.truncate 7 (0x85 : BitVec 8))), ((PINB.HV_EN 31).addr,
      (0xffffffff : W32), Instr.gdValueWrite (BitVec.ofNat 26 (PINB.HV_EN 31).addr) (0xffffffff : W32)), ((PINB.HV_EN
      31).addr + 4, (0xffffffff : W32), Instr.pinHvEn (31 : BankIx) (0xffffffff : W32)), ((SMCG.HV_EN 15).addr + 4,
      (0xffffffff : W32), Instr.smcHvEn (15 : GroupIx) (0xffffffff : W32)), ((SMCG.GANG 15).addr + 4, (0xffffffff : W32),
      Instr.gang (15 : GroupIx) (0xffffffff : W32)), (CAL.SPARE_DIS_P.addr + 4, (0xffffffff : W32), Instr.spareDis false
      (0xffffffff : W32)), (CAL.SPARE_DIS_S.addr + 4, (0xffffffff : W32), Instr.spareDis true (0xffffffff : W32)),
      (LDG.RESET.addr + 4, (0xffffffff : W32), Instr.ldgReset (0xffffffff : W32)), (FLT.REACT_LINK_FC0.addr + 4, (0xffffffff
      : W32), Instr.react (0xffffffff : W32)), (FLT.FACTORY.addr + 4, (0xffffffff : W32), Instr.factoryEnter (0xffffffff :
      W32)), (BOOT.NVM_ERASE.addr + 4, (0xffffffff : W32), Instr.nvmSectorErase (0xffffffff : W32)), (BOOT.NVM_ERASE.addr +
      4, (0xffffffff : W32), Instr.nvmCopyErase (0xffffffff : W32))]).any fun _ => true) = true := by decide +kernel

end Commands

/-! ### Guarded registers -/

namespace Guarded

def arm (d : Dev) (a : Nat) (v : W32) : Dev := { d with host := { d.host with gd := [(blockOfAddr a, ⟨a, v, 1990000⟩)] } }
def sealed : Dev := up.modLdg fun l => { l with sealSt := .merging 5 }
def coll : Dev := up.modLdg fun l => { l with collapsed := true }
def dev1 : Dev := { up with flt := { up.flt with safeHold := true } }
def dev2 : Dev := arm up ((PINB.HV_EN 0).addr) 0
def dev3 : Dev := arm up ((SMCG.HV_EN 0).addr) 0
def dev4 : Dev := arm up ((SMCG.GANG 0).addr) 0
def dev5 : Dev := arm up CAL.SPARE_DIS_P.addr 0
def dev6 : Dev := arm up LDG.RESET.addr 0
def dev7 : Dev := arm sealed LDG.RESET.addr 1
def dev8 : Dev := arm coll LDG.RESET.addr 1
def dev9 : Dev := arm up LDG.RESET.addr 1
def dev10 : Dev := arm up FLT.REACT_LINK_FC0.addr 0
def dev11 : Dev := arm up FLT.FACTORY.addr 0
def dev12 : Dev := arm up FLT.FACTORY.addr 1
def dev13 : Dev := arm up BOOT.NVM_ERASE.addr 1
def dev14 : Dev := arm ({ up with boot := { up.boot with busy := some (1,2) } }) BOOT.NVM_ERASE.addr 1
def dev15 : Dev := arm up BOOT.NVM_ERASE.addr 0

theorem test_hyps_TurnedAwayAccess :
    (up.host.memEn = true ∧ (up.flt.safeHold = false ∨ false = false) ∧ (6 : BitVec 4) ≠ 0 ∧ (match decodeReg 0x1ffffff with
        | .reg .. => false
        | _ => true) = true) ∧
    (up.host.memEn = true ∧ up.flt.safeHold = false) ∧
    (dev1.host.memEn = true ∧ dev1.flt.safeHold = true) := by 
  refine ⟨?_, ?_, ?_⟩ <;> decide +kernel

theorem test_hyps_GuardedPairTakesEffect :
    (dev2.elapsed ≤ 1990000 + 16000 ∧ dev2.Armed (PINB.HV_EN 0).addr (0 : W32) 1990000) ∧
    (dev3.elapsed ≤ 1990000 + 16000 ∧ dev3.Armed (SMCG.HV_EN 0).addr (0 : W32) 1990000) ∧
    (dev4.elapsed ≤ 1990000 + 16000 ∧ dev4.Armed (SMCG.GANG 0).addr (0 : W32) 1990000) ∧
    (dev5.elapsed ≤ 1990000 + 16000 ∧ dev5.Armed (if false = true then CAL.SPARE_DIS_S else CAL.SPARE_DIS_P).addr (0 : W32)
      1990000 ∧ dev5.flt.alarms = []) ∧
    (dev6.elapsed ≤ 1990000 + 16000 ∧ (dev6.hostOpen LDG.RESET.addr = true ∧ dev6.gdPending (blockOfAddr LDG.RESET.addr) =
      some ⟨LDG.RESET.addr, (0 : W32), 1990000⟩) ∧ 0 % 2 = 0) ∧
    (dev7.elapsed ≤ 1990000 + 16000 ∧ (dev7.hostOpen LDG.RESET.addr = true ∧ dev7.gdPending (blockOfAddr LDG.RESET.addr) =
      some ⟨LDG.RESET.addr, (1 : W32), 1990000⟩) ∧ 1 % 2 = 1 ∧ dev7.ldg.sealSt ≠ SealStage.none) ∧
    (dev8.elapsed ≤ 1990000 + 16000 ∧ (dev8.hostOpen LDG.RESET.addr = true ∧ dev8.gdPending (blockOfAddr LDG.RESET.addr) =
      some ⟨LDG.RESET.addr, (1 : W32), 1990000⟩) ∧ 1 % 2 = 1 ∧ dev8.ldg.sealSt = SealStage.none ∧ (dev8.ldg.collapsed = true
      ∨ dev8.undelivered = true)) ∧
    (dev9.elapsed ≤ 1990000 + 16000 ∧ (dev9.hostOpen LDG.RESET.addr = true ∧ dev9.gdPending (blockOfAddr LDG.RESET.addr) =
      some ⟨LDG.RESET.addr, (1 : W32), 1990000⟩) ∧ 1 % 2 = 1 ∧ dev9.ldg.sealSt = SealStage.none ∧ dev9.ldg.collapsed = false
      ∧ dev9.undelivered = false) ∧
    (dev10.elapsed ≤ 1990000 + 16000 ∧ (dev10.hostOpen FLT.REACT_LINK_FC0.addr = true ∧ dev10.gdPending (blockOfAddr
      FLT.REACT_LINK_FC0.addr) = some ⟨FLT.REACT_LINK_FC0.addr, (0 : W32), 1990000⟩)) ∧
    (dev11.elapsed ≤ 1990000 + 16000 ∧ (dev11.hostOpen FLT.FACTORY.addr = true ∧ dev11.gdPending (blockOfAddr
      FLT.FACTORY.addr) = some ⟨FLT.FACTORY.addr, (0 : W32), 1990000⟩) ∧ 0 % 2 = 0) ∧
    (dev12.elapsed ≤ 1990000 + 16000 ∧ (dev12.hostOpen FLT.FACTORY.addr = true ∧ dev12.gdPending (blockOfAddr
      FLT.FACTORY.addr) = some ⟨FLT.FACTORY.addr, (1 : W32), 1990000⟩) ∧ 1 % 2 = 1) ∧
    (dev13.elapsed ≤ 1990000 + 16000 ∧ (dev13.hostOpen BOOT.NVM_ERASE.addr = true ∧ dev13.gdPending (blockOfAddr
      BOOT.NVM_ERASE.addr) = some ⟨BOOT.NVM_ERASE.addr, (1 : W32), 1990000⟩) ∧ (([Instr.nvmSectorErase (~~~(1 : W32)),
      Instr.nvmCopyErase (~~~(1 : W32))]).any fun _ => decide ((([1, 2]).any fun op => decide ((1 % 4 = op) ∧
      (dev13.nvmRefusal (op + 1) = 0))) = true)) = true) ∧
    (dev14.elapsed ≤ 1990000 + 16000 ∧ (dev14.hostOpen BOOT.NVM_ERASE.addr = true ∧ dev14.gdPending (blockOfAddr
      BOOT.NVM_ERASE.addr) = some ⟨BOOT.NVM_ERASE.addr, (1 : W32), 1990000⟩) ∧ (([Instr.nvmSectorErase (~~~(1 : W32)),
      Instr.nvmCopyErase (~~~(1 : W32))]).any fun _ => decide ((([1, 2]).any fun op => decide ((1 % 4 = op) ∧
      (dev14.nvmRefusal (op + 1) ≠ 0))) = true)) = true) ∧
    (dev15.elapsed ≤ 1990000 + 16000 ∧ (dev15.hostOpen BOOT.NVM_ERASE.addr = true ∧ dev15.gdPending (blockOfAddr
      BOOT.NVM_ERASE.addr) = some ⟨BOOT.NVM_ERASE.addr, (0 : W32), 1990000⟩) ∧ (([Instr.nvmSectorErase (~~~(0 : W32)),
      Instr.nvmCopyErase (~~~(0 : W32))]).any fun _ => decide ((0 % 4 ≠ 1) ∧ (0 % 4 ≠ 2))) = true) := by 
  exact ⟨by unfold Dev.Armed; decide +kernel,
    by unfold Dev.Armed; decide +kernel,
    by unfold Dev.Armed; decide +kernel,
    by unfold Dev.Armed; decide +kernel,
    by decide +kernel,
    by decide +kernel,
    by decide +kernel,
    by decide +kernel,
    by decide +kernel,
    by decide +kernel,
    by decide +kernel,
    by decide +kernel,
    by decide +kernel,
    by decide +kernel⟩

end Guarded

/-! ### Guarded pairs and NVM -/

namespace Nvm

def gd (a : Nat) (v : W32) : Dev := { up with host := { up.host with gd := [(blockOfAddr a, ⟨a, v, 1999000⟩)] } }
def nvmB (c : Nat) : Dev := { (up.put BOOT.NVM_STATUS_BUSY 1).setReg (BOOT.NVM_BUF 3).addr 0x1234 with boot := { up.boot with busy := some (c, 0x10000) } }
def dev1 : Dev := gd ((PINB.HV_EN 0).addr) 5
def dev2 : Dev := up.put BOOT.NVM_ADDR 100
def dev3 : Dev := nvmB 0

theorem test_hyps_GuardedPairsWaitOrFail :
    (isGuarded 0x50050 = true ∧ up.hostOpen 0x50050 = true) ∧
    (((5 : W32) ≠ ~~~(5 : W32) ∨ 1999000 + 16000 < dev1.elapsed) ∧ dev1.flt.alarms = [] ∧ (([(Instr.pinHvEn (0 : BankIx) (5
      : W32), (PINB.HV_EN 0).addr), (Instr.smcHvEn (0 : GroupIx) (5 : W32), (SMCG.HV_EN 0).addr), (Instr.gang (0 : GroupIx)
      (5 : W32), (SMCG.GANG 0).addr), (Instr.spareDis false (5 : W32), if false = true then CAL.SPARE_DIS_S.addr else
      CAL.SPARE_DIS_P.addr), (Instr.ldgReset (5 : W32), LDG.RESET.addr), (Instr.react (5 : W32), FLT.REACT_LINK_FC0.addr),
      (Instr.factoryEnter (5 : W32), FLT.FACTORY.addr), (Instr.nvmSectorErase (5 : W32), BOOT.NVM_ERASE.addr),
      (Instr.nvmCopyErase (5 : W32), BOOT.NVM_ERASE.addr)]).any fun (_, a) => decide (((dev1.hostOpen a = true ∧
      dev1.gdPending (blockOfAddr a) = some ⟨a, (5 : W32), 1999000⟩)))) = true) := by 
  refine ⟨?_, ?_⟩ <;> decide +kernel

theorem test_hyps_NvmCommands :
    (up.hostOpen BOOT.NVM_CMD_GO.addr = true ∧ (([(Instr.nvmRead, 0), (Instr.nvmProgram, 1)]).any fun ic => decide
      ((up.nvmRefusal ic.2 = 0))) = true) ∧
    (dev2.hostOpen BOOT.NVM_CMD_GO.addr = true ∧ (([(Instr.nvmRead, 0), (Instr.nvmProgram, 1)]).any fun ic => decide
      ((dev2.nvmRefusal ic.2 ≠ 0))) = true) ∧
    ((withDev dev3).mem.wf = true ∧ dev3.boot.busy = some (0, 65536)) := by 
  refine ⟨?_, ?_, ?_⟩ <;> decide +kernel

end Nvm

/-! ### Maps and starts -/

namespace Maps

def q2 : Dev := up.put PLN.QUALITY_QUAL 2
def running : Dev := (q2.put (SEQ.STATUS_STATE 0) seqRunning).put (SEQ.STATUS_PROG_VALID 0) 1
def prog : Dev := (q2.put (SEQ.STATUS_PROG_VALID 0) 1).put (SEQ.START_ADDR 0) 77
def heldS : Dev := { prog with maps := { prog.maps with heldStarts := [0] } }
def mapBad : Dev := (q2.setReg (GLB.BANK_ENGINE 0).addr 1).put (SEQ.CONFIG_POS_COUNT 1) 0
def dev1 : Dev := running.setReg (GLB.BANK_ENGINE 0).addr 1
def dev2 : Dev := { heldS with pln := { heldS.pln with epoch := some ⟨999990, 1234, 5000000, 3, 2000022⟩ } }
def dev3 : Dev := heldS.put PLN.SYNC_CTRL_ARM 1
def dev4 : Dev := prog.put GOV.STATE_THERM_HOLD 1

theorem test_hyps_MapCommitAndHeldStart :
    (up.hostOpen GLB.MAP_COMMIT.addr = true ∧ (∀ n ∈ up.mapAffected, up.engState n = seqIdle) ∧ up.mapFirstBad = none) ∧
    (dev1.hostOpen GLB.MAP_COMMIT.addr = true ∧ (∃ n ∈ dev1.mapAffected, dev1.engState n ≠ seqIdle)) ∧
    (0 ∈ dev2.maps.heldStarts ∧ dev2.startHeld 0 = false ∧ dev2.flt.alarms = [] ∧ dev2.pln.epoch ≠ none) ∧
    (0 ∈ dev3.maps.heldStarts ∧ dev3.startHeld 0 = false ∧ dev3.flt.alarms = [] ∧ dev3.pln.epoch = none) ∧
    ((match if 16 ≤ 0x14 ∧ 0x14 ≤ 23 then mapBad.nextBoundary (0x14 % 4) else some mapBad.elapsed with
        | some _ => decide (
            (∃ p ∈ disciplinePaths 0x14, mapBad.tokenCond p = false))
        | _ => false) = true) ∧
    ((∀ p ∈ disciplinePaths 0x55, mapBad.tokenCond p = true)) := by 
  exact ⟨by exact ⟨by decide +kernel, fun n h => up_engines_idle n (mapAffected_lt _ n h), up_mapFirstBad⟩,
    by decide +kernel,
    by decide +kernel,
    by decide +kernel,
    by decide +kernel,
    by decide +kernel⟩

theorem test_hyps_StartIsJudged :
    (dev2.hostOpen (SEQ.CTRL_START 0).addr = true ∧ dev2.flt.alarms = [] ∧ dev2.pln.epoch ≠ none) ∧
    (dev4.hostOpen (SEQ.CTRL_START 0).addr = true ∧ dev4.flt.alarms = [] ∧ dev4.pln.epoch = none ∧ dev4.startHeld 0 = true) ∧
    (mapBad.hostOpen (SEQ.CTRL_START 0).addr = true ∧ mapBad.flt.alarms = [] ∧ mapBad.pln.epoch = none ∧ mapBad.startHeld 0
      = false) := by 
  refine ⟨?_, ?_, ?_⟩ <;> decide +kernel

end Maps

/-! ### The Plain -/

namespace Clocks

def q2 : Dev := up.put PLN.QUALITY_QUAL 2
def running : Dev := (q2.put (SEQ.STATUS_STATE 0) seqRunning).put (SEQ.STATUS_PROG_VALID 0) 1
def prog : Dev := (q2.put (SEQ.STATUS_PROG_VALID 0) 1).put (SEQ.START_ADDR 0) 77
def heldS : Dev := { prog with maps := { prog.maps with heldStarts := [0] } }
def armed : Dev := (q2.put PLN.SYNC_CTRL_ARM 1).put PLN.SYNC_LOAD 5000000
def due : Dev := q2.modPln fun p => { p with epoch := some ⟨999990, 1234, 5000000, 3, 2000022⟩ }
def dueRef : Dev := { ((q2.put PLN.QUALITY_PLLT_LOCK 0).put PLN.QUALITY_REFSTEP 1) with pln := due.pln }
def mapBad : Dev := (q2.setReg (GLB.BANK_ENGINE 0).addr 1).put (SEQ.CONFIG_POS_COUNT 1) 0
def running2 : Dev := running.modEng 0 fun e => { e with issued := [] }
def ck (off : Nat) : Dev := (((((q2.put PLN.SYNC_CTRL_CHECK_EN 1).put PLN.QUALITY_EPOCH_STATE 1).put PLN.SYNC_PERIOD 100000).put PLN.PHASE_TOL 50).put PLN.QUALITY_WAKE_CAP 0).modPln fun p => {p with ball := (q2.now - 100000 - off / 4096, 4096 - off % 4096)}
def dev1 : Dev := q2.modPln (fun p => {p with badRun := 1, warmSince := some 100})
def dev2 : Dev := { heldS with pln := { heldS.pln with epoch := some ⟨999990, 1234, 5000000, 3, 2000022⟩ } }
def dev3 : Dev := armed.put PLN.SYNC_LOAD (2^63+5)
def dev4 : Dev := prog.put PLN.SYNC_CTRL_ARM 1
def dev5 : Dev := ck 0
def dev6 : Dev := ((ck 9000).put PLN.QUALITY_PLLT_LOCK 0).put PLN.QUALITY_REFSTEP 1
def dev7 : Dev := ((q2.put PLN.QUALITY_EPOCH_STATE 2).put PLN.WARM_SETTLE 0).modPln fun p => {p with lastPass := true, badRun := 1}

theorem test_hyps_ReferenceIsWatched :
    mapBad.flt.alarms = [] := by decide +kernel

theorem test_hyps_ClocksAndQuality :
    (mapBad.flt.alarms = [] ∧ (!mapBad.on PLN.QUALITY_PLLT_LOCK && mapBad.on PLN.QUALITY_REFCLK_OK && mapBad.st !=
      stDormant) = false ∧ mapBad.pln.warmSince = none ∧ mapBad.on PLN.QUALITY_REFSTEP = false) ∧
    (dueRef.flt.alarms = [] ∧ (!dueRef.on PLN.QUALITY_PLLT_LOCK && dueRef.on PLN.QUALITY_REFCLK_OK && dueRef.st !=
      stDormant) = true ∧ dueRef.on PLN.QUALITY_REFSTEP = true) ∧
    (mapBad.flt.alarms = [] ∧ mapBad.on PLN.QUALITY_REF_WARM = false) ∧
    (mapBad.flt.alarms = [] ∧ mapBad.on PLN.QUALITY_REF_WARM ≠ true) ∧
    (dev1.flt.alarms = [] ∧ (dev1.pln.warmSince).isSome = true) := by 
  refine ⟨?_, ?_, ?_, ?_, ?_⟩ <;> decide +kernel

theorem test_hyps_SyncAndEpochs :
    (dev2.hostOpen PLN.SYNC_CTRL_ARM.addr = true ∧ dev2.gdPending 1 = none ∧ dev2.pln.epoch ≠ none ∧
      (match dev2.pln.epoch with
        | some _ => decide ((dev2.flt.alarms = []))
        | _ => false) = true) ∧
    (up.hostOpen PLN.SYNC_CTRL_ARM.addr = true ∧ up.gdPending 1 = none ∧ up.pln.epoch = none ∧ up.qual = 0) ∧
    (running2.hostOpen PLN.SYNC_CTRL_ARM.addr = true ∧ running2.gdPending 1 = none ∧ running2.pln.epoch = none ∧
      running2.qual ≠ 0 ∧ running2.armBusy = true) ∧
    (dev3.hostOpen PLN.SYNC_CTRL_ARM.addr = true ∧ dev3.gdPending 1 = none ∧ dev3.pln.epoch = none ∧ dev3.qual ≠ 0 ∧
      dev3.armBusy = false ∧ 2 ^ 63 ≤ dev3.get PLN.SYNC_LOAD) ∧
    (mapBad.hostOpen PLN.SYNC_CTRL_ARM.addr = true ∧ mapBad.gdPending 1 = none ∧ mapBad.pln.epoch = none ∧ mapBad.qual ≠ 0 ∧
      mapBad.armBusy = false ∧ mapBad.get PLN.SYNC_LOAD < 2 ^ 63 ∧ mapBad.on PLN.SYNC_CTRL_ARM = false) ∧
    (dev4.hostOpen PLN.SYNC_CTRL_ARM.addr = true ∧ dev4.gdPending 1 = none ∧ dev4.on PLN.SYNC_CTRL_ARM = true) ∧
    (dev3.flt.alarms = [] ∧ dev3.on PLN.SYNC_CTRL_ARM = true ∧ (2 ^ 63 ≤ (edgeDue dev3 5).load ∨ 2 ^ 63 ≤ (edgeDue dev3
      5).countAtEdge + 32)) ∧
    (armed.flt.alarms = [] ∧ armed.on PLN.SYNC_CTRL_ARM = true ∧ (¬(2 ^ 63 ≤ (edgeDue armed 5).load ∨ 2 ^ 63 ≤ (edgeDue
      armed 5).countAtEdge + 32)) ∧ armed.now < (edgeDue armed 5).countAtEdge) ∧
    (dev4.flt.alarms = [] ∧ dev4.on PLN.SYNC_CTRL_ARM = true ∧ (¬(2 ^ 63 ≤ (edgeDue dev4 5).load ∨ 2 ^ 63 ≤ (edgeDue dev4
      5).countAtEdge + 32)) ∧ (edgeDue dev4 5).countAtEdge ≤ dev4.now) ∧
    (mapBad.flt.alarms = [] ∧ mapBad.on PLN.SYNC_CTRL_ARM = false ∧ (mapBad.on PLN.SYNC_CTRL_CHECK_EN && (mapBad.get
      PLN.QUALITY_EPOCH_STATE == 1 || mapBad.get PLN.QUALITY_EPOCH_STATE == 2)) = false) ∧
    (dev5.flt.alarms = [] ∧ dev5.on PLN.SYNC_CTRL_ARM = false ∧ (dev5.on PLN.SYNC_CTRL_CHECK_EN && (dev5.get
      PLN.QUALITY_EPOCH_STATE == 1 || dev5.get PLN.QUALITY_EPOCH_STATE == 2)) = true ∧ dev5.byTclk = true ∧ (syncDeviation
      (dev5.interpolated 0xfff) (4096 * dev5.pln.ball.1 + dev5.pln.ball.2) (4096 * dev5.get PLN.SYNC_PERIOD)).natAbs ≤
      dev5.get PLN.PHASE_TOL) ∧
    (dev5.flt.alarms = [] ∧ dev5.on PLN.SYNC_CTRL_ARM = false ∧ (dev5.on PLN.SYNC_CTRL_CHECK_EN && (dev5.get
      PLN.QUALITY_EPOCH_STATE == 1 || dev5.get PLN.QUALITY_EPOCH_STATE == 2)) = true ∧ dev5.byTclk = true ∧ dev5.get
      PLN.PHASE_TOL < (syncDeviation (dev5.interpolated 5) (4096 * dev5.pln.ball.1 + dev5.pln.ball.2) (4096 * dev5.get
      PLN.SYNC_PERIOD)).natAbs ∧ (syncDeviation (dev5.interpolated 5) (4096 * dev5.pln.ball.1 + dev5.pln.ball.2) (4096 *
      dev5.get PLN.SYNC_PERIOD)).natAbs ≤ 4096) ∧
    (dev6.flt.alarms = [] ∧ dev6.on PLN.SYNC_CTRL_ARM = false ∧ (dev6.on PLN.SYNC_CTRL_CHECK_EN && (dev6.get
      PLN.QUALITY_EPOCH_STATE == 1 || dev6.get PLN.QUALITY_EPOCH_STATE == 2)) = true ∧ dev6.byTclk = false ∧ (syncDeviation
      (dev6.interpolated 5) (4096 * dev6.pln.ball.1 + dev6.pln.ball.2) (4096 * dev6.get PLN.SYNC_PERIOD)).natAbs ≤ 65536) ∧
    (dev7.flt.alarms = [] ∧ dev7.on PLN.SYNC_CTRL_ARM = false ∧ (dev7.on PLN.SYNC_CTRL_CHECK_EN && (dev7.get
      PLN.QUALITY_EPOCH_STATE == 1 || dev7.get PLN.QUALITY_EPOCH_STATE == 2)) = true ∧ dev7.get PLN.PHASE_TOL <
      (syncDeviation (dev7.interpolated 5) (4096 * dev7.pln.ball.1 + dev7.pln.ball.2) (4096 * dev7.get
      PLN.SYNC_PERIOD)).natAbs ∧ (if dev7.byTclk = true then 4096 else 65536) < (syncDeviation (dev7.interpolated 5) (4096 *
      dev7.pln.ball.1 + dev7.pln.ball.2) (4096 * dev7.get PLN.SYNC_PERIOD)).natAbs) ∧
    (mapBad.hostOpen (PLN.EPOCH_TAG.addr + 4) = true ∧ mapBad.gdPending 1 = none) := by 
  refine ⟨?_, ?_, ?_, ?_, ?_, ?_, ?_, ?_, ?_, ?_, ?_, ?_, ?_, ?_, ?_⟩ <;> decide +kernel

end Clocks

/-! ### Vectors -/

namespace Vectors

def q2 : Dev := (up.put PLN.QUALITY_QUAL 2).put PLN.SYNC_CTRL_CHECK_EN 0
def st (k : Nat) : Dev := (((q2.put (SEQ.CONFIG_ALLDROP_HALT 0) 0).put (SEQ.STREAM_LOWWATER 0) 1).put (SEQ.STATUS_STATE 0) k).put (SEQ.STATUS_PROG_VALID 0) 1
def e0 (k : Nat) (f : EngSt → EngSt) : Dev := (st k).modEng 0 fun e => f { e with started := true, after := .issue ⟨5, 0, true⟩, earliest := 1000100 * unit24 + 7 }
def play0 (x : Nat) : Play := {addr := 5, word := MicroWord.ofNat x, idx := 0, first := false, last := true, start := 1000200*unit24+5, vec := 9, seg := 0, stream := true, progMask := 0, commit := none, shadow := none, symErr := [], ranged := [], clamped := [], arch := none}
def W (bop next : Nat) (rest : Nat := 0) : Nat := bop * 2^158 + next * 2^162 + rest
def dec (x : Nat) (stk : List Nat := []) : Dev := e0 seqRunning fun e => { e with after := .decide, regs := ⟨[3,0,0,0], stk⟩, play := some (play0 x)}
def ab (k : Nat) : Dev := e0 k fun e => { e with abortReq := some 3, issued := [play0 0] }
def buf : Buf := ⟨0x1000, 50, 0, false, false, false, 0, 13, 0, false⟩
def level (f : EngSt → EngSt) (k : Nat) : Dev := ((e0 k fun e => f { e with stream := { e.stream with bufs := [buf] } }).put (SEQ.CACHE_PART_S_GRAN 0) 2).put (SEQ.CONFIG_POS_COUNT 0) 16
def C0 : Nat := 2^154
def dev1 : Dev := level id seqRunning
def dev2 : Dev := e0 seqRunning id
def dev3 : Dev := dec (W 13 99)
def dev4 : Dev := (dec (W 0 9)).put (SEQ.CONFIG_ALLDROP_HALT 0) 1
def dev5 : Dev := dec (W 0 0)
def dev6 : Dev := dec (W 1 99)
def dev7 : Dev := dec (W 2 99)
def dev8 : Dev := dec (W 3 99)
def dev9 : Dev := dec (W 4 99) [7]
def dev10 : Dev := dec (W 4 9) [1,2,3,4,5,6,7,8]
def dev11 : Dev := dec (W 5 99 C0) [7]
def dev12 : Dev := dec (W 6 99) [7,8]
def dev13 : Dev := dec (W 6 9)
def dev14 : Dev := dec (W 7 0x10 C0)
def dev15 : Dev := dec (W 8 9)
def dev16 : Dev := dec (W 9 9)
def dev17 : Dev := dec (W 14 9 C0)
def dev18 : Dev := dec (W 12 9)
def dev19 : Dev := dec (W 12 9 (2^32))
def dev20 : Dev := dec (W 12 9 (4*2^150+2^32))
def dev21 : Dev := ab seqRunning
def dev22 : Dev := e0 seqRunning (fun e => { e with after := .halt true })
def dev23 : Dev := e0 seqRunning (fun e => { e with under := some (1000300*unit24) })
def dev24 : Dev := level (fun e => {e with hold := some ⟨999000, 1999000, 3⟩}) seqHolding

theorem test_hyps_VectorsIssueAndDecide :
    (((match (dev1.eng 0).after with
        | AfterLast.issue x => decide (
            (dev1.engState 0 = seqRunning) ∧ ((dev1.eng 0).under = none) ∧ ((dev1.eng 0).abortReq = none) ∧ (dev1.on
              (SEQ.STATUS_PAUSE_PENDING 0) = false ∨ Dev.insideAtomic (withDev dev1).mem 0 x dev1 = true) ∧ (dev1.flt.alarms
              = []) ∧ (¬(((withDev dev1).mem.word 0 x.addr).vsrc ≤ 1 ∧ dev1.streamLevel 0 = 0)) ∧
              (match Dev.fetchVector (withDev dev1).mem 0 ((withDev dev1).mem.word 0 x.addr) x.idx dev1 with
                | Fetch.ok _ => decide (
                    (dev1.fetchAddr 0 ((withDev dev1).mem.word 0 x.addr) x.idx ≠ none → 0 ≤ 3))
                | _ => false) = true)
        | _ => false) = true)) ∧
    (((match (dev1.eng 0).after with
        | AfterLast.issue x => decide (
            (dev1.engState 0 = seqRunning) ∧ ((dev1.eng 0).under = none) ∧ ((dev1.eng 0).abortReq = none) ∧ (dev1.on
              (SEQ.STATUS_PAUSE_PENDING 0) = false ∨ Dev.insideAtomic (withDev dev1).mem 0 x dev1 = true) ∧ (dev1.flt.alarms
              = []) ∧ (¬(((withDev dev1).mem.word 0 x.addr).vsrc ≤ 1 ∧ dev1.streamLevel 0 = 0)) ∧ (Dev.fetchVector (withDev
              dev1).mem 0 ((withDev dev1).mem.word 0 x.addr) x.idx dev1 = Fetch.illegal ∨ Dev.fetchVector (withDev dev1).mem
              0 ((withDev dev1).mem.word 0 x.addr) x.idx dev1 = Fetch.bad ∨ dev1.fetchAddr 0 ((withDev dev1).mem.word 0
              x.addr) x.idx ≠ none ∧ 3 < 4))
        | _ => false) = true)) ∧
    (((match (dev2.eng 0).after with
        | AfterLast.issue x => decide (
            (dev2.engState 0 = seqRunning) ∧ ((dev2.eng 0).under = none) ∧ ((dev2.eng 0).abortReq = none) ∧ (dev2.on
              (SEQ.STATUS_PAUSE_PENDING 0) = false ∨ Dev.insideAtomic (withDev dev2).mem 0 x dev2 = true) ∧ (dev2.flt.alarms
              = []) ∧ (¬¬(((withDev dev2).mem.word 0 x.addr).vsrc ≤ 1 ∧ dev2.streamLevel 0 = 0)))
        | _ => false) = true)) ∧
    ((dev3.eng 0).after = AfterLast.decide ∧ ((match (dev3.eng 0).lastPlay with
        | some p => decide (
            (dev3.engState 0 = seqRunning) ∧ (dev3.flt.alarms = []) ∧ (p.word.bop = 13 ∨ p.word.bop = 14 ∧ ((Dev.latchSites
              0 p.word (Dev.atDecision (withDev dev3).mem 0 p dev3)).cond 0 p.word).testBit 0 = true))
        | _ => false) = true)) ∧
    ((dev4.eng 0).after = AfterLast.decide ∧ ((match (dev4.eng 0).lastPlay with
        | some p => decide (
            (dev4.engState 0 = seqRunning) ∧ (dev4.flt.alarms = []) ∧ (dev4.on (SEQ.CONFIG_ALLDROP_HALT 0) = true ∧
              p.word.atomic = false ∧ (Dev.atDecision (withDev dev4).mem 0 p dev4).activeSites 0 = []) ∧ (p.word.bop ≠ 13) ∧
              (p.word.bop = 14 → ((Dev.latchSites 0 p.word (Dev.atDecision (withDev dev4).mem 0 p dev4)).cond 0
              p.word).testBit 0 = false))
        | _ => false) = true)) ∧
    ((dev5.eng 0).after = AfterLast.decide ∧ (match (dev5.eng 0).lastPlay with
        | some p => decide (
            (dev5.engState 0 = seqRunning) ∧ (dev5.flt.alarms = []) ∧ (¬(dev5.on (SEQ.CONFIG_ALLDROP_HALT 0) = true ∧
              p.word.atomic = false ∧ (Dev.atDecision (withDev dev5).mem 0 p dev5).activeSites 0 = [])) ∧ (p.word.bop = 0))
        | _ => false) = true) ∧
    ((dev6.eng 0).after = AfterLast.decide ∧ (match (dev6.eng 0).lastPlay with
        | some p => decide (
            (dev6.engState 0 = seqRunning) ∧ (dev6.flt.alarms = []) ∧ (¬(dev6.on (SEQ.CONFIG_ALLDROP_HALT 0) = true ∧
              p.word.atomic = false ∧ (Dev.atDecision (withDev dev6).mem 0 p dev6).activeSites 0 = [])) ∧ (p.word.bop = 1))
        | _ => false) = true) ∧
    ((dev7.eng 0).after = AfterLast.decide ∧ (match (dev7.eng 0).lastPlay with
        | some p => decide (
            (dev7.engState 0 = seqRunning) ∧ (dev7.flt.alarms = []) ∧ (¬(dev7.on (SEQ.CONFIG_ALLDROP_HALT 0) = true ∧
              p.word.atomic = false ∧ (Dev.atDecision (withDev dev7).mem 0 p dev7).activeSites 0 = [])) ∧ (p.word.bop = 2))
        | _ => false) = true) ∧
    ((dev8.eng 0).after = AfterLast.decide ∧ (match (dev8.eng 0).lastPlay with
        | some p => decide (
            (dev8.engState 0 = seqRunning) ∧ (dev8.flt.alarms = []) ∧ (¬(dev8.on (SEQ.CONFIG_ALLDROP_HALT 0) = true ∧
              p.word.atomic = false ∧ (Dev.atDecision (withDev dev8).mem 0 p dev8).activeSites 0 = [])) ∧ (p.word.bop = 3))
        | _ => false) = true) ∧
    ((dev9.eng 0).after = AfterLast.decide ∧ ((match (dev9.eng 0).lastPlay with
        | some p => decide (
            (dev9.engState 0 = seqRunning) ∧ (dev9.flt.alarms = []) ∧ (¬(dev9.on (SEQ.CONFIG_ALLDROP_HALT 0) = true ∧
              p.word.atomic = false ∧ (Dev.atDecision (withDev dev9).mem 0 p dev9).activeSites 0 = [])) ∧ (p.word.bop = 4 ∨
              p.word.bop = 5 ∧ ((Dev.latchSites 0 p.word (Dev.atDecision (withDev dev9).mem 0 p dev9)).cond 0
              p.word).testBit 0 = true) ∧ ((dev9.eng 0).regs.stack.length < 8))
        | _ => false) = true)) ∧
    ((dev10.eng 0).after = AfterLast.decide ∧ ((match (dev10.eng 0).lastPlay with
        | some p => decide (
            (dev10.engState 0 = seqRunning) ∧ (dev10.flt.alarms = []) ∧ (¬(dev10.on (SEQ.CONFIG_ALLDROP_HALT 0) = true ∧
              p.word.atomic = false ∧ (Dev.atDecision (withDev dev10).mem 0 p dev10).activeSites 0 = [])) ∧ (p.word.bop = 4
              ∨ p.word.bop = 5 ∧ ((Dev.latchSites 0 p.word (Dev.atDecision (withDev dev10).mem 0 p dev10)).cond 0
              p.word).testBit 0 = true) ∧ (8 ≤ (dev10.eng 0).regs.stack.length))
        | _ => false) = true)) ∧
    ((dev11.eng 0).after = AfterLast.decide ∧ (match (dev11.eng 0).lastPlay with
        | some p => decide (
            (dev11.engState 0 = seqRunning) ∧ (dev11.flt.alarms = []) ∧ (¬(dev11.on (SEQ.CONFIG_ALLDROP_HALT 0) = true ∧
              p.word.atomic = false ∧ (Dev.atDecision (withDev dev11).mem 0 p dev11).activeSites 0 = [])) ∧ (p.word.bop = 5)
              ∧ (((Dev.latchSites 0 p.word (Dev.atDecision (withDev dev11).mem 0 p dev11)).cond 0 p.word).testBit 0 = false))
        | _ => false) = true) ∧
    ((dev12.eng 0).after = AfterLast.decide ∧ (match (dev12.eng 0).lastPlay with
        | some p => decide (
            (dev12.engState 0 = seqRunning) ∧ (dev12.flt.alarms = []) ∧ (¬(dev12.on (SEQ.CONFIG_ALLDROP_HALT 0) = true ∧
              p.word.atomic = false ∧ (Dev.atDecision (withDev dev12).mem 0 p dev12).activeSites 0 = [])) ∧ (p.word.bop = 6)
              ∧ (dev12.eng 0).regs.stack ≠ [])
        | _ => false) = true) ∧
    ((dev13.eng 0).after = AfterLast.decide ∧ (match (dev13.eng 0).lastPlay with
        | some p => decide (
            (dev13.engState 0 = seqRunning) ∧ (dev13.flt.alarms = []) ∧ (¬(dev13.on (SEQ.CONFIG_ALLDROP_HALT 0) = true ∧
              p.word.atomic = false ∧ (Dev.atDecision (withDev dev13).mem 0 p dev13).activeSites 0 = [])) ∧ (p.word.bop = 6)
              ∧ ((dev13.eng 0).regs.stack = []))
        | _ => false) = true) ∧
    ((dev14.eng 0).after = AfterLast.decide ∧ (match (dev14.eng 0).lastPlay with
        | some p => decide (
            (dev14.engState 0 = seqRunning) ∧ (dev14.flt.alarms = []) ∧ (¬(dev14.on (SEQ.CONFIG_ALLDROP_HALT 0) = true ∧
              p.word.atomic = false ∧ (Dev.atDecision (withDev dev14).mem 0 p dev14).activeSites 0 = [])) ∧ (p.word.bop = 7))
        | _ => false) = true) ∧
    ((dev15.eng 0).after = AfterLast.decide ∧ (match (dev15.eng 0).lastPlay with
        | some p => decide (
            (dev15.engState 0 = seqRunning) ∧ (dev15.flt.alarms = []) ∧ (¬(dev15.on (SEQ.CONFIG_ALLDROP_HALT 0) = true ∧
              p.word.atomic = false ∧ (Dev.atDecision (withDev dev15).mem 0 p dev15).activeSites 0 = [])) ∧ (0 < 4) ∧
              (p.word.bop = 8 + 0) ∧ ((fun i => (dev15.eng 0).regs.cnt.getD i 0) 0 ≠ 0))
        | _ => false) = true) ∧
    ((dev16.eng 0).after = AfterLast.decide ∧ (match (dev16.eng 0).lastPlay with
        | some p => decide (
            (dev16.engState 0 = seqRunning) ∧ (dev16.flt.alarms = []) ∧ (¬(dev16.on (SEQ.CONFIG_ALLDROP_HALT 0) = true ∧
              p.word.atomic = false ∧ (Dev.atDecision (withDev dev16).mem 0 p dev16).activeSites 0 = [])) ∧ (1 < 4) ∧
              (p.word.bop = 8 + 1) ∧ ((fun i => (dev16.eng 0).regs.cnt.getD i 0) 1 = 0))
        | _ => false) = true) ∧
    ((dev17.eng 0).after = AfterLast.decide ∧ (match (dev17.eng 0).lastPlay with
        | some p => decide (
            (dev17.engState 0 = seqRunning) ∧ (dev17.flt.alarms = []) ∧ (¬(dev17.on (SEQ.CONFIG_ALLDROP_HALT 0) = true ∧
              p.word.atomic = false ∧ (Dev.atDecision (withDev dev17).mem 0 p dev17).activeSites 0 = [])) ∧ (p.word.bop =
              14) ∧ (((Dev.latchSites 0 p.word (Dev.atDecision (withDev dev17).mem 0 p dev17)).cond 0 p.word).testBit 0 =
              false))
        | _ => false) = true) ∧
    ((dev18.eng 0).after = AfterLast.decide ∧ (match (dev18.eng 0).lastPlay with
        | some p => decide (
            (dev18.engState 0 = seqRunning) ∧ (dev18.flt.alarms = []) ∧ (¬(dev18.on (SEQ.CONFIG_ALLDROP_HALT 0) = true ∧
              p.word.atomic = false ∧ (Dev.atDecision (withDev dev18).mem 0 p dev18).activeSites 0 = [])) ∧ (p.word.bop =
              12) ∧ ((Dev.latchSites 0 p.word (Dev.atDecision (withDev dev18).mem 0 p dev18)).matchTrue 0 p.word.matchSel =
              true))
        | _ => false) = true) ∧
    ((dev19.eng 0).after = AfterLast.decide ∧ (match (dev19.eng 0).lastPlay with
        | some p => decide (
            (dev19.engState 0 = seqRunning) ∧ (dev19.flt.alarms = []) ∧ (¬(dev19.on (SEQ.CONFIG_ALLDROP_HALT 0) = true ∧
              p.word.atomic = false ∧ (Dev.atDecision (withDev dev19).mem 0 p dev19).activeSites 0 = [])) ∧ (p.word.bop =
              12) ∧ ((Dev.latchSites 0 p.word (Dev.atDecision (withDev dev19).mem 0 p dev19)).matchTrue 0 p.word.matchSel =
              false) ∧ ((fun i => (dev19.eng 0).regs.cnt.getD i 0) (p.word.cntOp / 4) ≠ 0))
        | _ => false) = true) ∧
    ((dev20.eng 0).after = AfterLast.decide ∧ (match (dev20.eng 0).lastPlay with
        | some p => decide (
            (dev20.engState 0 = seqRunning) ∧ (dev20.flt.alarms = []) ∧ (¬(dev20.on (SEQ.CONFIG_ALLDROP_HALT 0) = true ∧
              p.word.atomic = false ∧ (Dev.atDecision (withDev dev20).mem 0 p dev20).activeSites 0 = [])) ∧ (p.word.bop =
              12) ∧ ((Dev.latchSites 0 p.word (Dev.atDecision (withDev dev20).mem 0 p dev20)).matchTrue 0 p.word.matchSel =
              false) ∧ ((fun i => (dev20.eng 0).regs.cnt.getD i 0) (p.word.cntOp / 4) = 0))
        | _ => false) = true) := by 
  refine ⟨?_, ?_, ?_, ?_, ?_, ?_, ?_, ?_, ?_, ?_, ?_, ?_, ?_, ?_, ?_, ?_, ?_, ?_, ?_, ?_, ?_⟩ <;> decide +kernel

theorem test_hyps_VectorsStartAndEnd :
    ((match (dev21.eng 0).issued with
        | _ :: _ => decide (
            (dev21.engState 0 = seqRunning) ∧ (dev21.flt.alarms = []))
        | _ => false) = true) ∧
    (dev22.flt.alarms = [] ∧ (match (dev22.eng 0).after with
        | AfterLast.halt _ => decide (
            (dev22.engState 0 = seqRunning) ∧ ((dev22.eng 0).issued = []))
        | _ => false) = true) ∧
    (dev23.flt.alarms = [] ∧ (match (dev23.eng 0).under with
        | some _ => decide (
            (match (dev23.eng 0).after with
                | AfterLast.issue w => decide (
                    (dev23.engState 0 = seqRunning) ∧ ((dev23.eng 0).abortReq = none) ∧ ((dev23.eng 0).issued = []) ∧
                      (((withDev dev23).mem.word 0 w.addr).vsrc = 0) ∧ (dev23.on (SEQ.STATUS_PAUSE_PENDING 0) = false))
                | _ => false) = true)
        | _ => false) = true) ∧
    (dev24.flt.alarms = [] ∧ (match (dev24.eng 0).after with
        | AfterLast.issue _ => decide (
            (dev24.engState 0 = seqHolding) ∧ (dev24.streamRecovered 0 = true) ∧ ((dev24.eng 0).abortReq = none) ∧
              (dev24.holdExpired 0 = false))
        | _ => false) = true ∧ (match (dev24.eng 0).hold with
        | some _ => decide ((dev24.engState 0 = seqHolding))
        | _ => false) = true) := by 
  refine ⟨?_, ?_, ?_, ?_⟩ <;> decide +kernel

end Vectors

/-! ### Holds, pauses and the IDLE vector -/

namespace Holds

def q2 : Dev := (up.put PLN.QUALITY_QUAL 2).put PLN.SYNC_CTRL_CHECK_EN 0
def st (k : Nat) : Dev := (((q2.put (SEQ.CONFIG_ALLDROP_HALT 0) 0).put (SEQ.STREAM_LOWWATER 0) 1).put (SEQ.STATUS_STATE 0) k).put (SEQ.STATUS_PROG_VALID 0) 1
def e0 (k : Nat) (f : EngSt → EngSt) : Dev := (st k).modEng 0 fun e => f { e with started := true, after := .issue ⟨5, 0, true⟩, earliest := 1000100 * unit24 + 7 }
def play0 (x : Nat) : Play := {addr := 5, word := MicroWord.ofNat x, idx := 0, first := false, last := true, start := 1000200*unit24+5, vec := 9, seg := 0, stream := true, progMask := 0, commit := none, shadow := none, symErr := [], ranged := [], clamped := [], arch := none}
def ab (k : Nat) : Dev := e0 k fun e => { e with abortReq := some 3, issued := [play0 0] }
def dev1 : Dev := st seqRunning
def dev2 : Dev := st seqHolding
def dev3 : Dev := st seqPaused
def dev4 : Dev := (e0 seqRunning id).put (SEQ.STATUS_PAUSE_PENDING 0) 1
def dev5 : Dev := (st seqRunning).put (SEQ.STATUS_PAUSE_PENDING 0) 1
def dev6 : Dev := ab seqRunning
def dev7 : Dev := e0 seqHolding (fun e => {e with idleNext := some (1000300*unit24+1)})
def dev8 : Dev := (e0 seqIdle (fun e => {e with idleNext := some (1000300*unit24+1)})).put (SEQ.IDLE_CFG_END_STATE 0) 2

theorem test_hyps_PauseAndAbort :
    (dev1.hostOpen (SEQ.CTRL_PAUSE 0).addr = true ∧ dev1.engState 0 = seqRunning) ∧
    (dev2.hostOpen (SEQ.CTRL_PAUSE 0).addr = true ∧ dev2.engState 0 = seqHolding) ∧
    (dev3.hostOpen (SEQ.CTRL_PAUSE 0).addr = true ∧ dev3.engState 0 = seqPaused ∧ dev3.hostOpen (SEQ.CTRL_RESUME 0).addr =
      true ∧ dev3.on GOV.STATE_THERM_HOLD = false ∧ dev3.on (SEQ.STATUS_PAUSE_PENDING 0) = false) ∧
    (q2.hostOpen (SEQ.CTRL_PAUSE 0).addr = true ∧ q2.engState 0 ∉ [seqRunning, seqHolding, seqPaused] ∧ q2.hostOpen
      (SEQ.CTRL_RESUME 0).addr = true ∧ (q2.on GOV.STATE_THERM_HOLD = true ∨ q2.on (SEQ.STATUS_PAUSE_PENDING 0) = false ∧
      q2.engState 0 ≠ seqPaused) ∧ q2.hostOpen (SEQ.CTRL_ABORT 0).addr = true ∧ q2.hostOpen GLB.ABORT_ALL.addr = true) ∧
    ((dev4.eng 0).issued = [] ∧ (dev4.eng 0).abortReq = none ∧ dev4.engState 0 = seqRunning ∧ dev4.on
      (SEQ.STATUS_PAUSE_PENDING 0) = true ∧ (match (dev4.eng 0).after with
        | AfterLast.issue w => decide (
            (Dev.insideAtomic (withDev dev4).mem 0 w dev4 = false))
        | _ => false) = true) ∧
    (dev5.hostOpen (SEQ.CTRL_RESUME 0).addr = true ∧ dev5.on GOV.STATE_THERM_HOLD = false ∧ dev5.on
      (SEQ.STATUS_PAUSE_PENDING 0) = true) ∧
    (((match (dev6.eng 0).abortReq with
        | some c => decide (
            (c < 16) ∧ (dev6.flt.alarms = []) ∧ (dev6.engState 0 = seqRunning ∨ dev6.engState 0 = seqHolding ∨ dev6.engState
              0 = seqPaused))
        | _ => false) = true)) := by 
  refine ⟨?_, ?_, ?_, ?_, ?_, ?_, ?_⟩ <;> decide +kernel

theorem test_hyps_IdleVectorsPlay :
    (q2.hostOpen (SEQ.IDLE_COMMIT 0).addr = true) ∧
    (((match (dev7.eng 0).idleNext with
        | some _ => decide (
            (dev7.engState 0 = seqHolding ∨ dev7.engState 0 = seqPaused))
        | _ => false) = true)) ∧
    ((match (dev8.eng 0).idleNext with
        | some _ => decide (
            (dev8.engState 0 = seqIdle) ∧ ((dev8.eng 0).aborted = false) ∧ (dev8.get (SEQ.IDLE_CFG_END_STATE 0) = 2) ∧
              (dev8.byTclk = true))
        | _ => false) = true) := by 
  refine ⟨?_, ?_, ?_⟩ <;> decide +kernel

end Holds

/-! ### Engine configuration, timing sets and streams -/

namespace Config

def q2 : Dev := (up.put PLN.QUALITY_QUAL 2).put PLN.SYNC_CTRL_CHECK_EN 0
def st (k : Nat) : Dev := (((q2.put (SEQ.CONFIG_ALLDROP_HALT 0) 0).put (SEQ.STREAM_LOWWATER 0) 1).put (SEQ.STATUS_STATE 0) k).put (SEQ.STATUS_PROG_VALID 0) 1
def buf : Buf := ⟨0x1000, 50, 0, false, false, false, 0, 2, 0, false⟩
def e0 (k : Nat) (f : EngSt → EngSt) : Dev := (st k).modEng 0 fun e => f { e with started := true, after := .issue ⟨5, 0, true⟩, earliest := 1000100 * unit24 + 7 }
def level (f : EngSt → EngSt) (k : Nat) : Dev := ((e0 k fun e => f { e with stream := { e.stream with bufs := [buf], tail := 0x7FFF8 } }).put (SEQ.CACHE_PART_S_GRAN 0) 2).put (SEQ.CONFIG_POS_COUNT 0) 16
def ring : Dev := ((level id 0).put (HDMA.RING_CTRL_EN 0) 1).put (HDMA.RING_HOST_PTR 0) 3
def drb : Dev := ((((level (fun e => { e with stream := { e.stream with bufs := [{ buf with dram := true }], tail := 0 } }) 0).modEng 0 fun e => { e with stream := { e.stream with bufs := [{ buf with dram := true }], tail := 0 } }).put DRC.STATUS_AVAIL 1).put DRC.STATUS_IN_SERVICE 1).put DRC.USABLE 0x100000
def player : Dev := (st 0).modEng 0 fun e => { e with idleNext := some (1000500 * unit24) }
def held : Dev := (st 0).modTset 0 fun t => { t with originHeld := some 0x100000005 }
def dev1 : Dev := level id 2
def dev2 : Dev := level id 0
def dev3 : Dev := st 0
def dev4 : Dev := st 1
def dev5 : Dev := drb.put DRC.STATUS_AVAIL 0

theorem test_hyps_EngineConfigWrites :
    (dev1.hostOpen (SEQ.CONFIG_POS_COUNT 0).addr = true ∧ (dev1.engState 0 ≠ seqIdle ∨ 256 < bitsOf 5 0 9 ∨ ∃ c < 1024,
      dev1.mapped c = true ∧ dev1.chanEng c = 0 ∧ bitsOf 5 0 9 ≤ dev1.chanPos c) ∧ dev1.hostOpen (SEQ.CACHE_PART_S_BASE
      0).addr = true ∧ dev1.engState 0 ≠ seqIdle ∧ dev1.hostOpen (SEQ.STREAM_CTRL 0).addr = true) ∧
    (dev2.hostOpen (SEQ.CONFIG_POS_COUNT 0).addr = true ∧ dev2.engState 0 = seqIdle ∧ bitsOf 5 0 9 ≤ 256 ∧ (∀ c < 1024,
      dev2.mapped c = true → dev2.chanEng c = 0 → dev2.chanPos c < bitsOf 5 0 9) ∧ dev2.hostOpen (SEQ.CACHE_PART_S_BASE
      0).addr = true ∧ (¬(56 < (bitsOf 5 0 6, bitsOf 5 8 6).1 + (bitsOf 5 0 6, bitsOf 5 8 6).2 ∨ 56 < (bitsOf 5 16 6, bitsOf
      5 24 6).1 + (bitsOf 5 16 6, bitsOf 5 24 6).2 ∨ (fun a b => 0 < a.2 ∧ 0 < b.2 ∧ a.1 < b.1 + b.2 ∧ b.1 < a.1 + a.2)
      (bitsOf 5 0 6, bitsOf 5 8 6) (bitsOf 5 16 6, bitsOf 5 24 6))) ∧ (¬∃ m < 4, m ≠ 0 ∧ ((fun a b => 0 < a.2 ∧ 0 < b.2 ∧
      a.1 < b.1 + b.2 ∧ b.1 < a.1 + a.2) (bitsOf 5 0 6, bitsOf 5 8 6) (dev2.get (SEQ.CACHE_PART_S_BASE m), dev2.get
      (SEQ.CACHE_PART_S_GRAN m)) ∨ (fun a b => 0 < a.2 ∧ 0 < b.2 ∧ a.1 < b.1 + b.2 ∧ b.1 < a.1 + a.2) (bitsOf 5 0 6, bitsOf
      5 8 6) (dev2.get (SEQ.CACHE_PART_P_BASE m), dev2.get (SEQ.CACHE_PART_P_GRAN m)) ∨ (fun a b => 0 < a.2 ∧ 0 < b.2 ∧ a.1
      < b.1 + b.2 ∧ b.1 < a.1 + a.2) (bitsOf 5 16 6, bitsOf 5 24 6) (dev2.get (SEQ.CACHE_PART_S_BASE m), dev2.get
      (SEQ.CACHE_PART_S_GRAN m)) ∨ (fun a b => 0 < a.2 ∧ 0 < b.2 ∧ a.1 < b.1 + b.2 ∧ b.1 < a.1 + a.2) (bitsOf 5 16 6, bitsOf
      5 24 6) (dev2.get (SEQ.CACHE_PART_P_BASE m), dev2.get (SEQ.CACHE_PART_P_GRAN m)))) ∧ dev2.hostOpen (SEQ.STREAM_CTRL
      0).addr = true) ∧
    (dev2.hostOpen (SEQ.CACHE_PART_S_BASE 0).addr = true ∧ dev2.engState 0 = seqIdle ∧ (56 < (bitsOf 0x3f003f00 0 6, bitsOf
      0x3f003f00 8 6).1 + (bitsOf 0x3f003f00 0 6, bitsOf 0x3f003f00 8 6).2 ∨ 56 < (bitsOf 0x3f003f00 16 6, bitsOf 0x3f003f00
      24 6).1 + (bitsOf 0x3f003f00 16 6, bitsOf 0x3f003f00 24 6).2 ∨ (fun a b => 0 < a.2 ∧ 0 < b.2 ∧ a.1 < b.1 + b.2 ∧ b.1 <
      a.1 + a.2) (bitsOf 0x3f003f00 0 6, bitsOf 0x3f003f00 8 6) (bitsOf 0x3f003f00 16 6, bitsOf 0x3f003f00 24 6))) ∧
    (dev2.hostOpen (SEQ.CACHE_PART_S_BASE 1).addr = true ∧ dev2.engState 1 = seqIdle ∧ (¬(56 < (bitsOf 0x201 0 6, bitsOf
      0x201 8 6).1 + (bitsOf 0x201 0 6, bitsOf 0x201 8 6).2 ∨ 56 < (bitsOf 0x201 16 6, bitsOf 0x201 24 6).1 + (bitsOf 0x201
      16 6, bitsOf 0x201 24 6).2 ∨ (fun a b => 0 < a.2 ∧ 0 < b.2 ∧ a.1 < b.1 + b.2 ∧ b.1 < a.1 + a.2) (bitsOf 0x201 0 6,
      bitsOf 0x201 8 6) (bitsOf 0x201 16 6, bitsOf 0x201 24 6))) ∧ (∃ m < 4, m ≠ 1 ∧ ((fun a b => 0 < a.2 ∧ 0 < b.2 ∧ a.1 <
      b.1 + b.2 ∧ b.1 < a.1 + a.2) (bitsOf 0x201 0 6, bitsOf 0x201 8 6) (dev2.get (SEQ.CACHE_PART_S_BASE m), dev2.get
      (SEQ.CACHE_PART_S_GRAN m)) ∨ (fun a b => 0 < a.2 ∧ 0 < b.2 ∧ a.1 < b.1 + b.2 ∧ b.1 < a.1 + a.2) (bitsOf 0x201 0 6,
      bitsOf 0x201 8 6) (dev2.get (SEQ.CACHE_PART_P_BASE m), dev2.get (SEQ.CACHE_PART_P_GRAN m)) ∨ (fun a b => 0 < a.2 ∧ 0 <
      b.2 ∧ a.1 < b.1 + b.2 ∧ b.1 < a.1 + a.2) (bitsOf 0x201 16 6, bitsOf 0x201 24 6) (dev2.get (SEQ.CACHE_PART_S_BASE m),
      dev2.get (SEQ.CACHE_PART_S_GRAN m)) ∨ (fun a b => 0 < a.2 ∧ 0 < b.2 ∧ a.1 < b.1 + b.2 ∧ b.1 < a.1 + a.2) (bitsOf 0x201
      16 6, bitsOf 0x201 24 6) (dev2.get (SEQ.CACHE_PART_P_BASE m), dev2.get (SEQ.CACHE_PART_P_GRAN m))))) := by 
  refine ⟨?_, ?_, ?_, ?_⟩ <;> decide +kernel

theorem test_hyps_TimingSetWrites :
    (dev3.hostOpen (TSET.STAGE_WRITE_TS 0).addr = true ∧ ((if bitsOf 0x201 16 8 < bitsOf 0x201 8 8 then 2 else if 6 ≤
      (TEntry.ofBits (BitVec.ofNat 192 (List.foldl (fun x j => x + dev3.get (TSET.STAGE 0 j) * 2 ^ (32 * j)) 0 (List.range
      6)))).format then 3 else if ∃ x ∈ [(TEntry.ofBits (BitVec.ofNat 192 (List.foldl (fun x j => x + dev3.get (TSET.STAGE 0
      j) * 2 ^ (32 * j)) 0 (List.range 6)))).d0, (TEntry.ofBits (BitVec.ofNat 192 (List.foldl (fun x j => x + dev3.get
      (TSET.STAGE 0 j) * 2 ^ (32 * j)) 0 (List.range 6)))).d1, (TEntry.ofBits (BitVec.ofNat 192 (List.foldl (fun x j => x +
      dev3.get (TSET.STAGE 0 j) * 2 ^ (32 * j)) 0 (List.range 6)))).d2, (TEntry.ofBits (BitVec.ofNat 192 (List.foldl (fun x
      j => x + dev3.get (TSET.STAGE 0 j) * 2 ^ (32 * j)) 0 (List.range 6)))).d3, (TEntry.ofBits (BitVec.ofNat 192
      (List.foldl (fun x j => x + dev3.get (TSET.STAGE 0 j) * 2 ^ (32 * j)) 0 (List.range 6)))).s0, (TEntry.ofBits
      (BitVec.ofNat 192 (List.foldl (fun x j => x + dev3.get (TSET.STAGE 0 j) * 2 ^ (32 * j)) 0 (List.range 6)))).s1], 65599
      * 256 ≤ x then 4 else if (TEntry.ofBits (BitVec.ofNat 192 (List.foldl (fun x j => x + dev3.get (TSET.STAGE 0 j) * 2 ^
      (32 * j)) 0 (List.range 6)))).format ∈ [2, 3, 4, 5] ∧ (TEntry.ofBits (BitVec.ofNat 192 (List.foldl (fun x j => x +
      dev3.get (TSET.STAGE 0 j) * 2 ^ (32 * j)) 0 (List.range 6)))).d2 < (TEntry.ofBits (BitVec.ofNat 192 (List.foldl (fun x
      j => x + dev3.get (TSET.STAGE 0 j) * 2 ^ (32 * j)) 0 (List.range 6)))).d1 + 128 ∨ (TEntry.ofBits (BitVec.ofNat 192
      (List.foldl (fun x j => x + dev3.get (TSET.STAGE 0 j) * 2 ^ (32 * j)) 0 (List.range 6)))).format = 5 ∧ (TEntry.ofBits
      (BitVec.ofNat 192 (List.foldl (fun x j => x + dev3.get (TSET.STAGE 0 j) * 2 ^ (32 * j)) 0 (List.range 6)))).d1 <
      (TEntry.ofBits (BitVec.ofNat 192 (List.foldl (fun x j => x + dev3.get (TSET.STAGE 0 j) * 2 ^ (32 * j)) 0 (List.range
      6)))).d0 + 128 then 5 else if (TEntry.ofBits (BitVec.ofNat 192 (List.foldl (fun x j => x + dev3.get (TSET.STAGE 0 j) *
      2 ^ (32 * j)) 0 (List.range 6)))).window = true ∧ (TEntry.ofBits (BitVec.ofNat 192 (List.foldl (fun x j => x +
      dev3.get (TSET.STAGE 0 j) * 2 ^ (32 * j)) 0 (List.range 6)))).s1 < (TEntry.ofBits (BitVec.ofNat 192 (List.foldl (fun x
      j => x + dev3.get (TSET.STAGE 0 j) * 2 ^ (32 * j)) 0 (List.range 6)))).s0 + 128 then 6 else 1) ≠ 1)) ∧
    (dev3.hostOpen (TSET.STAGE_WRITE_TS 0).addr = true ∧ ((if bitsOf 5 16 8 < bitsOf 5 8 8 then 2 else if 6 ≤ (TEntry.ofBits
      (BitVec.ofNat 192 (List.foldl (fun x j => x + dev3.get (TSET.STAGE 0 j) * 2 ^ (32 * j)) 0 (List.range 6)))).format
      then 3 else if ∃ x ∈ [(TEntry.ofBits (BitVec.ofNat 192 (List.foldl (fun x j => x + dev3.get (TSET.STAGE 0 j) * 2 ^ (32
      * j)) 0 (List.range 6)))).d0, (TEntry.ofBits (BitVec.ofNat 192 (List.foldl (fun x j => x + dev3.get (TSET.STAGE 0 j) *
      2 ^ (32 * j)) 0 (List.range 6)))).d1, (TEntry.ofBits (BitVec.ofNat 192 (List.foldl (fun x j => x + dev3.get
      (TSET.STAGE 0 j) * 2 ^ (32 * j)) 0 (List.range 6)))).d2, (TEntry.ofBits (BitVec.ofNat 192 (List.foldl (fun x j => x +
      dev3.get (TSET.STAGE 0 j) * 2 ^ (32 * j)) 0 (List.range 6)))).d3, (TEntry.ofBits (BitVec.ofNat 192 (List.foldl (fun x
      j => x + dev3.get (TSET.STAGE 0 j) * 2 ^ (32 * j)) 0 (List.range 6)))).s0, (TEntry.ofBits (BitVec.ofNat 192
      (List.foldl (fun x j => x + dev3.get (TSET.STAGE 0 j) * 2 ^ (32 * j)) 0 (List.range 6)))).s1], 65599 * 256 ≤ x then 4
      else if (TEntry.ofBits (BitVec.ofNat 192 (List.foldl (fun x j => x + dev3.get (TSET.STAGE 0 j) * 2 ^ (32 * j)) 0
      (List.range 6)))).format ∈ [2, 3, 4, 5] ∧ (TEntry.ofBits (BitVec.ofNat 192 (List.foldl (fun x j => x + dev3.get
      (TSET.STAGE 0 j) * 2 ^ (32 * j)) 0 (List.range 6)))).d2 < (TEntry.ofBits (BitVec.ofNat 192 (List.foldl (fun x j => x +
      dev3.get (TSET.STAGE 0 j) * 2 ^ (32 * j)) 0 (List.range 6)))).d1 + 128 ∨ (TEntry.ofBits (BitVec.ofNat 192 (List.foldl
      (fun x j => x + dev3.get (TSET.STAGE 0 j) * 2 ^ (32 * j)) 0 (List.range 6)))).format = 5 ∧ (TEntry.ofBits
      (BitVec.ofNat 192 (List.foldl (fun x j => x + dev3.get (TSET.STAGE 0 j) * 2 ^ (32 * j)) 0 (List.range 6)))).d1 <
      (TEntry.ofBits (BitVec.ofNat 192 (List.foldl (fun x j => x + dev3.get (TSET.STAGE 0 j) * 2 ^ (32 * j)) 0 (List.range
      6)))).d0 + 128 then 5 else if (TEntry.ofBits (BitVec.ofNat 192 (List.foldl (fun x j => x + dev3.get (TSET.STAGE 0 j) *
      2 ^ (32 * j)) 0 (List.range 6)))).window = true ∧ (TEntry.ofBits (BitVec.ofNat 192 (List.foldl (fun x j => x +
      dev3.get (TSET.STAGE 0 j) * 2 ^ (32 * j)) 0 (List.range 6)))).s1 < (TEntry.ofBits (BitVec.ofNat 192 (List.foldl (fun x
      j => x + dev3.get (TSET.STAGE 0 j) * 2 ^ (32 * j)) 0 (List.range 6)))).s0 + 128 then 6 else 1) = 1)) ∧
    (dev3.hostOpen (TSET.SH_SITE_DESKEW 0 0).addr = true ∧ (-4096 ≤ signedOf 16 5 ∧ signedOf 16 5 ≤ 4095)) ∧
    (dev3.hostOpen (TSET.SH_SITE_DESKEW 0 0).addr = true ∧ (signedOf 16 0x3f003f00 < -4096 ∨ 4095 < signedOf 16 0x3f003f00)) ∧
    (dev3.hostOpen (TSET.SH_PERIOD_HI 0 0).addr = true ∧ 2 * unit24 ≤ 5 % 65536 * unit24 + Tab.get (fun _ => (dev3.tset
      0).shadow.period 0 % unit24) (dev3.tset 0).held 0 ∧ 5 % 65536 * unit24 + Tab.get (fun _ => (dev3.tset 0).shadow.period
      0 % unit24) (dev3.tset 0).held 0 ≤ 65535 * unit24) ∧
    (dev3.hostOpen (TSET.SH_PERIOD_HI 0 0).addr = true ∧ (1 % 65536 * unit24 + Tab.get (fun _ => (dev3.tset 0).shadow.period
      0 % unit24) (dev3.tset 0).held 0 < 2 * unit24 ∨ 65535 * unit24 < 1 % 65536 * unit24 + Tab.get (fun _ => (dev3.tset
      0).shadow.period 0 % unit24) (dev3.tset 0).held 0)) ∧
    (dev4.hostOpen (TSET.COMMIT_COMMIT 0).addr = true ∧ dev4.engState 0 ≠ seqIdle ∧ dev4.hostOpen ((TSET.ORIGIN 0).addr + if
      false = true then 4 else 0) = true) ∧
    (dev3.hostOpen (TSET.COMMIT_COMMIT 0).addr = true ∧ dev3.engState 0 = seqIdle ∧ (dev3.eng 0).idleNext = none ∧
      dev3.hostOpen ((TSET.ORIGIN 0).addr + if false = true then 4 else 0) = true) ∧
    (player.hostOpen (TSET.COMMIT_COMMIT 0).addr = true ∧ player.engState 0 = seqIdle ∧ (player.eng 0).idleNext ≠ none ∧
      player.hostOpen ((TSET.ORIGIN 0).addr + if false = true then 4 else 0) = true) := by 
  refine ⟨?_, ?_, ?_, ?_, ?_, ?_, ?_, ?_, ?_⟩ <;> decide +kernel

theorem test_hyps_LoadEndsAndStreams :
    ((dev4.eng 0).loading = false ∧ dev4.engState 0 = seqLoading) ∧
    (ring.hdmaRuns = true ∧ ring.ringLive 0 = true ∧ ring.on (SEQ.STREAM_STATUS_DESC_ERR 0) = false ∧ ring.bufsAhead 0 < min
      16 (ring.ringCount 0) ∧ ring.streamCond 0 (⟨0x4000, 9, 0, 0, true, 7⟩ : StreamDesc) = 0 ∧
      (match (ring.eng 0).stream.fetching (ring.stride 0) with
        | some (b, _) => decide (
            (ring.refillOpen 0 = true) ∧ (b.dram = false) ∧ (ring.hdmaRuns = true) ∧ (ring.ringLive 0 = true) ∧
              (ring.mayTake poolHT 0 1 = true) ∧ (((List.range 64).map fun x => BitVec.ofNat 8 (x+1) : List Byte).length =
              64) ∧ ((withDev ring).mem.wf = true))
        | _ => false) = true) ∧
    (ring.hdmaRuns = true ∧ ring.ringLive 0 = true ∧ ring.on (SEQ.STREAM_STATUS_DESC_ERR 0) = false ∧ ring.bufsAhead 0 < min
      16 (ring.ringCount 0) ∧ ring.streamCond 0 (⟨0x4001, 9, 0, 0, true, 7⟩ : StreamDesc) ≠ 0) ∧
    ((match (drb.eng 0).stream.fetching (drb.stride 0) with
        | some (b, _) => decide (
            (drb.refillOpen 0 = true) ∧ (b.dram = true) ∧ (drb.readPending 0 (b.addr + 64 * b.linesIn) = false) ∧ (b.addr %
              64 = 0) ∧ (drb.flt.alarms = []) ∧ (drb.dramUp = true ∧ drb.dramAllowed 0 (b.addr + 64 * b.linesIn) = true))
        | _ => false) = true) ∧
    ((match (dev5.eng 0).stream.fetching (dev5.stride 0) with
        | some (b, _) => decide (
            (dev5.refillOpen 0 = true) ∧ (b.dram = true) ∧ (dev5.readPending 0 (b.addr + 64 * b.linesIn) = false) ∧ (b.addr
              % 64 = 0) ∧ (dev5.flt.alarms = []) ∧ (¬(dev5.dramUp = true ∧ dev5.dramAllowed 0 (b.addr + 64 * b.linesIn) =
              true)))
        | _ => false) = true) := by 
  refine ⟨?_, ?_, ?_, ?_, ?_⟩ <;> decide +kernel

end Config

/-! ### Results and fail memory -/

namespace Results

def q2 : Dev := (up.put PLN.QUALITY_QUAL 2).put PLN.SYNC_CTRL_CHECK_EN 0
def T0 : Int := 2000000*256
def pin (f : PinSt → PinSt) : Dev := (q2.put (PINB.CFG_CMP_EN 0 0) 1).modPin 0 fun p => f { p with powered := true, settle := none, high := ⟨true,true,0⟩, low := ⟨false,true,0⟩ }
def edge (a : EdgeAct) (k : Int) : Dev := pin fun p => { p with edges := [⟨T0 + 1000, a, 0, 4⟩], lastEdge := some (T0 + 1000 - k) }
def cmp0 (sym : Nat) (w : Bool) : Cmp := { eng := 0, sym, s0 := T0 + 1000, s1 := T0 + 5000, window := w, vec := 4, seg := 0, user := 0, site := 3, pos := 2, failOp := 0, isMatch := false, chan := 5, mask := 0, drop := 0, skip := false }
def cm (sym : Nat) (w : Bool) (f : PinSt → PinSt) : Dev := pin fun p => f { p with cmps := [cmp0 sym w] }
def rs (r : CmpRes) : Dev := pin fun p => { p with res := [⟨cmp0 2 false, r, true, false, T0+ 5000⟩] }
def frec : FRec := ⟨0, 0, 4, 0, 0, 77, 3, 2, 5, false, 0, 50, none, false⟩
def fc (f : FcapSt → FcapSt) : Dev := (q2.put (FCAP.PART_ENG_GRAN 0) 2).modFc 0 f
def latch : Dev := (pin fun p => { p with cmps := [{ cmp0 2 false with isMatch := true, skip := true }, { cmp0 2 false with isMatch := true }] }).modEng 0 fun e => { e with mat := { e.mat with latched := 8, from_ := 2 } }
def rsm (r : CmpRes) (f : MatchSt → MatchSt): Dev := (pin fun p => { p with res := [⟨{ cmp0 2 false with isMatch := true }, r, true, false, T0+ 5000⟩] }).modEng 0 fun e => { e with mat := f e.mat }
def rsf (op : Nat) (r : CmpRes) : Dev := pin fun p => { p with res := [⟨{ cmp0 2 false with failOp := op }, r, true, false, T0+ 5000⟩] }
def drc1 (d : Dev) : Dev := ((d.put DRC.STATUS_AVAIL 1).put DRC.STATUS_IN_SERVICE 1).put DRC.USABLE 0x100000
def dev1 : Dev := edge EdgeAct.on 128
def dev2 : Dev := cm 2 false (fun p => {p with lastClose := (some (T0 + 900), none)})
def dev3 : Dev := cm 2 false id
def dev4 : Dev := cm 2 true (fun p => {p with hist := [⟨T0, true, false, true, true, true⟩, ⟨T0+2000, false, true, true, true, true⟩]})
def dev5 : Dev := cm 3 true (fun p => {p with hist := [⟨T0, true, false, true, true, true⟩, ⟨T0+2000, false, true, true, true, true⟩]})
def dev6 : Dev := cm 5 true (fun p => {p with hist := [⟨T0, true, false, true, true, true⟩, ⟨T0+2000, false, true, true, true, true⟩]})
def dev7 : Dev := cm 6 true (fun p => {p with hist := [⟨T0, true, false, true, true, true⟩, ⟨T0+2000, false, true, true, true, true⟩]})
def dev8 : Dev := rs .pass
def dev9 : Dev := rsm .pass (fun m => { m with latched := 8 })
def dev10 : Dev := rsm .pass id
def dev11 : Dev := rsf 4 .capture
def dev12 : Dev := rsf 0 .capture
def dev13 : Dev := rs .fail
def dev14 : Dev := drc1 (fc fun f => { f with queue := [{ frec with spill := true }], queueNext := 1 }) |>.put (FCAP.ENG_DRING_SIZE 0) 1
def dev15 : Dev := fc fun f => {f with col := [frec, frec]}
def dev16 : Dev := fc fun f => { f with col := [{ frec with map := some 70 }, frec] }
def dev17 : Dev := fc fun f => {f with withheld := some ⟨3, 8, 5, 6, 1, 0⟩}
def dev18 : Dev := (fc fun f => {f with ended := true}).put (FCAP.ENG_STATUS_DRAINING 0) 1
def dev19 : Dev := fc fun f => {f with dumpAt := some 70000}
def dev20 : Dev := q2.put (SEQ.STATUS_STATE 0) 2
def dev21 : Dev := q2.put (FCAP.PART_ENG_GRAN 1) 4

theorem test_hyps_EdgesAndStrobes :
    (List.dropWhile (fun x => !(dev1.pin 0).changes x.act) (dev1.pin 0).edges ≠ []) ∧
    ((match List.dropWhile (fun y => y.skip) (latch.pin 0).cmps with
        | c :: _ => decide (
            (c.isMatch = true ∧ (latch.eng c.eng).mat.from_ ≤ c.vec ∧ (latch.eng c.eng).mat.latched.testBit c.site = true))
        | _ => false) = true) ∧
    ((match List.dropWhile (fun y => y.skip) (dev2.pin 0).cmps with
        | c :: _ => decide (
            (¬(c.isMatch = true ∧ (dev2.eng c.eng).mat.from_ ≤ c.vec ∧ (dev2.eng c.eng).mat.latched.testBit c.site = true))
              ∧ (∃ l, (if ((dev2.pin 0).unit != decide ((List.takeWhile (fun y => y.skip) (dev2.pin 0).cmps).length % 2 =
              1)) = true then (dev2.pin 0).lastClose.2 else (dev2.pin 0).lastClose.1) = some l ∧ c.s0 < l + 128))
        | _ => false) = true) ∧
    (((match List.dropWhile (fun y => y.skip) (dev3.pin 0).cmps with
        | c :: _ => decide (
            (¬(c.isMatch = true ∧ (dev3.eng c.eng).mat.from_ ≤ c.vec ∧ (dev3.eng c.eng).mat.latched.testBit c.site = true))
              ∧ (¬∃ l, (if ((dev3.pin 0).unit != decide ((List.takeWhile (fun y => y.skip) (dev3.pin 0).cmps).length % 2 =
              1)) = true then (dev3.pin 0).lastClose.2 else (dev3.pin 0).lastClose.1) = some l ∧ c.s0 < l + 128) ∧ (¬((c.sym
              ≠ 2 → (histAt (dev3.snapAt 0 0) c.s0 (dev3.pin 0).hist).readyH = true ∧ (histAt (dev3.snapAt 0 0) c.s0
              (dev3.pin 0).hist).fast = true) ∧ (c.sym ≠ 3 → (histAt (dev3.snapAt 0 0) c.s0 (dev3.pin 0).hist).readyL = true
              ∧ (histAt (dev3.snapAt 0 0) c.s0 (dev3.pin 0).hist).fast = true))))
        | _ => false) = true)) ∧
    (((match List.dropWhile (fun y => y.skip) (dev4.pin 0).cmps with
        | c :: _ => decide (
            (¬(c.isMatch = true ∧ (dev4.eng c.eng).mat.from_ ≤ c.vec ∧ (dev4.eng c.eng).mat.latched.testBit c.site = true))
              ∧ (¬∃ l, (if ((dev4.pin 0).unit != decide ((List.takeWhile (fun y => y.skip) (dev4.pin 0).cmps).length % 2 =
              1)) = true then (dev4.pin 0).lastClose.2 else (dev4.pin 0).lastClose.1) = some l ∧ c.s0 < l + 128) ∧ ((c.sym ≠
              2 → (histAt (dev4.snapAt 0 0) c.s0 (dev4.pin 0).hist).readyH = true ∧ (histAt (dev4.snapAt 0 0) c.s0 (dev4.pin
              0).hist).fast = true) ∧ (c.sym ≠ 3 → (histAt (dev4.snapAt 0 0) c.s0 (dev4.pin 0).hist).readyL = true ∧ (histAt
              (dev4.snapAt 0 0) c.s0 (dev4.pin 0).hist).fast = true)) ∧ (c.window = true) ∧ (c.sym = 2))
        | _ => false) = true)) ∧
    (((match List.dropWhile (fun y => y.skip) (dev5.pin 0).cmps with
        | c :: _ => decide (
            (¬(c.isMatch = true ∧ (dev5.eng c.eng).mat.from_ ≤ c.vec ∧ (dev5.eng c.eng).mat.latched.testBit c.site = true))
              ∧ (¬∃ l, (if ((dev5.pin 0).unit != decide ((List.takeWhile (fun y => y.skip) (dev5.pin 0).cmps).length % 2 =
              1)) = true then (dev5.pin 0).lastClose.2 else (dev5.pin 0).lastClose.1) = some l ∧ c.s0 < l + 128) ∧ ((c.sym ≠
              2 → (histAt (dev5.snapAt 0 0) c.s0 (dev5.pin 0).hist).readyH = true ∧ (histAt (dev5.snapAt 0 0) c.s0 (dev5.pin
              0).hist).fast = true) ∧ (c.sym ≠ 3 → (histAt (dev5.snapAt 0 0) c.s0 (dev5.pin 0).hist).readyL = true ∧ (histAt
              (dev5.snapAt 0 0) c.s0 (dev5.pin 0).hist).fast = true)) ∧ (c.window = true) ∧ (c.sym = 3))
        | _ => false) = true)) ∧
    (((match List.dropWhile (fun y => y.skip) (dev6.pin 0).cmps with
        | c :: _ => decide (
            (¬(c.isMatch = true ∧ (dev6.eng c.eng).mat.from_ ≤ c.vec ∧ (dev6.eng c.eng).mat.latched.testBit c.site = true))
              ∧ (¬∃ l, (if ((dev6.pin 0).unit != decide ((List.takeWhile (fun y => y.skip) (dev6.pin 0).cmps).length % 2 =
              1)) = true then (dev6.pin 0).lastClose.2 else (dev6.pin 0).lastClose.1) = some l ∧ c.s0 < l + 128) ∧ ((c.sym ≠
              2 → (histAt (dev6.snapAt 0 0) c.s0 (dev6.pin 0).hist).readyH = true ∧ (histAt (dev6.snapAt 0 0) c.s0 (dev6.pin
              0).hist).fast = true) ∧ (c.sym ≠ 3 → (histAt (dev6.snapAt 0 0) c.s0 (dev6.pin 0).hist).readyL = true ∧ (histAt
              (dev6.snapAt 0 0) c.s0 (dev6.pin 0).hist).fast = true)) ∧ (c.window = true) ∧ (c.sym = 5))
        | _ => false) = true)) ∧
    (((match List.dropWhile (fun y => y.skip) (dev7.pin 0).cmps with
        | c :: _ => decide (
            (¬(c.isMatch = true ∧ (dev7.eng c.eng).mat.from_ ≤ c.vec ∧ (dev7.eng c.eng).mat.latched.testBit c.site = true))
              ∧ (¬∃ l, (if ((dev7.pin 0).unit != decide ((List.takeWhile (fun y => y.skip) (dev7.pin 0).cmps).length % 2 =
              1)) = true then (dev7.pin 0).lastClose.2 else (dev7.pin 0).lastClose.1) = some l ∧ c.s0 < l + 128) ∧ ((c.sym ≠
              2 → (histAt (dev7.snapAt 0 0) c.s0 (dev7.pin 0).hist).readyH = true ∧ (histAt (dev7.snapAt 0 0) c.s0 (dev7.pin
              0).hist).fast = true) ∧ (c.sym ≠ 3 → (histAt (dev7.snapAt 0 0) c.s0 (dev7.pin 0).hist).readyL = true ∧ (histAt
              (dev7.snapAt 0 0) c.s0 (dev7.pin 0).hist).fast = true)) ∧ (c.window = true) ∧ (c.sym = 6))
        | _ => false) = true)) := by 
  refine ⟨?_, ?_, ?_, ?_, ?_, ?_, ?_, ?_⟩ <;> decide +kernel

theorem test_hyps_ResultsAndFailMemory :
    (((match (dev8.pin 0).res with
        | x :: _ => decide (
            (x.cmp.eng < 4) ∧ (x.cmp.site < 64) ∧ (x.cmp.chan < 1024) ∧ (x.res = CmpRes.notMade ∨ x.res = CmpRes.pass ∧
              x.cmp.isMatch = false ∨ x.res = CmpRes.capture ∧ x.cmp.isMatch = true))
        | _ => false) = true)) ∧
    (((match (dev9.pin 0).res with
        | x :: _ => decide (
            (x.cmp.eng < 4) ∧ (x.cmp.site < 64) ∧ (x.cmp.chan < 1024) ∧ (x.res = CmpRes.pass ∨ x.res = CmpRes.fail) ∧
              (x.cmp.isMatch = true) ∧ (x.cmp.vec < (dev9.eng x.cmp.eng).mat.from_ ∨ x.close ≤ (dev9.eng
              x.cmp.eng).mat.since ∨ (dev9.eng x.cmp.eng).mat.latched.testBit x.cmp.site = true))
        | _ => false) = true)) ∧
    (((match (dev10.pin 0).res with
        | x :: _ => decide (
            (x.cmp.eng < 4) ∧ (x.cmp.site < 64) ∧ (x.cmp.chan < 1024) ∧ (x.res = CmpRes.pass ∨ x.res = CmpRes.fail) ∧
              (x.cmp.isMatch = true) ∧ ((dev10.eng x.cmp.eng).mat.from_ ≤ x.cmp.vec) ∧ ((dev10.eng x.cmp.eng).mat.since <
              x.close) ∧ ((dev10.eng x.cmp.eng).mat.latched.testBit x.cmp.site = false))
        | _ => false) = true)) ∧
    ((match (dev11.pin 0).res with
        | x :: _ => decide (
            (x.cmp.eng < 4) ∧ (x.cmp.site < 64) ∧ (x.cmp.chan < 1024) ∧ (x.res = CmpRes.capture) ∧ (x.cmp.isMatch = false) ∧
              (x.cmp.failOp.testBit 2 = true) ∧ (dev11.get (FCAP.ENG_CFG_MODE x.cmp.eng) ≤ 1) ∧ (dev11.mayTake poolFT
              x.cmp.eng 1 = true))
        | _ => false) = true) ∧
    (((match (dev12.pin 0).res with
        | x :: _ => decide (
            (x.cmp.eng < 4) ∧ (x.cmp.site < 64) ∧ (x.cmp.chan < 1024) ∧ (x.res = CmpRes.capture) ∧ (x.cmp.isMatch = false) ∧
              (x.cmp.failOp.testBit 2 = false ∨ 2 ≤ dev12.get (FCAP.ENG_CFG_MODE x.cmp.eng)))
        | _ => false) = true)) ∧
    ((match (dev13.pin 0).res with
        | x :: _ => decide (
            (x.cmp.eng < 4) ∧ (x.cmp.site < 64) ∧ (x.cmp.chan < 1024) ∧ (x.res = CmpRes.fail) ∧ (x.cmp.isMatch = false))
        | _ => false) = true) ∧
    ((match (dev14.fc 0).queue with
        | q :: _ => decide (
            (q.spill = true) ∧ (dev14.dramUp = true) ∧ (dev14.portFree 5 = true) ∧ ((dev14.fc 0).dring.length <
              dev14.failRing 0) ∧ (dev14.dramAllowed 5 (dev14.get (FCAP.ENG_DRING_BASE 0) + 64 * ((dev14.fc 0).dringNext %
              dev14.failRing 0 / 2)) = true) ∧ ((dev14.fc 0).col = []) ∧ (dev14.flt.alarms = []))
        | _ => false) = true) ∧
    ((Dev.failSpill 0 dev15).flt.alarms = [] ∧ (match ((Dev.failSpill 0 dev15).fc 0).col with
        | r :: _ => decide (
            ((Dev.failSpill 0 dev15).blockDown 20 = false) ∧ (0 ≤ 3) ∧ (r.map = none) ∧ (((Dev.failSpill 0 dev15).fc
              0).queue.length < (Dev.failSpill 0 dev15).failRoom 0))
        | _ => false) = true) ∧
    ((Dev.failSpill 0 dev16).flt.alarms = [] ∧ (match ((Dev.failSpill 0 dev16).fc 0).col with
        | r :: _ => decide (
            ((Dev.failSpill 0 dev16).blockDown 20 = false) ∧ (0 ≤ 3) ∧ (r.map).isSome = true)
        | _ => false) = true) ∧
    ((Dev.failSpill 0 dev15).flt.alarms = [] ∧ ((match ((Dev.failSpill 0 dev15).fc 0).col with
        | r :: _ => decide (
            ((Dev.failSpill 0 dev15).blockDown 20 = false) ∧ (4 ≤ 4) ∧ (r.map ≠ none ∨ ((Dev.failSpill 0 dev15).fc
              0).queue.length < (Dev.failSpill 0 dev15).failRoom 0))
        | _ => false) = true)) ∧
    ((match (dev17.fc 0).withheld with
        | some _ => decide (
            (dev17.mayTake poolFT 0 1 = true) ∧ (dev17.blockDown 20 = false))
        | _ => false) = true) ∧
    ((dev18.fc 0).ended = true ∧ dev18.resultsDone 0 = true ∧ (dev18.fc 0).col = [] ∧ dev18.hostOpen (FCAP.ENG_MAP_CTRL
      0).addr = true ∧ ¬(dev18.engState 0 = seqIdle ∧ (dev18.fc 0).ended = false)) ∧
    (q2.hostOpen (FCAP.ENG_MAP_CTRL 0).addr = true ∧ (q2.engState 0 = seqIdle ∧ (q2.fc 0).ended = false)) ∧
    ((match (dev19.fc 0).dumpAt with
        | some i => decide ((32768 * dev19.get (FCAP.PART_ENG_GRAN 0) ≤ i))
        | _ => false) = true) := by 
  refine ⟨?_, ?_, ?_, ?_, ?_, ?_, ?_, ?_, ?_, ?_, ?_, ?_, ?_, ?_⟩ <;> decide +kernel

theorem test_hyps_FailConfigWrites :
    (q2.hostOpen (FCAP.ENG_CFG_MODE 0).addr = true ∧ q2.hostOpen (FCAP.PART_ENG_BASE 0).addr = true ∧ q2.engState 0 =
      seqIdle ∧ (bitsOf 5 0 5, bitsOf 5 8 6).1 + (bitsOf 5 0 5, bitsOf 5 8 6).2 ≤ 32 ∧ (¬∃ m < 4, m ≠ 0 ∧ (fun m => 0 <
      (bitsOf 5 0 5, bitsOf 5 8 6).2 ∧ 0 < q2.get (FCAP.PART_ENG_GRAN m) ∧ (bitsOf 5 0 5, bitsOf 5 8 6).1 < q2.get
      (FCAP.PART_ENG_BASE m) + q2.get (FCAP.PART_ENG_GRAN m) ∧ q2.get (FCAP.PART_ENG_BASE m) < (bitsOf 5 0 5, bitsOf 5 8
      6).1 + (bitsOf 5 0 5, bitsOf 5 8 6).2) m)) ∧
    (dev20.hostOpen (FCAP.PART_ENG_BASE 0).addr = true ∧ dev20.engState 0 ≠ seqIdle) ∧
    (q2.hostOpen (FCAP.PART_ENG_BASE 0).addr = true ∧ q2.engState 0 = seqIdle ∧ 32 < (bitsOf 0x3f00 0 5, bitsOf 0x3f00 8
      6).1 + (bitsOf 0x3f00 0 5, bitsOf 0x3f00 8 6).2) ∧
    (dev21.hostOpen (FCAP.PART_ENG_BASE 0).addr = true ∧ dev21.engState 0 = seqIdle ∧ (bitsOf 0x102 0 5, bitsOf 0x102 8 6).1
      + (bitsOf 0x102 0 5, bitsOf 0x102 8 6).2 ≤ 32 ∧ (∃ m < 4, m ≠ 0 ∧ (fun m => 0 < (bitsOf 0x102 0 5, bitsOf 0x102 8 6).2
      ∧ 0 < dev21.get (FCAP.PART_ENG_GRAN m) ∧ (bitsOf 0x102 0 5, bitsOf 0x102 8 6).1 < dev21.get (FCAP.PART_ENG_BASE m) +
      dev21.get (FCAP.PART_ENG_GRAN m) ∧ dev21.get (FCAP.PART_ENG_BASE m) < (bitsOf 0x102 0 5, bitsOf 0x102 8 6).1 + (bitsOf
      0x102 0 5, bitsOf 0x102 8 6).2) m)) := by 
  refine ⟨?_, ?_, ?_, ?_⟩ <;> decide +kernel

end Results

/-! ### Strobed levels and stamps -/

namespace Stamps

def q2 : Dev := (up.put PLN.QUALITY_QUAL 2).put PLN.SYNC_CTRL_CHECK_EN 0
def e1 : StEntry := ⟨[1,2,3],99⟩
def buf (c : Nat) : Dev := ((((((q2.modBank 0 fun b => {b with buffer := [e1]}).put (PINB.STAMP_CFG 0) c).put DRC.STATUS_AVAIL 1).put DRC.STATUS_IN_SERVICE 1).put DRC.USABLE 0x100000)) |>.put TIA.SRING_SIZE 1
def qd (c : Nat) : Dev := (q2.modPin 1 fun p => { p with queue := [e1, e1] }).put (PINB.STAMP_CFG 0) c
def dev1 : Dev := qd 0
def dev2 : Dev := buf 1
def dev3 : Dev := (buf 1).put DRC.USABLE 0

theorem test_hyps_StrobedLevelsAndStamps :
    (dev1.flt.alarms = [] ∧ dev1.get (PINB.STAMP_CFG 0) ∉ [1, 2] ∧
      (match List.find? (fun k => !(dev1.pin (physOfPage 0 k)).queue.isEmpty) (turnOrder (dev1.bank 0).turn) with
        | some i => decide (
            (match (dev1.pin (physOfPage 0 i)).queue with
                | _ :: _ => decide (
                    ((dev1.bank 0).buffer.length < 1024) ∧ (dev1.mayTake poolST 0 1 = true))
                | _ => false) = true)
        | _ => false) = true) ∧
    (dev2.flt.alarms = [] ∧ (match ((Dev.stampAdmit 0 dev2).bank 0).buffer with
        | _ :: _ => decide (
            (dev2.get (PINB.STAMP_CFG 0) = 1) ∧ (dev2.dramUp = true) ∧ (dev2.portFree 6 = true) ∧ (dev2.tia.sring.length <
              4096 * dev2.get TIA.SRING_SIZE) ∧ (dev2.dramAllowed 6 (dev2.get TIA.SRING_BASE + 64 * (dev2.tia.sringNext %
              (4096 * dev2.get TIA.SRING_SIZE) / 4)) = true))
        | _ => false) = true) ∧
    (dev3.flt.alarms = [] ∧ (match ((Dev.stampAdmit 0 dev3).bank 0).buffer with
        | _ :: _ => decide (
            (dev3.get (PINB.STAMP_CFG 0) = 1) ∧ (dev3.dramUp = true) ∧ (dev3.portFree 6 = true) ∧ (dev3.tia.sring.length <
              4096 * dev3.get TIA.SRING_SIZE) ∧ (dev3.dramAllowed 6 (dev3.get TIA.SRING_BASE + 64 * (dev3.tia.sringNext %
              (4096 * dev3.get TIA.SRING_SIZE) / 4)) = false))
        | _ => false) = true) := by 
  refine ⟨?_, ?_, ?_⟩ <;> decide +kernel

end Stamps

/-! ### Supplies -/

namespace Supplies

def q2 : Dev := (up.put PLN.QUALITY_QUAL 2).put PLN.SYNC_CTRL_CHECK_EN 0
def gap : Dev := { q2 with flt := { q2.flt with gapFrom := some 999000, supplyOut := [.core] } }

theorem test_hyps_SuppliesAndComparators :
    (.powerOnReset : Supply) = Supply.powerOnReset ∧ (match gap.flt.gapFrom with
        | some _ => decide ((gap.flt.alarms = []))
        | _ => false) = true := by decide +kernel

end Supplies

/-! ### Comparators -/

namespace Comparators

def q2 : Dev := (up.put PLN.QUALITY_QUAL 2).put PLN.SYNC_CTRL_CHECK_EN 0
def pin (f : PinSt → PinSt) : Dev := (q2.put (PINB.CFG_CMP_EN 0 0) 1).modPin 0 fun p => f { p with powered := true, settle := none, high := ⟨true,true,0⟩, low := ⟨false,true,0⟩ }
def str (f : PinSt → PinSt) : Dev := ((pin f).put (PINB.SEL_STAMP_SEL 0 0) 15).put (PINB.STAMP_CFG 0) 1
def dev1 : Dev := str (fun p => { p with high := ⟨true, false, 1⟩ })
def dev2 : Dev := pin id
def dev3 : Dev := (pin id).put (PINB.SEL_IRQ_SEL 0 0) 15
def dev4 : Dev := str id
def dev5 : Dev := str (fun p => { p with lastStamp := (some (4096 * 2000000 - 2622+5), some (4096*2000000 - 2000)) })

theorem test_hyps_SuppliesAndComparators :
    (q2.hostOpen (PINB.CFG_CMP_EN (bankOf 0) (pageOf 0)).addr = true ∧ q2.spareBusy (bankOf 0) (pageOf 0) = false) ∧
    (¬((q2.pin 0).powered = true ∧ q2.pinOn PINB.CFG_CMP_EN 0 = true ∧ (q2.pin 0).settle = none)) ∧
    ((dev1.pin 0).powered = true ∧ dev1.pinOn PINB.CFG_CMP_EN 0 = true ∧ (dev1.pin 0).settle = none ∧ ((dev1.pin 0).cmpOf
      false).resolved = false) ∧
    ((dev2.pin 0).powered = true ∧ dev2.pinOn PINB.CFG_CMP_EN 0 = true ∧ (dev2.pin 0).settle = none ∧ ((dev2.pin 0).cmpOf
      false).resolved = true ∧ ((dev2.pin 0).cmpOf false).out = true) ∧
    ((dev3.pin 0).powered = true ∧ dev3.pinOn PINB.CFG_CMP_EN 0 = true ∧ (dev3.pin 0).settle = none ∧ ((dev3.pin 0).cmpOf
      false).resolved = true ∧ ((dev3.pin 0).cmpOf false).out ≠ false ∧ (dev3.pinGet PINB.SEL_IRQ_SEL 0).testBit (edgeCode
      false false) = true) ∧
    ((dev4.pin 0).powered = true ∧ dev4.pinOn PINB.CFG_CMP_EN 0 = true ∧ (dev4.pin 0).settle = none ∧ ((dev4.pin 0).cmpOf
      false).resolved = true ∧ ((dev4.pin 0).cmpOf false).out ≠ false ∧ ((dev4.pinGet PINB.SEL_STAMP_SEL 0).testBit
      (edgeCode false false) = true ∧ dev4.get (PINB.STAMP_CFG (bankOf 0)) ≠ 0 ∧ dev4.pinOnBus 0 = false ∧ dev4.st ≠
      stDormant) ∧ (∀ (l : ℕ), (if false = true then (dev4.pin 0).lastStamp.2 else (dev4.pin 0).lastStamp.1) = some l → l +
      2622 ≤ 4096 * dev4.elapsed + 5) ∧ (dev4.pin 0).queue.length < 64) ∧
    ((dev5.pin 0).powered = true ∧ dev5.pinOn PINB.CFG_CMP_EN 0 = true ∧ (dev5.pin 0).settle = none ∧ ((dev5.pin 0).cmpOf
      true).resolved = true ∧ ((dev5.pin 0).cmpOf true).out ≠ true ∧ ((dev5.pinGet PINB.SEL_STAMP_SEL 0).testBit (edgeCode
      true true) = true ∧ dev5.get (PINB.STAMP_CFG (bankOf 0)) ≠ 0 ∧ dev5.pinOnBus 0 = false ∧ dev5.st ≠ stDormant) ∧ (∀ (l
      : ℕ), (if true = true then (dev5.pin 0).lastStamp.2 else (dev5.pin 0).lastStamp.1) = some l → 4096 * dev5.elapsed + 5
      < l + 2622) ∧ (if true = true then (dev5.pin 0).lastStamp.2 else (dev5.pin 0).lastStamp.1) ≠ none) ∧
    ((dev2.pin 0).powered = true ∧ dev2.pinOn PINB.CFG_CMP_EN 0 = true ∧ (dev2.pin 0).settle = none ∧ ((dev2.pin 0).cmpOf
      false).resolved = true ∧ ((dev2.pin 0).cmpOf false).out ≠ false ∧ ¬((dev2.pinGet PINB.SEL_STAMP_SEL 0).testBit
      (edgeCode false false) = true ∧ dev2.get (PINB.STAMP_CFG (bankOf 0)) ≠ 0 ∧ dev2.pinOnBus 0 = false ∧ dev2.st ≠
      stDormant)) := by 
  refine ⟨?_, ?_, ?_, ?_, ?_, ?_, ?_, ?_⟩ <;> decide +kernel

end Comparators

/-! ### Measurements -/

namespace Measure

def q2 : Dev := (up.put PLN.QUALITY_QUAL 2).put PLN.SYNC_CTRL_CHECK_EN 0
def pin (f : PinSt → PinSt) : Dev := (q2.put (PINB.CFG_CMP_EN 0 0) 1).modPin 0 fun p => f { p with powered := true, settle := none, high := ⟨true,true,0⟩, low := ⟨false,true,0⟩ }
def ms (f : TiaM → TiaM) : Dev := (pin id).modMeas 0 fun m => f { m with armed := true, armAt := 999990, count := 2 }
def good : Dev := ((((pin id).put (TIA.M_CFG_FUNC 0) 2).put (TIA.M_CFG_COUNT 0) 1).put (TIA.M_CH_A 0) 0).put TIA.DONE 1
def tr (k : Nat) : TiaRes := ⟨0, k, (List.range 32).map fun x => BitVec.ofNat 8 (x+1), none⟩
def ep (d : Dev) : Dev := { d with pln := { d.pln with epoch := some ⟨5, 6, 7, 8, 9⟩ } }
def dev1 : Dev := ep good
def dev2 : Dev := ms (fun m => { m with armEl := 2000000 })
def dev3 : Dev := ms id
def dev4 : Dev := ms (fun m => {m with func := 6, open_ := some 999995, ready := some 999995, vals := [3]})
def dev5 : Dev := ms (fun m => {m with func := 5, open_ := some 999995, ready := some 999995, gateLen := 1000 })
def dev6 : Dev := ms (fun m => {m with func := 2, ready := some 1000006, gateStart := 1000005})
def dev7 : Dev := ms (fun m => {m with func := 2, ready := some 1000006})
def dev8 : Dev := ms (fun m => {m with func := 2, cls := 1})
def dev9 : Dev := good.modTia fun t => {t with results := [tr 1]}
def dev10 : Dev := good.modTia fun t => {t with results := [tr 0], fifo := List.replicate 256 [1]}

theorem test_hyps_MeasurementsArmAndCount :
    (dev1.hostOpen (TIA.M_CTRL_ARM 0).addr = true ∧ dev1.pln.epoch ≠ none) ∧
    (dev2.hostOpen (TIA.M_CTRL_ARM 0).addr = true ∧ dev2.pln.epoch = none ∧ ((dev2.meas 0).armEl = dev2.elapsed ∧
      ((dev2.meas 0).armed = true ∨ (dev2.meas 0).func ≠ 0))) ∧
    (dev3.hostOpen (TIA.M_CTRL_ARM 0).addr = true ∧ dev3.pln.epoch = none ∧ (¬((dev3.meas 0).armEl = dev3.elapsed ∧
      ((dev3.meas 0).armed = true ∨ (dev3.meas 0).func ≠ 0))) ∧ (dev3.meas 0).armed = true) ∧
    (q2.hostOpen (TIA.M_CTRL_ARM 0).addr = true ∧ q2.pln.epoch = none ∧ (¬((q2.meas 0).armEl = q2.elapsed ∧ ((q2.meas
      0).armed = true ∨ (q2.meas 0).func ≠ 0))) ∧ (q2.meas 0).armed = false ∧ ((q2.get (TIA.M_CFG_FUNC 0) = 0 ∨ 7 ≤ q2.get
      (TIA.M_CFG_FUNC 0) ∨ q2.get (TIA.M_CFG_FUNC 0) ≠ 5 ∧ q2.get (TIA.M_CFG_COUNT 0) = 0 ∨ 1055 < q2.get (TIA.M_CH_A 0) ∨
      1055 < q2.get (TIA.M_CH_B 0) ∨ q2.get (TIA.M_CFG_FUNC 0) = 5 ∧ (q2.get (TIA.M_GATE_LEN 0) = 0 ∨ q2.tiaTimeoutT <
      q2.get (TIA.M_GATE_LEN 0))) ∨ q2.on PLN.QUALITY_REFSTEP = true ∨ q2.cmpUsable (q2.tiaBind (q2.get (TIA.M_CH_A 0)))
      (decide (2 ≤ q2.get (TIA.M_CFG_A_EDGE 0)) && q2.get (TIA.M_CFG_FUNC 0) != 6) = false ∨ (q2.get (TIA.M_CFG_FUNC 0) = 1
      ∨ q2.get (TIA.M_CFG_FUNC 0) = 4) ∧ q2.cmpUsable (q2.tiaBind (q2.get (TIA.M_CH_B 0))) (decide (2 ≤ q2.get
      (TIA.M_CFG_B_EDGE 0))) = false ∨ q2.pinOnBus (q2.tiaBind (q2.get (TIA.M_CH_A 0))) = true ∨ (q2.get (TIA.M_CFG_FUNC 0)
      = 1 ∨ q2.get (TIA.M_CFG_FUNC 0) = 4) ∧ q2.pinOnBus (q2.tiaBind (q2.get (TIA.M_CH_B 0))) = true ∨ q2.get
      (TIA.M_CFG_FUNC 0) = 6 ∧ (q2.blockDown (32 + bankOf (q2.tiaBind (q2.get (TIA.M_CH_A 0)))) = true ∨ (q2.pin (q2.tiaBind
      (q2.get (TIA.M_CH_A 0)))).measure ≠ none ∨ (q2.eng (q2.bankEng (bankOf (q2.tiaBind (q2.get (TIA.M_CH_A 0)))))).aborted
      = true ∨ Option.any (fun c => q2.mapped c && q2.engState (q2.chanEng c) != seqIdle) (q2.logicalOf (q2.tiaBind (q2.get
      (TIA.M_CH_A 0)))) = true))) ∧
    (good.hostOpen (TIA.M_CTRL_ARM 0).addr = true ∧ good.pln.epoch = none ∧ (¬((good.meas 0).armEl = good.elapsed ∧
      ((good.meas 0).armed = true ∨ (good.meas 0).func ≠ 0))) ∧ (good.meas 0).armed = false ∧ (¬(good.get (TIA.M_CFG_FUNC 0)
      = 0 ∨ 7 ≤ good.get (TIA.M_CFG_FUNC 0) ∨ good.get (TIA.M_CFG_FUNC 0) ≠ 5 ∧ good.get (TIA.M_CFG_COUNT 0) = 0 ∨ 1055 <
      good.get (TIA.M_CH_A 0) ∨ 1055 < good.get (TIA.M_CH_B 0) ∨ good.get (TIA.M_CFG_FUNC 0) = 5 ∧ (good.get (TIA.M_GATE_LEN
      0) = 0 ∨ good.tiaTimeoutT < good.get (TIA.M_GATE_LEN 0)))) ∧ (¬(good.on PLN.QUALITY_REFSTEP = true ∨ good.cmpUsable
      (good.tiaBind (good.get (TIA.M_CH_A 0))) (decide (2 ≤ good.get (TIA.M_CFG_A_EDGE 0)) && good.get (TIA.M_CFG_FUNC 0) !=
      6) = false ∨ (good.get (TIA.M_CFG_FUNC 0) = 1 ∨ good.get (TIA.M_CFG_FUNC 0) = 4) ∧ good.cmpUsable (good.tiaBind
      (good.get (TIA.M_CH_B 0))) (decide (2 ≤ good.get (TIA.M_CFG_B_EDGE 0))) = false ∨ good.pinOnBus (good.tiaBind
      (good.get (TIA.M_CH_A 0))) = true ∨ (good.get (TIA.M_CFG_FUNC 0) = 1 ∨ good.get (TIA.M_CFG_FUNC 0) = 4) ∧
      good.pinOnBus (good.tiaBind (good.get (TIA.M_CH_B 0))) = true ∨ good.get (TIA.M_CFG_FUNC 0) = 6 ∧ (good.blockDown (32
      + bankOf (good.tiaBind (good.get (TIA.M_CH_A 0)))) = true ∨ (good.pin (good.tiaBind (good.get (TIA.M_CH_A
      0)))).measure ≠ none ∨ (good.eng (good.bankEng (bankOf (good.tiaBind (good.get (TIA.M_CH_A 0)))))).aborted = true ∨
      Option.any (fun c => good.mapped c && good.engState (good.chanEng c) != seqIdle) (good.logicalOf (good.tiaBind
      (good.get (TIA.M_CH_A 0)))) = true)))) := by 
  refine ⟨?_, ?_, ?_, ?_, ?_⟩ <;> decide +kernel

theorem test_hyps_MeasurementsEnd :
    (dev3.hostOpen (TIA.M_CTRL_STOP 0).addr = true ∧ (dev3.meas 0).armed = true ∧ (¬((dev3.meas 0).armEl = dev3.elapsed ∧
      ((dev3.meas 0).armed = true ∨ (dev3.meas 0).func ≠ 0)))) ∧
    (q2.hostOpen (TIA.M_CTRL_STOP 0).addr = true ∧ ((q2.meas 0).armed = false ∨ (q2.meas 0).armEl = q2.elapsed ∧ ((q2.meas
      0).armed = true ∨ (q2.meas 0).func ≠ 0))) ∧
    ((dev4.meas 0).armed = true ∧ ((dev4.meas 0).open_).isSome = true) ∧
    ((dev5.meas 0).armed = true ∧ (match (dev5.meas 0).open_ with
        | some _ => decide (
            ((dev5.meas 0).func = 5) ∧ ((dev5.meas 0).gateLen ≠ 0))
        | _ => false) = true) ∧
    ((dev6.meas 0).armed = true ∧ (match (dev6.meas 0).ready with
        | some r => decide (
            ((dev6.meas 0).open_ = none) ∧ ((dev6.meas 0).gateStart ≠ 0) ∧ ((dev6.meas 0).gateStart < r))
        | _ => false) = true) ∧
    ((dev7.meas 0).armed = true ∧ ((match (dev7.meas 0).ready with
        | some r => decide (
            ((dev7.meas 0).open_ = none) ∧ ((dev7.meas 0).gateStart = 0 ∨ r ≤ (dev7.meas 0).gateStart))
        | _ => false) = true)) ∧
    ((dev8.meas 0).armed = true ∧ (dev8.meas 0).cls = 1 ∧ (dev8.meas 0).ready = none) := by 
  refine ⟨?_, ?_, ?_, ?_, ?_, ?_, ?_⟩ <;> decide +kernel

theorem test_hyps_ResultsAreRead :
    ((List.find? (fun x => x.k == 0) dev9.tia.results).isSome = true) ∧
    (dev10.host.memEn = true ∧ dev10.served 10 = true ∧ dev10.tia.fifo ≠ []) ∧
    (q2.host.memEn = true ∧ q2.served 10 = true ∧ (0xf : BitVec 4) = 15 ∧ q2.tia.fifo = []) ∧
    (q2.host.memEn = true ∧ q2.served 10 = true ∧ (3 : BitVec 4) ≠ 15) := by 
  refine ⟨?_, ?_, ?_, ?_⟩ <;> decide +kernel

end Measure

/-! ### Sources -/

namespace Sources

def q2 : Dev := (up.put PLN.QUALITY_QUAL 2).put PLN.SYNC_CTRL_CHECK_EN 0
def sm (k : Nat) (f : SmcSt → SmcSt := id) : Dev := ((((q2.put (SMCG.OUT_OUT_STATE 0 0) k).put (SMCG.OUT_OUT_EN 0 0) 1).put (SMCG.ACT_FORCE 0 0) 500000).put (SMCG.OUT_PENDING_ON 0 0) 0).modSm 0 fun s => f { s with switchAt := 2000700, stepDue := 2000300 }
def cl (k : Nat) : Dev := (((sm k fun s => {s with clamp := some 1990000, clampFrom := 1995000}).put (SMCG.CLAMP_CLAMP_ACT 0 0) 1).put (SMCG.CLAMP_CLAMP_T 0 0) 100).put (SMCG.CLAMPED 0) 1
def gang (d : Dev) : Dev := (d.put (SMCG.GANG_STATUS_ACTIVE 0) 1)
def lat (w : W32) (s : SmcSt) : SmcSt := { s with latches := [(2000100, [(0, w), (1, 77)]), (2000200, [])] }
def hand (d : Dev) : Dev := (d.put (busCurF 32) 0).modBus 32 fun b => { b with commit := some 1 }
def noSup (d : Dev) : Dev := { d with flt := { d.flt with supplyOut := [.other] } }
def dev1 : Dev := sm 1
def dev2 : Dev := noSup (sm 4)
def dev3 : Dev := (sm 4).put (SMCG.OUT_PENDING_ON 0 0) 1
def dev4 : Dev := noSup (sm 0)
def dev5 : Dev := sm 0 (fun s => { s with offReq := some 2000000 })
def dev6 : Dev := sm 3
def dev7 : Dev := hand (sm 2)
def dev8 : Dev := (gang (sm 2)).modSm 1 (lat 3)
def dev9 : Dev := gang (sm 2 (lat 0))
def dev10 : Dev := gang (sm 2 (lat 0x40))
def dev11 : Dev := sm 3 (fun s => { s with ramp := .convert })
def dev12 : Dev := sm 3 (fun s => { s with ramp := .current })
def dev13 : Dev := sm 2 (fun s => {s with dds := .waits, ddsLast := 2000000})
def dev14 : Dev := (sm 2 (fun s => {s with dds := .runs, phase := 2^47, ddsLast := 2000000})).put (SMCG.ACT_DDS_FTW 0 0) 12345
def dev15 : Dev := sm 2 (fun s => {s with dds := .stopping, phase := 2^47-1})
def dev16 : Dev := (sm 2 (fun s => {s with dds := .stopping, phase := 2^47-1})).put (SMCG.ACT_DDS_FTW 0 0) 12345
def dev17 : Dev := cl 2
def dev18 : Dev := (cl 2).put (SMCG.CLAMP_CLAMP_ACT 0 0) 0

theorem test_hyps_SwitchesFollowOutEn :
    (((dev1.isMember 0 = false ∧ (0 < 256 → dev1.smcLogicalOf 0 = some 0))) ∧ dev1.smcState 0 = 1 ∧ dev1.hostOpen
      (SMCG.OUT_OUT_EN (groupOf 0) (smcPage 0)).addr = true ∧ dev1.smcSpareBusy (groupOf 0) (smcPage 0) = false ∧
      (dev1.flt.safeHold = false ∧ dev1.flt.supplyOut = [] ∧ dev1.blockDown (smcBlock 0) = false) ∧ (¬∃ a, (dev1.sm
      0).offReq = some a ∧ a / 20 = dev1.elapsed / 20) ∧ (dev1.smcState 0 = 1 ∨ dev1.smcState 0 = 2)) ∧
    (((dev2.isMember 0 = false ∧ (0 < 256 → dev2.smcLogicalOf 0 = some 0))) ∧ dev2.smcState 0 = 4 ∧ (dev2.smcGet
      SMCG.OUT_PENDING_ON 0 = 0 ∨ ¬(fun d => d.flt.safeHold = false ∧ d.flt.supplyOut = [] ∧ d.blockDown (smcBlock 0) =
      false) dev2)) ∧
    (((dev3.isMember 0 = false ∧ (0 < 256 → dev3.smcLogicalOf 0 = some 0))) ∧ dev3.smcState 0 = 4 ∧ dev3.smcGet
      SMCG.OUT_PENDING_ON 0 = 1 ∧ (dev3.flt.safeHold = false ∧ dev3.flt.supplyOut = [] ∧ dev3.blockDown (smcBlock 0) =
      false)) ∧
    (((dev4.isMember 0 = false ∧ (0 < 256 → dev4.smcLogicalOf 0 = some 0))) ∧ dev4.hostOpen (SMCG.OUT_OUT_EN (groupOf 0)
      (smcPage 0)).addr = true ∧ dev4.smcSpareBusy (groupOf 0) (smcPage 0) = false ∧ ¬(fun d => d.flt.safeHold = false ∧
      d.flt.supplyOut = [] ∧ d.blockDown (smcBlock 0) = false) dev4) ∧
    (((dev5.isMember 0 = false ∧ (0 < 256 → dev5.smcLogicalOf 0 = some 0))) ∧ dev5.hostOpen (SMCG.OUT_OUT_EN (groupOf 0)
      (smcPage 0)).addr = true ∧ dev5.smcSpareBusy (groupOf 0) (smcPage 0) = false ∧ (dev5.flt.safeHold = false ∧
      dev5.flt.supplyOut = [] ∧ dev5.blockDown (smcBlock 0) = false) ∧ (∃ a, (dev5.sm 0).offReq = some a ∧ a / 20 =
      dev5.elapsed / 20)) ∧
    (((q2.isMember 0 = false ∧ (0 < 256 → q2.smcLogicalOf 0 = some 0))) ∧ q2.hostOpen (SMCG.OUT_OUT_EN (groupOf 0) (smcPage
      0)).addr = true ∧ q2.smcSpareBusy (groupOf 0) (smcPage 0) = false ∧ (q2.flt.safeHold = false ∧ q2.flt.supplyOut = [] ∧
      q2.blockDown (smcBlock 0) = false) ∧ (¬∃ a, (q2.sm 0).offReq = some a ∧ a / 20 = q2.elapsed / 20) ∧ q2.smcState 0 = 0
      ∧ q2.smcGet SMCG.OUT_PENDING_ON 0 = 0 ∧ (q2.smcState 0 = 0 ∨ q2.smcHanding 0 = false)) ∧
    (((dev6.isMember 0 = false ∧ (0 < 256 → dev6.smcLogicalOf 0 = some 0))) ∧ dev6.hostOpen (SMCG.OUT_OUT_EN (groupOf 0)
      (smcPage 0)).addr = true ∧ dev6.smcSpareBusy (groupOf 0) (smcPage 0) = false ∧ (dev6.flt.safeHold = false ∧
      dev6.flt.supplyOut = [] ∧ dev6.blockDown (smcBlock 0) = false) ∧ (¬∃ a, (dev6.sm 0).offReq = some a ∧ a / 20 =
      dev6.elapsed / 20) ∧ (dev6.smcState 0 = 3 ∨ dev6.smcState 0 = 4)) ∧
    (((dev7.isMember 0 = false ∧ (0 < 256 → dev7.smcLogicalOf 0 = some 0))) ∧ dev7.hostOpen (SMCG.OUT_OUT_EN (groupOf 0)
      (smcPage 0)).addr = true ∧ dev7.smcSpareBusy (groupOf 0) (smcPage 0) = false ∧ dev7.smcState 0 ≠ 0 ∧ dev7.smcHanding 0
      = true) := by 
  refine ⟨?_, ?_, ?_, ?_, ?_, ?_, ?_, ?_⟩ <;> decide +kernel

theorem test_hyps_SourcesMove :
    ((match (dev8.sm 1).latches with
        | (_, _) :: _ => decide ((dev8.isMember 1 = true))
        | _ => false) = true) ∧
    (((dev9.isMember 0 = false ∧ (0 < 256 → dev9.smcLogicalOf 0 = some 0))) ∧ ((match (dev9.sm 0).latches with
        | (_, ws) :: _ => decide (
            (dev9.smcGet SMCG.ACT_MODE_IRANGE 0 ≠ bitsOf (dev9.smcLatched 0 ws 0) 4 3 ∧ (1 < (dev9.gangOf 0).length ∨
              dev9.smcState 0 = 2 ∧ isFi (dev9.smcMode 0) = true ∧ isFi (dev9.smcLatched 0 ws 0 % 8) = true ∧ 524288 *
              rangeNa (bitsOf (dev9.smcLatched 0 ws 0) 4 3) < (((dev9.sm 0).code : Int) - 524288).natAbs * rangeNa
              (dev9.smcGet SMCG.ACT_MODE_IRANGE 0))))
        | _ => false) = true)) ∧
    (((dev10.isMember 0 = false ∧ (0 < 256 → dev10.smcLogicalOf 0 = some 0))) ∧ ((match (dev10.sm 0).latches with
        | (_, ws) :: _ => decide (
            (¬(dev10.smcGet SMCG.ACT_MODE_IRANGE 0 ≠ bitsOf (dev10.smcLatched 0 ws 0) 4 3 ∧ (1 < (dev10.gangOf 0).length ∨
              dev10.smcState 0 = 2 ∧ isFi (dev10.smcMode 0) = true ∧ isFi (dev10.smcLatched 0 ws 0 % 8) = true ∧ 524288 *
              rangeNa (bitsOf (dev10.smcLatched 0 ws 0) 4 3) < (((dev10.sm 0).code : Int) - 524288).natAbs * rangeNa
              (dev10.smcGet SMCG.ACT_MODE_IRANGE 0)))))
        | _ => false) = true)) ∧
    (((dev8.isMember 0 = false ∧ (0 < 256 → dev8.smcLogicalOf 0 = some 0))) ∧ dev8.smcState 0 = 2 ∧ dev8.smcHeld 0 = false ∧
      ((dev8.sm 0).dds = DdsSt.off ∨ (dev8.sm 0).dds = DdsSt.toOffset) ∧ (dev8.sm 0).code ≠ dev8.smcTarget 0) ∧
    (((dev6.isMember 0 = false ∧ (0 < 256 → dev6.smcLogicalOf 0 = some 0))) ∧ dev6.smcState 0 = 3 ∧ (dev6.sm 0).ramp =
      RampSt.voltage) ∧
    (((dev11.isMember 0 = false ∧ (0 < 256 → dev11.smcLogicalOf 0 = some 0))) ∧ dev11.smcState 0 = 3 ∧ (dev11.sm 0).ramp =
      RampSt.convert) ∧
    (((dev12.isMember 0 = false ∧ (0 < 256 → dev12.smcLogicalOf 0 = some 0))) ∧ dev12.smcState 0 = 3 ∧ (dev12.sm 0).ramp =
      RampSt.current) ∧
    (((dev8.isMember 256 = false ∧ (256 < 256 → dev8.smcLogicalOf 256 = some 256))) ∧ dev8.smcState 256 ≠ 3 ∧ (dev8.smcState
      256 ≠ 2 ∨ dev8.smcHeld 256 = true ∨ (dev8.sm 256).code = dev8.smcTarget 256)) ∧
    (((dev13.isMember 0 = false ∧ (0 < 256 → dev13.smcLogicalOf 0 = some 0))) ∧ dev13.smcState 0 = 2 ∧ dev13.smcHeld 0 =
      false ∧ (dev13.sm 0).dds = DdsSt.waits) ∧
    (((dev14.isMember 0 = false ∧ (0 < 256 → dev14.smcLogicalOf 0 = some 0))) ∧ dev14.smcState 0 = 2 ∧ dev14.smcHeld 0 =
      false ∧ (dev14.sm 0).dds = DdsSt.runs) ∧
    (((dev15.isMember 0 = false ∧ (0 < 256 → dev15.smcLogicalOf 0 = some 0))) ∧ dev15.smcState 0 = 2 ∧ dev15.smcHeld 0 =
      false ∧ (dev15.sm 0).dds = DdsSt.stopping ∧ ¬((dev15.sm 0).phase + (dev15.smcGet SMCG.ACT_DDS_FTW 0 + 2 ^ 32 *
      dev15.smcGet SMCG.ACT_DDS_FTW_HI 0)) % 2 ^ 48 / 2 ^ 47 ≠ (dev15.sm 0).phase / 2 ^ 47) ∧
    (((dev16.isMember 0 = false ∧ (0 < 256 → dev16.smcLogicalOf 0 = some 0))) ∧ dev16.smcState 0 = 2 ∧ dev16.smcHeld 0 =
      false ∧ (dev16.sm 0).dds = DdsSt.stopping ∧ ((dev16.sm 0).phase + (dev16.smcGet SMCG.ACT_DDS_FTW 0 + 2 ^ 32 *
      dev16.smcGet SMCG.ACT_DDS_FTW_HI 0)) % 2 ^ 48 / 2 ^ 47 ≠ (dev16.sm 0).phase / 2 ^ 47) := by 
  refine ⟨?_, ?_, ?_, ?_, ?_, ?_, ?_, ?_, ?_, ?_, ?_, ?_⟩ <;> decide +kernel

theorem test_hyps_ConversionsAndClamps :
    ((q2.sm 0).clamp = none ∧ q2.smcForces (q2.leaderOf 0) ≠ 2) ∧
    (((dev17.sm 0).clamp ≠ none ∨ dev17.smcForces (dev17.leaderOf 0) = 2) ∧ ((dev17.sm 0).clamp).isSome = true ∧ ((match (dev17.sm 0).clamp with
        | some a => decide (
            (dev17.smcGet SMCG.CLAMP_CLAMP_ACT (dev17.leaderOf 0) = 1) ∧ ((dev17.isMember (dev17.leaderOf 0) = false ∧
              ((dev17.leaderOf 0) < 256 → dev17.smcLogicalOf (dev17.leaderOf 0) = some (dev17.leaderOf 0)))) ∧
              (dev17.smcState (dev17.leaderOf 0) = 2) ∧ ((Dev.until (a + usTclk * dev17.smcGet SMCG.CLAMP_CLAMP_T
              (dev17.leaderOf 0)) dev17).smcHanding (dev17.leaderOf 0) = false))
        | _ => false) = true)) ∧
    ((match (dev18.sm 0).clamp with
        | some _ => decide (
            (dev18.smcGet SMCG.CLAMP_CLAMP_ACT (dev18.leaderOf 0) ≠ 1))
        | _ => false) = true) := by 
  refine ⟨?_, ?_, ?_⟩ <;> decide +kernel

end Sources

/-! ### Acquisition -/

namespace Acquire

def q2 : Dev := (up.put PLN.QUALITY_QUAL 2).put PLN.SYNC_CTRL_CHECK_EN 0
def cfg (d : Dev) : Dev := (((((((((d.put (AQ.CFG_KIND 0) 0).put (AQ.DIV 0) 2).put (AQ.SPILL 0) 0).put (AQ.POST 0) 4).put (AQ.SEGS 0) 2).put (AQ.SLOT 0) 4).put (AQ.TRIG_EDGE 0) 0).put (AQ.PART_GRAN 0) 1).put (AQ.PRE 0) 2)
def runs (st : Nat) (f : AqSt → AqSt) : Dev := ((cfg q2).put (AQ.STATUS_STATE 0) st).modAq 0 fun a => f { a with next := 500000, dead := some 499960 }
def tg (t : Int) : AqTrig := ⟨t, 0, 8192⟩
def seg0 : AqSeg := ⟨tg 5, 499990, 0, false, 0, 2⟩
def cm (arm : Nat) (f : AqSt → AqSt) : AqSt → AqSt := fun a => f { a with cmds := ⟨q2.cclk, arm, (5, 1), [(0, 4096*1000000, 5)]⟩ }
def ln (f : LineSt → LineSt) (d : Dev) : Dev := d.modLine 0 f
def rr (k : Nat) := ((runs aqDead (fun a => {a with done := [(List.range 130).map (BitVec.ofNat 8 ·)]})).put (HDMA.RING_CTRL_EN 6) k)
def dev1 : Dev := ln (fun l => {l with driven := true, pulseEnd := 2000100, checks := [1999990]}) (q2.put TRG.OWN 1)
def dev2 : Dev := { cfg q2 with pln := { q2.pln with epoch := some ⟨5, 5, 5, 5, 2000009⟩ } }
def dev3 : Dev := (((cfg q2).put (AQ.CFG_KIND 0) 2).put (AQ.CFG_KIND 1) 2).put (AQ.STATUS_STATE 1) aqDead |>.put (AQ.CLAIM 0) 3 |>.put (AQ.CLAIM 1) 2
def dev4 : Dev := (cfg q2).put PLN.QUALITY_REFSTEP 1
def dev5 : Dev := cfg q2
def dev6 : Dev := (cfg q2).modAq 0 (cm 1 id)
def dev7 : Dev := runs aqDone (fun a => {a with trigs := [tg (4096 * 1000100)], dead := none, lastK := some 500050})
def dev8 : Dev := runs aqDone (fun a => {a with trigs := [tg (4096 * 1000100)], dead := none, lastK := some 500000})
def dev9 : Dev := runs aqDead (fun a => {a with trigs := [tg (4096 * 1000100)], seg := some seg0})
def dev10 : Dev := runs aqReady (fun a => {a with trigs := [tg (4096 * 1000100)], lastK := some 500060})
def dev11 : Dev := runs aqDead (fun a => {a with trigs := [tg (4096 * 1000000)]})
def dev12 : Dev := runs aqDead (fun a => {a with trigs := [tg (4096 * 1000100)], next := 500060})
def dev13 : Dev := rr 0
def dev14 : Dev := rr 1

theorem test_hyps_TriggerLines :
    (q2.hostOpen TRG.SW_PULSE.addr = true) ∧
    ((q2.line 0).driven = false) ∧
    ((dev1.line 0).driven = true) ∧
    ((q2.line 0).checks = []) ∧
    ((dev1.line 0).checks ≠ []) := by 
  refine ⟨?_, ?_, ?_, ?_, ?_⟩ <;> decide +kernel

theorem test_hyps_AcquisitionCommands :
    (dev2.hostOpen (AQ.CTRL_ARM 0).addr = true ∧ dev2.pln.epoch.isSome = true) ∧
    (dev3.hostOpen (AQ.CTRL_ARM 1).addr = true ∧ dev3.pln.epoch = none ∧ (dev3.aqState 1 = aqReset ∨ dev3.aqRuns 1 = true) ∧
      dev3.hostOpen (AQ.CTRL_DISARM 1).addr = true ∧ (dev3.aqCmds 1).arm ≠ 1 ∧ (dev3.aqCmds 1).arm ≠ 2 ∧ dev3.aqState 1 ≠
      aqIdle ∧ dev3.aqState 1 ≠ aqReset) ∧
    (q2.hostOpen (AQ.CTRL_ARM 0).addr = true ∧ q2.pln.epoch = none ∧ q2.aqQuiet 0 = true ∧ q2.aqConfigOk 0 = false ∧
      q2.hostOpen (AQ.CTRL_TRIGGER 0).addr = true ∧ q2.hostOpen (AQ.CTRL_DISARM 0).addr = true ∧ (q2.aqCmds 0).arm ≠ 1 ∧
      (q2.aqCmds 0).arm ≠ 2 ∧ (q2.aqState 0 = aqIdle ∨ q2.aqState 0 = aqReset)) ∧
    (dev3.hostOpen (AQ.CTRL_ARM 0).addr = true ∧ dev3.pln.epoch = none ∧ dev3.aqQuiet 0 = true ∧ dev3.aqConfigOk 0 = true ∧
      dev3.aqClaimed 0 = true) ∧
    (dev4.hostOpen (AQ.CTRL_ARM 0).addr = true ∧ dev4.pln.epoch = none ∧ dev4.aqQuiet 0 = true ∧ dev4.aqConfigOk 0 = true ∧
      dev4.aqClaimed 0 = false ∧ dev4.on PLN.QUALITY_REFSTEP = true) ∧
    (dev5.hostOpen (AQ.CTRL_ARM 0).addr = true ∧ dev5.pln.epoch = none ∧ dev5.aqQuiet 0 = true ∧ dev5.aqConfigOk 0 = true ∧
      dev5.aqClaimed 0 = false ∧ dev5.on PLN.QUALITY_REFSTEP = false) ∧
    (dev6.hostOpen (AQ.CTRL_DISARM 0).addr = true ∧ (dev6.aqCmds 0).arm = 1) ∧
    ((match decodeReg (720896 + 8192 * 0 + 0) with
        | Decoded.reg _ _ _ i _ addr _ => decide (
            (isAcqConfig (0 / 4 * 4) = true) ∧ (q2.hostOpen addr = true) ∧ (q2.taken 24 0 i (0 / 4 * 4) (q2.reg addr) (0x60
              : W32)).isSome = true)
        | _ => false) = true) ∧
    ((match decodeReg (720896 + 8192 * 0 + 0x30) with
        | Decoded.reg _ _ _ i _ addr _ => decide (
            (isAcqConfig (0x30 / 4 * 4) = true) ∧ (q2.hostOpen addr = true) ∧ (q2.taken 24 0 i (0x30 / 4 * 4) (q2.reg addr)
              (0 : W32) = none))
        | _ => false) = true) ∧
    (dev3.hostOpen (AQ.PART_BASE 1).addr = true ∧ (dev3.aqQuiet 1 = false ∨ (dev3.aq 1).done ≠ [])) ∧
    (q2.hostOpen (AQ.PART_BASE 0).addr = true ∧ q2.aqQuiet 0 = true ∧ (q2.aq 0).done = [] ∧ 64 < (bitsOf 0xfffffffb 0 6,
      bitsOf 0xfffffffb 8 7).1 + (bitsOf 0xfffffffb 0 6, bitsOf 0xfffffffb 8 7).2) ∧
    (dev5.hostOpen (AQ.PART_BASE 1).addr = true ∧ dev5.aqQuiet 1 = true ∧ (dev5.aq 1).done = [] ∧ (bitsOf 0x700 0 6, bitsOf
      0x700 8 7).1 + (bitsOf 0x700 0 6, bitsOf 0x700 8 7).2 ≤ 64 ∧ (∃ w < 8, w ≠ 1 ∧ rangesMeet (bitsOf 0x700 0 6, bitsOf
      0x700 8 7) (dev5.get (AQ.PART_BASE w), dev5.get (AQ.PART_GRAN w)) = true)) ∧
    (q2.hostOpen (AQ.PART_BASE 0).addr = true ∧ q2.aqQuiet 0 = true ∧ (q2.aq 0).done = [] ∧ (bitsOf 0x60 0 6, bitsOf 0x60 8
      7).1 + (bitsOf 0x60 0 6, bitsOf 0x60 8 7).2 ≤ 64 ∧ (¬∃ w < 8, w ≠ 0 ∧ rangesMeet (bitsOf 0x60 0 6, bitsOf 0x60 8 7)
      (q2.get (AQ.PART_BASE w), q2.get (AQ.PART_GRAN w)) = true)) := by 
  refine ⟨?_, ?_, ?_, ?_, ?_, ?_, ?_, ?_, ?_, ?_, ?_, ?_, ?_⟩ <;> decide +kernel

theorem test_hyps_TriggersAreJudged :
    ((q2.aq 0).trigs = [] ∧ q2.aqRuns 0 = false ∧ (q2.aq 0).done = [] ∧ q2.flt.alarms = []) ∧
    ((match (dev7.aq 0).trigs with
        | x :: _ => decide (
            (dev7.aqRuns 0 = false) ∧ (dev7.aqState 0 = aqDone) ∧ (dev7.aqInLast 0 (dev7.aqTrigSample 0 x.stamp) = true))
        | _ => false) = true) ∧
    (((match (dev8.aq 0).trigs with
        | x :: _ => decide (
            (dev8.aqRuns 0 = false) ∧ (dev8.aqState 0 ≠ aqDone ∨ dev8.aqInLast 0 (dev8.aqTrigSample 0 x.stamp) = false))
        | _ => false) = true)) ∧
    (((match (dev9.aq 0).trigs with
        | _ :: _ => decide (
            (dev9.aqRuns 0 = true) ∧ ((dev9.aq 0).seg.isSome = true ∨ (dev9.aq 0).dead = none))
        | _ => false) = true)) ∧
    ((match (dev10.aq 0).trigs with
        | x :: _ => decide (
            (dev10.aqRuns 0 = true) ∧ (match (dev10.aq 0).dead with
                | some dd => decide (
                    ((dev10.aq 0).seg = none) ∧ ((decide (dev10.aqTrigSample 0 x.stamp < dd + 32 + dev10.get (AQ.PRE 0)) ||
                      Option.any (fun j => decide (dev10.aqTrigSample 0 x.stamp ≤ j)) (dev10.aq 0).lastK) = true))
                | _ => false) = true)
        | _ => false) = true) ∧
    ((match (dev11.aq 0).trigs with
        | x :: _ => decide (
            (dev11.aqRuns 0 = true) ∧ (match (dev11.aq 0).dead with
                | some dd => decide (
                    ((dev11.aq 0).seg = none) ∧ ((decide (dev11.aqTrigSample 0 x.stamp < dd + 32 + dev11.get (AQ.PRE 0)) ||
                      Option.any (fun j => decide (dev11.aqTrigSample 0 x.stamp ≤ j)) (dev11.aq 0).lastK) = false) ∧
                      ((dev11.aq 0).next < dev11.aqTrigSample 0 x.stamp + dev11.get (AQ.POST 0)))
                | _ => false) = true)
        | _ => false) = true) ∧
    ((match (dev12.aq 0).trigs with
        | x :: _ => decide (
            (dev12.aqRuns 0 = true) ∧ (match (dev12.aq 0).dead with
                | some dd => decide (
                    ((dev12.aq 0).seg = none) ∧ ((decide (dev12.aqTrigSample 0 x.stamp < dd + 32 + dev12.get (AQ.PRE 0)) ||
                      Option.any (fun j => decide (dev12.aqTrigSample 0 x.stamp ≤ j)) (dev12.aq 0).lastK) = false) ∧
                      (dev12.aqTrigSample 0 x.stamp + dev12.get (AQ.POST 0) ≤ (dev12.aq 0).next) ∧ (1 ≤ dev12.get (AQ.POST
                      0)))
                | _ => false) = true)
        | _ => false) = true) ∧
    (dev3.aqRuns 1 = true) ∧
    ((match (dev13.aq 0).done with
        | _ :: _ => decide (
            (dev13.flt.alarms = []) ∧ ((if (dev13.on (AQ.SPILL 0) && !dev13.drcOos) = true then dev13.dramUp &&
              dev13.portFree 6 && decide ((dev13.aq 0).out.length < 65536 * dev13.get (AQ.DRING_SIZE 0) / max 1 (64 *
              dev13.get (AQ.SLOT 0))) else dev13.on (HDMA.RING_CTRL_EN 6) && (dev13.aq 0).out.isEmpty) = false))
        | _ => false) = true) ∧
    (((match (dev14.aq 0).done with
        | x :: _ => decide (
            (dev14.flt.alarms = []) ∧ ((if (dev14.on (AQ.SPILL 0) && !dev14.drcOos) = true then dev14.dramUp &&
              dev14.portFree 6 && decide ((dev14.aq 0).out.length < 65536 * dev14.get (AQ.DRING_SIZE 0) / max 1 (64 *
              dev14.get (AQ.SLOT 0))) else dev14.on (HDMA.RING_CTRL_EN 6) && (dev14.aq 0).out.isEmpty) = true) ∧ ((dev14.on
              (AQ.SPILL 0) && !dev14.drcOos) = true → ∀ i < ceilDiv x.length 64, dev14.dramAllowed 6 (dev14.get
              (AQ.DRING_BASE 0) + 64 * dev14.get (AQ.SLOT 0) * ((dev14.aq 0).dringNext % max 1 (65536 * dev14.get
              (AQ.DRING_SIZE 0) / max 1 (64 * dev14.get (AQ.SLOT 0)))) + 64 * i) = true))
        | _ => false) = true)) := by 
  refine ⟨?_, ?_, ?_, ?_, ?_, ?_, ?_, ?_, ?_, ?_⟩ <;> decide +kernel

end Acquire

/-! ### References, ages and passes -/

namespace Passes

def q2 : Dev := (up.put PLN.QUALITY_QUAL 2).put PLN.SYNC_CTRL_CHECK_EN 0
def bus (k : Nat) (d : Dev) (f : BusSt → BusSt) : Dev := d.modBus k f
def on1 (d : Dev) : Dev := (d.put CAL.CTRL 1).put (GLB.STATE_STATE) stReady
def ends (k i : Nat) (t : Nat) (d : Dev) : Dev := { d with cal := { d.cal with ends := d.cal.ends.insert (64*k+i) t } }
def agesOn (d : Dev) (t : Nat) : Dev := [0, 33].foldl (fun d k => (List.range 33).foldl (fun d i => ends k i t d) d) (d.put CAL.AGE_LIMIT 10)
def big (d : Dev) (n : Nat) : Dev := { d with elapsed := n }
def old (k i : Nat) (d : Dev) : Dev := ends k i 5 (agesOn d 7)
def dev1 : Dev := q2.modBlk 11 fun b => {b with state := 1}
def dev2 : Dev := q2.put CAL.TREF_CFG_EN 1
def dev3 : Dev := bus 0 (agesOn q2 5) (fun b => {b with overdue := true})
def dev4 : Dev := big (bus 33 (agesOn q2 5) (fun b => {b with overdue := true})) (10^14)
def dev5 : Dev := bus 0 (q2.put PLN.QUALITY_PLLT_LOCK 0) (fun b => {b with mirrorEnd := some 1999000})
def dev6 : Dev := (old 0 5 (on1 q2)).put CAL.SPARE_DIS_P 1
def dev7 : Dev := ((old 0 5 (on1 q2)).put CAL.SPARE_DIS_P 1).put (busStateF 0) 4
def dev8 : Dev := bus 0 (on1 q2) (fun b => {b with mirrorEnd := some 2000100})

theorem test_hyps_ReferencesAgesConstants :
    ((dev1.blockDown 11 = true ∨ dev1.st = stDormant)) ∧
    (q2.blockDown 11 = false ∧ q2.st ≠ stDormant ∧ q2.on CAL.TREF_CFG_EN = false) ∧
    (dev2.blockDown 11 = false ∧ dev2.st ≠ stDormant ∧ dev2.on CAL.TREF_CFG_EN = true) ∧
    (q2.blockDown 11 = false ∧ q2.st ≠ stDormant ∧ (q2.bus (busNum (.bank 0 : Bus))).overdue = false ∧ ((match constOf 0x2000104 with
        | some (k, _, j) => decide (
            (q2.hostOpen 0x2000104 = true) ∧ (signedOf 32 0x60 < (q2.window k j).1 ∨ (q2.window k j).2.1 < signedOf 32 0x60))
        | _ => false) = true) ∧ q2.hostOpen CAL.BAND_PIN.addr = true ∧ (bitsOf 0x60 0 5 = 0 ∨ 16 < bitsOf 0x60 0 5 ∨ bitsOf
      0x60 8 5 = 0 ∨ 16 < bitsOf 0x60 8 5)) ∧
    (dev3.blockDown 11 = false ∧ dev3.st ≠ stDormant ∧ (dev3.bus (busNum (.bank 0 : Bus))).overdue = true ∧ dev3.elapsed ≤
      List.foldl min dev3.elapsed (List.map (dev3.cleanEnd (busNum (.bank 0 : Bus))) (dev3.carryingPages (busNum (.bank 0 :
      Bus)))) + dev3.ageLimit) ∧
    (dev4.blockDown 11 = false ∧ dev4.st ≠ stDormant ∧ (dev4.bus (busNum (.group 1 : Bus))).overdue = true ∧ List.foldl min
      dev4.elapsed (List.map (dev4.cleanEnd (busNum (.group 1 : Bus))) (dev4.carryingPages (busNum (.group 1 : Bus)))) +
      dev4.ageLimit < dev4.elapsed) ∧
    ((match constOf 0x2000104 with
        | some (k, _, j) => decide (
            (q2.hostOpen 0x2000104 = true) ∧ ((q2.window k j).1 ≤ signedOf 32 0 ∧ signedOf 32 0 ≤ (q2.window k j).2.1))
        | _ => false) = true) ∧
    (q2.hostOpen CAL.BAND_PIN.addr = true ∧ (1 ≤ bitsOf 0x503 0 5 ∧ bitsOf 0x503 0 5 ≤ 16 ∧ 1 ≤ bitsOf 0x503 8 5 ∧ bitsOf
      0x503 8 5 ≤ 16)) := by 
  refine ⟨?_, ?_, ?_, ?_, ?_, ?_, ?_, ?_⟩ <;> decide +kernel

theorem test_hyps_PassesBegin :
    ((dev5.calRuns (busNum (.bank 0 : Bus)) = false ∨ dev5.on CAL.CTRL = false ∨ (dev5.bus (busNum (.bank 0 :
      Bus))).pass.isSome = true)) ∧
    (dev6.calRuns (busNum (.bank 0 : Bus)) = true ∧ dev6.on CAL.CTRL = true ∧ (dev6.bus (busNum (.bank 0 : Bus))).pass =
      none ∧ ((match dev6.oldestPage (busNum (.bank 0 : Bus)) (List.filter (dev6.inPlaceOk (busNum (.bank 0 : Bus))) (dev6.passPages (busNum (.bank 0 : Bus)))) with
        | some _ => decide (
            (dev6.noSpareFree (busNum (.bank 0 : Bus)) = true) ∧ (dev6.busState (busNum (.bank 0 : Bus)) = calFree ∨
              dev6.busState (busNum (.bank 0 : Bus)) = calCommitted))
        | _ => false) = true)) ∧
    (q2.calRuns (busNum (.bank 0 : Bus)) = true ∧ q2.on CAL.CTRL = true ∧ (q2.bus (busNum (.bank 0 : Bus))).pass = none ∧
      (match q2.oldestPage (busNum (.bank 0 : Bus)) (q2.passPages (busNum (.bank 0 : Bus))) with
        | some _ => decide (
            (q2.noSpareFree (busNum (.bank 0 : Bus)) = false) ∧ (q2.busState (busNum (.bank 0 : Bus)) = calFree))
        | _ => false) = true ∧ ((q2.bus (busNum (.bank 0 : Bus))).mirrorEnd = none ∨ q2.calRuns (busNum (.bank 0 : Bus)) =
      false)) ∧
    (dev7.calRuns (busNum (.bank 0 : Bus)) = true ∧ dev7.on CAL.CTRL = true ∧ (dev7.bus (busNum (.bank 0 : Bus))).pass =
      none ∧ ((if dev7.noSpareFree (busNum (.bank 0 : Bus)) = true then dev7.oldestPage (busNum (.bank 0 : Bus))
      (List.filter (dev7.inPlaceOk (busNum (.bank 0 : Bus))) (dev7.passPages (busNum (.bank 0 : Bus)))) else dev7.oldestPage
      (busNum (.bank 0 : Bus)) (dev7.passPages (busNum (.bank 0 : Bus)))) = none ∨ dev7.busState (busNum (.bank 0 : Bus)) ≠
      calFree ∧ (dev7.busState (busNum (.bank 0 : Bus)) ≠ calCommitted ∨ dev7.noSpareFree (busNum (.bank 0 : Bus)) =
      false))) ∧
    ((match (dev8.bus (busNum (.bank 0 : Bus))).mirrorEnd with
        | some _ => decide ((dev8.calRuns (busNum (.bank 0 : Bus)) = true))
        | _ => false) = true) := by 
  refine ⟨?_, ?_, ?_, ?_, ?_⟩ <;> decide +kernel

end Passes

/-! ### Handovers -/

namespace Handovers

def q2 : Dev := (up.put PLN.QUALITY_QUAL 2).put PLN.SYNC_CTRL_CHECK_EN 0
def win (d : Dev) : Dev := { d with cal := { d.cal with windows := [(0, (-5, 100, 16)), (1, (0, 100, 16)), (32, (-5, 100, 3))] ++ ((List.range' 2 21).map fun i => (i, (0,0,16))) ++ ((List.range' 33 26).map fun i => (i, (0,0,16))) } }
def wait (k st : Nat) : Dev := ((q2.modBus k fun b => {b with waitFrom := some 2000000}).put (busStateF k) st).put (busCurF k) 3
def wt (k st : Nat) : Dev := if k < 32 then wait k st else (wait k st).modBus k fun b => { b with commit := some 2000020 }
def ovr (k st : Nat) : Dev :=
  let d := wt k 3
  match exec (if k < 32 then .handover ⟨k % 32, by omega⟩ else .smcHandoverClose ⟨k % 16, by omega⟩) (withDev d) with
  | .next t => t.dev.put (busStateF k) st | _ => d
def pas (k i : Nat) (f : Dev → Dev) : Dev := f (((win q2).modBus k fun b => {b with pass := some ⟨busPhys k i, false, true, true, 5, 6⟩}).put (onBusF k i) 1 |>.put CAL.REF_STATUS_VREF_OK 1 |>.put CAL.REF_STATUS_RREF_OK 1)
def dev1 : Dev := wt 0 3
def dev2 : Dev := ovr 0 3
def dev3 : Dev := wt 32 3
def dev4 : Dev := ovr 32 3
def dev5 : Dev := pas 0 2 id

theorem test_hyps_HandoversMoveCarriers :
    (q2.flt.alarms = [] ∧ q2.eligible 0 = none ∧ (q2.bus 0).overlap = none ∧ ((q2.bus (32 + 0)).commit = none ∨ (q2.busWaits
      (32 + 0) && !q2.flt.safeHold && q2.flt.fc0.isNone && !q2.blockDown (64 + 0)) = false) ∧ (q2.bus (32 + 0)).overlap =
      none) ∧
    (dev1.flt.alarms = [] ∧ (match dev1.eligible 0 with
        | some _ => decide ((dev1.get (busCurF 0) < 32))
        | _ => false) = true) ∧
    (dev2.flt.alarms = [] ∧ ((dev2.bus 0).overlap).isSome = true) ∧
    (dev3.flt.alarms = [] ∧ (match (dev3.bus (32 + 0)).commit with
        | some _ => decide (
            ((dev3.busWaits (32 + 0) && !dev3.flt.safeHold && dev3.flt.fc0.isNone && !dev3.blockDown (64 + 0)) = true) ∧
              (dev3.get (busCurF (32 + 0)) < 16))
        | _ => false) = true) ∧
    (dev4.flt.alarms = [] ∧ ((dev4.bus (32 + 0)).overlap).isSome = true) := by 
  refine ⟨?_, ?_, ?_, ?_, ?_⟩ <;> decide +kernel

theorem test_hyps_PassesAreJudged :
    (((q2.bus (busNum (.bank 0 : Bus))).pass = none ∨ q2.calRuns (busNum (.bank 0 : Bus)) = false) ∧ q2.flt.alarms = []) ∧
    ((match (dev5.bus (busNum (.bank 0 : Bus))).pass with
        | some p => decide (
            (dev5.calRuns (busNum (.bank 0 : Bus)) = true) ∧ (dev5.flt.alarms = []) ∧ (2 ≤ sparePage (busNum (.bank 0 :
              Bus))) ∧ (p.phys = busPhys (busNum (.bank 0 : Bus)) 2))
        | _ => false) = true) := by 
  refine ⟨?_, ?_⟩ <;> decide +kernel

end Handovers

/-! ### The ledger -/

namespace Ledger

def q2 : Dev := ((up.put PLN.QUALITY_QUAL 2).put PLN.SYNC_CTRL_CHECK_EN 0).modLdg fun l => {l with chain := true, prev := List.replicate 32 7, lastTick := 1000000}
def rec0 (c : Nat) (p : Nat) (nt : Bool := false) : Rec := ⟨c, 5, 2, nt, false, 0x10, 0, p, [1,2,3], 0, (0,0,0)⟩
def slot : List Byte := List.replicate 32 9
def L (f : LdgSt → LdgSt) : Dev := q2.modLdg f
def blk : Blk := ⟨4, 100, 2, 0, 999000, List.replicate 32 7, [slot, slot], List.replicate 32 8⟩
def cur : Dev := L fun l => {l with cur := [slot, slot], curFirst := 77, curSince := 1999000}
def full : Dev := cur.modLdg fun l => {l with buffer := List.replicate 512 blk}
def arr (r : Rec) (f : Dev → Dev := id) : Dev := f (q2.setPath 5 { PathQ.reset with col := [r, r] })
def bootD : Dev := (q2.put GLB.STATE_STATE stBoot).put GLB.STATE_STEP 10
def big (n : Nat) (d : Dev) : Dev := d.modLdg fun l => {l with buffer := List.replicate n blk}
def dup (d : Dev) : Dev := (((d.put DRC.USABLE 0x40000000).put DRC.STATUS_AVAIL 1).put DRC.STATUS_INIT_DONE 1).put DRC.STATUS_IN_SERVICE 15
def sw (n : Nat) : Dev := L fun l => {l with signWait := some (4, List.replicate 32 7), cur := List.replicate n slot}
def pend (d : Dev) : Dev := d.put LDG.STATUS_SIGN_PENDING 1
def host8 (d : Dev) : Dev := (d.put (HDMA.RING_CTRL_EN 8) 1).put (HDMA.RING_SIZE 8) 16
def dev1 : Dev := arr {rec0 5 5 with pseq := 3}
def dev2 : Dev := arr (rec0 999999 5) (fun d => d.modLdg fun l => {l with sealSt := .done})
def dev3 : Dev := arr (rec0 999999 5)
def dev4 : Dev := arr (rec0 5 5 true)
def dev5 : Dev := arr (rec0 5 5)
def dev6 : Dev := arr (rec0 5 5) (fun d => d.modLdg fun l => {l with chain := false})
def dev7 : Dev := cur.modLdg (fun l => {l with relAt := cur.cclk, relLen := 0, curSince := 1, lastTick := 1, recent := [blk]})
def dev8 : Dev := cur.modLdg (fun l => {l with closeDue := true})
def dev9 : Dev := (L fun l => {l with recent := [blk]}).put LDG.NEXT_BLOCK 5
def dev10 : Dev := (sw 5).put GLB.STATE_STATE stDormant
def dev11 : Dev := big 512 (sw 5)
def dev12 : Dev := sw 0
def dev13 : Dev := pend (big 512 (sw 5))
def dev14 : Dev := pend (sw 5)
def dev15 : Dev := dup (L fun l => {l with buffer := [blk, blk]})
def dev16 : Dev := host8 (L fun l => {l with dring := [blk, blk]})
def dev17 : Dev := host8 ((L fun l => {l with buffer := [blk, blk]}).modBlk 8 fun b => {b with state := 3})
def dev18 : Dev := big 510 (L fun l => {l with sealSt := .merging 1990000})
def dev19 : Dev := L fun l => {l with sealSt := .merging 1990000}

theorem test_hyps_RecordsAreMerged :
    (q2.flt.alarms = [] ∧ (q2.st = stDormant ∨ q2.blockDown 0 = true ∨ (q2.path 5).col = [])) ∧
    (dev1.flt.alarms = [] ∧ (match (dev1.path 5).col with
        | r :: _ => decide (
            (dev1.st ≠ stDormant) ∧ (dev1.blockDown 0 = false) ∧ (r.pseq ≠ (dev1.path 5).rx) ∧ ((dev1.fec 0).valid = false))
        | _ => false) = true) ∧
    (dev2.flt.alarms = [] ∧ (match (dev2.path 5).col with
        | r :: _ => decide (
            (dev2.st ≠ stDormant) ∧ (dev2.blockDown 0 = false) ∧ (r.pseq = (dev2.path 5).rx) ∧ (dev2.merging = false))
        | _ => false) = true) ∧
    (dev3.flt.alarms = [] ∧ ((match (dev3.path 5).col with
        | r :: _ => decide (
            (dev3.st ≠ stDormant) ∧ (dev3.blockDown 0 = false) ∧ (r.pseq = (dev3.path 5).rx) ∧ (dev3.merging = true) ∧
              (dev3.ldg.chain = false ∨ r.nt = false ∧ 4096 * dev3.front ≤ r.full))
        | _ => false) = true)) ∧
    (dev4.flt.alarms = [] ∧ (match (dev4.path 5).col with
        | r :: _ => decide (
            (dev4.st ≠ stDormant) ∧ (dev4.blockDown 0 = false) ∧ (r.pseq = (dev4.path 5).rx) ∧ (dev4.merging = true) ∧
              (dev4.ldg.chain = true) ∧ (r.nt = true))
        | _ => false) = true) ∧
    (dev5.flt.alarms = [] ∧ (match (dev5.path 5).col with
        | r :: _ => decide (
            (dev5.st ≠ stDormant) ∧ (dev5.blockDown 0 = false) ∧ (r.pseq = (dev5.path 5).rx) ∧ (dev5.merging = true) ∧
              (dev5.ldg.chain = true) ∧ (r.nt = false) ∧ (r.full < 4096 * dev5.front))
        | _ => false) = true) ∧
    (dev6.ledgerWorks = false) ∧
    (q2.ledgerWorks = true) := by 
  refine ⟨?_, ?_, ?_, ?_, ?_, ?_, ?_, ?_⟩ <;> decide +kernel

theorem test_hyps_BlocksClose :
    ((q2.ledgerWorks = false ∨ q2.ldg.cur = []) ∧ q2.hostOpen LDG.CTRL.addr = true ∧ (q2.ldg.cur = [] ∨ q2.ldgFree ≠ 0 ∧
      q2.closing = 0) ∧ (q2.ldgRuns = false ∨ q2.ldg.closeDue = false ∨ q2.ldgFree = 0)) ∧
    (full.ledgerWorks = true ∧ full.ldg.cur ≠ [] ∧ full.ldgFree = 0 ∧ full.hostOpen LDG.CTRL.addr = true) ∧
    (cur.ledgerWorks = true ∧ cur.ldg.cur ≠ [] ∧ cur.ldgFree ≠ 0 ∧ (Dev.until (cur.ldg.curSince + usTclk * cur.get
      LDG.FLUSH_T) cur).closing ≠ 0 ∧ cur.hostOpen LDG.CTRL.addr = true ∧ cur.closing ≠ 0 ∧ (Dev.until (cur.ldg.lastTick +
      msTclk * cur.get LDG.SIGN_INTERVAL) cur).closing ≠ 0) ∧
    (dev7.ledgerWorks = true ∧ dev7.ldg.cur ≠ [] ∧ dev7.ldgFree ≠ 0 ∧ (Dev.until (dev7.ldg.curSince + usTclk * dev7.get
      LDG.FLUSH_T) dev7).closing = 0) ∧
    (dev8.ldgRuns = true ∧ dev8.ldg.closeDue = true ∧ dev8.ldgFree ≠ 0 ∧ dev8.ldg.cur ≠ [] ∧ dev8.ldg.own = [] ∧ dev8.on
      LDG.STATUS_SIGN_PENDING = false ∧ dev8.ldg.closeSign = false ∧ ∀ p, (dev8.tally p).count = 0) ∧
    (dev9.ledgerWorks = true ∧ ((match dev9.ldg.recent.getLast? with
        | some _ => decide (
            (dev9.ldg.cur = [] ∨ dev9.ldgFree ≠ 0 ∧ (Dev.until (dev9.ldg.lastTick + msTclk * dev9.get LDG.SIGN_INTERVAL)
              dev9).closing = 0))
        | _ => false) = true)) ∧
    (bootD.st = stBoot ∧ bootD.get GLB.STATE_STEP = 10) := by 
  exact ⟨by decide +kernel,
    by decide +kernel,
    by decide +kernel,
    by decide +kernel,
    by refine ⟨?_, ?_, ?_, ?_, ?_, ?_, ?_, fun _ => rfl⟩ <;> decide +kernel,
    by decide +kernel,
    by decide +kernel⟩

theorem test_hyps_SignaturesAndDelivery :
    (dev10.ledgerWorks = false) ∧
    (q2.ledgerWorks = true ∧ q2.on LDG.STATUS_SIGN_PENDING = false ∧ q2.ldg.signWait = none ∧ q2.hostOpen
      LDG.SIGN_INTERVAL.addr = true ∧ q2.flt.alarms = [] ∧ (q2.ldg.buffer = [] ∨ (q2.dramUp && q2.portFree 7 &&
      q2.ledgerRingRoom) = false) ∧ (q2.outOpen 8 = false ∨ q2.ldg.dring = [] ∧ (q2.ldg.buffer = [] ∨ q2.drcOos = false))) ∧
    (dev11.ledgerWorks = true ∧ dev11.on LDG.STATUS_SIGN_PENDING = false ∧ (match dev11.ldg.signWait with
        | some (_, _) => decide ((dev11.ldgFree = 0))
        | _ => false) = true) ∧
    (dev12.ledgerWorks = true ∧ dev12.on LDG.STATUS_SIGN_PENDING = false ∧ (match dev12.ldg.signWait with
        | some (_, _) => decide ((dev12.ldgFree ≠ 0))
        | _ => false) = true) ∧
    (dev13.ledgerWorks = true ∧ dev13.on LDG.STATUS_SIGN_PENDING = true ∧ dev13.ldgFree = 0) ∧
    (dev14.ledgerWorks = true ∧ dev14.on LDG.STATUS_SIGN_PENDING = true ∧ 2 ≤ dev14.ldgFree ∧ dev14.ldg.own = [] ∧
      dev14.ldg.cur ≠ [] ∧ dev14.get LDG.NEXT_BLOCK < 2 ^ 64 - 1 ∧ dev14.ldg.signed ≠ some (dev14.get LDG.NEXT_BLOCK) ∧
      (dev14.get GLB.OTP_STATUS_ROW_ERR).testBit 1 = false ∧ ∀ p, (dev14.tally p).count = 0) ∧
    ((match dev15.ldg.buffer with
        | _ :: _ => decide (
            (dev15.flt.alarms = []) ∧ ((dev15.dramUp && dev15.portFree 7 && dev15.ledgerRingRoom) = true) ∧ (∀ i < 64,
              dev15.dramAllowed 7 (dev15.ledgerSlotAt dev15.ldg.dring.length + 64 * i) = true) ∧ (0 ≤ 3))
        | _ => false) = true) ∧
    ((match dev15.ldg.buffer with
        | _ :: _ => decide (
            (dev15.flt.alarms = []) ∧ ((dev15.dramUp && dev15.portFree 7 && dev15.ledgerRingRoom) = true) ∧ (∀ i < 64,
              dev15.dramAllowed 7 (dev15.ledgerSlotAt dev15.ldg.dring.length + 64 * i) = true) ∧ (3 < 4) ∧ ((dev15.fec
              1).valid = false) ∧ (dev15.on FLT.REACT_OOS_FC0 = false))
        | _ => false) = true) ∧
    ((match dev16.ldg.dring with
        | _ :: _ => decide ((dev16.outOpen 8 = true))
        | _ => false) = true) ∧
    ((match dev17.ldg.buffer with
        | _ :: _ => decide (
            (dev17.outOpen 8 = true) ∧ (dev17.ldg.dring = []) ∧ (dev17.drcOos = true))
        | _ => false) = true) ∧
    ((match q2.ldg.sealSt with
        | .merging _ => false
        | _ => true) = true) ∧
    ((match dev18.ldg.sealSt with
        | SealStage.merging _ => decide ((dev18.ldgFree < 8))
        | _ => false) = true) ∧
    ((match dev19.ldg.sealSt with
        | SealStage.merging _ => decide ((8 ≤ dev19.ldgFree))
        | _ => false) = true ∧ (match dev19.ldg.sealSt with
        | SealStage.merging _ => true
        | _ => false) = true) := by 
  exact ⟨by decide +kernel,
    by decide +kernel,
    by decide +kernel,
    by decide +kernel,
    by decide +kernel,
    by refine ⟨?_, ?_, ?_, ?_, ?_, ?_, ?_, ?_, fun _ => rfl⟩ <;> decide +kernel,
    by decide +kernel,
    by decide +kernel,
    by decide +kernel,
    by decide +kernel,
    by decide +kernel,
    by decide +kernel,
    by decide +kernel⟩

end Ledger

/-! ### DRAM requests -/

namespace Requests

def q2 : Dev := ((((((up.put PLN.QUALITY_QUAL 2).put PLN.SYNC_CTRL_CHECK_EN 0).put DRC.STATUS_AVAIL 1).put DRC.STATUS_INIT_DONE 1).put DRC.STATUS_IN_SERVICE 15).put DRC.USABLE 0x10000000).put DRC.CONFIG_MAP 1
def rq (p : Nat) (w : Bool) (a seq : Nat) : DrcReq := let x := q2.decodeDram a; ⟨p, w, a, x.1, x.2.1, x.2.2.1, x.2.2.2, List.replicate 64 9, 1999990, seq, false⟩
def dw (_ : Nat) (f : DrcSt → DrcSt) : Dev := q2.modDrc fun c => f {c with debt := (List.range 64).map fun i => (i, (-190000, 2000000))}
def full (_ : Nat) : DrcSt → DrcSt := fun c => {c with writes := [(0, List.replicate 64 (rq 5 true 0x8000 1))]}
def dev1 : Dev := q2.put DRC.STATUS_AVAIL 0
def dev2 : Dev := dw 0 (fun c => {c with reads := [rq 0 false 0x1000 3]})
def dev3 : Dev := dw 0 (full 0)
def dev4 : Dev := dw 0 (fun c => {c with issued := [(4, [rq 4 false 0x1000 3]), (6, [rq 6 false 0x1000 3])]})

theorem test_hyps_DataAddressesHaveTheirOwnPlace :
    ((q2.put DRC.CONFIG_MAP 0).put DRC.STATUS_IN_SERVICE 1 : Dev).pairsIn ≠ [] ∧ 0 < ((q2.put DRC.CONFIG_MAP 0).put
      DRC.STATUS_IN_SERVICE 1 : Dev).usableBytes := by decide +kernel

theorem test_hyps_RequestsAndSlots :
    (q2.flt.alarms = [] ∧ ((q2.dramUp || q2.drc.retiring.isSome) && !(decide (0 ≤ 3) && true)) = false) ∧
    (q2.flt.alarms = [] ∧ ((q2.dramUp || q2.drc.retiring.isSome) && !(decide (0 ≤ 3) && false)) = true ∧ q2.dramAllowed 0
      (0x10000000 / 64 * 64) = false ∧ (q2.fec 1).valid = false ∧ q2.on FLT.REACT_OOS_FC0 = false) ∧
    (q2.flt.alarms = [] ∧ ((q2.dramUp || q2.drc.retiring.isSome) && !(decide (0 ≤ 3) && false)) = true ∧ q2.dramAllowed 0
      (0x1005 / 64 * 64) = true) ∧
    (dev1.slotRuns 0 = false) ∧
    ((withDev dev2).mem.wf = true ∧ dev2.slotRuns 1 = true ∧ (dev2.atSlot 1).choose 1 = none) ∧
    ((withDev q2).mem.wf = true ∧ q2.slotRuns 0 = true ∧ (match (q2.atSlot 0).choose 0 with
        | some (SlotAct.refresh _) => true
        | _ => false) = true) ∧
    ((withDev dev2).mem.wf = true ∧ dev2.slotRuns 0 = true ∧ (match (dev2.atSlot 0).choose 0 with
        | some (SlotAct.read _) => true
        | _ => false) = true) ∧
    ((withDev dev3).mem.wf = true ∧ dev3.slotRuns 0 = true ∧ (match (dev3.atSlot 0).choose 0 with
        | some (SlotAct.write w) => decide ((w.data.length = 64))
        | _ => false) = true) ∧
    (q2.flt.alarms = [] ∧ (fun d => Tab.get (fun _ => []) d.drc.issued 0) q2 = []) ∧
    (dev4.flt.alarms = [] ∧ (fun d => Tab.get (fun _ => []) d.drc.issued 4) dev4 ≠ []) ∧
    (0 < 16 ∧ 8 * (q2 : Dev).interval 0 < (q2 : Dev).debt 0 0) := by 
  refine ⟨?_, ?_, ?_, ?_, ?_, ?_, ?_, ?_, ?_, ?_, ?_⟩ <;> decide +kernel

end Requests

/-! ### DRAM care -/

namespace Dram

def q2 : Dev := ((((((up.put PLN.QUALITY_QUAL 2).put PLN.SYNC_CTRL_CHECK_EN 0).put DRC.STATUS_AVAIL 1).put DRC.STATUS_INIT_DONE 1).put DRC.STATUS_IN_SERVICE 15).put DRC.USABLE 0x10000000).put DRC.CONFIG_MAP 1
def dr (f : DrcSt → DrcSt) : Dev := q2.modDrc f
def T := true
def F := false
def rq (p : Nat) (w : Bool) (a seq : Nat) : DrcReq := let x := q2.decodeDram a; ⟨p, w, a, x.1, x.2.1, x.2.2.1, x.2.2.2, List.replicate 64 9, 1999990, seq, false⟩
def dev1 : Dev := dr (fun c => {c with selfRefresh := true})
def dev2 : Dev := q2.put DRC.STATUS_AVAIL 0
def dev3 : Dev := (dr fun c => {c with reads := [rq 0 false 0x1000 3]}).put DRC.CONFIG_PD_EN 1
def dev4 : Dev := q2.put DRC.STATUS_IN_SERVICE 3
def dev5 : Dev := (dr fun c => {c with retiring := some 1999000}).put DRC.STATUS_AVAIL 0
def dev6 : Dev := q2.modBlk 12 fun b => {b with state := 1}
def dev7 : Dev := q2.put DRC.CONFIG_PD_EN 1

theorem test_hyps_DramIsKept :
    ((dev1.pairsIn.contains 0 = false ∨ dev1.drc.selfRefresh = true)) ∧
    (q2.pairsIn.contains 0 = true ∧ q2.drc.selfRefresh = false ∧ q2.flt.alarms = [] ∧ (q2.dramUp && q2.pairsIn.contains 0 &&
      q2.drc.retiring.isNone && !q2.drc.selfRefresh) = true ∧ (((q2.drc.reads ++ q2.drc.ported ++ q2.writeQueue 0).any fun r
      => r.pair == 0 && (Dev.until ((Tab.get (fun _ => none) q2.drc.fChanged 0).getD (Tab.get (fun _ => 0) q2.drc.lastCheck
      0 + msTclk * q2.get DRC.VERIFY_PERIOD)) q2).ownUrgency r == 3) && decide ((Dev.until ((Tab.get (fun _ => none)
      q2.drc.fChanged 0).getD (Tab.get (fun _ => 0) q2.drc.lastCheck 0 + msTclk * q2.get DRC.VERIFY_PERIOD)) q2).elapsed <
      (Tab.get (fun _ => none) q2.drc.fChanged 0).getD (Tab.get (fun _ => 0) q2.drc.lastCheck 0 + msTclk * q2.get
      DRC.VERIFY_PERIOD) + 16000000)) = false ∧ (List.replicate 8 (T,T,T,T,T) : List (Bool × Bool × Bool × Bool ×
      Bool)).length = 8 ∧ ((List.range 8).all fun i => (laneCentre ((List.replicate 8 (T,T,T,T,T) : List (Bool × Bool × Bool
      × Bool × Bool)).getD i (false, false, false, false, false))).isSome && ((fun i => (laneCentre ((List.replicate 8
      (T,T,T,T,T) : List (Bool × Bool × Bool × Bool × Bool)).getD i (false, false, false, false, false))).getD 0 * ((q2.get
      DRC.VERIFY_W) : Int)) i == 0 || decide ((Tab.get (fun _ => 0) q2.drc.shift (8 * 0 + i) + (fun i => (laneCentre
      ((List.replicate 8 (T,T,T,T,T) : List (Bool × Bool × Bool × Bool × Bool)).getD i (false, false, false, false,
      false))).getD 0 * ((q2.get DRC.VERIFY_W) : Int)) i).natAbs ≤ 4 * (((q2.get DRC.VERIFY_W) : Int)).natAbs))) = true ∧
      ((q2.get DRC.VERIFY_W) : Int) ≠ 0 ∧ q2.drc.retiring = none ∧ (q2.dramUp && q2.pairsIn.contains 0 && decide ((fun x =>
      Tab.get (fun _ => 0) x.drc.front (16 * 0 + 0)) q2 < q2.dataRows)) = true ∧ (q2.dramUp && q2.drc.retiring.isNone &&
      !q2.drc.selfRefresh) = true ∧ q2.blockDown 12 = false ∧ q2.st ≠ stDormant ∧ (q2.on DRC.CONFIG_PD_EN && q2.dramUp &&
      q2.pairsIn.contains 0 && !q2.drc.selfRefresh && (q2.drc.reads ++ q2.drc.ported ++ q2.writeQueue 0).all fun r => r.pair
      != 0) = false) ∧
    (dev2.flt.alarms = [] ∧ (dev2.dramUp && dev2.pairsIn.contains 0 && dev2.drc.retiring.isNone && !dev2.drc.selfRefresh) =
      false ∧ (dev2.dramUp && dev2.pairsIn.contains 0 && decide ((fun x => Tab.get (fun _ => 0) x.drc.front (16 * 0 + 0))
      dev2 < dev2.dataRows)) = false ∧ (dev2.dramUp && dev2.drc.retiring.isNone && !dev2.drc.selfRefresh) = false) ∧
    (dev3.flt.alarms = [] ∧ (dev3.dramUp && dev3.pairsIn.contains 0 && dev3.drc.retiring.isNone && !dev3.drc.selfRefresh) =
      true ∧ (((dev3.drc.reads ++ dev3.drc.ported ++ dev3.writeQueue 0).any fun r => r.pair == 0 && (Dev.until ((Tab.get
      (fun _ => none) dev3.drc.fChanged 0).getD (Tab.get (fun _ => 0) dev3.drc.lastCheck 0 + msTclk * dev3.get
      DRC.VERIFY_PERIOD)) dev3).ownUrgency r == 3) && decide ((Dev.until ((Tab.get (fun _ => none) dev3.drc.fChanged 0).getD
      (Tab.get (fun _ => 0) dev3.drc.lastCheck 0 + msTclk * dev3.get DRC.VERIFY_PERIOD)) dev3).elapsed < (Tab.get (fun _ =>
      none) dev3.drc.fChanged 0).getD (Tab.get (fun _ => 0) dev3.drc.lastCheck 0 + msTclk * dev3.get DRC.VERIFY_PERIOD) +
      16000000)) = true) ∧
    (q2.flt.alarms = [] ∧ (q2.dramUp && q2.pairsIn.contains 0 && q2.drc.retiring.isNone && !q2.drc.selfRefresh) = true ∧
      (((q2.drc.reads ++ q2.drc.ported ++ q2.writeQueue 0).any fun r => r.pair == 0 && (Dev.until ((Tab.get (fun _ => none)
      q2.drc.fChanged 0).getD (Tab.get (fun _ => 0) q2.drc.lastCheck 0 + msTclk * q2.get DRC.VERIFY_PERIOD)) q2).ownUrgency
      r == 3) && decide ((Dev.until ((Tab.get (fun _ => none) q2.drc.fChanged 0).getD (Tab.get (fun _ => 0) q2.drc.lastCheck
      0 + msTclk * q2.get DRC.VERIFY_PERIOD)) q2).elapsed < (Tab.get (fun _ => none) q2.drc.fChanged 0).getD (Tab.get (fun _
      => 0) q2.drc.lastCheck 0 + msTclk * q2.get DRC.VERIFY_PERIOD) + 16000000)) = false ∧ (List.replicate 5 (T,T,T,T,T) ++
      [(F,F,F,F,F)] ++ List.replicate 2 (T,T,T,T,T) : List (Bool × Bool × Bool × Bool × Bool)).length = 8 ∧ ((List.range
      8).all fun i => (laneCentre ((List.replicate 5 (T,T,T,T,T) ++ [(F,F,F,F,F)] ++ List.replicate 2 (T,T,T,T,T) : List
      (Bool × Bool × Bool × Bool × Bool)).getD i (false, false, false, false, false))).isSome && ((fun i => (laneCentre
      ((List.replicate 5 (T,T,T,T,T) ++ [(F,F,F,F,F)] ++ List.replicate 2 (T,T,T,T,T) : List (Bool × Bool × Bool × Bool ×
      Bool)).getD i (false, false, false, false, false))).getD 0 * ((q2.get DRC.VERIFY_W) : Int)) i == 0 || decide ((Tab.get
      (fun _ => 0) q2.drc.shift (8 * 0 + i) + (fun i => (laneCentre ((List.replicate 5 (T,T,T,T,T) ++ [(F,F,F,F,F)] ++
      List.replicate 2 (T,T,T,T,T) : List (Bool × Bool × Bool × Bool × Bool)).getD i (false, false, false, false,
      false))).getD 0 * ((q2.get DRC.VERIFY_W) : Int)) i).natAbs ≤ 4 * (((q2.get DRC.VERIFY_W) : Int)).natAbs))) = false ∧
      ((q2.get DRC.VERIFY_W) : Int) ≠ 0 ∧ 2 < q2.pairsIn.length) ∧
    (dev4.flt.alarms = [] ∧ (dev4.dramUp && dev4.pairsIn.contains 0 && dev4.drc.retiring.isNone && !dev4.drc.selfRefresh) =
      true ∧ (((dev4.drc.reads ++ dev4.drc.ported ++ dev4.writeQueue 0).any fun r => r.pair == 0 && (Dev.until ((Tab.get
      (fun _ => none) dev4.drc.fChanged 0).getD (Tab.get (fun _ => 0) dev4.drc.lastCheck 0 + msTclk * dev4.get
      DRC.VERIFY_PERIOD)) dev4).ownUrgency r == 3) && decide ((Dev.until ((Tab.get (fun _ => none) dev4.drc.fChanged 0).getD
      (Tab.get (fun _ => 0) dev4.drc.lastCheck 0 + msTclk * dev4.get DRC.VERIFY_PERIOD)) dev4).elapsed < (Tab.get (fun _ =>
      none) dev4.drc.fChanged 0).getD (Tab.get (fun _ => 0) dev4.drc.lastCheck 0 + msTclk * dev4.get DRC.VERIFY_PERIOD) +
      16000000)) = false ∧ (List.replicate 5 (T,T,T,T,T) ++ [(F,F,F,F,F)] ++ List.replicate 2 (T,T,T,T,T) : List (Bool ×
      Bool × Bool × Bool × Bool)).length = 8 ∧ ((List.range 8).all fun i => (laneCentre ((List.replicate 5 (T,T,T,T,T) ++
      [(F,F,F,F,F)] ++ List.replicate 2 (T,T,T,T,T) : List (Bool × Bool × Bool × Bool × Bool)).getD i (false, false, false,
      false, false))).isSome && ((fun i => (laneCentre ((List.replicate 5 (T,T,T,T,T) ++ [(F,F,F,F,F)] ++ List.replicate 2
      (T,T,T,T,T) : List (Bool × Bool × Bool × Bool × Bool)).getD i (false, false, false, false, false))).getD 0 *
      ((dev4.get DRC.VERIFY_W) : Int)) i == 0 || decide ((Tab.get (fun _ => 0) dev4.drc.shift (8 * 0 + i) + (fun i =>
      (laneCentre ((List.replicate 5 (T,T,T,T,T) ++ [(F,F,F,F,F)] ++ List.replicate 2 (T,T,T,T,T) : List (Bool × Bool × Bool
      × Bool × Bool)).getD i (false, false, false, false, false))).getD 0 * ((dev4.get DRC.VERIFY_W) : Int)) i).natAbs ≤ 4 *
      (((dev4.get DRC.VERIFY_W) : Int)).natAbs))) = false ∧ ((dev4.get DRC.VERIFY_W) : Int) ≠ 0 ∧ dev4.pairsIn.length ≤ 2) ∧
    ((match dev5.drc.retiring with
        | some _ => decide ((dev5.flt.alarms = []))
        | _ => false) = true) ∧
    (dev6.flt.alarms = [] ∧ (dev6.blockDown 12 = true ∨ dev6.st = stDormant)) ∧
    ((dev7.on DRC.CONFIG_PD_EN && dev7.dramUp && dev7.pairsIn.contains 0 && !dev7.drc.selfRefresh && (dev7.drc.reads ++
      dev7.drc.ported ++ dev7.writeQueue 0).all fun r => r.pair != 0) = true) := by 
  refine ⟨?_, ?_, ?_, ?_, ?_, ?_, ?_, ?_, ?_⟩ <;> decide +kernel

end Dram

/-! ### Codewords -/

namespace Codewords

def q2 : Dev := ((((((up.put PLN.QUALITY_QUAL 2).put PLN.SYNC_CTRL_CHECK_EN 0).put DRC.STATUS_AVAIL 1).put DRC.STATUS_INIT_DONE 1).put DRC.STATUS_IN_SERVICE 15).put DRC.USABLE 0x10000000).put DRC.CONFIG_MAP 1
def st (d : Dev) (p : List Instr) (f : Mem → Mem) : State := { withDev d with pending := p, mem := f State.reset.mem }
def st1 : State := st q2 [.supplyOutOfRange .powerOnReset] fun m => m.writeDram 5 [1,2,3]

theorem test_hyps_CodewordsAreKept :
    (0 < 8) ∧
    (([] : List Byte).length = ([] : List Byte).length) ∧
    ((State.reset.mem : Mem).wf = true ∧ ((sramOver 0 ([1] : List Byte).length).any fun _ => true) = true) ∧
    ((State.reset.mem : Mem).wf = true ∧ (∀ c ∈ sramOver 0 ([] : List Byte).length, c.num ≠ 0)) ∧
    (State.reset.Inv ∧ State.reset.mem.DramCoded ∧ ∃ t, step State.reset = .next t) := by 
  exact ⟨by decide +kernel,
    by decide +kernel,
    by decide +kernel,
    by decide +kernel,
    by exact ⟨by unfold State.Inv; decide +kernel, reset_dramCoded, _, rfl⟩⟩

end Codewords

/-! ### Tokens -/

namespace Tokens

def q2 : Dev := ((((((up.put PLN.QUALITY_QUAL 2).put PLN.SYNC_CTRL_CHECK_EN 0).put DRC.STATUS_AVAIL 1).put DRC.STATUS_INIT_DONE 1).put DRC.STATUS_IN_SERVICE 15).put DRC.USABLE 0x10000000).put DRC.CONFIG_MAP 1
def rec0 (c : Nat) (p : Nat) (nt : Bool := false) : Rec := ⟨c, 5, 2, nt, false, 0x10, 0, p, [1,2,3], 0, (0,0,0)⟩
def t1 : TokSt := (TokSt.reset.take 4 5 3).take 0 1 2
def drq : DrcReq := ⟨5, true, 0, 0, 0, 0, 0, List.replicate 64 9, 1999990, 1, false⟩
def dev1 : Dev := q2.setPath 5 {PathQ.reset with pend := [rec0 5 5, rec0 6 5], pseq := 3}
def dev2 : Dev := (q2.modPin 0 fun p => {p with queue := [⟨[1,2], 5⟩]}).put (PINB.STAMP_CFG 0) 1
def dev3 : Dev := q2.modDrc fun c => {c with ported := [drq]}
def dev4 : Dev := {q2 with tok := {t1 with round := some ([(4, 9)], [(128, (3,3))])}}
def dev5 : Dev := {q2 with tok := {t1 with round := some ([(4, 9)], [(128, (3,4))])}}

theorem test_hyps_GrantsKeepReserves :
    0 < 7 ∧ 0 ∈ poolHolders 0 ∧ (.reset : TokSt).sums 0 = true ∧ (.reset : TokSt).setAside 0 ≤ (.reset : TokSt).freeOf 0 ∧
      (.reset : TokSt).mayTake 0 0 0 = true ∧ (.reset : TokSt).outOf 0 0 ≤ poolCap 0 ∧ (0, 1) ≠ (0, 0) ∧ 1 < 128 ∧ 0 ≤
      (.reset : TokSt).outOf 0 0 := by decide +kernel

theorem test_hyps_TokensAreGrantedAndAudited :
    ((q2.wants 0 0 != 0 && (poolHolders 0).contains 0 && q2.mayTake 0 0 (q2.wants 0 0) && !q2.outranked 0 0) = false) ∧
    ((dev1.wants 4 5 != 0 && (poolHolders 4).contains 5 && dev1.mayTake 4 5 (dev1.wants 4 5) && !dev1.outranked 4 5) = true
      ∧ (match (dev1.path 5).pend with
        | _ :: _ => decide ((4 = 4))
        | _ => false) = true) ∧
    ((dev2.wants 2 0 != 0 && (poolHolders 2).contains 0 && dev2.mayTake 2 0 (dev2.wants 2 0) && !dev2.outranked 2 0) = true
      ∧ 2 = 2 ∧ (dev2.bank 0).buffer.length < 1024) ∧
    ((dev3.wants 5 1 != 0 && (poolHolders 5).contains 1 && dev3.mayTake 5 1 (dev3.wants 5 1) && !dev3.outranked 5 1) = true
      ∧ (match dev3.drc.ported with
        | w :: rest => decide (
            (rest = []) ∧ (5 = 5) ∧ ((dev3.writeQueue w.pair).length < 64))
        | _ => false) = true) ∧
    (q2.flt.alarms = [] ∧ ((List.range 7).all fun p => q2.aqDrain.tok.sums p && !q2.tok.auditBad.testBit p) = true ∧ false =
      false) ∧
    (q2.flt.alarms = [] ∧ (((List.range 7).all fun p => q2.aqDrain.tok.sums p && !q2.tok.auditBad.testBit p) = false ∨ true
      = true) ∧ q2.flt.fc0 = none) ∧
    ((dev4.st = stDormant ∨ dev4.tok.round.isSome = true) ∧ (match dev4.tok.round with
        | some (_, outs) => decide (
            (dev4.flt.alarms = []) ∧ ((List.all outs fun x => x.2.1 == x.2.2) = true))
        | _ => false) = true) ∧
    (q2.st ≠ stDormant ∧ q2.tok.round = none ∧ q2.flt.alarms = []) ∧
    ((match dev5.tok.round with
        | some (_, outs) => decide (
            (dev5.flt.alarms = []) ∧ ((List.all outs fun x => x.2.1 == x.2.2) = false) ∧ ((List.all outs fun x => decide
              (x.1 / 128 < 7)) = true) ∧ (dev5.flt.fc0 = none))
        | _ => false) = true) ∧
    (q2.hostOpen TOK.CTRL.addr = true) := by 
  refine ⟨?_, ?_, ?_, ?_, ?_, ?_, ?_, ?_, ?_, ?_⟩ <;> decide +kernel

end Tokens

/-! ### Grave faults -/

namespace Grave

def q2 : Dev := ((((((up.put PLN.QUALITY_QUAL 2).put PLN.SYNC_CTRL_CHECK_EN 0).put DRC.STATUS_AVAIL 1).put DRC.STATUS_INIT_DONE 1).put DRC.STATUS_IN_SERVICE 15).put DRC.USABLE 0x10000000).put DRC.CONFIG_MAP 1
def run3 : Dev := (q2.put (SEQ.STATUS_STATE 0) 2).put (SEQ.STATUS_STATE 1) 1
def dev1 : Dev := {run3 with flt := {run3.flt with fc0 := some (3, 999)}}

theorem test_hyps_GraveFaultsAreHeld :
    (q2.flt.alarms = [] ∧ (0 = 0 ∨ 7 < 0)) ∧
    (q2.flt.alarms = [] ∧ 1 ≤ 3 ∧ 3 ≤ 7) ∧
    (q2.flt.alarms = [] ∧ (q2.flt.fc0 = none ∨ q2.flt.safeHold = true)) ∧
    (dev1.flt.alarms = [] ∧ dev1.flt.fc0 ≠ none ∧ dev1.flt.safeHold = false) := by 
  refine ⟨?_, ?_, ?_, ?_⟩ <;> decide +kernel

end Grave

/-! ### Blocks -/

namespace Blocks

def q2 : Dev := ((((((up.put PLN.QUALITY_QUAL 2).put PLN.SYNC_CTRL_CHECK_EN 0).put DRC.STATUS_AVAIL 1).put DRC.STATUS_INIT_DONE 1).put DRC.STATUS_IN_SERVICE 15).put DRC.USABLE 0x10000000).put DRC.CONFIG_MAP 1
def bk (b : Nat) (f : BlkRt → BlkRt) (d : Dev := q2) : Dev := d.modBlk b f
def run3 : Dev := (q2.put (SEQ.STATUS_STATE 0) 2).put (SEQ.STATUS_STATE 1) 1
def dev1 : Dev := run3.put FLT.REACT_LINK_FC0 1
def dev2 : Dev := bk 1 (fun r => {r with state := 1, deps := [3,0x10]})
def dev3 : Dev := bk 1 fun r => {r with state := 3}
def dev4 : Dev := bk 1 fun r => {r with state := 2, quietFrom := 1999000, recovs := [1998000]}
def dev5 : Dev := bk 1 fun r => {r with resetEnd := some 1999000, deps := [3]}
def dev6 : Dev := (bk 8 fun r => {r with state := 0, recovs := List.replicate 20 1999999}).put FLT.REACT_OOS_FC0 1

theorem test_hyps_BlocksResetAndRecover :
    (q2.flt.alarms = [] ∧ (0 < 4097 ∨ 4106 < 0)) ∧
    (q2.flt.alarms = [] ∧ 4097 ≤ 0x1001 ∧ 0x1001 ≤ 4106 ∧ (q2.on FLT.REACT_LINK_FC0 && (0x1001 : BitVec 16) == 4101 || q2.on
      FLT.REACT_OOS_FC0 && q2.atLimit 0 && !q2.shadowed 0 0x1001) = false ∧ (q2.fec 1).valid = false ∧ hasFc1 0 = true ∧
      q2.flt.fc0 = none ∧ q2.shadowed 0 0x1001 = false ∧ (0x1001 : BitVec 16) ≠ 4102 ∧ ((q2.blk 0).state = 0 ∨ (q2.blk
      0).state = 2)) ∧
    (q2.flt.alarms = [] ∧ 4097 ≤ 0x1001 ∧ 0x1001 ≤ 4106 ∧ (q2.shadowed 6 0x1001 = true ∧ (q2.on FLT.REACT_LINK_FC0 &&
      (0x1001 : BitVec 16) == 4101) = false ∨ hasFc1 6 = false ∧ (q2.on FLT.REACT_LINK_FC0 && (0x1001 : BitVec 16) == 4101
      || q2.on FLT.REACT_OOS_FC0 && q2.atLimit 6 && !q2.shadowed 6 0x1001) = false ∧ q2.flt.fc0 = none ∨ q2.flt.fc0.isSome =
      true)) ∧
    (dev1.flt.alarms = [] ∧ 4097 ≤ 0x1005 ∧ 0x1005 ≤ 4106 ∧ (dev1.on FLT.REACT_LINK_FC0 && (0x1005 : BitVec 16) == 4101 ||
      dev1.on FLT.REACT_OOS_FC0 && dev1.atLimit 0 && !dev1.shadowed 0 0x1005) = true ∧ dev1.shadowed 0 0x1005 = false ∧
      dev1.flt.fc0 = none) ∧
    (q2.flt.alarms = [] ∧ 4097 ≤ 0x1006 ∧ 0x1006 ≤ 4106 ∧ hasFc1 0 = true ∧ q2.flt.fc0 = none ∧ q2.shadowed 0 0x1006 = false
      ∧ (q2.on FLT.REACT_LINK_FC0 && (0x1006 : BitVec 16) == 4101 || q2.on FLT.REACT_OOS_FC0 && q2.atLimit 0 && !q2.shadowed
      0 0x1006) = false ∧ (0x1006 : BitVec 16) = 4102 ∧ q2.on GOV.STATE_THERM_HOLD = false) ∧
    (dev2.flt.alarms = [] ∧ 4097 ≤ 0x1001 ∧ 0x1001 ≤ 4106 ∧ hasFc1 1 = true ∧ dev2.flt.fc0 = none ∧ dev2.shadowed 1 0x1001 =
      false ∧ (dev2.on FLT.REACT_LINK_FC0 && (0x1001 : BitVec 16) == 4101 || dev2.on FLT.REACT_OOS_FC0 && dev2.atLimit 1 &&
      !dev2.shadowed 1 0x1001) = false ∧ (0x1001 : BitVec 16) ≠ 4102 ∧ (dev2.blk 1).state = 1) ∧
    (dev3.flt.alarms = [] ∧ 4097 ≤ 0x1001 ∧ 0x1001 ≤ 4106 ∧ hasFc1 1 = true ∧ dev3.flt.fc0 = none ∧ dev3.shadowed 1 0x1001 =
      false ∧ (dev3.on FLT.REACT_LINK_FC0 && (0x1001 : BitVec 16) == 4101 || dev3.on FLT.REACT_OOS_FC0 && dev3.atLimit 1 &&
      !dev3.shadowed 1 0x1001) = false ∧ (0x1001 : BitVec 16) ≠ 4102 ∧ (dev3.blk 1).state = 3) ∧
    (((q2.blk 0).state ≠ 1 ∨ (0 == 1 && !q2.on PLN.QUALITY_PLLT_LOCK || 0 == 7 && !q2.on HDMA.LINK_STATUS_L0 || 0 == 8 &&
      q2.drc.retiring.isSome) = true ∨ q2.flt.fc0.isSome = true) ∧ ((q2.blk 0).state ≠ 2 ∨ q2.flt.fc0.isSome = true) ∧
      (q2.blk 0).recovs = []) ∧
    (dev2.flt.alarms = [] ∧ (dev2.blk 1).state = 1 ∧ (1 == 1 && !dev2.on PLN.QUALITY_PLLT_LOCK || 1 == 7 && !dev2.on
      HDMA.LINK_STATUS_L0 || 1 == 8 && dev2.drc.retiring.isSome) = false ∧ dev2.flt.fc0 = none) ∧
    ((dev4.blk 1).state = 2 ∧ dev4.flt.fc0 = none) ∧
    ((q2.blk 0).resetEnd = none) ∧
    ((match (dev5.blk 1).resetEnd with
        | some _ => decide (
            (dev5.flt.alarms = []) ∧ ((([] : List (Byte × BitVec 16)).all fun y => !(dev5.blk 1).deps.contains y.1.toNat) =
              true))
        | _ => false) = true) ∧
    ((match (dev5.blk 1).resetEnd with
        | some _ => decide (
            (dev5.flt.alarms = []) ∧ (match ([(3, 0x1001)] : List (Byte × BitVec 16)) with
                | y :: rest => decide (
                    (rest = []) ∧ (BitVec.toNat y.1 ∈ (dev5.blk 1).deps) ∧ (dev5.on FLT.REACT_LINK_FC0 = false) ∧ (dev5.on
                      FLT.REACT_OOS_FC0 = false) ∧ (y.2.toNat < 16384))
                | _ => false) = true)
        | _ => false) = true) ∧
    ((dev6.blk 8).recovs ≠ []) := by 
  refine ⟨?_, ?_, ?_, ?_, ?_, ?_, ?_, ?_, ?_, ?_, ?_, ?_, ?_, ?_⟩ <;> decide +kernel

end Blocks

/-! ### Captures and the governor -/

namespace Governor

def q2 : Dev := ((((((up.put PLN.QUALITY_QUAL 2).put PLN.SYNC_CTRL_CHECK_EN 0).put DRC.STATUS_AVAIL 1).put DRC.STATUS_INIT_DONE 1).put DRC.STATUS_IN_SERVICE 15).put DRC.USABLE 0x10000000).put DRC.CONFIG_MAP 1
def dev1 : Dev := q2.put FLT.STATUS_FACTORY 1
def dev2 : Dev := {(q2.put GOV.STATE_THERM_HOLD 1) with gov := {q2.gov with coolFrom := some 1990000}}

theorem test_hyps_CapturesAndGovernor :
    (q2.hostOpen (FLT.FEC_CTRL_VALID 0).addr = true) ∧
    (q2.hostOpen FLT.INJECT_GO.addr = true ∧ q2.gdPending 2 = none ∧ q2.flt.alarms = [] ∧ q2.on FLT.STATUS_FACTORY = false) ∧
    (dev1.hostOpen FLT.INJECT_GO.addr = true ∧ dev1.gdPending 2 = none ∧ dev1.flt.alarms = [] ∧ dev1.on FLT.STATUS_FACTORY =
      true ∧ (detectorListed 0 = false ∨ 0 / 4096 = 3)) ∧
    (dev1.hostOpen FLT.INJECT_GO.addr = true ∧ dev1.gdPending 2 = none ∧ dev1.flt.alarms = [] ∧ dev1.on FLT.STATUS_FACTORY =
      true ∧ detectorListed 3 = true ∧ dev1.flt.fc0 = none ∧ dev1.shadowed 0 3 = false ∧ dev1.on FLT.REACT_LINK_FC0 = false
      ∧ dev1.on FLT.REACT_OOS_FC0 = false ∧ 3 / 4096 = 0) ∧
    (dev1.hostOpen FLT.INJECT_GO.addr = true ∧ dev1.gdPending 2 = none ∧ dev1.flt.alarms = [] ∧ dev1.on FLT.STATUS_FACTORY =
      true ∧ detectorListed 0x1001 = true ∧ dev1.flt.fc0 = none ∧ dev1.shadowed 0 0x1001 = false ∧ dev1.on
      FLT.REACT_LINK_FC0 = false ∧ dev1.on FLT.REACT_OOS_FC0 = false ∧ 0x1001 / 4096 = 1 ∧ hasFc1 0 = true ∧ (0x1001 :
      BitVec 16) ≠ 4102 ∧ (dev1.blk 0).state = 0 ∧ dev1.atLimit 0 = false ∧ (0x1001 / 4096 = 1 ∨ 0x1001 / 4096 = 2) ∧
      (dev1.fec (0x1001 / 4096)).valid = false) ∧
    (q2.flt.alarms = [] ∧ (q2.gov.coolFrom = none ∨ q2.on GOV.STATE_THERM_HOLD = false ∨ q2.gov.permanent = true ∨
      q2.flt.fc0.isSome = true)) ∧
    ((match dev2.gov.coolFrom with
        | some _ => decide (
            (dev2.flt.alarms = []) ∧ (dev2.on GOV.STATE_THERM_HOLD = true) ∧ (dev2.gov.permanent = false) ∧ (dev2.flt.fc0 =
              none))
        | _ => false) = true) := by 
  refine ⟨?_, ?_, ?_, ?_, ?_, ?_, ?_⟩ <;> decide +kernel

end Governor

/-! ### Rings -/

namespace Rings

def q2 : Dev := (((((((up.put PLN.QUALITY_QUAL 2).put PLN.SYNC_CTRL_CHECK_EN 0).put DRC.STATUS_AVAIL 1).put DRC.STATUS_INIT_DONE 1).put DRC.STATUS_IN_SERVICE 15).put DRC.USABLE 0x10000000).put DRC.CONFIG_MAP 1).modLdg fun l => {l with chain := true}
def rg (r : Nat) : Dev := ((q2.put (HDMA.RING_CTRL_EN r) 1).put (HDMA.RING_SIZE r) 16).put (HDMA.RING_HOST_PTR r) 3
def dor : Dev := (q2.put GLB.STATE_STATE stDormant).put GLB.WAKE_CFG_DB_EN 1
def dev1 : Dev := rg 2 |>.modHost (fun h => {h with wbDue := 4, memEn := false})
def dev2 : Dev := { rg 8 with flt := { q2.flt with safeHold := true } }
def dev3 : Dev := rg 0
def dev4 : Dev := (rg 3).put (HDMA.RING_STATUS_HOST_ERR 3) 1

theorem test_hyps_DoorbellsAndRings :
    (dev1.host.memEn = false) ∧
    (dev2.host.memEn = true ∧ dev2.flt.safeHold = true ∧ (0 ≠ 32768 ∨ (3 : BitVec 4) ≠ 15) ∧ (dev2.st = stDormant → (3 :
      BitVec 4) ≠ 15 ∨ 0 % 4096 ≠ 0)) ∧
    (q2.host.memEn = true ∧ q2.flt.safeHold = false ∧ ((3 : BitVec 4) ≠ 15 ∨ 0 % 4096 ≠ 0 ∨ 32768 < 0)) ∧
    (dev3.host.memEn = true ∧ (0 = 4096 * 0 ∧ (0xf : BitVec 4) = 15) ∧ dev3.st ≠ stDormant ∧ (dev3.flt.safeHold = false ∨ 0
      = 8) ∧ dev3.bellOk 0 3 = true) ∧
    (q2.host.memEn = true ∧ (0 = 4096 * 0 ∧ (0xf : BitVec 4) = 15) ∧ q2.st ≠ stDormant ∧ (q2.flt.safeHold = false ∨ 0 = 8) ∧
      q2.bellOk 0 3 = false) ∧
    (dor.host.memEn = true ∧ (0 = 4096 * 0 ∧ (0xf : BitVec 4) = 15) ∧ dor.st = stDormant) ∧
    (dev1.hostOpen (HDMA.RING_CTRL_EN 0).addr = false ∧ (([Instr.ringEnable (0 : Sys2Proof.Ring), Instr.ringDisable (0 :
      Sys2Proof.Ring), Instr.skip (0 : Sys2Proof.Ring), Instr.retry (0 : Sys2Proof.Ring)]).any fun _ => true) = true) ∧
    (dev3.hostOpen (HDMA.RING_CTRL_EN 0).addr = true ∧ dev3.gdPending 7 = none ∧ dev3.on (HDMA.RING_CTRL_EN 0) = true ∧
      (([Instr.completionTimeout (0 : Sys2Proof.Ring), Instr.completionReceived (0 : Sys2Proof.Ring) CplStatus.unsupported,
      Instr.completionReceived (0 : Sys2Proof.Ring) CplStatus.aborted, Instr.completionReceived (0 : Sys2Proof.Ring)
      CplStatus.poisoned]).any fun _ => decide ((0 < 5) ∧ (dev3.on (HDMA.RING_CTRL_EN 0) = true))) = true) ∧
    (q2.hostOpen (HDMA.RING_CTRL_EN 0).addr = true ∧ q2.gdPending 7 = none ∧ q2.on (HDMA.RING_CTRL_EN 0) = false ∧ (0 < 4 ∧
      q2.engState 0 = seqIdle ∨ 0 = 4 ∧ ∀ n < 4, q2.engState n ≠ seqLoading) ∧ (¬(q2.on (HDMA.RING_STATUS_HOST_ERR 0) = true
      ∨ 0 = 4 ∧ q2.on (HDMA.RING_STATUS_DESC_ERR 0) = true)) ∧ (q2.host.wbDue.testBit 0 = false ∨ q2.hdmaRuns = false) ∧
      ((([Instr.completionTimeout (0 : Sys2Proof.Ring), Instr.completionReceived (0 : Sys2Proof.Ring) CplStatus.unsupported,
      Instr.completionReceived (0 : Sys2Proof.Ring) CplStatus.aborted, Instr.completionReceived (0 : Sys2Proof.Ring)
      CplStatus.poisoned]).any fun _ => decide ((5 ≤ 0 ∨ q2.on (HDMA.RING_CTRL_EN 0) = false))) = true)) ∧
    (q2.hostOpen (HDMA.RING_CTRL_EN 5).addr = true ∧ q2.gdPending 7 = none ∧ (¬(5 < 4 ∧ q2.engState 5 = seqIdle ∨ 5 = 4 ∧ ∀
      n < 4, q2.engState n ≠ seqLoading))) ∧
    (dev4.hostOpen (HDMA.RING_CTRL_EN 3).addr = true ∧ dev4.gdPending 7 = none ∧ (dev4.on (HDMA.RING_STATUS_HOST_ERR 3) =
      true ∨ 3 = 4 ∧ dev4.on (HDMA.RING_STATUS_DESC_ERR 3) = true)) ∧
    (dev1.host.wbDue.testBit 2 = true ∧ dev1.hdmaRuns = true) := by 
  refine ⟨?_, ?_, ?_, ?_, ?_, ?_, ?_, ?_, ?_, ?_, ?_, ?_⟩ <;> decide +kernel

end Rings

/-! ### Loads -/

namespace Loads

def q2 : Dev := (((((((up.put PLN.QUALITY_QUAL 2).put PLN.SYNC_CTRL_CHECK_EN 0).put DRC.STATUS_AVAIL 1).put DRC.STATUS_INIT_DONE 1).put DRC.STATUS_IN_SERVICE 15).put DRC.USABLE 0x10000000).put DRC.CONFIG_MAP 1).modLdg fun l => {l with chain := true}
def rg (r : Nat) : Dev := ((q2.put (HDMA.RING_CTRL_EN r) 1).put (HDMA.RING_SIZE r) 16).put (HDMA.RING_HOST_PTR r) 3
def ld (typ : Nat) (a c : Nat) (last : Bool) (id : Nat) (seq : Nat := 0): LoadDesc := ⟨0x1000, BitVec.ofNat 48 a, BitVec.ofNat 8 (typ + 16 * bit last), BitVec.ofNat 32 c, BitVec.ofNat 32 seq, BitVec.ofNat 64 id⟩
def rg4 : Dev := ((rg 4).put (SEQ.CACHE_PART_P_BASE 0) 1).put (SEQ.CACHE_PART_P_GRAN 0) 1
def dev1 : Dev := rg4.put (SEQ.STATUS_STATE 0) seqRunning
def dev2 : Dev := (rg4.put DRC.CONFIG_MAP 3).put (DRC.MAP3_PORT 4) 0
def dev3 : Dev := rg4.put DRC.STATUS_AVAIL 0

theorem test_hyps_LoadsAreCarriedOut :
    ((withDev q2).mem.wf = true ∧ q2.flt.alarms = [] ∧ (([(Instr.program (ld 0 7 2 false 0 : LoadDesc) ([5, BitVec.allOnes
      176] : List (BitVec 176)), 0), (Instr.pinned (ld 0 7 2 false 0 : LoadDesc) ((List.range 300).map (BitVec.ofNat 8) :
      List Byte), 1), (Instr.dramWrite (ld 0 7 2 false 0 : LoadDesc) ((List.range 300).map (BitVec.ofNat 8) : List Byte)
      false, 2), (Instr.dramRead (ld 0 7 2 false 0 : LoadDesc) ([] : List Nat), 3)]).any fun i => decide (((q2.hdmaRuns &&
      q2.ringLive 4 && decide (0 < q2.ringCount 4) && q2.mayTake 6 4 1 && loadType (ld 0 7 2 false 0 : LoadDesc) == i.2) =
      false))) = true) ∧
    ((withDev rg4).mem.wf = true ∧ rg4.flt.alarms = [] ∧ (([(Instr.program (ld 3 0x100 2 false 0 7 : LoadDesc) ([5,
      BitVec.allOnes 176] : List (BitVec 176)), 0), (Instr.pinned (ld 3 0x100 2 false 0 7 : LoadDesc) ((List.range 300).map
      (BitVec.ofNat 8) : List Byte), 1), (Instr.dramWrite (ld 3 0x100 2 false 0 7 : LoadDesc) ((List.range 300).map
      (BitVec.ofNat 8) : List Byte) false, 2), (Instr.dramRead (ld 3 0x100 2 false 0 7 : LoadDesc) ([] : List Nat), 3)]).any
      fun i => decide (((rg4.hdmaRuns && rg4.ringLive 4 && decide (0 < rg4.ringCount 4) && rg4.mayTake 6 4 1 && loadType (ld
      3 0x100 2 false 0 7 : LoadDesc) == i.2) = true) ∧ (rg4.loadCond (ld 3 0x100 2 false 0 7 : LoadDesc) ≠ 0))) = true) ∧
    ((withDev dev1).mem.wf = true ∧ dev1.flt.alarms = [] ∧ dev1.Loads 0 (ld 0 7 2 false 0 : LoadDesc) ∧ ((dev1.eng (loadEng
      (ld 0 7 2 false 0 : LoadDesc))).loadRefused || !(dev1.eng (loadEng (ld 0 7 2 false 0 : LoadDesc))).loading &&
      dev1.engState (loadEng (ld 0 7 2 false 0 : LoadDesc)) != seqIdle) = true) ∧
    ((withDev rg4).mem.wf = true ∧ rg4.flt.alarms = [] ∧ rg4.Loads 0 (ld 0 7 2 false 0 : LoadDesc) ∧ ((rg4.eng (loadEng (ld
      0 7 2 false 0 : LoadDesc))).loadRefused || !(rg4.eng (loadEng (ld 0 7 2 false 0 : LoadDesc))).loading && rg4.engState
      (loadEng (ld 0 7 2 false 0 : LoadDesc)) != seqIdle) = false) ∧
    ((withDev dev1).mem.wf = true ∧ dev1.flt.alarms = [] ∧ dev1.Loads 1 (ld 1 1 2 false 0 : LoadDesc) ∧ dev1.engState
      (loadEng (ld 1 1 2 false 0 : LoadDesc)) ≠ seqIdle) ∧
    ((withDev rg4).mem.wf = true ∧ rg4.flt.alarms = [] ∧ rg4.Loads 1 (ld 1 1 200000 false 0 : LoadDesc) ∧ rg4.engState
      (loadEng (ld 1 1 200000 false 0 : LoadDesc)) = seqIdle ∧ ¬(ld 1 1 200000 false 0 : LoadDesc).devAddr.toNat +
      BitVec.toNat (ld 1 1 200000 false 0 : LoadDesc).count ≤ (rg4.pinnedRange (loadEng (ld 1 1 200000 false 0 :
      LoadDesc))).2 / rg4.stride (loadEng (ld 1 1 200000 false 0 : LoadDesc))) ∧
    ((withDev rg4).mem.wf = true ∧ rg4.flt.alarms = [] ∧ rg4.Loads 1 (ld 1 1 2 false 0 : LoadDesc) ∧ rg4.engState (loadEng
      (ld 1 1 2 false 0 : LoadDesc)) = seqIdle ∧ (ld 1 1 2 false 0 : LoadDesc).devAddr.toNat + BitVec.toNat (ld 1 1 2 false
      0 : LoadDesc).count ≤ (rg4.pinnedRange (loadEng (ld 1 1 2 false 0 : LoadDesc))).2 / rg4.stride (loadEng (ld 1 1 2
      false 0 : LoadDesc))) ∧
    ((withDev rg4).mem.wf = true ∧ rg4.flt.alarms = [] ∧ rg4.Loads 2 (ld 2 0x10000000 2 false 0 : LoadDesc) ∧ rg4.get
      DRC.USABLE < (ld 2 0x10000000 2 false 0 : LoadDesc).devAddr.toNat + 64 * BitVec.toNat (ld 2 0x10000000 2 false 0 :
      LoadDesc).count) ∧
    ((withDev rg4).mem.wf = true ∧ rg4.flt.alarms = [] ∧ rg4.Loads 2 (ld 2 0x100 2 false 0 : LoadDesc) ∧ (ld 2 0x100 2 false
      0 : LoadDesc).devAddr.toNat + 64 * BitVec.toNat (ld 2 0x100 2 false 0 : LoadDesc).count ≤ rg4.get DRC.USABLE ∧
      (rg4.dramUp = false ∨ false = false)) ∧
    ((withDev rg4).mem.wf = true ∧ rg4.flt.alarms = [] ∧ rg4.Loads 2 (ld 2 0x100 2 false 0 : LoadDesc) ∧ (ld 2 0x100 2 false
      0 : LoadDesc).devAddr.toNat + 64 * BitVec.toNat (ld 2 0x100 2 false 0 : LoadDesc).count ≤ rg4.get DRC.USABLE ∧
      rg4.dramUp = true ∧ true = true ∧ rg4.barredLine (ld 2 0x100 2 false 0 : LoadDesc) = none) ∧
    ((withDev dev2).mem.wf = true ∧ dev2.flt.alarms = [] ∧ dev2.Loads 2 (ld 2 0x100 2 false 0 : LoadDesc) ∧ (ld 2 0x100 2
      false 0 : LoadDesc).devAddr.toNat + 64 * BitVec.toNat (ld 2 0x100 2 false 0 : LoadDesc).count ≤ dev2.get DRC.USABLE ∧
      dev2.dramUp = true ∧ true = true ∧ (dev2.barredLine (ld 2 0x100 2 false 0 : LoadDesc)).isSome = true) ∧
    ((withDev rg4).mem.wf = true ∧ rg4.flt.alarms = [] ∧ rg4.Loads 3 (ld 3 0x10000000 2 false 0 : LoadDesc) ∧ rg4.get
      DRC.USABLE < (ld 3 0x10000000 2 false 0 : LoadDesc).devAddr.toNat + 64 * BitVec.toNat (ld 3 0x10000000 2 false 0 :
      LoadDesc).count) ∧
    ((withDev dev3).mem.wf = true ∧ dev3.flt.alarms = [] ∧ dev3.Loads 3 (ld 3 0x100 2 false 0 : LoadDesc) ∧ (ld 3 0x100 2
      false 0 : LoadDesc).devAddr.toNat + 64 * BitVec.toNat (ld 3 0x100 2 false 0 : LoadDesc).count ≤ dev3.get DRC.USABLE ∧
      dev3.dramUp = false) ∧
    ((withDev rg4).mem.wf = true ∧ rg4.flt.alarms = [] ∧ rg4.Loads 3 (ld 3 0x100 2 false 0 : LoadDesc) ∧ (ld 3 0x100 2 false
      0 : LoadDesc).devAddr.toNat + 64 * BitVec.toNat (ld 3 0x100 2 false 0 : LoadDesc).count ≤ rg4.get DRC.USABLE ∧
      rg4.dramUp = true ∧ rg4.barredLine (ld 3 0x100 2 false 0 : LoadDesc) = none ∧ (∀ k ∈ ([] : List Nat), BitVec.toNat (ld
      3 0x100 2 false 0 : LoadDesc).count ≤ k)) ∧
    ((withDev rg4).mem.wf = true ∧ rg4.flt.alarms = [] ∧ rg4.Loads 3 (ld 3 0x100 2 false 0 : LoadDesc) ∧ (ld 3 0x100 2 false
      0 : LoadDesc).devAddr.toNat + 64 * BitVec.toNat (ld 3 0x100 2 false 0 : LoadDesc).count ≤ rg4.get DRC.USABLE ∧
      rg4.dramUp = true ∧ rg4.barredLine (ld 3 0x100 2 false 0 : LoadDesc) = none ∧ List.filter (fun x => decide (x <
      BitVec.toNat (ld 3 0x100 2 false 0 : LoadDesc).count)) ([1] : List Nat) ≠ []) ∧
    ((withDev dev2).mem.wf = true ∧ dev2.flt.alarms = [] ∧ dev2.Loads 3 (ld 3 0x100 2 false 0 : LoadDesc) ∧ (ld 3 0x100 2
      false 0 : LoadDesc).devAddr.toNat + 64 * BitVec.toNat (ld 3 0x100 2 false 0 : LoadDesc).count ≤ dev2.get DRC.USABLE ∧
      dev2.dramUp = true ∧ (dev2.barredLine (ld 3 0x100 2 false 0 : LoadDesc)).isSome = true) := by 
  exact ⟨by decide +kernel,
    by decide +kernel,
    by unfold Dev.Loads; decide +kernel,
    by unfold Dev.Loads; decide +kernel,
    by unfold Dev.Loads; decide +kernel,
    by unfold Dev.Loads; decide +kernel,
    by unfold Dev.Loads; decide +kernel,
    by unfold Dev.Loads; decide +kernel,
    by unfold Dev.Loads; decide +kernel,
    by unfold Dev.Loads; decide +kernel,
    by unfold Dev.Loads; decide +kernel,
    by unfold Dev.Loads; decide +kernel,
    by unfold Dev.Loads; decide +kernel,
    by unfold Dev.Loads; decide +kernel,
    by unfold Dev.Loads; decide +kernel,
    by unfold Dev.Loads; decide +kernel⟩

end Loads

/-! ### Blocks, messages and the link -/

namespace Outbound

def q2 : Dev := (((((((up.put PLN.QUALITY_QUAL 2).put PLN.SYNC_CTRL_CHECK_EN 0).put DRC.STATUS_AVAIL 1).put DRC.STATUS_INIT_DONE 1).put DRC.STATUS_IN_SERVICE 15).put DRC.USABLE 0x10000000).put DRC.CONFIG_MAP 1).modLdg fun l => {l with chain := true}
def frec (i : Nat) : FRec := ⟨0, 0, i, 4, 0, 77, 0, 0, 5, false, 0, 0, none, false⟩
def og (r : Nat) : Dev := ((q2.put (HDMA.RING_CTRL_EN r) 1).put (HDMA.RING_SIZE r) 16)
def blk0 : Blk := ⟨3, 10, 2, 0, 0, [], [], [1, 2]⟩
def dev1 : Dev := (og 5).modFc 0 fun f => {f with dring := (List.range 100).map frec, queue := (List.range 40).map frec}
def dev2 : Dev := ((og 5).put (FCAP.PART_ENG_GRAN 1) 1).modFc 1 (fun f => {f with dumpAt := some 32500, map := [(32500, 77)]})
def dev3 : Dev := (og 6).modAq 0 fun a => {a with out := [List.replicate 100 7]}
def dev4 : Dev := (og 7).modTia fun t => {t with sring := List.replicate 300 ⟨[], 0⟩}
def dev5 : Dev := (og 8).modLdg fun l => {l with dring := [blk0, blk0], buffer := [blk0]}
def dev6 : Dev := ((og 8).modBlk 8 fun b => {b with state := 3}).modLdg fun l => {l with buffer := [blk0]}
def dev7 : Dev := q2.modHost fun h => {h with due := 0, wbDue := 0, rings := [(6, ⟨4, some 1999000, 0, 0⟩)]}
def dev8 : Dev := (og 5).modFc 2 (fun f => {f with dring := [frec 3]}) |>.modHost fun h => {h with rings := [(5, ⟨4, some 1999000, 0, 0⟩)]}
def dev9 : Dev := (og 7).modTia (fun t => {t with sring := List.replicate 30 ⟨[], 0⟩}) |>.modHost fun h => {h with rings := [(7, ⟨4, some 1999000, 0, 0⟩)]}
def dev10 : Dev := q2.modHost fun h => {h with due := 7, msix := [(3, 0), (7, 0)], lastMsg := [(1, 1999999)]}
def dev11 : Dev := {q2 with host := { q2.host with rings := [], memEn := false }}
def dev12 : Dev := {q2 with flt := {q2.flt with safeHold := true}}
def dev13 : Dev := q2.put HDMA.LINK_STATUS_L0 0

theorem test_hyps_BlocksMessagesAndLink :
    ((q2.outOpen 0 = false ∨ 0 < 5 ∨ (0 = 5 ∧ ∀ n < 4, (fun n => (fun n => Option.any (fun i => decide (i < q2.mapWords n))
      (q2.fc n).dumpAt) n || decide (127 ≤ ((fun n => q2.failItems n) n).length) || q2.failDrained n) n = false) ∨ (0 = 6 ∧
      ∀ u < 8, (q2.aq u).out = []) ∨ 0 = 7 ∧ q2.stampItems.length < 254 ∨ 0 = 8 ∧ q2.ldg.dring = [] ∧ (q2.ldg.buffer = [] ∨
      q2.drcOos = false)) ∧ (q2.ring 0).openSince = none) ∧
    (0 < 4 ∧ dev1.outOpen 5 = true ∧ (fun n => (fun n => Option.any (fun i => decide (i < dev1.mapWords n)) (dev1.fc
      n).dumpAt) n || decide (127 ≤ ((fun n => dev1.failItems n) n).length) || dev1.failDrained n) 0 = true ∧ ∀ k < (0 + 4 -
      (dev1.ring 5).source % 4) % 4, (fun n => (fun n => Option.any (fun i => decide (i < dev1.mapWords n)) (dev1.fc
      n).dumpAt) n || decide (127 ≤ ((fun n => dev1.failItems n) n).length) || dev1.failDrained n) (((dev1.ring 5).source +
      k) % 4) = false ∧ (fun n => Option.any (fun i => decide (i < dev1.mapWords n)) (dev1.fc n).dumpAt) 0 = false) ∧
    (1 < 4 ∧ dev2.outOpen 5 = true ∧ (fun n => (fun n => Option.any (fun i => decide (i < dev2.mapWords n)) (dev2.fc
      n).dumpAt) n || decide (127 ≤ ((fun n => dev2.failItems n) n).length) || dev2.failDrained n) 1 = true ∧ ∀ k < (1 + 4 -
      (dev2.ring 5).source % 4) % 4, (fun n => (fun n => Option.any (fun i => decide (i < dev2.mapWords n)) (dev2.fc
      n).dumpAt) n || decide (127 ≤ ((fun n => dev2.failItems n) n).length) || dev2.failDrained n) (((dev2.ring 5).source +
      k) % 4) = false ∧ (match (dev2.fc 1).dumpAt with
        | some i => decide ((i < dev2.mapWords 1))
        | _ => false) = true) ∧
    (0 < 8 ∧ (match (dev3.aq 0).out with
        | _ :: _ => decide (
            (dev3.outOpen 6 = true) ∧ ((fun u => !(dev3.aq u).out.isEmpty) 0 = true ∧ ∀ k < (0 + 8 - (dev3.ring 6).source %
              8) % 8, (fun u => !(dev3.aq u).out.isEmpty) (((dev3.ring 6).source + k) % 8) = false))
        | _ => false) = true) ∧
    (dev4.outOpen 7 = true ∧ 254 ≤ dev4.stampItems.length) ∧
    ((match dev5.ldg.dring with
        | _ :: _ => decide ((dev5.outOpen 8 = true))
        | _ => false) = true) ∧
    ((match dev6.ldg.buffer with
        | _ :: _ => decide (
            (dev6.ldg.dring = []) ∧ (dev6.drcOos = true) ∧ (dev6.outOpen 8 = true))
        | _ => false) = true) ∧
    (((match (dev7.ring 6).openSince with
        | some _ => decide (
            (dev7.outOpen 6 = false ∨ 6 ≠ 5 ∧ 6 ≠ 7 ∨ (6 = 5 ∧ ∀ n < 4, (fun n => dev7.failItems n) n = []) ∨ 6 = 7 ∧
              dev7.stampItems = []))
        | _ => false) = true)) ∧
    ((match (dev8.ring 5).openSince with
        | some _ => decide (
            (5 = 5) ∧ (dev8.outOpen 5 = true) ∧ (2 < 4) ∧ ((fun n => !((fun n => dev8.failItems n) n).isEmpty) 2 = true ∧ ∀
              k < (2 + 4 - (dev8.ring 5).source % 4) % 4, (fun n => !((fun n => dev8.failItems n) n).isEmpty) (((dev8.ring
              5).source + k) % 4) = false))
        | _ => false) = true) ∧
    ((match (dev9.ring 7).openSince with
        | some _ => decide (
            (7 = 7) ∧ (dev9.outOpen 7 = true) ∧ (dev9.stampItems ≠ []))
        | _ => false) = true) ∧
    ((q2.host.due.testBit 0 && !q2.msixMasked 0 && q2.reported 0 && q2.hdmaRuns) = false) ∧
    ((dev10.host.due.testBit 0 && !dev10.msixMasked 0 && dev10.reported 0 && dev10.hdmaRuns) = true) ∧
    (dev11.host.memEn = false) ∧
    (dev12.host.memEn = true ∧ dev12.flt.safeHold = true) ∧
    (q2.host.memEn = true ∧ q2.flt.safeHold = false) ∧
    ((dev8.on HDMA.LINK_STATUS_L0 = false ∨ dev8.linkIdle = false)) ∧
    (q2.on HDMA.LINK_STATUS_L0 = true ∧ q2.linkIdle = true ∧ (q2.on HDMA.LINK_STATUS_L0 || q2.on HDMA.LINK_STATUS_L1) = true
      ∧ q2.flt.alarms = []) ∧
    ((dev13.on HDMA.LINK_STATUS_L0 || dev13.on HDMA.LINK_STATUS_L1) = false ∧ dev13.flt.alarms = []) := by 
  refine ⟨?_, ?_, ?_, ?_, ?_, ?_, ?_, ?_, ?_, ?_, ?_, ?_, ?_, ?_, ?_, ?_, ?_, ?_⟩ <;> decide +kernel

end Outbound

/-! ### Power states -/

namespace Power

def q2 : Dev := (((((((up.put PLN.QUALITY_QUAL 2).put PLN.SYNC_CTRL_CHECK_EN 0).put DRC.STATUS_AVAIL 1).put DRC.STATUS_INIT_DONE 1).put DRC.STATUS_IN_SERVICE 15).put DRC.USABLE 0x10000000).put DRC.CONFIG_MAP 1).modLdg fun l => {l with chain := true}
def dorm : Dev := { (q2.put GLB.STATE_STATE stDormant).put GLB.WAKE_CFG_DB_EN 1 with count := 1000000 }
def dw : Dev := (dorm.put PLN.QUALITY_PLLT_LOCK 0).put PLN.QUALITY_REFSTEP 1
def dev1 : Dev := {q2 with host := {q2.host with memEn := false}}
def dev2 : Dev := q2.put (SEQ.STATUS_STATE 1) 2
def dev3 : Dev := (q2.put GLB.WAKE_CFG_DB_EN 0).put GLB.WAKE_CFG_CMP_EN 0 |>.put GLB.WAKE_CFG_TRIG_EN 0
def dev4 : Dev := {(dorm.modBoot fun b => {b with dormEntry := true}).put (PINB.SEL_WAKE_SEL 0 3) 2 with elapsed := 2000005}
def dev5 : Dev := dw |>.modBoot fun b => {b with wake := true}

theorem test_hyps_PowerStates :
    (dev1.hostOpen GLB.POWER_CTRL_DORMANT.addr = false) ∧
    (dev2.hostOpen GLB.POWER_CTRL_DORMANT.addr = true ∧ dev2.gdPending 5 = none ∧ (dev2.st ≠ stReady ∨ dev2.running = true)) ∧
    (dev3.hostOpen GLB.POWER_CTRL_DORMANT.addr = true ∧ dev3.gdPending 5 = none ∧ dev3.st = stReady ∧ dev3.running = false ∧
      (dev3.on GLB.WAKE_CFG_DB_EN || dev3.on GLB.WAKE_CFG_CMP_EN || dev3.get GLB.WAKE_CFG_TRIG_EN != 0) = false) ∧
    (q2.hostOpen GLB.POWER_CTRL_DORMANT.addr = true ∧ q2.gdPending 5 = none ∧ q2.st = stReady ∧ q2.running = false ∧ (q2.on
      GLB.WAKE_CFG_DB_EN || q2.on GLB.WAKE_CFG_CMP_EN || q2.get GLB.WAKE_CFG_TRIG_EN != 0) = true ∧ q2.boot.dormEntry =
      false ∧ q2.flt.alarms = [] ∧ (q2.st ≠ stDormant ∨ q2.boot.wake = false) ∧ (q2.on PLN.QUALITY_PLLT_LOCK && q2.on
      PLN.QUALITY_REFCLK_OK && q2.st != stDormant) = true) ∧
    (q2.st ≠ stDormant) ∧
    (dorm.st = stDormant ∧ (dorm.on GLB.WAKE_CFG_CMP_EN && (dorm.pinGet PINB.SEL_WAKE_SEL 3).testBit 1 && dorm.cmpReady 3
      false) = false) ∧
    (dorm.st = stDormant ∧ dorm.on GLB.WAKE_CFG_DB_EN = true ∧ dorm.boot.wake = false ∧ dorm.boot.dormEntry = false) ∧
    (dev4.st = stDormant ∧ dev4.on GLB.WAKE_CFG_DB_EN = true ∧ dev4.boot.wake = false ∧ dev4.boot.dormEntry = true) ∧
    (dev5.flt.alarms = [] ∧ dev5.st = stDormant ∧ dev5.boot.wake = true) ∧
    ((dorm.on PLN.QUALITY_PLLT_LOCK && dorm.on PLN.QUALITY_REFCLK_OK && dorm.st != stDormant) = false) := by 
  refine ⟨?_, ?_, ?_, ?_, ?_, ?_, ?_, ?_, ?_, ?_⟩ <;> decide +kernel

end Power

/-! ### Start-up -/

namespace StartUp

def section_ (typ crc : Nat) : List Byte := leBytes 4 typ ++ leBytes 4 0 ++ leBytes 4 crc ++ List.replicate 52 0xFF
def small (l : List (List Byte)) : Mem := { Mem.reset with nvm := ((List.replicate 6 0xFF ++ leBytes 2 l.length ++ leBytes 4 (64 + 64 * l.length) ++ List.replicate 52 0xFF ++ l.flatten).mapIdx fun i b => (i, b)).filter fun c => c.2 != 0xFF }
def wrongMap : List Byte := leBytes 4 4 ++ leBytes 4 1 ++ leBytes 4 (crc32c [4]).toNat ++ List.replicate 4 0xFF ++ [4] ++ List.replicate 47 0xFF
def empties : Mem := small [section_ 1 0, section_ 2 0, section_ 3 0, wrongMap, section_ 5 0]
def badCrc : Mem := small [section_ 1 1, section_ 2 1, section_ 3 1, section_ 4 1]
def st (n other : Nat) (m : Mem) : State := let d := ((Dev.reset.put GLB.STATE_STEP n).put PLN.QUALITY_PLLT_LOCK 1).modBoot fun b => {b with chosen := 1, tried := [1]}
  { withDev (if other = 0 then d else d.put (copyState 2) 1) with mem := m }
def st1 : State := st 5 0 Mem.reset
def st2 : State := st 1 0 Mem.reset
def st3 : State := st 6 1 Mem.reset
def st4 : State := st 5 1 empties
def st5 : State := st 6 0 empties
def st6 : State := st 7 1 Mem.reset
def st7 : State := st 7 0 Mem.reset
def st8 : State := st 7 1 badCrc
def st9 : State := st 7 0 badCrc
def st10 : State := st 7 1 empties
def st11 : State := st 7 0 empties
def st12 : State := st 8 0 badCrc
def st13 : State := st 8 0 empties
def st14 : State := st 9 1 Mem.reset
def st15 : State := st 9 0 Mem.reset
def st16 : State := st 9 1 badCrc
def st17 : State := st 9 0 badCrc
def st18 : State := st 9 0 empties
def st19 : State := st 10 0 Mem.reset

theorem test_hyps_StartUpSteps :
    (st1.dev.flt.alarms = [] ∧ (st1.dev.st ≠ stBoot ∨ st1.dev.get GLB.STATE_STEP ≠ 1)) ∧
    (st2.dev.flt.alarms = [] ∧ st2.dev.st = stBoot ∧ st2.dev.get GLB.STATE_STEP = 1) ∧
    (st2.dev.flt.alarms = [] ∧ (¬(st2.dev.st = stBoot ∧ st2.dev.boot.chosen ≠ 0 ∧ (st2.dev.get GLB.STATE_STEP = 5 ∨
      st2.dev.get GLB.STATE_STEP = 6) ∧ st2.dev.on PLN.QUALITY_PLLT_LOCK = true)) ∧ (st2.dev.st ≠ stBoot ∨ st2.dev.get
      GLB.STATE_STEP ≠ 8) ∧ (st2.dev.st ≠ stBoot ∨ st2.dev.get GLB.STATE_STEP ≠ 9) ∧ (st2.dev.st ≠ stBoot ∨ st2.dev.get
      GLB.STATE_STEP ≠ 10)) ∧
    (st3.dev.flt.alarms = [] ∧ (st3.dev.st = stBoot ∧ st3.dev.boot.chosen ≠ 0 ∧ (st3.dev.get GLB.STATE_STEP = 5 ∨
      st3.dev.get GLB.STATE_STEP = 6) ∧ st3.dev.on PLN.QUALITY_PLLT_LOCK = true) ∧ copyCheck st3.mem (Dev.put GLB.STATE_STEP
      6 st3.dev) ≠ 1 ∧ (st3.dev.get (copyState (3 - st3.dev.boot.chosen)) = 1 ∧ ¬st3.dev.boot.tried.contains (3 -
      st3.dev.boot.chosen) = true ∧ st3.dev.on BOOT.STATUS_RESTARTED = false)) ∧
    (st1.dev.flt.alarms = [] ∧ (st1.dev.st = stBoot ∧ st1.dev.boot.chosen ≠ 0 ∧ (st1.dev.get GLB.STATE_STEP = 5 ∨
      st1.dev.get GLB.STATE_STEP = 6) ∧ st1.dev.on PLN.QUALITY_PLLT_LOCK = true) ∧ copyCheck st1.mem (Dev.put GLB.STATE_STEP
      6 st1.dev) ≠ 1 ∧ ¬(st1.dev.get (copyState (3 - st1.dev.boot.chosen)) = 1 ∧ ¬st1.dev.boot.tried.contains (3 -
      st1.dev.boot.chosen) = true ∧ st1.dev.on BOOT.STATUS_RESTARTED = false)) ∧
    (st2.dev.flt.alarms = [] ∧ ¬(st2.dev.st = stBoot ∧ st2.dev.get GLB.STATE_STEP = 7)) ∧
    (st6.dev.flt.alarms = [] ∧ (st6.dev.st = stBoot ∧ st6.dev.get GLB.STATE_STEP = 7) ∧ st6.mem.sectionOf
      st6.dev.boot.chosen 2 = none ∧ (st6.dev.get (copyState (3 - st6.dev.boot.chosen)) = 1 ∧ ¬st6.dev.boot.tried.contains
      (3 - st6.dev.boot.chosen) = true ∧ st6.dev.on BOOT.STATUS_RESTARTED = false)) ∧
    (st7.dev.flt.alarms = [] ∧ (st7.dev.st = stBoot ∧ st7.dev.get GLB.STATE_STEP = 7) ∧ st7.mem.sectionOf
      st7.dev.boot.chosen 2 = none ∧ ¬(st7.dev.get (copyState (3 - st7.dev.boot.chosen)) = 1 ∧ ¬st7.dev.boot.tried.contains
      (3 - st7.dev.boot.chosen) = true ∧ st7.dev.on BOOT.STATUS_RESTARTED = false)) ∧
    (st8.dev.flt.alarms = [] ∧ (match st8.mem.sectionOf st8.dev.boot.chosen 2 with
        | some x => decide (
            (st8.dev.st = stBoot ∧ st8.dev.get GLB.STATE_STEP = 7) ∧ (st8.mem.crcOk x = false) ∧ (st8.dev.get (copyState (3
              - st8.dev.boot.chosen)) = 1 ∧ ¬st8.dev.boot.tried.contains (3 - st8.dev.boot.chosen) = true ∧ st8.dev.on
              BOOT.STATUS_RESTARTED = false))
        | _ => false) = true) ∧
    (st9.dev.flt.alarms = [] ∧ (match st9.mem.sectionOf st9.dev.boot.chosen 2 with
        | some x => decide (
            (st9.dev.st = stBoot ∧ st9.dev.get GLB.STATE_STEP = 7) ∧ (st9.mem.crcOk x = false) ∧ (¬(st9.dev.get (copyState
              (3 - st9.dev.boot.chosen)) = 1 ∧ ¬st9.dev.boot.tried.contains (3 - st9.dev.boot.chosen) = true ∧ st9.dev.on
              BOOT.STATUS_RESTARTED = false)))
        | _ => false) = true) ∧
    (st10.dev.flt.alarms = [] ∧ (match st10.mem.sectionOf st10.dev.boot.chosen 2 with
        | some x => decide (
            (st10.dev.st = stBoot ∧ st10.dev.get GLB.STATE_STEP = 7) ∧ (st10.mem.crcOk x = true) ∧ (List.filter (fun x =>
              match x with | (b, _) => decide (b ≤ 2)) (binBlocks (st10.mem.payload x)) = []) ∧ (st10.dev.get (copyState (3
              - st10.dev.boot.chosen)) = 1 ∧ ¬st10.dev.boot.tried.contains (3 - st10.dev.boot.chosen) = true ∧ st10.dev.on
              BOOT.STATUS_RESTARTED = false))
        | _ => false) = true) ∧
    (st11.dev.flt.alarms = [] ∧ (match st11.mem.sectionOf st11.dev.boot.chosen 2 with
        | some x => decide (
            (st11.dev.st = stBoot ∧ st11.dev.get GLB.STATE_STEP = 7) ∧ (st11.mem.crcOk x = true) ∧ (List.filter (fun x =>
              match x with | (b, _) => decide (b ≤ 2)) (binBlocks (st11.mem.payload x)) = []) ∧ (¬(st11.dev.get (copyState
              (3 - st11.dev.boot.chosen)) = 1 ∧ ¬st11.dev.boot.tried.contains (3 - st11.dev.boot.chosen) = true ∧
              st11.dev.on BOOT.STATUS_RESTARTED = false)))
        | _ => false) = true) ∧
    (st12.dev.flt.alarms = [] ∧ st12.dev.st = stBoot ∧ st12.dev.get GLB.STATE_STEP = 8 ∧ st12.mem.sectionOf
      st12.dev.boot.chosen 5 = none) ∧
    (st13.dev.flt.alarms = [] ∧ st13.dev.st = stBoot ∧ st13.dev.get GLB.STATE_STEP = 8 ∧ (st13.mem.sectionOf
      st13.dev.boot.chosen 5).isSome = true) ∧
    (st14.dev.flt.alarms = [] ∧ st14.dev.st = stBoot ∧ st14.dev.get GLB.STATE_STEP = 9 ∧ st14.mem.sectionOf
      st14.dev.boot.chosen 3 = none ∧ (st14.dev.get (copyState (3 - st14.dev.boot.chosen)) = 1 ∧
      ¬st14.dev.boot.tried.contains (3 - st14.dev.boot.chosen) = true ∧ st14.dev.on BOOT.STATUS_RESTARTED = false)) ∧
    (st15.dev.flt.alarms = [] ∧ st15.dev.st = stBoot ∧ st15.dev.get GLB.STATE_STEP = 9 ∧ st15.mem.sectionOf
      st15.dev.boot.chosen 3 = none ∧ ¬(st15.dev.get (copyState (3 - st15.dev.boot.chosen)) = 1 ∧
      ¬st15.dev.boot.tried.contains (3 - st15.dev.boot.chosen) = true ∧ st15.dev.on BOOT.STATUS_RESTARTED = false)) ∧
    (st16.dev.flt.alarms = [] ∧ st16.dev.st = stBoot ∧ st16.dev.get GLB.STATE_STEP = 9 ∧
      (match st16.mem.sectionOf st16.dev.boot.chosen 3 with
        | some x => decide (
            (st16.mem.crcOk x = false) ∧ (st16.dev.get (copyState (3 - st16.dev.boot.chosen)) = 1 ∧
              ¬st16.dev.boot.tried.contains (3 - st16.dev.boot.chosen) = true ∧ st16.dev.on BOOT.STATUS_RESTARTED = false))
        | _ => false) = true) ∧
    (st17.dev.flt.alarms = [] ∧ st17.dev.st = stBoot ∧ st17.dev.get GLB.STATE_STEP = 9 ∧
      (match st17.mem.sectionOf st17.dev.boot.chosen 3 with
        | some x => decide (
            (st17.mem.crcOk x = false) ∧ (¬(st17.dev.get (copyState (3 - st17.dev.boot.chosen)) = 1 ∧
              ¬st17.dev.boot.tried.contains (3 - st17.dev.boot.chosen) = true ∧ st17.dev.on BOOT.STATUS_RESTARTED = false)))
        | _ => false) = true) ∧
    (st18.dev.flt.alarms = [] ∧ st18.dev.st = stBoot ∧ st18.dev.get GLB.STATE_STEP = 9 ∧
      (match st18.mem.sectionOf st18.dev.boot.chosen 3 with
        | some x => decide ((st18.mem.crcOk x = true))
        | _ => false) = true) ∧
    (st19.dev.flt.alarms = [] ∧ st19.dev.st = stBoot ∧ st19.dev.get GLB.STATE_STEP = 10) := by 
  refine ⟨?_, ?_, ?_, ?_, ?_, ?_, ?_, ?_, ?_, ?_, ?_, ?_, ?_, ?_, ?_, ?_, ?_, ?_, ?_, ?_⟩ <;> decide +kernel

end StartUp

/-! ### Clauses at their boundaries -/

namespace Boundaries

def q2 : Dev := (up.put PLN.QUALITY_QUAL 2).put PLN.SYNC_CTRL_CHECK_EN 0
def T0 : Int := 2000000*256
def pin (f : PinSt → PinSt) : Dev := (q2.put (PINB.CFG_CMP_EN 0 0) 1).modPin 0 fun p => f { p with powered := true, settle := none, high := ⟨true,true,0⟩, low := ⟨false,true,0⟩ }
def cmp0 (sym : Nat) (w : Bool) : Cmp := { eng := 0, sym, s0 := T0 + 1000, s1 := T0 + 5000, window := w, vec := 4, seg := 0, user := 0, site := 3, pos := 2, failOp := 0, isMatch := false, chan := 5, mask := 0, drop := 0, skip := false }
def hi (sym : Nat) (h l : Bool) : Dev := pin fun p => { p with cmps := [cmp0 sym false], hist := [⟨T0, h, l, true, true, true⟩, ⟨T0+2000, !h, !l, true, true, true⟩] }
def badMap : Dev := (q2.put (PINB.MAP_UNMAPPED 0 0) 0).put (PINB.MAP_POS 0 0) 255
def meas (f : TiaM → TiaM) : Dev := (pin id).modMeas 0 fun m => f { m with armed := true, armAt := 999990, count := 2, func := 6, open_ := some 999995, ready := some 999995 }
def e1 : StEntry := ⟨[1,2,3],99⟩
def buf (c : Nat) : Dev := (q2.modBank 0 fun b => {b with buffer := [e1]}).put (PINB.STAMP_CFG 0) c
def unit (f : AqSt → AqSt): Dev := (((((buf 2).modAq 3 f).put (AQ.CLAIM 3) 1).put (AQ.CFG_KIND 3) 2).put (AQ.STATUS_STATE 3) 3)
def noTok (d : Dev) : Dev := { d with tok := { d.tok with out := d.tok.out.insert (128 * poolAT + 3) (4096, 4096) } }
def gd (a : Nat) (v : W32) : Dev := { up with host := { up.host with gd := [(blockOfAddr a, ⟨a, v, 1990000⟩)] } }
def sm (k : Nat) (f : SmcSt → SmcSt := id) : Dev := ((((q2.put (SMCG.OUT_OUT_STATE 0 0) k).put (SMCG.OUT_OUT_EN 0 0) 1).put (SMCG.ACT_FORCE 0 0) 500000).put (SMCG.OUT_PENDING_ON 0 0) 0).modSm 0 fun s => f { s with switchAt := 2000700, stepDue := 2000300 }
def dev1 : Dev := gd (PINB.HV_EN 0).addr 5
def dev2 : Dev := hi 8 true false
def dev3 : Dev := hi 2 false true
def dev4 : Dev := hi 3 true true
def dev5 : Dev := hi 5 false true
def dev6 : Dev := hi 6 true true
def dev7 : Dev := (pin id).put (PINB.CARRY_CARRIER 0 32) 5
def dev8 : Dev := pin fun p => {p with settle := some 2000500}
def dev9 : Dev := unit id
def dev10 : Dev := noTok (unit id)
def dev11 : Dev := unit (fun a => { a with seg := some ⟨⟨0, 0, 0⟩, 0, 0, false, 0, 0⟩ })
def dev12 : Dev := meas id
def dev13 : Dev := Dev.setCarrier 32 0 true (sm 2)
def dev14 : Dev := (((sm 2).put (SMCG.MON_MON_ACT 0 0) 1).put (SMCG.TH 0 0 0) 3).put (SMCG.MON_MON_DEB 0 0) 1
def dev15 : Dev := q2.modBlk 0x0E fun b => { b with state := 3 }

theorem test_hyps_GuardedPairsWaitOrFail :
    dev1.gdPending 0x20 = some { addr := 33591296, value := (5 : W32), at_ := 1990000 } := by decide +kernel

theorem test_hyps_MapCommitAndHeldStart :
    badMap.hostOpen GLB.MAP_COMMIT.addr = true ∧ badMap.mapFirstBad = some 0 ∧ ∀ n ∈ badMap.mapAffected, badMap.engState n =
      seqIdle := by exact ⟨by decide +kernel, by decide +kernel, fun n h => (by decide +kernel : ∀ n, n < 4 → badMap.engState n = seqIdle) n (mapAffected_lt _ n h)⟩

theorem test_hyps_EdgesAndStrobes :
    (List.dropWhile (fun x => !(dev2.pin 0).changes x.act) (dev2.pin 0).edges = [] ∧ ((match List.dropWhile (fun y => y.skip) (dev2.pin 0).cmps with
        | c :: _ => decide (
            (¬(c.isMatch = true ∧ (dev2.eng c.eng).mat.from_ ≤ c.vec ∧ (dev2.eng c.eng).mat.latched.testBit c.site = true))
              ∧ (¬∃ l, (if ((dev2.pin 0).unit != decide ((List.takeWhile (fun y => y.skip) (dev2.pin 0).cmps).length % 2 =
              1)) = true then (dev2.pin 0).lastClose.2 else (dev2.pin 0).lastClose.1) = some l ∧ c.s0 < l + 128) ∧ ((c.sym ≠
              2 → (histAt (dev2.snapAt 0 0) c.s0 (dev2.pin 0).hist).readyH = true ∧ (histAt (dev2.snapAt 0 0) c.s0 (dev2.pin
              0).hist).fast = true) ∧ (c.sym ≠ 3 → (histAt (dev2.snapAt 0 0) c.s0 (dev2.pin 0).hist).readyL = true ∧ (histAt
              (dev2.snapAt 0 0) c.s0 (dev2.pin 0).hist).fast = true)) ∧ (c.sym = 8))
        | _ => false) = true)) ∧
    (((match List.dropWhile (fun y => y.skip) (dev3.pin 0).cmps with
        | c :: _ => decide (
            (¬(c.isMatch = true ∧ (dev3.eng c.eng).mat.from_ ≤ c.vec ∧ (dev3.eng c.eng).mat.latched.testBit c.site = true))
              ∧ (¬∃ l, (if ((dev3.pin 0).unit != decide ((List.takeWhile (fun y => y.skip) (dev3.pin 0).cmps).length % 2 =
              1)) = true then (dev3.pin 0).lastClose.2 else (dev3.pin 0).lastClose.1) = some l ∧ c.s0 < l + 128) ∧ ((c.sym ≠
              2 → (histAt (dev3.snapAt 0 0) c.s0 (dev3.pin 0).hist).readyH = true ∧ (histAt (dev3.snapAt 0 0) c.s0 (dev3.pin
              0).hist).fast = true) ∧ (c.sym ≠ 3 → (histAt (dev3.snapAt 0 0) c.s0 (dev3.pin 0).hist).readyL = true ∧ (histAt
              (dev3.snapAt 0 0) c.s0 (dev3.pin 0).hist).fast = true)) ∧ (c.window = false) ∧ (c.sym = 2))
        | _ => false) = true)) ∧
    (((match List.dropWhile (fun y => y.skip) (dev4.pin 0).cmps with
        | c :: _ => decide (
            (¬(c.isMatch = true ∧ (dev4.eng c.eng).mat.from_ ≤ c.vec ∧ (dev4.eng c.eng).mat.latched.testBit c.site = true))
              ∧ (¬∃ l, (if ((dev4.pin 0).unit != decide ((List.takeWhile (fun y => y.skip) (dev4.pin 0).cmps).length % 2 =
              1)) = true then (dev4.pin 0).lastClose.2 else (dev4.pin 0).lastClose.1) = some l ∧ c.s0 < l + 128) ∧ ((c.sym ≠
              2 → (histAt (dev4.snapAt 0 0) c.s0 (dev4.pin 0).hist).readyH = true ∧ (histAt (dev4.snapAt 0 0) c.s0 (dev4.pin
              0).hist).fast = true) ∧ (c.sym ≠ 3 → (histAt (dev4.snapAt 0 0) c.s0 (dev4.pin 0).hist).readyL = true ∧ (histAt
              (dev4.snapAt 0 0) c.s0 (dev4.pin 0).hist).fast = true)) ∧ (c.window = false) ∧ (c.sym = 3))
        | _ => false) = true)) ∧
    (((match List.dropWhile (fun y => y.skip) (dev5.pin 0).cmps with
        | c :: _ => decide (
            (¬(c.isMatch = true ∧ (dev5.eng c.eng).mat.from_ ≤ c.vec ∧ (dev5.eng c.eng).mat.latched.testBit c.site = true))
              ∧ (¬∃ l, (if ((dev5.pin 0).unit != decide ((List.takeWhile (fun y => y.skip) (dev5.pin 0).cmps).length % 2 =
              1)) = true then (dev5.pin 0).lastClose.2 else (dev5.pin 0).lastClose.1) = some l ∧ c.s0 < l + 128) ∧ ((c.sym ≠
              2 → (histAt (dev5.snapAt 0 0) c.s0 (dev5.pin 0).hist).readyH = true ∧ (histAt (dev5.snapAt 0 0) c.s0 (dev5.pin
              0).hist).fast = true) ∧ (c.sym ≠ 3 → (histAt (dev5.snapAt 0 0) c.s0 (dev5.pin 0).hist).readyL = true ∧ (histAt
              (dev5.snapAt 0 0) c.s0 (dev5.pin 0).hist).fast = true)) ∧ (c.window = false) ∧ (c.sym = 5))
        | _ => false) = true)) ∧
    (((match List.dropWhile (fun y => y.skip) (dev6.pin 0).cmps with
        | c :: _ => decide (
            (¬(c.isMatch = true ∧ (dev6.eng c.eng).mat.from_ ≤ c.vec ∧ (dev6.eng c.eng).mat.latched.testBit c.site = true))
              ∧ (¬∃ l, (if ((dev6.pin 0).unit != decide ((List.takeWhile (fun y => y.skip) (dev6.pin 0).cmps).length % 2 =
              1)) = true then (dev6.pin 0).lastClose.2 else (dev6.pin 0).lastClose.1) = some l ∧ c.s0 < l + 128) ∧ ((c.sym ≠
              2 → (histAt (dev6.snapAt 0 0) c.s0 (dev6.pin 0).hist).readyH = true ∧ (histAt (dev6.snapAt 0 0) c.s0 (dev6.pin
              0).hist).fast = true) ∧ (c.sym ≠ 3 → (histAt (dev6.snapAt 0 0) c.s0 (dev6.pin 0).hist).readyL = true ∧ (histAt
              (dev6.snapAt 0 0) c.s0 (dev6.pin 0).hist).fast = true)) ∧ (c.window = false) ∧ (c.sym = 6))
        | _ => false) = true)) := by 
  refine ⟨?_, ?_, ?_, ?_, ?_⟩ <;> decide +kernel

theorem test_hyps_SuppliesAndComparators :
    ((.core : Supply) ≠ Supply.powerOnReset ∧ dev7.flt.alarms = []) ∧
    (dev7.hostOpen (PINB.CFG_CMP_EN (bankOf 1024) (pageOf 1024)).addr = true ∧ dev7.spareBusy (bankOf 1024) (pageOf 1024) =
      true) ∧
    ((dev8.pin 0).settle = some 2000500) := by 
  refine ⟨?_, ?_, ?_⟩ <;> decide +kernel

theorem test_hyps_StrobedLevelsAndStamps :
    (dev9.hostOpen GLB.LS_PULSE.addr = true) ∧
    (dev9.flt.alarms = [] ∧ (match ((Dev.stampAdmit 0 dev9).bank 0).buffer with
        | e :: _ => decide (
            (dev9.get (PINB.STAMP_CFG 0) = 2) ∧ (match (Dev.stampAdmit 0 dev9).stampUnit 0 with
                | some u => decide (
                    ((Dev.stampAdmit 0 dev9).aqHolds u e = true) ∧ (Dev.aqEnter u 16 (Dev.stampAdmit 0 dev9)).isSome = true)
                | _ => false) = true)
        | _ => false) = true) ∧
    (dev10.flt.alarms = [] ∧ (match ((Dev.stampAdmit 0 dev10).bank 0).buffer with
        | e :: _ => decide (
            (dev10.get (PINB.STAMP_CFG 0) = 2) ∧ (match (Dev.stampAdmit 0 dev10).stampUnit 0 with
                | some u => decide (
                    ((Dev.stampAdmit 0 dev10).aqHolds u e = true) ∧ (Dev.aqEnter u 16 (Dev.stampAdmit 0 dev10) = none))
                | _ => false) = true)
        | _ => false) = true) ∧
    (dev11.flt.alarms = [] ∧ (match ((Dev.stampAdmit 0 dev11).bank 0).buffer with
        | e :: _ => decide (
            (dev11.get (PINB.STAMP_CFG 0) = 2) ∧ (match (Dev.stampAdmit 0 dev11).stampUnit 0 with
                | some u => decide (((Dev.stampAdmit 0 dev11).aqHolds u e = false))
                | _ => false) = true)
        | _ => false) = true) := by 
  refine ⟨?_, ?_, ?_, ?_⟩ <;> decide +kernel

theorem test_hyps_MeasurementsArmAndCount :
    ((dev12.meas 0).open_ = some 999995 ∧ (dev12.meas 0).armed = true ∧ (dev12.meas 0).func = 6 ∧ (0 < 512 * 4096 ∧ 4096 *
      (999995 + 1024 * (dev12.meas 0).slot + 256) + 0 < 4096 * (999995 + dev12.tiaTimeoutT) ∧ ((dev12.meas 0).gateLen = 0 ∨
      4096 * (999995 + 1024 * (dev12.meas 0).slot + 256) + 0 < 4096 * (999995 + (dev12.meas 0).gateLen)))) ∧
    ((dev12.meas 0).open_ = some 999995 ∧ (dev12.meas 0).armed = true ∧ (dev12.meas 0).func = 6 ∧ (¬(2097152 < 512 * 4096 ∧
      4096 * (999995 + 1024 * (dev12.meas 0).slot + 256) + 2097152 < 4096 * (999995 + dev12.tiaTimeoutT) ∧ ((dev12.meas
      0).gateLen = 0 ∨ 4096 * (999995 + 1024 * (dev12.meas 0).slot + 256) + 2097152 < 4096 * (999995 + (dev12.meas
      0).gateLen))))) := by 
  refine ⟨?_, ?_⟩ <;> decide +kernel

theorem test_hyps_SwitchesFollowOutEn :
    ((dev13.isMember 256 = false ∧ (256 < 256 → dev13.smcLogicalOf 256 = some 256))) ∧ dev13.hostOpen (SMCG.OUT_OUT_EN
      (groupOf 256) (smcPage 256)).addr = true ∧ dev13.smcSpareBusy (groupOf 256) (smcPage 256) = true := by decide +kernel

theorem test_hyps_ConversionsAndClamps :
    ((dev14.isMember 0 = false ∧ (0 < 256 → dev14.smcLogicalOf 0 = some 0))) ∧ 0 < 256 ∧ dev14.smcGet SMCG.CARRY_ON_BUS 0 =
      0 ∧ (match (dev14.sm 0).mons with
        | q :: _ => decide (
            (q.flag = false) ∧ (signedOf 18 (dev14.get (SMCG.TH (groupOf 0) (smcPage 0) 0)) < (5 : BitVec 18).toInt) ∧ (max
              1 (dev14.smcGet SMCG.MON_MON_DEB 0) ≤ q.run + 1))
        | _ => false) = true := by decide +kernel

theorem test_hyps_ReferencesAgesConstants :
    constOf 0x10 = none := by decide +kernel

theorem test_hyps_BlocksClose :
    dev15.ledgerWorks = false := by decide +kernel

end Boundaries

/-! ### Start-up -/

/-- The first bytes of `payload`. -/
def payloadHead : List Byte := 2 :: List.replicate 103 0

/-- A payload of 2280 bytes: as DRAM_DELAYS a block of bin 2, as CHMAP every channel unmapped. -/
def payload : List Byte := payloadHead ++ List.replicate 2176 0xFF

/-- The listed cells of a list of bytes from an address on. -/
def cells (a : Nat) (l : List Byte) : Tab Byte := l.mapIdx fun i b => (a + i, b)

/-- A section's header: type, length and CRC of the payload. -/
def sectionHead (a typ len : Nat) (crc : BitVec 32) : Tab Byte :=
  cells a (leBytes 4 typ ++ leBytes 4 len ++ leBytes 4 crc.toNat)

/-- An image in copy A: five sections, two of them with `payload` and a CRC word. What is not listed is erased. -/
def imageNvm (crc : BitVec 32) : Tab Byte :=
  cells 6 (leBytes 2 5 ++ leBytes 4 4864) ++ sectionHead 64 1 0 0 ++ sectionHead 128 3 0 0 ++ sectionHead 192 5 0 0 ++
    sectionHead 256 2 2280 crc ++ cells 272 payloadHead ++ sectionHead 2560 4 2280 crc ++ cells 2576 payloadHead

/-- The memories with that image. -/
def imageOf (crc : BitVec 32) : Mem := { State.reset.mem with nvm := imageNvm crc }

/-- The memories with that image and the right CRC. -/
def imageMem : Mem := imageOf (crc32c payload)

/-- BOOT at a step, copy A chosen, the PLL locked. -/
def booting (step : Nat) : Dev :=
  (((Dev.reset.put GLB.STATE_STATE stBoot).put GLB.STATE_STEP step).put PLN.QUALITY_PLLT_LOCK 1).modBoot fun b =>
    { b with chosen := 1 }

/-- `booting` with the image in NVM. -/
def image (step : Nat) : State := { withDev (booting step) with mem := imageMem }

theorem image_sections : imageMem.sections 1 =
    some [⟨1, 64, 0⟩, ⟨3, 128, 0⟩, ⟨5, 192, 0⟩, ⟨2, 256, 2280⟩, ⟨4, 2560, 2280⟩] := by decide +kernel

/-- Every listed key of the image is below 376, or from 2560 on and below 2680. -/
theorem image_keys : ∀ c ∈ imageNvm (crc32c payload), c.1 < 376 ∨ (2560 ≤ c.1 ∧ c.1 < 2680) := by
  have h : ((imageNvm (crc32c payload)).all fun c => decide (c.1 < 376) || (decide (2560 ≤ c.1) && decide (c.1 < 2680))) = true := by decide +kernel
  intro c hc; simpa using List.all_eq_true.1 h c hc

theorem get_unlisted {α : Type} (dflt : Nat → α) (k : Nat) : ∀ t : Tab α, (∀ c ∈ t, c.1 ≠ k) → Tab.get dflt t k = dflt k
  | [], _ => rfl
  | (j, v) :: t, h => by
    unfold Tab.get
    rw [if_neg fun e => h (j, v) (.head _) e.symm]
    split
    · rfl
    · exact get_unlisted dflt k t fun c hc => h c (.tail _ hc)

theorem payloadHead_length : payloadHead.length = 104 := by decide

theorem payload_length : payload.length = 2280 := by
  unfold payload; rw [List.length_append, payloadHead_length, List.length_replicate]

theorem payload_get (i : Nat) (h : i < 2280) : payload[i]? = some (if i < 104 then payloadHead.getD i 0 else 0xFF) := by
  unfold payload
  split
  · have hi : i < payloadHead.length := by rwa [payloadHead_length]
    rw [List.getElem?_append_left hi, List.getD_eq_getElem?_getD, List.getElem?_eq_getElem hi]; rfl
  · rw [List.getElem?_append_right (by rw [payloadHead_length]; omega), payloadHead_length,
      List.getElem?_replicate_of_lt (by omega)]

/-- The image holds `payload` behind both of its long headers. -/
theorem image_payload (a : Nat) (ha : a = 272 ∨ a = 2576) : imageMem.nvmBytes a 2280 = payload := by
  have low : ∀ i, i < 104 → Tab.get nvmByte imageMem.nvm (nvmAt a i) = payloadHead.getD i 0 := by
    rcases ha with rfl | rfl <;> decide +kernel
  unfold Mem.nvmBytes
  refine List.ext_getElem (by rw [payload_length, List.length_map, List.length_range]) fun i _ h => ?_
  have hi : i < 2280 := by rwa [payload_length] at h
  have e := Option.some.inj ((List.getElem?_eq_getElem h).symm.trans (payload_get i hi))
  rw [e, List.getElem_map, List.getElem_range]
  split
  · rw [low i ‹_›]
  · refine get_unlisted _ _ _ fun c hc e => ?_
    have := image_keys c hc
    unfold nvmAt at e; rcases ha with rfl | rfl <;> omega

theorem get_append {α : Type} (dflt : Nat → α) (k : Nat) (B : Tab α) : ∀ A : Tab α, (∀ c ∈ A, c.1 < k) →
    Tab.get dflt (A ++ B) k = Tab.get dflt B k
  | [], _ => rfl
  | (j, v) :: A, h => by
    have hj : j < k := h (j, v) (.head _)
    rw [List.cons_append, Tab.get, if_neg (by omega), if_neg (by omega), get_append dflt k B A fun c hc => h c (.tail _ hc)]

/-- What precedes the first long header, and what precedes the second. -/
def image1 : Tab Byte :=
  cells 6 (leBytes 2 5 ++ leBytes 4 4864) ++ sectionHead 64 1 0 0 ++ sectionHead 128 3 0 0 ++ sectionHead 192 5 0 0

theorem image1_keys : ∀ c ∈ image1, c.1 < 256 := by decide +kernel

theorem head_get (a typ len : Nat) (crc : BitVec 32) (B : Tab Byte) (i : Nat) (hi : i < 4) :
    Tab.get nvmByte (sectionHead a typ len crc ++ B) (a + 8 + i) = (leBytes 4 crc.toNat).getD i 0 := by
  rcases (by omega : i = 0 ∨ i = 1 ∨ i = 2 ∨ i = 3) with rfl | rfl | rfl | rfl <;>
    simp [sectionHead, cells, leBytes, Tab.get] <;> split_ifs <;> first | rfl | omega

theorem image_num (crc : BitVec 32) (a : Nat) (ha : a = 264 ∨ a = 2568) :
    (imageOf crc).nvmNum a 4 = crc.toNat := by
  have get (i : Nat) (hi : i < 4) : Tab.get nvmByte (imageOf crc).nvm (nvmAt a i) = (leBytes 4 crc.toNat).getD i 0 := by
    have hn : nvmAt a i = a + i := Nat.mod_eq_of_lt (by omega)
    rw [hn]
    show Tab.get nvmByte (imageNvm crc) (a + i) = _
    have he : imageNvm crc = image1 ++ (sectionHead 256 2 2280 crc ++ (cells 272 payloadHead ++
      (sectionHead 2560 4 2280 crc ++ cells 2576 payloadHead))) := by
      simp only [imageNvm, image1, List.append_assoc]
    rw [he, get_append _ _ _ _ fun c hc => by have := image1_keys c hc; omega]
    rcases ha with rfl | rfl
    · exact head_get 256 2 2280 _ _ i hi
    · rw [get_append _ _ _ _ fun c hc => ?_, get_append _ _ _ _ fun c hc => ?_]
      · exact head_get 2560 4 2280 _ _ i hi
      · have := (by decide +kernel : ∀ c ∈ cells 272 payloadHead, c.1 < 2560) c hc; omega
      · have : ∃ j, j < 12 ∧ c.1 = 256 + j := by
          obtain ⟨j, hj, rfl⟩ := List.mem_mapIdx.1 hc
          exact ⟨j, hj, rfl⟩
        omega
  have h : (imageOf crc).nvmBytes a 4 = leBytes 4 crc.toNat := by
    unfold Mem.nvmBytes
    simp only [show List.range 4 = [0, 1, 2, 3] from rfl, List.map_cons, List.map_nil, get 0 (by omega), get 1 (by omega),
      get 2 (by omega), get 3 (by omega)]
    rfl
  unfold Mem.nvmNum
  rw [h]
  have := crc.isLt
  simp only [leBytes, ofLeBytes, BitVec.toNat_ofNat]
  omega

theorem image_crcOk (a typ : Nat) (ha : a = 256 ∨ a = 2560) : imageMem.crcOk ⟨typ, a, 2280⟩ = true := by
  unfold Mem.crcOk Mem.payload
  rw [image_payload _ (by dsimp only; omega), imageMem, image_num _ _ (by dsimp only; omega)]
  exact beq_self_eq_true _

theorem image_copyCheck (h : Config.sigReq = false) :
    copyCheck imageMem ((booting 5).put GLB.STATE_STEP 6) = 1 := by
  have h4 : imageMem.crcOk ⟨4, 2560, 2280⟩ = true := image_crcOk _ _ (.inr rfl)
  have h1 : imageMem.crcOk ⟨1, 64, 0⟩ = true := by decide +kernel
  have hs : ((booting 5).put GLB.STATE_STEP 6).sigRequired = false := by
    unfold Dev.sigRequired; rw [h]; decide +kernel
  unfold copyCheck
  simp only [show ((booting 5).put GLB.STATE_STEP 6).boot.chosen = 1 from rfl,
    image_sections, hs, Bool.false_and, List.all_cons, List.all_nil, h1, h4]
  decide

theorem image_sectionOf (typ : Nat) : imageMem.sectionOf 1 typ =
    [⟨1, 64, 0⟩, ⟨3, 128, 0⟩, ⟨5, 192, 0⟩, ⟨2, 256, 2280⟩, ⟨4, 2560, 2280⟩].find? fun s : Section => s.typ == typ := by
  unfold Mem.sectionOf; rw [image_sections]; rfl

theorem image_chmap : imageMem.optional 1 4 = payload := by
  have h : imageMem.sectionOf 1 4 = some ⟨4, 2560, 2280⟩ := (image_sectionOf 4).trans (by decide)
  unfold Mem.optional
  rw [h]
  dsimp only
  rw [image_crcOk _ _ (.inr rfl), if_pos rfl]
  exact image_payload 2576 (.inr rfl)

theorem unmapped_addr (c e : Nat) (h : (PINB.MAP_UNMAPPED (c / 32) (c % 32)).addr = (PINB.MAP_UNMAPPED (e / 32) (e % 32)).addr) :
    c = e := by unfold PINB.MAP_UNMAPPED at h; dsimp only at h; omega

/-- Writing 1 to UNMAPPED of every channel of a list leaves it 1 in each of them. -/
theorem unmapped_each (e : Nat) : ∀ (l : List Nat) (d : Dev), e ∈ l ∨ d.on (PINB.MAP_UNMAPPED (e / 32) (e % 32)) = true →
    (d.each l fun c d => d.put (PINB.MAP_UNMAPPED (c / 32) (c % 32)) 1).on (PINB.MAP_UNMAPPED (e / 32) (e % 32)) = true
  | [], d, h => h.resolve_left (by simp)
  | c :: l, d, h => by
    have step : ∀ x : Dev, (x.each (c :: l) fun c d => d.put (PINB.MAP_UNMAPPED (c / 32) (c % 32)) 1) =
      (x.put (PINB.MAP_UNMAPPED (c / 32) (c % 32)) 1).each l fun c d => d.put (PINB.MAP_UNMAPPED (c / 32) (c % 32)) 1 :=
        fun _ => rfl
    rw [step]
    refine unmapped_each e l _ ?_
    by_cases he : e = c
    · right; subst he; unfold Dev.on; rw [Dev.get_put_self _ _ _ (by decide : 16 + 1 ≤ 32)]; rfl
    · rcases h with h | h
      · exact .inl ((List.mem_cons.1 h).resolve_left he)
      · right; unfold Dev.on at *
        rw [Dev.get_put_other _ _ (fun a => he (unmapped_addr e c a)) (by decide : (1 : Nat) ≠ 64) (by decide : (1 : Nat) ≠ 64)]
        exact h

theorem payload_high (o : Nat) (h1 : 104 ≤ o) (h2 : o < 2280) : ofLeBytes ((payload.drop o).take 1) = 0xFF := by
  have e : payload.drop o = 0xFF :: List.replicate (2279 - o) 0xFF := by
    unfold payload
    rw [List.drop_append, payloadHead_length, List.drop_of_length_le (by rw [payloadHead_length]; exact h1), List.nil_append,
      List.drop_replicate, show 2176 - (o - 104) = (2279 - o) + 1 by omega, List.replicate_succ]
  rw [e]; rfl

/-- `payload` as CHMAP is in order for every device. -/
theorem payload_chmap (d : Dev) : ∃ d', d.loadChmap payload = some d' := by
  have hi (c : Nat) (hc : c ∈ List.range 1024) : ofLeBytes ((payload.drop (128 + 2 * c)).take 1) = 0xFF :=
    payload_high _ (by omega) (by have := List.mem_range.1 hc; omega)
  have lo : ((List.range 96).all fun k => decide (ofLeBytes ((payload.drop k).take 1) ≤ 3)) = true := by decide +kernel
  have po : ((List.range 4).all fun n => decide (ofLeBytes ((payload.drop (96 + 2 * n)).take 2) ≤ 256)) = true := by
    decide +kernel
  have legal : ((List.range 1024).all fun c =>
      ofLeBytes ((payload.drop (128 + 2 * c)).take 1) == 0xFF || decide (ofLeBytes ((payload.drop (128 + 2 * c)).take 1) < 64)) =
        true := List.all_eq_true.2 fun c hc => by rw [hi c hc]; rfl
  have fold (x : Dev) : (x.each (List.range 1024) fun c d =>
      let s := ofLeBytes ((payload.drop (128 + 2 * c)).take 1)
      let d := d.put (PINB.MAP_UNMAPPED (c / 32) (c % 32)) (bit (s == 0xFF))
      if s = 0xFF then d
      else (d.put (PINB.MAP_SITE (c / 32) (c % 32)) s).put (PINB.MAP_POS (c / 32) (c % 32))
        (ofLeBytes ((payload.drop (129 + 2 * c)).take 1))) =
      x.each (List.range 1024) fun c d => d.put (PINB.MAP_UNMAPPED (c / 32) (c % 32)) 1 := by
    unfold Dev.each
    refine List.foldl_ext _ _ _ fun d c hc => ?_
    dsimp only
    rw [hi c hc]; rfl
  unfold Dev.loadChmap
  simp only [lo, po, legal, fold, Bool.and_true, Bool.true_and]
  rw [mapFirstBad_of_unmapped _ fun c hc => unmapped_each c _ _ (.inl (List.mem_range.2 hc))]
  exact ⟨_, rfl⟩

theorem calm_each {α : Type} (l : List α) (f : α → Dev → Dev) {d : Dev} (h : ∀ x d, d.Calm → (f x d).Calm) (c : d.Calm) :
    (d.each l f).Calm := d.each_keeps l f c fun x _ d => h x d

theorem calm_loadChmap {p : List Byte} {d d' : Dev} (c : d.Calm) (h : d.loadChmap p = some d') : d'.Calm := by
  unfold Dev.loadChmap at h
  have e := (Option.ite_none_right_eq_some.1 h).2
  rw [← Option.some.inj e]
  refine calm_each _ _ (fun x d c => ?_) (calm_each _ _ (fun x d c => c.put _ _) (calm_each _ _ (fun x d c => c.put _ _)
    (calm_each _ _ (fun x d c => c.put _ _) c)))
  dsimp only
  split
  · exact c.put _ _
  · exact ((c.put _ _).put _ _).put _ _

theorem calm_mapCommit {d : Dev} (c : d.Calm) : d.mapCommit.Calm := by
  unfold Dev.mapCommit
  dsimp only
  split
  · exact (c.put _ _).ignored _
  · split
    · exact ((c.put _ _).put _ _).ignored _
    · refine Dev.Calm.emit (Dev.Calm.put ?_ _ _) _ _ _
      unfold Dev.applyMaps
      exact calm_each _ _ (fun x d c => c.setReg _ _) (by unfold Dev.Calm at *; exact c)

theorem calm_applyEntries_nil {d : Dev} (f : Nat → Bool) (c : d.Calm) : (d.applyEntries f []).Calm := by
  unfold Dev.Calm at *; exact c

/-- The chosen copy is in order and its payloads apply. The check of its signature is the owner's choice (R408): `h` says
that he asks for none. -/
theorem test_hyps_StartUpSteps_apply (h : Config.sigReq = false) :
    (booting 5).Calm ∧ ((booting 5).st = stBoot ∧ (booting 5).boot.chosen ≠ 0 ∧
      ((booting 5).get GLB.STATE_STEP = 5 ∨ (booting 5).get GLB.STATE_STEP = 6) ∧ (booting 5).on PLN.QUALITY_PLLT_LOCK = true) ∧
    copyCheck imageMem ((booting 5).put GLB.STATE_STEP 6) = 1 ∧
    ∃ entered, ((booting 5).put GLB.STATE_STEP 6).applyEntries (fun _ => true) (imageMem.optional 1 1) = entered ∧
      entered.Calm ∧ ∃ d', entered.loadChmap (imageMem.optional 1 4) = some d' ∧
        (d'.mapCommit.applyEntries governorAddr (imageMem.optional 1 6)).Calm := by
  have h1 : imageMem.optional 1 1 = [] := by
    have e : imageMem.sectionOf 1 1 = some ⟨1, 64, 0⟩ := (image_sectionOf 1).trans (by decide)
    unfold Mem.optional; rw [e]; dsimp only; rw [(by decide +kernel : imageMem.crcOk ⟨1, 64, 0⟩ = true), if_pos rfl]; rfl
  have h6 : imageMem.optional 1 6 = [] := by
    have e : imageMem.sectionOf 1 6 = none := (image_sectionOf 6).trans (by decide)
    unfold Mem.optional; rw [e]
  have calm : (((booting 5).put GLB.STATE_STEP 6).applyEntries (fun _ => true) []).Calm := by unfold Dev.Calm; decide +kernel
  obtain ⟨d', hd⟩ := payload_chmap (((booting 5).put GLB.STATE_STEP 6).applyEntries (fun _ => true) [])
  have calm5 : (booting 5).Calm := by unfold Dev.Calm; decide +kernel
  have runs : (booting 5).st = stBoot ∧ (booting 5).boot.chosen ≠ 0 ∧
      ((booting 5).get GLB.STATE_STEP = 5 ∨ (booting 5).get GLB.STATE_STEP = 6) ∧ (booting 5).on PLN.QUALITY_PLLT_LOCK = true := by
    decide +kernel
  rw [h1, image_chmap, h6]
  exact ⟨calm5, runs, image_copyCheck h, _, rfl, calm, d', hd, calm_applyEntries_nil _ (calm_mapCommit (calm_loadChmap calm hd))⟩

theorem image_bins : binBlocks (imageMem.payload ⟨2, 256, 2280⟩) = [(2, 0)] := by
  show binBlocks (imageMem.nvmBytes 272 2280) = _
  rw [image_payload 272 (.inl rfl)]
  unfold binBlocks
  rw [payload_length]; rfl

/-- A copy whose delays are for bin 2 alone, with a limit of 1 and with a limit of 2. -/
theorem test_hyps_StartUpSteps_verify :
    (∀ d ∈ [(booting 7).put DRC.CONFIG_BIN_MAX 1, booting 7], d.st = stBoot ∧ d.get GLB.STATE_STEP = 7 ∧
      d.flt.alarms = [] ∧ d.boot.chosen = 1) ∧
    imageMem.sectionOf 1 2 = some ⟨2, 256, 2280⟩ ∧ imageMem.crcOk ⟨2, 256, 2280⟩ = true ∧
    binBlocks (imageMem.payload ⟨2, 256, 2280⟩) = [(2, 0)] ∧
    let blocks := [(2, 0)].filter fun (b, _) => decide (b ≤ 2)
    let tries := fun d : Dev => [2, 1, 0].filter fun b => decide (b ≤ d.get DRC.CONFIG_BIN_MAX) && blocks.any fun (y, _) => y == b
    blocks ≠ [] ∧ tries ((booting 7).put DRC.CONFIG_BIN_MAX 1) = [] ∧
    (verifyBins (tries (booting 7)) [1] = some (2, 1) ∧ ((List.range 4).filter (1 : Nat).testBit).length < 2) ∧
    verifyBins (tries (booting 7)) [] = some (2, 15) ∧ 2 ≤ ((List.range 4).filter (15 : Nat).testBit).length := by
  have e : imageMem.sectionOf 1 2 = some ⟨2, 256, 2280⟩ := (image_sectionOf 2).trans (by decide)
  refine ⟨by decide +kernel, e, image_crcOk 256 2 (.inl rfl), image_bins, ?_⟩
  decide +kernel

/-- A CHMAP of one byte that names no engine, with a second copy to try and without one. -/
theorem test_hyps_StartUpSteps_badMap (h : Config.sigReq = false) :
    ∀ s ∈ [StartUp.st 5 1 StartUp.empties, StartUp.st 6 0 StartUp.empties],
      s.dev.Calm ∧ (s.dev.st = stBoot ∧ s.dev.boot.chosen = 1 ∧ (s.dev.get GLB.STATE_STEP = 5 ∨ s.dev.get GLB.STATE_STEP = 6) ∧
        s.dev.on PLN.QUALITY_PLLT_LOCK = true) ∧ copyCheck s.mem (s.dev.put GLB.STATE_STEP 6) = 1 ∧
      ∃ entered, (s.dev.put GLB.STATE_STEP 6).applyEntries (fun _ => true) (s.mem.optional 1 1) = entered ∧
        entered.Calm ∧ entered.loadChmap (s.mem.optional 1 4) = none ∧ s.dev.RegsBut [GLB.STATE_STEP.addr] entered := by
  have h1 : StartUp.empties.optional 1 1 = [] := by decide +kernel
  have h4 : StartUp.empties.optional 1 4 = [4] := by decide +kernel
  have check (s : State) (hs : s.mem = StartUp.empties) (hc : s.dev.boot.chosen = 1)
      (ho : (s.dev.put GLB.STATE_STEP 6).get GLB.OTP_STATUS_ROW_ERR = 0) : copyCheck s.mem (s.dev.put GLB.STATE_STEP 6) = 1 := by
    have hr : (s.dev.put GLB.STATE_STEP 6).sigRequired = false := by unfold Dev.sigRequired; rw [h, ho]; rfl
    unfold copyCheck
    rw [show (s.dev.put GLB.STATE_STEP 6).boot.chosen = 1 from hc, hr, hs]
    simp only [Bool.false_and]
    decide +kernel
  have none_ (d : Dev) : d.loadChmap [4] = none := by
    unfold Dev.loadChmap
    exact if_neg (by
      rw [show ((List.range 96).all fun k => decide (ofLeBytes ((([4] : List Byte).drop k).take 1) ≤ 3)) = false by decide]
      simp)
  have but (d : Dev) (hd : d.Calm) : ((d.put GLB.STATE_STEP 6).applyEntries (fun _ => true) []).Calm ∧
      d.RegsBut [GLB.STATE_STEP.addr] ((d.put GLB.STATE_STEP 6).applyEntries (fun _ => true) []) :=
    ⟨calm_applyEntries_nil _ (hd.put _ _), fun a ha => Dev.reg_setReg_ne d _ (by simpa using ha)⟩
  have all (s : State) (hs : s.mem = StartUp.empties) (hc : s.dev.boot.chosen = 1)
      (ho : (s.dev.put GLB.STATE_STEP 6).get GLB.OTP_STATUS_ROW_ERR = 0) (hd : s.dev.Calm) :=
    And.intro (check s hs hc ho) (by
      refine ⟨_, rfl, ?_⟩
      rw [hs, h1, h4]
      exact ⟨(but s.dev hd).1, none_ _, (but s.dev hd).2⟩ :
      ∃ entered, (s.dev.put GLB.STATE_STEP 6).applyEntries (fun _ => true) (s.mem.optional 1 1) = entered ∧
        entered.Calm ∧ entered.loadChmap (s.mem.optional 1 4) = none ∧ s.dev.RegsBut [GLB.STATE_STEP.addr] entered)
  intro s hs
  have runs : s.dev.flt.alarms = [] ∧ (s.dev.st = stBoot ∧ s.dev.boot.chosen = 1 ∧
      (s.dev.get GLB.STATE_STEP = 5 ∨ s.dev.get GLB.STATE_STEP = 6) ∧ s.dev.on PLN.QUALITY_PLLT_LOCK = true) ∧
      (s.dev.put GLB.STATE_STEP 6).get GLB.OTP_STATUS_ROW_ERR = 0 := by
    rcases List.mem_cons.1 hs with rfl | hs
    · decide +kernel
    · rw [List.mem_singleton.1 hs]; decide +kernel
  have hm : s.mem = StartUp.empties := by
    rcases List.mem_cons.1 hs with rfl | hs
    · rfl
    · rw [List.mem_singleton.1 hs]; rfl
  exact ⟨runs.1, runs.2.1, all s hm runs.2.1.2.1 runs.2.2 runs.1⟩

/-! ### Single steps -/

/-- The check value of CRC-32C over the digits 1 to 9 (the polynomial R99 names). -/
theorem test_crc32c : crc32c [0x31, 0x32, 0x33, 0x34, 0x35, 0x36, 0x37, 0x38, 0x39] = 0xE3069283 := by decide +kernel

/-- The published digest of the bytes abc, its first word (the hash R287 names). -/
theorem test_sha256 : (sha256 [0x61, 0x62, 0x63]).take 4 = [0xBA, 0x78, 0x16, 0xBF] := by decide +kernel

/-- The published digest of the bytes abc, its first word (the hash R408 names). -/
theorem test_sha384 : (sha384 [0x61, 0x62, 0x63]).take 4 = [0xCB, 0x00, 0x75, 0x3F] := by decide +kernel

/-- With no command waiting, a step lets one TCLK pass (log 2). -/
theorem test_idle_step : ∃ t, step (withDev up) = .next t ∧ t.dev.elapsed = up.elapsed + 1 ∧ t.dev.count = up.count + 1 :=
  ⟨_, rfl, by decide +kernel, by decide +kernel⟩

/-- A command waits behind the first one. -/
theorem test_queue : ∃ t, step { withDev up with pending := [.nvmRead, .nvmProgram] } = .next t ∧ t.pending = [.nvmProgram] :=
  ⟨_, rfl, by decide +kernel⟩

/-- A write of a plain register: GOV.IDLE_T reads back what was written (R19). -/
theorem test_plain_write : ∃ t, exec (.registerWrite (BitVec.ofNat 26 GOV.IDLE_T.addr) [7] 15 0) (withDev up) = .next t ∧
    t.dev.get GOV.IDLE_T = 7 := ⟨_, rfl, by decide +kernel⟩

/-- A poisoned write changes nothing but what reports it (R365). -/
theorem test_poisoned : ∃ t, exec (.poisonedWrite 0 (BitVec.ofNat 26 GOV.IDLE_T.addr)) (withDev up) = .next t ∧
    t.dev.get GOV.IDLE_T = up.get GOV.IDLE_T := ⟨_, rfl, by decide +kernel⟩

/-- A START of an engine with no valid program leaves it in IDLE (R88). -/
theorem test_start_refused : ∃ t, exec (.start 0) (withDev (up.put (SEQ.STATUS_PROG_VALID 0) 0)) = .next t ∧
    t.dev.engState 0 = seqIdle := ⟨_, rfl, by decide +kernel⟩

end Sys2Proof.Tests
end

/-! ## Plain time: registers apart, and what units leave alone

`Fld.Apart` says when two fields share no bit. `Dev.Aside` is the frame of everything that the units outside PLN do: time, PLN,
pending reactions and every dword below the ledger's window stay, but for SYNC_CTRL, which a request may clear (R49). -/
section
namespace Sys2Proof.Machine

/-! ### Fields that share no bit -/

/-- Two fields that lie in different dwords, or in one dword side by side. -/
abbrev Fld.Apart (f g : Fld) : Prop :=
  (g.addr ≠ f.addr ∧ (g.addr ≠ f.addr + 4 ∨ f.w ≠ 64) ∧ (g.addr + 4 ≠ f.addr ∨ g.w ≠ 64)) ∨
    (g.addr = f.addr ∧ f.lo + f.w ≤ 32 ∧ g.lo + g.w ≤ 32 ∧ (f.lo + f.w ≤ g.lo ∨ g.lo + g.w ≤ f.lo))

theorem Dev.get_put_apart (d : Dev) {f g : Fld} (v : Nat) (h : f.Apart g) : (d.put f v).get g = d.get g := by
  rcases h with ⟨h1, h2, h3⟩ | ⟨h1, h2, h3, h4⟩
  · exact d.get_put_ne v h1 h2 h3 (.inl (by omega))
  · exact d.get_put_beside v h1 h2 h3 h4

theorem Dev.on_put_apart (d : Dev) {f g : Fld} (v : Nat) (h : f.Apart g) : (d.put f v).on g = d.on g := by
  unfold Dev.on; rw [d.get_put_apart v h]

/-- A one-bit field reads back the bit written. -/
theorem Dev.on_put_bit (d : Dev) (f : Fld) (b : Bool) (h : f.lo + 1 ≤ 32) (hw : f.w = 1) : (d.put f (bit b)).on f = b := by
  unfold Dev.on
  rw [d.get_put_self f _ (by omega), hw]
  cases b <;> rfl

/-- A dword that a field's write does not touch. -/
theorem Dev.reg_put_ne (d : Dev) {f : Fld} {a : Nat} (v : Nat) (h : a ≠ f.addr) (h4 : a ≠ f.addr + 4 ∨ f.w ≠ 64) :
    (d.put f v).reg a = d.reg a := by
  rcases h4 with h4 | h4
  · exact (d.wrote_put f v).regs a (by simp [h, h4])
  · exact (d.wrote_put_dword f v h4).regs a (by simp [h])

/-- A counter that saturates reads one more, or its maximum. -/
theorem Dev.get_bump_self (d : Dev) (f : Fld) (hw : f.lo + f.w ≤ 32) :
    (d.bump f).get f = min (2 ^ f.w - 1) (d.get f + 1) := by
  have : 0 < 2 ^ f.w := by positivity
  unfold Dev.bump Dev.bumpBy
  rw [d.get_put_self f _ hw, Nat.mod_eq_of_lt (by omega)]

/-- A field of two dwords that read alike reads alike. -/
theorem Dev.get_of_regs {d d' : Dev} {f : Fld} (h : d'.reg f.addr = d.reg f.addr) (h4 : d'.reg (f.addr + 4) = d.reg (f.addr + 4)) :
    d'.get f = d.get f := by
  unfold Dev.get; rw [h, h4]

theorem Dev.on_of_get {d d' : Dev} {f : Fld} (h : d'.get f = d.get f) : d'.on f = d.on f := by unfold Dev.on; rw [h]

/-! ### The registers through operations that do not write them -/

@[simp] theorem Dev.modPln_on (d : Dev) (g : PlnSt → PlnSt) (f : Fld) : (d.modPln g).on f = d.on f := rfl
@[simp] theorem Dev.modPln_pln (d : Dev) (g : PlnSt → PlnSt) : (d.modPln g).pln = g d.pln := rfl
@[simp] theorem Dev.emit_get (d : Dev) (p t : Nat) (x : List Byte) (f : Fld) : (d.emit p t x).get f = d.get f :=
  (d.same_emit p t x).get f
@[simp] theorem Dev.emit_on (d : Dev) (p t : Nat) (x : List Byte) (f : Fld) : (d.emit p t x).on f = d.on f :=
  (d.same_emit p t x).on f
@[simp] theorem Dev.until_get (d : Dev) (t : Nat) (f : Fld) : (d.until t).get f = d.get f := Dev.get_congr (d.until_regs t) f
@[simp] theorem Dev.until_on (d : Dev) (t : Nat) (f : Fld) : (d.until t).on f = d.on f := Dev.on_congr (d.until_regs t) f
@[simp] theorem Dev.modMeas_get (d : Dev) (k : Nat) (g : TiaM → TiaM) (f : Fld) : (d.modMeas k g).get f = d.get f := rfl
@[simp] theorem Dev.modAq_get (d : Dev) (u : Nat) (g : AqSt → AqSt) (f : Fld) : (d.modAq u g).get f = d.get f := rfl

/-- A change between READY and RUN is a signal and nothing else. -/
theorem Dev.same_stateSignal (d was : Dev) : d.Same (d.stateSignal was) := by
  unfold Dev.stateSignal
  split_ifs
  · exact d.same_signal 2
  · exact .refl d

@[simp] theorem Dev.stateSignal_get (d was : Dev) (f : Fld) : (d.stateSignal was).get f = d.get f := (d.same_stateSignal was).get f

@[simp] theorem Dev.stateSignal_flt (d was : Dev) : (d.stateSignal was).flt = d.flt := by
  unfold Dev.stateSignal; split_ifs <;> rfl

@[simp] theorem Dev.stateSignal_boot (d was : Dev) : (d.stateSignal was).boot = d.boot := by
  unfold Dev.stateSignal; split_ifs <;> rfl

@[simp] theorem Dev.stateSignal_ldg (d was : Dev) : (d.stateSignal was).ldg = d.ldg := by
  unfold Dev.stateSignal; split_ifs <;> rfl

/-! ### What stays of BOOT and FLT through reports -/

@[simp] theorem Dev.produce_chosen (d : Dev) (r : Rec) : (d.produce r).boot.chosen = d.boot.chosen := by
  unfold Dev.produce; dsimp only; split_ifs <;> rfl

@[simp] theorem Dev.emitAt_chosen (d : Dev) (c f p t fl : Nat) (x : List Byte) :
    (d.emitAt c f p t fl x).boot.chosen = d.boot.chosen := by
  unfold Dev.emitAt
  dsimp only
  split_ifs
  · rfl
  · exact d.produce_chosen _

theorem Dev.noticeOf_chosen (d : Dev) (a : Detection) (x : List Byte) : (d.noticeOf a x).boot.chosen = d.boot.chosen :=
  Dev.emitAt_chosen _ _ _ _ _ _ _

theorem Dev.noticeOf_alarms (d : Dev) (a : Detection) (x : List Byte) : (d.noticeOf a x).flt.alarms = d.flt.alarms := by
  unfold Dev.noticeOf Dev.noticeRecord
  rw [Dev.signal_flt, Dev.alarms_emitAt]
  rfl

theorem Dev.noticeOf_fc0 (d : Dev) (a : Detection) (x : List Byte) : (d.noticeOf a x).flt.fc0 = d.flt.fc0 := by
  unfold Dev.noticeOf Dev.noticeRecord
  rw [Dev.signal_flt, Dev.alarms_emitAt]
  rfl

/-! ### Aside of PLN -/

/-- What a unit other than PLN leaves alone: time, PLN's own state, the reactions that wait, the first FC0, the copy in use,
and every dword of GLB, PLN, FLT, GOV and BOOT but PLN.SYNC_CTRL. -/
structure Dev.Aside (d d' : Dev) : Prop where
  count : d'.count = d.count
  elapsed : d'.elapsed = d.elapsed
  pln : d'.pln = d.pln
  alarms : d'.flt.alarms = d.flt.alarms
  fc0 : d'.flt.fc0 = d.flt.fc0
  chosen : d'.boot.chosen = d.boot.chosen
  low : ∀ a, a < 0x50000 → a ≠ 0x10010 → d'.reg a = d.reg a

theorem Dev.Aside.refl (d : Dev) : d.Aside d := ⟨rfl, rfl, rfl, rfl, rfl, rfl, fun _ _ _ => rfl⟩

theorem Dev.Aside.trans {a b c : Dev} (h : a.Aside b) (k : b.Aside c) : a.Aside c where
  count := k.count.trans h.count
  elapsed := k.elapsed.trans h.elapsed
  pln := k.pln.trans h.pln
  alarms := k.alarms.trans h.alarms
  fc0 := k.fc0.trans h.fc0
  chosen := k.chosen.trans h.chosen
  low x hx hs := (k.low x hx hs).trans (h.low x hx hs)

/-- An operation that only changes what lies outside the frame keeps it. -/
theorem Dev.Same.aside {a b : Dev} (h : a.Same b) (ha : b.flt.alarms = a.flt.alarms) (hf : b.flt.fc0 = a.flt.fc0)
    (hc : b.boot.chosen = a.boot.chosen) : a.Aside b :=
  ⟨h.still.count, h.still.elapsed, h.still.pln, ha, hf, hc, fun x _ _ => h.reg x⟩

/-- A low field outside SYNC_CTRL reads as before. -/
theorem Dev.Aside.get {a b : Dev} (h : a.Aside b) {f : Fld}
    (hl : f.addr + 4 < 0x50000) (hs : f.addr ≠ 0x10010) (h4 : f.addr ≠ 0x1000C := by decide) : b.get f = a.get f :=
  Dev.get_of_regs (h.low _ (by omega) hs) (h.low _ hl (by omega))

section Rules
variable {a d : Dev} (h : a.Aside d)
include h

theorem Dev.Aside.put {f : Fld} (v : Nat) (hf : 0x50000 ≤ f.addr) : a.Aside (d.put f v) :=
  h.trans ⟨by simp, by simp, by simp, by simp, by simp, by simp,
    fun x hx _ => d.reg_put_ne v (by omega) (.inl (by omega))⟩

theorem Dev.Aside.setReg {x : Nat} (v : W32) (hx : 0x50000 ≤ x) : a.Aside (d.setReg x v) :=
  h.trans ⟨rfl, rfl, rfl, rfl, rfl, rfl, fun y hy _ => d.reg_setReg_ne v (by omega)⟩

theorem Dev.Aside.bumpBy {f : Fld} (n : Nat) (hf : 0x50000 ≤ f.addr) : a.Aside (d.bumpBy f n) := h.put _ hf

theorem Dev.Aside.bump {f : Fld} (hf : 0x50000 ≤ f.addr) : a.Aside (d.bump f) := h.put _ hf

/-- PLN.SYNC_CTRL is the one dword of PLN that may change. -/
theorem Dev.Aside.putSync {f : Fld} (v : Nat) (hf : f.addr = 0x10010) (hw : f.w ≠ 64) : a.Aside (d.put f v) :=
  h.trans ⟨by simp, by simp, by simp, by simp, by simp, by simp,
    fun x _ hs => d.reg_put_ne v (by omega) (.inr hw)⟩

theorem Dev.Aside.modEng (n : Nat) (g : EngSt → EngSt) : a.Aside (d.modEng n g) :=
  h.trans ⟨rfl, rfl, rfl, rfl, rfl, rfl, fun _ _ _ => rfl⟩
theorem Dev.Aside.modTset (n : Nat) (g : TsetSt → TsetSt) : a.Aside (d.modTset n g) :=
  h.trans ⟨rfl, rfl, rfl, rfl, rfl, rfl, fun _ _ _ => rfl⟩
theorem Dev.Aside.modPin (c : Nat) (g : PinSt → PinSt) : a.Aside (d.modPin c g) :=
  h.trans ⟨rfl, rfl, rfl, rfl, rfl, rfl, fun _ _ _ => rfl⟩
theorem Dev.Aside.modFc (n : Nat) (g : FcapSt → FcapSt) : a.Aside (d.modFc n g) :=
  h.trans ⟨rfl, rfl, rfl, rfl, rfl, rfl, fun _ _ _ => rfl⟩
theorem Dev.Aside.modMeas (k : Nat) (g : TiaM → TiaM) : a.Aside (d.modMeas k g) :=
  h.trans ⟨rfl, rfl, rfl, rfl, rfl, rfl, fun _ _ _ => rfl⟩
theorem Dev.Aside.modTia (g : TiaSt → TiaSt) : a.Aside (d.modTia g) :=
  h.trans ⟨rfl, rfl, rfl, rfl, rfl, rfl, fun _ _ _ => rfl⟩
theorem Dev.Aside.modBus (k : Nat) (g : BusSt → BusSt) : a.Aside (d.modBus k g) :=
  h.trans ⟨rfl, rfl, rfl, rfl, rfl, rfl, fun _ _ _ => rfl⟩
theorem Dev.Aside.modSm (p : Nat) (g : SmcSt → SmcSt) : a.Aside (d.modSm p g) :=
  h.trans ⟨rfl, rfl, rfl, rfl, rfl, rfl, fun _ _ _ => rfl⟩
theorem Dev.Aside.modAq (u : Nat) (g : AqSt → AqSt) : a.Aside (d.modAq u g) :=
  h.trans ⟨rfl, rfl, rfl, rfl, rfl, rfl, fun _ _ _ => rfl⟩
theorem Dev.Aside.modBlk (b : Nat) (g : BlkRt → BlkRt) : a.Aside (d.modBlk b g) :=
  h.trans ⟨rfl, rfl, rfl, rfl, rfl, rfl, fun _ _ _ => rfl⟩
theorem Dev.Aside.give (p n k : Nat) : a.Aside (d.give p n k) :=
  h.trans ⟨rfl, rfl, rfl, rfl, rfl, rfl, fun _ _ _ => rfl⟩
theorem Dev.Aside.setPath (p : Nat) (q : PathQ) : a.Aside (d.setPath p q) :=
  h.trans ⟨rfl, rfl, rfl, rfl, rfl, rfl, fun _ _ _ => rfl⟩
theorem Dev.Aside.signal (v : Nat) : a.Aside (d.signal v) :=
  h.trans ⟨rfl, rfl, rfl, rfl, rfl, rfl, fun _ _ _ => rfl⟩
theorem Dev.Aside.dropHeldStart (n : Nat) : a.Aside (d.dropHeldStart n) :=
  h.trans ⟨rfl, rfl, rfl, rfl, rfl, rfl, fun _ _ _ => rfl⟩

theorem Dev.Aside.stateSignal (was : Dev) : a.Aside (d.stateSignal was) :=
  h.trans ((d.same_stateSignal was).aside (by simp) (by simp) (by simp))

theorem Dev.Aside.emitAt (c f p t fl : Nat) (x : List Byte) : a.Aside (d.emitAt c f p t fl x) :=
  h.trans ((d.same_emitAt c f p t fl x).aside (by simp) (by simp) (by simp))

theorem Dev.Aside.emit (p t : Nat) (x : List Byte) : a.Aside (d.emit p t x) := h.emitAt _ _ _ _ _ _

theorem Dev.Aside.noticeOf (e : Detection) (x : List Byte) : a.Aside (d.noticeOf e x) :=
  h.trans ((d.same_noticeOf e x).aside (d.noticeOf_alarms e x) (d.noticeOf_fc0 e x) (d.noticeOf_chosen e x))

theorem Dev.Aside.notice (det b : Nat) (x : List Byte) : a.Aside (d.notice det b x) := h.noticeOf _ _

theorem Dev.Aside.ignored (x : Nat) : a.Aside (d.ignored x) := h.noticeOf _ _

/-- A list of operations that each keep the frame keeps it. -/
theorem Dev.Aside.each {α : Type} (l : List α) (g : α → Dev → Dev) (hg : ∀ x d, a.Aside d → a.Aside (g x d)) :
    a.Aside (d.each l g) := Dev.each_keeps (P := a.Aside) l g d h fun x _ d hd => hg x d hd

end Rules

/-- An address at or above a base outside the frame. -/
theorem high_add {b k : Nat} (h : 0x50000 ≤ b) : 0x50000 ≤ b + k := by omega

end Sys2Proof.Machine
end


/-! ## Units outside PLN stay aside of it -/
section
namespace Sys2Proof.Machine

theorem busStateF_high (k : Nat) : 0x50000 ≤ (busStateF k).addr := by
  unfold busStateF; split_ifs <;> exact high_add (by decide)

theorem onBusF_high (k i : Nat) : 0x50000 ≤ (onBusF k i).addr := by
  unfold onBusF; split_ifs <;> exact high_add (high_add (by decide))

theorem Dev.Aside.ite {a x y : Dev} {p : Prop} [Decidable p] (hx : a.Aside x) (hy : a.Aside y) :
    a.Aside (if p then x else y) := by
  split_ifs
  · exact hx
  · exact hy

section Units
variable {a d : Dev} (h : a.Aside d)
include h

/-! ### TIA -/

theorem Dev.Aside.tiaBit {f : Fld} (k : Nat) (b : Bool) (hf : 0x50000 ≤ f.addr) : a.Aside (d.tiaBit f k b) := h.put _ hf

theorem Dev.Aside.tiaProduce (k st : Nat) : a.Aside (d.tiaProduce k st) :=
  ((h.modTia _).put _ (high_add (by decide))).put _ (high_add (by decide))

theorem Dev.Aside.tiaEnd (k st : Nat) : a.Aside (d.tiaEnd k st) := by
  have ended := ((((h.tiaProduce k st).tiaBit (f := TIA.ACTIVE) k false (by decide)).put (f := TIA.M_STATE_STATE k) 0
    (high_add (by decide))).modMeas k fun m => { m with armed := false }).stateSignal
      (((d.tiaProduce k st).tiaBit TIA.ACTIVE k false).put (TIA.M_STATE_STATE k) 0)
  unfold Dev.tiaEnd
  dsimp only
  split_ifs
  · exact h
  · exact ended.modPin _ _
  · exact ended

theorem Dev.Aside.tiaLoseChannel (p : Nat) : a.Aside (d.tiaLoseChannel p) := h.each _ _ fun _ _ k => k.tiaEnd _ _

theorem Dev.Aside.startSettle (p mode : Nat) (r : Option Nat) : a.Aside (d.startSettle p mode r) := by
  cases r with
  | none => exact (((h.modPin _ _).modPin _ _)).tiaLoseChannel p
  | some r => exact (((h.modPin _ _).modPin _ _).modPin _ _).tiaLoseChannel p

/-! ### CAL -/

theorem Dev.Aside.dropPass (k : Nat) : a.Aside (d.dropPass k) := by
  unfold Dev.dropPass
  split
  · exact h
  · exact (h.put _ (onBusF_high _ _)).modBus _ _

theorem Dev.Aside.copyPage (k i j : Nat) : a.Aside (d.copyPage k i j) := by
  refine h.each _ _ fun o d hd => hd.setReg _ (high_add ?_)
  split_ifs <;> exact high_add (high_add (by decide))

theorem Dev.Aside.mirrorComparators (p : Nat) : a.Aside (d.mirrorComparators p) := .ite (h.startSettle _ _ _) h

theorem Dev.Aside.beginMirror (k i j st : Nat) : a.Aside (d.beginMirror k i j st) := by
  have h1 := h.put st (busStateF_high k)
  have h2 := h1.copyPage k i j
  unfold Dev.beginMirror
  exact ((h2.ite h1).mirrorComparators _ |>.ite (h2.ite h1)).modBus _ _

theorem Dev.Aside.abandonPass (k : Nat) : a.Aside (d.abandonPass k) := by
  have h1 := h.dropPass k
  unfold Dev.abandonPass
  split
  · exact h
  · exact h1.ite ((h1.put _ (busStateF_high k)).ite (h1.beginMirror _ _ _ _))

theorem Dev.Aside.calStart (n : Nat) : a.Aside (d.calStart n) := by
  refine h.each _ _ fun k d hd => ?_
  split
  · split_ifs
    · exact hd.abandonPass k
    · exact hd
  · exact hd

theorem Dev.Aside.smcBegin (k : Nat) : a.Aside (d.smcBegin k) := by
  unfold Dev.smcBegin
  split
  · exact (h.modBus _ _).ite h
  · exact (h.modBus _ _).ite h
  · exact h

theorem Dev.Aside.smcBeginAll : a.Aside d.smcBeginAll := h.each _ _ fun k _ hd => hd.smcBegin k

/-! ### SMC -/

theorem Dev.Aside.smcPut {f : Nat → Nat → Fld} (p v : Nat) (hf : ∀ g i, 0x50000 ≤ (f g i).addr) : a.Aside (d.smcPut f p v) :=
  h.each _ _ fun _ _ hd => hd.put _ (hf _ _)

theorem Dev.Aside.smcGo (p st : Nat) : a.Aside (d.smcGo p st) :=
  ((h.each _ _ fun _ _ hd => hd.smcPut _ _ fun _ _ => high_add (high_add (by decide))).stateSignal _).smcBegin _

theorem Dev.Aside.smcSettled (p : Nat) : a.Aside (d.smcSettled p) := by
  unfold Dev.smcSettled
  dsimp only
  refine Dev.Aside.smcBegin (Dev.Aside.smcPut ?_ _ _ fun _ _ => high_add (high_add (by decide))) _
  split_ifs
  · exact h.modSm _ _
  · exact h

theorem Dev.Aside.smcOutput (p st : Nat) : a.Aside (d.smcOutput p st) := h.emit _ _ _

theorem Dev.Aside.smcOpening (p : Nat) : a.Aside (d.smcOpening p) := ((h.smcGo _ _).modSm _ _).smcSettled _

theorem Dev.Aside.smcShutdown (p c : Nat) : a.Aside (d.smcShutdown p c) := by
  have h1 : a.Aside (d.smcPut SMCG.OUT_OFF_CAUSE p c) := h.smcPut _ _ fun _ _ => high_add (high_add (by decide))
  have h2 (g : SmcSt → SmcSt) := (((h1.modSm p g).smcGo p 3).smcSettled p).smcOutput p 3
  exact ((h2 _).smcOpening p).ite (h2 _)

theorem Dev.Aside.smcUnrecord (p : Nat) : a.Aside (d.smcUnrecord p) := by
  unfold Dev.smcUnrecord
  dsimp only
  split
  · exact ((h.setPath _ _).give _ _ _).ite h
  · exact h

/-- A shutdown request touches the pages and the account of its channel. -/
theorem Dev.Aside.smcOffNow (p c : Nat) : a.Aside (d.smcOffNow p c) := by
  have cause {d : Dev} (hd : a.Aside d) : a.Aside (d.smcPut SMCG.OUT_OFF_CAUSE p c) :=
    hd.smcPut _ _ fun _ _ => high_add (high_add (by decide))
  have opens {d : Dev} {q : Prop} [Decidable q] (hd : a.Aside d) : a.Aside (if q then d.smcOpening p else d) :=
    (hd.smcOpening p).ite hd
  have h1 : a.Aside ((d.smcPut SMCG.OUT_OUT_EN p 0).modSm p fun s => { s with offReq := some d.elapsed, offHeld := none }) :=
    (h.smcPut p 0 fun _ _ => high_add (high_add (by decide))).modSm p _
  unfold Dev.smcOffNow
  dsimp only
  split
  · exact h1
  · exact ((h1.smcGo p 0).smcUnrecord p).ite (opens (h1.ite ((cause h1).modSm p _)))
  · exact (((cause h1).modSm p _).smcOpening p).ite (h1.smcShutdown p c)
  · have h2 : a.Aside (((d.smcPut SMCG.OUT_OUT_EN p 0).modSm p fun s =>
        { s with offReq := some d.elapsed, offHeld := none }).smcPut SMCG.OUT_PENDING_ON p 0) :=
      h1.smcPut p 0 fun _ _ => high_add (high_add (by decide))
    exact opens (((cause h2).ite h2).modSm p _ |>.ite ((cause h2).ite h2))

theorem Dev.Aside.smcOff (q c : Nat) : a.Aside (d.smcOff q c) :=
  ((h.smcPut _ 0 fun _ _ => high_add (high_add (by decide))).modSm _ _).ite (h.smcOffNow _ _)

theorem Dev.Aside.smcEngineAbort (n : Nat) : a.Aside (d.smcEngineAbort n) :=
  h.each _ _ fun _ _ hd => (hd.smcOff _ _).ite hd

/-! ### Engines -/

theorem Dev.Aside.engGo (n st : Nat) : a.Aside (d.engGo n st) := by
  have h1 : a.Aside (if st = seqLoading then d.calStart n else d) := (h.calStart n).ite h
  exact h.ite ((((h1.put _ (high_add (by decide))).signal _).stateSignal _).smcBeginAll)

theorem Dev.Aside.landDecision (n : Nat) : a.Aside (d.landDecision n) := (h.modEng _ _).put _ (high_add (by decide))

theorem Dev.Aside.captureRes (n c : Nat) (e : Bool) (t : Nat) : a.Aside (d.captureRes n c e t) := by
  have at1 {b : Nat} (hb : 0x50000 ≤ b) : 0x50000 ≤ b + 0x10000 * n := high_add hb
  have at2 {b k : Nat} (hb : 0x50000 ≤ b) : 0x50000 ≤ b + 0x10000 * n + k := high_add (at1 hb)
  have info {d : Dev} (hd : a.Aside d) (v1 v2 v3 v4 v5 v6 : Nat) := (((((hd.put (f := SEQ.RES_INFO_PC n) v1 (at1 (by decide))).put
    (f := SEQ.RES_INFO_DEPTH n) v2 (at1 (by decide))).put (f := SEQ.RES_INFO_TS n) v3 (at1 (by decide))).put
    (f := SEQ.RES_INFO_ATOMIC n) v4 (at1 (by decide))).put (f := SEQ.RES_INFO_CAUSE n) v5 (at1 (by decide))).put
    (f := SEQ.RES_PLAYED n) v6 (at1 (by decide))
  have counters {d : Dev} (hd : a.Aside d) (v1 v2 v3 v4 : Nat) := (((hd.put (f := SEQ.RES_CNT_CLO n 0) v1 (at2 (by decide))).put
    (f := SEQ.RES_CNT_CHI n 0) v2 (at2 (by decide))).put (f := SEQ.RES_CNT_CLO n 1) v3 (at2 (by decide))).put
    (f := SEQ.RES_CNT_CHI n 1) v4 (at2 (by decide))
  have stack {d : Dev} (hd : a.Aside d) (l : List Nat) : a.Aside (d.each (List.range 8) fun k =>
      Dev.put (SEQ.RES_STACK n k) (l.getD k 0)) := hd.each _ _ fun _ _ hd => hd.put _ (at2 (by decide))
  exact (((((stack (counters (info h _ _ _ _ _ _) _ _ _ _) _).put _ (at1 (by decide))).put _ (at1 (by decide))).put _
    (at1 (by decide))).setReg _ (at1 (by decide))).put _ (at1 (by decide))

theorem Dev.Aside.advanceRing (r k : Nat) : a.Aside (d.advanceRing r k) :=
  h.ite ((h.put (f := HDMA.RING_DEV_PTR r) _ (high_add (by decide))).trans ⟨rfl, rfl, rfl, rfl, rfl, rfl, fun _ _ _ => rfl⟩)

theorem Dev.Aside.streamFlush (n : Nat) (k : Bool) : a.Aside (d.streamFlush n k) := by
  have h1 (g : EngSt → EngSt) := ((h.advanceRing n ((d.eng n).stream.bufs.filter fun b => !b.past).length).modEng n g).put
    (f := SEQ.STREAM_STATUS_DESC_ERR n) 0 (high_add (by decide))
  exact Dev.Aside.emit (.ite (h1 _) ((h1 _).put _ (high_add (by decide)))) _ _ _

theorem Dev.Aside.fcapEnd (n : Nat) : a.Aside (d.fcapEnd n) := (h.modFc _ _).put _ (high_add (by decide))

/-- An abort that lands touches its engine, the channels it drives and what depends on it. -/
theorem Dev.Aside.engAbort (n c : Nat) (e : Bool) : a.Aside (d.engAbort n c e) := by
  unfold Dev.engAbort
  refine .ite (Dev.Aside.smcEngineAbort (Dev.Aside.fcapEnd (Dev.Aside.streamFlush (Dev.Aside.emit ?_ _ _ _) _ _) _) _) h
  have landed := ((h.landDecision n).ite h (p := (e && !(d.eng n).stopped) = true)).captureRes n c e
    (if e && !(d.eng n).stopped then d.landDecision n else d).now
  refine Dev.Aside.put (Dev.Aside.put (Dev.Aside.engGo (Dev.Aside.modTset (Dev.Aside.modEng ?_ _ _) _ _) _ _) _
    (high_add (by decide))) _ (high_add (by decide))
  exact landed.each _ _ fun _ _ hd => (hd.modPin _ _).ite hd

/-! ### Starts -/

theorem Dev.Aside.cancelArm : a.Aside d.cancelArm :=
  ((((h.putSync (f := PLN.SYNC_CTRL_ARM) 0 rfl (by decide)).putSync (f := PLN.SYNC_CTRL_ARM_RESULT) 7 rfl (by decide)).notice
    0x3003 1 [])).ite h

theorem Dev.Aside.tsetRelease (n : Nat) : a.Aside (d.tsetRelease n) := by
  have h1 (g : TsetSt → TsetSt) : a.Aside (if (d.tset n).commitHeld then (d.modTset n g).bump (TSET.COMMIT_COUNT n) else d) :=
    ((h.modTset _ _).bump (high_add (by decide))).ite h
  unfold Dev.tsetRelease
  dsimp only
  split
  · exact ((h1 _).put _ (high_add (by decide))).modTset _ _
  · exact h1 _

theorem Dev.Aside.leaveAbort (p : Nat) : a.Aside (d.leaveAbort p) := by
  unfold Dev.leaveAbort
  split
  · exact h
  · exact h.modPin _ _
  · exact h.modPin _ _

theorem Dev.Aside.putSiteBit {f : Fld} (k : Nat) (b : Bool) (hf : 0x50000 ≤ f.addr) : a.Aside (d.putSiteBit f k b) := h.put _ hf

theorem Dev.Aside.fcapStart (n : Nat) : a.Aside (d.fcapStart n) := by
  unfold Dev.fcapStart
  refine Dev.Aside.modFc (Dev.Aside.put (Dev.Aside.put (Dev.Aside.put (Dev.Aside.put (Dev.Aside.put (Dev.Aside.put
    (Dev.Aside.each (Dev.Aside.each h _ _ ?site) _ _ ?chan) _ ?_) _ ?_) _ ?_) _ ?_) _ ?_) _ ?_) _ _
  case site =>
    exact fun k d hd =>
      (((hd.put _ (high_add (by decide))).putSiteBit _ _ (by decide)).putSiteBit _ _ (by decide)).putSiteBit _ _ (by decide)
  case chan => exact fun c d hd => (hd.put _ (high_add (by decide))).put _ (high_add (by decide))
  all_goals exact high_add (by decide)

theorem Dev.Aside.startRefused (n r : Nat) : a.Aside (d.startRefused n r) := (h.put _ (high_add (by decide))).ignored _

/-- A START that is judged touches its engine, the passes it abandons, its timing sets, its pins and its fail capture. -/
theorem Dev.Aside.startNow (n : Nat) : a.Aside (d.startNow n) := by
  unfold Dev.startNow
  refine .ite (h.startRefused _ _) (.ite (h.startRefused _ _) (.ite (h.startRefused _ _) ?_))
  refine Dev.Aside.emit (Dev.Aside.engGo (Dev.Aside.fcapStart (Dev.Aside.modTset (Dev.Aside.modEng ?_ _ _) _ _) _) _ _) _ _ _
  have released := (h.calStart n).tsetRelease n
  have reqs {d : Dev} (hd : a.Aside d) (l : List Nat) := (((hd.each l (fun p d => d.modPin p fun s => { s with req := s.asReq })
    fun _ _ hd => hd.modPin _ _).put (f := SEQ.CTRL_START_RESULT n) 1 (high_add (by decide))).put (f := SEQ.VEC_NUM n) 0
    (high_add (by decide))).put (f := SEQ.SEG_NUM n) 0 (high_add (by decide))
  have status {d : Dev} (hd : a.Aside d) (v : Nat) := ((hd.put (f := SEQ.STATUS_RES_VALID n) 0 (high_add (by decide))).put
    (f := SEQ.STATUS_DEPTH n) 0 (high_add (by decide))).put (f := SEQ.STATUS_PC n) v (high_add (by decide))
  have pins := Dev.Aside.ite (p := (((d.calStart n).tsetRelease n).eng n).aborted = true)
    (released.each (((d.calStart n).tsetRelease n).engPins n) Dev.leaveAbort fun p _ hd => hd.leaveAbort p) released
  exact .ite (Dev.Aside.put (status (reqs pins _) _) _ (high_add (by decide))) (status (reqs pins _) _)

theorem Dev.Aside.engStart (n : Nat) : a.Aside (d.engStart n) := by
  unfold Dev.engStart
  exact .ite (h.cancelArm.trans ⟨rfl, rfl, rfl, rfl, rfl, rfl, fun _ _ _ => rfl⟩) (h.cancelArm.startNow n)

/-! ### Arming of measurements and units -/

theorem Dev.Aside.tiaArm (k : Nat) : a.Aside (d.tiaArm k) := by
  have h1 := (h.tiaBit (f := TIA.DONE) k false (by decide)).tiaBit (f := TIA.TMO) k false (by decide)
  unfold Dev.tiaArm
  refine .ite h (.ite (Dev.Aside.ignored (h.bump (by decide)) _) ?_)
  dsimp only
  split
  · exact (h1.modMeas k _).tiaProduce k _
  · have h2 (m : TiaM) (s v : Nat) := (((((h1.modMeas k fun _ => m).stateSignal ((d.tiaBit TIA.DONE k false).tiaBit TIA.TMO k
      false)).tiaBit (f := TIA.ACTIVE) k true (by decide)).put (f := TIA.M_STATE_STATE k) s (high_add (by decide))).put
      (f := TIA.M_STATE_DONE_REPS k) v (high_add (by decide)))
    exact .ite ((h2 _ _ _).modPin _ _) (h2 _ _ _)

theorem Dev.Aside.aqGo (u new : Nat) : a.Aside (d.aqGo u new) :=
  have h1 := (h.put (f := AQ.STATUS_STATE u) new (high_add (by decide))).stateSignal d
  .ite (h1.emit _ _ _) h1

theorem Dev.Aside.aqDeliver (u src : Nat) (t : Int) (w : Nat) : a.Aside (d.aqDeliver u src t w) := .ite (h.modAq _ _) h

theorem Dev.Aside.aqArmNow (u : Nat) : a.Aside (d.aqArmNow u) := by
  have refuse (r : Nat) : a.Aside ((d.put (AQ.STATUS_ARM_RESULT u) r).ignored (AQ.CTRL_ARM u).addr) :=
    (h.put _ (high_add (by decide))).ignored _
  have taken (v : Nat) := ((((h.put (f := AQ.STATUS_ARM_RESULT u) 1 (high_add (by decide))).put (f := AQ.STATUS_SEG u) 0
    (high_add (by decide))).put (f := AQ.STATUS_POST_DONE u) 0 (high_add (by decide))).put (f := AQ.STATUS_SUPP u) 0
    (high_add (by decide))).put (f := AQ.ARM_NUM u) v (high_add (by decide))
  exact .ite (h.ignored _) (.ite h (.ite (refuse 2) (.ite (refuse 3) (.ite (refuse 4)
    ((((taken _).modAq u _).modAq u _).aqGo u aqDead)))))

theorem Dev.Aside.aqArm (u : Nat) : a.Aside (d.aqArm u) := by
  have h1 (g : AqSt → AqSt) := (h.aqArmNow u).modAq u g
  exact .ite ((h1 _).each _ _ fun _ _ hd => hd.aqDeliver _ _ _ _) (h1 _)

theorem Dev.Aside.armJudge : a.Aside d.armJudge := by
  have refuse (r : Nat) : a.Aside ((d.put PLN.SYNC_CTRL_ARM_RESULT r).ignored PLN.SYNC_CTRL_ARM.addr) :=
    (h.putSync _ rfl (by decide)).ignored _
  exact .ite (refuse 2) (.ite (refuse 3) (.ite (refuse 4) ((h.putSync _ rfl (by decide)).putSync _ rfl (by decide))))

/-- A request that waited for an epoch load leaves PLN but for SYNC_CTRL as it is (R49). -/
theorem Dev.Aside.heldRequest (r : HeldReq) : a.Aside (d.heldRequest r) := by
  cases r with
  | start n => exact h.engStart n.val
  | acq u => exact h.cancelArm.aqArm u.val
  | tia k => exact h.cancelArm.tiaArm k.val
  | arm => exact h.armJudge

/-! ### Players -/

theorem Dev.Aside.restartIdle : a.Aside d.restartIdle := h.each _ _ fun _ _ hd => (hd.modEng _ _).ite hd

end Units
end Sys2Proof.Machine
end


/-! ## The quality of the Plain, and what a grave fault leaves alone -/
section
namespace Sys2Proof.Machine

/-! ### A change of the quality (R43) -/

/-- Nothing but PLN.QUALITY.QUAL, its history and reports. -/
structure Dev.ButQual (d d' : Dev) : Prop where
  count : d'.count = d.count
  elapsed : d'.elapsed = d.elapsed
  flt : d'.flt = d.flt
  chosen : d'.boot.chosen = d.boot.chosen
  pln : ∃ q, d'.pln = { d.pln with quals := q }
  reg : ∀ a, a ≠ 0x10008 → d'.reg a = d.reg a
  get : ∀ f, PLN.QUALITY_QUAL.Apart f → d'.get f = d.get f

theorem Dev.ButQual.refl (d : Dev) : d.ButQual d :=
  ⟨rfl, rfl, rfl, rfl, ⟨_, rfl⟩, fun _ _ => rfl, fun _ _ => rfl⟩

theorem Dev.ButQual.trans {a b c : Dev} (h : a.ButQual b) (k : b.ButQual c) : a.ButQual c where
  count := k.count.trans h.count
  elapsed := k.elapsed.trans h.elapsed
  flt := k.flt.trans h.flt
  chosen := k.chosen.trans h.chosen
  pln := by
    obtain ⟨q, hq⟩ := h.pln
    obtain ⟨r, hr⟩ := k.pln
    exact ⟨r, by rw [hr, hq]⟩
  reg x hx := (k.reg x hx).trans (h.reg x hx)
  get f hf := (k.get f hf).trans (h.get f hf)

theorem Dev.ButQual.on {a b : Dev} (h : a.ButQual b) {f : Fld} (hf : PLN.QUALITY_QUAL.Apart f) : b.on f = a.on f :=
  Dev.on_of_get (h.get f hf)

theorem Dev.ButQual.qualFrozen {a b : Dev} (h : a.ButQual b) : b.qualFrozen = a.qualFrozen := by
  obtain ⟨q, hq⟩ := h.pln
  unfold Dev.qualFrozen
  rw [hq, h.flt, h.on (by decide)]

theorem Dev.ButQual.warmSettled {a b : Dev} (h : a.ButQual b) : b.warmSettled = a.warmSettled := by
  obtain ⟨q, hq⟩ := h.pln
  unfold Dev.warmSettled
  rw [hq, h.elapsed, h.get PLN.WARM_SETTLE (by decide)]

/-- After the loss of REFCLK or an FC0 for it the quality stays. -/
theorem Dev.setQual_frozen {d : Dev} (new cause : Nat) (h : d.qualFrozen = true) : d.setQual new cause = d := by
  simp [Dev.setQual, h]

/-- A quality above UNLOCKED is taken unless the quality is frozen; all else is history and report. -/
theorem Dev.setQual_spec (d : Dev) (new cause : Nat) (h0 : new ≠ 0) (h4 : new < 4) :
    d.ButQual (d.setQual new cause) ∧ (d.setQual new cause).qual = if d.qualFrozen then d.qual else new := by
  by_cases hs : d.qual = new ∨ d.qualFrozen = true
  · have hd : d.setQual new cause = d := by simp [Dev.setQual, hs]
    rw [hd]
    refine ⟨.refl d, ?_⟩
    split_ifs with hf
    · rfl
    · simpa [hf] using hs
  · obtain ⟨hn, hf⟩ := not_or.1 hs
    have e : d.setQual new cause = (((d.put PLN.QUALITY_QUAL new).modPln fun p =>
        { p with quals := keepLast 64 (p.quals ++ [(d.now, d.qual)]) }).emit 1 0x10
          (leBytes 1 d.qual ++ leBytes 1 new ++ leBytes 1 cause)).signal 2 := by
      simp [Dev.setQual, hs, h0]
    have same := Dev.same_emit ((d.put PLN.QUALITY_QUAL new).modPln fun p =>
        { p with quals := keepLast 64 (p.quals ++ [(d.now, d.qual)]) }) 1 0x10
          (leBytes 1 d.qual ++ leBytes 1 new ++ leBytes 1 cause)
    rw [e, if_neg hf]
    refine ⟨⟨?_, ?_, ?_, ?_, ?_, fun a ha => ?_, fun f hp => ?_⟩, ?_⟩
    · exact same.still.count.trans (d.put_count _ _)
    · exact same.still.elapsed.trans (d.put_elapsed _ _)
    · exact (Dev.alarms_emit _ _ _ _).trans (d.put_flt _ _)
    · exact (Dev.emitAt_chosen _ _ _ _ _ _ _).trans (congrArg BootSt.chosen (d.put_boot _ _))
    · exact ⟨keepLast 64 (d.pln.quals ++ [(d.now, d.qual)]),
        same.still.pln.trans (by rw [Dev.modPln_pln, d.put_pln])⟩
    · exact (same.reg a).trans (d.reg_put_ne new ha (.inr (by decide)))
    · exact (same.get f).trans (d.get_put_apart new hp)
    · refine (same.get PLN.QUALITY_QUAL).trans ((d.get_put_self PLN.QUALITY_QUAL new (by decide)).trans ?_)
      exact Nat.mod_eq_of_lt h4

/-- The quality after the rising rows of R43, as far as their conditions hold. -/
def Dev.risenQual (d : Dev) : Nat :=
  let a := if d.qual = 0 ∧ d.on PLN.QUALITY_PLLT_LOCK = true ∧ d.on PLN.QUALITY_REFCLK_OK = true then 1 else d.qual
  let b := if a = 1 ∧ d.warmSettled = true then 2 else a
  let c := if b = 2 ∧ d.get PLN.QUALITY_EPOCH_STATE = 2 ∧ d.pln.lastPass = true ∧ d.on PLN.QUALITY_WAKE_CAP = false then 3 else b
  if d.qualFrozen then d.qual else c

/-- One rising row: where its condition holds, the quality becomes `new`. -/
theorem Dev.rise_step (d : Dev) (b : Bool) (new cause : Nat) (h0 : new ≠ 0) (h4 : new < 4) (hf : d.qualFrozen = false) :
    d.ButQual (if b then d.setQual new cause else d) ∧
      (if b then d.setQual new cause else d).qual = if b then new else d.qual := by
  cases b with
  | false => exact ⟨.refl d, rfl⟩
  | true =>
    obtain ⟨h1, h2⟩ := d.setQual_spec new cause h0 h4
    exact ⟨h1, by rw [if_pos rfl, h2, hf]; rfl⟩

/-- The rising rows touch the quality alone, and leave it at `risenQual`. -/
theorem Dev.qualRise_spec (d : Dev) : d.ButQual d.qualRise ∧ d.qualRise.qual = d.risenQual := by
  cases hf : d.qualFrozen with
  | true =>
    have e : d.qualRise = d := by simp [Dev.qualRise, Dev.setQual_frozen _ _ hf]
    rw [e]
    exact ⟨.refl d, by simp [Dev.risenQual, hf]⟩
  | false =>
    obtain ⟨k1, q1⟩ := d.rise_step (d.qual = 0 && d.on PLN.QUALITY_PLLT_LOCK && d.on PLN.QUALITY_REFCLK_OK) 1 3
      (by decide) (by decide) hf
    unfold Dev.qualRise
    generalize (if (d.qual = 0 && d.on PLN.QUALITY_PLLT_LOCK && d.on PLN.QUALITY_REFCLK_OK) = true then d.setQual 1 3 else d) = d1
      at k1 q1 ⊢
    obtain ⟨k2, q2⟩ := d1.rise_step (d1.qual = 1 && d1.warmSettled) 2 4 (by decide) (by decide) (k1.qualFrozen.trans hf)
    dsimp only
    generalize (if (d1.qual = 1 && d1.warmSettled) = true then d1.setQual 2 4 else d1) = d2 at k2 q2 ⊢
    have k := k1.trans k2
    obtain ⟨k3, q3⟩ := d2.rise_step (d2.qual = 2 && d2.get PLN.QUALITY_EPOCH_STATE == 2 && d2.pln.lastPass &&
      !d2.on PLN.QUALITY_WAKE_CAP) 3 6 (by decide) (by decide) (k.qualFrozen.trans hf)
    refine ⟨k.trans k3, q3.trans ?_⟩
    obtain ⟨q, hq⟩ := k.pln
    rw [k.get PLN.QUALITY_EPOCH_STATE (by decide), k.on (f := PLN.QUALITY_WAKE_CAP) (by decide), hq, q2, k1.warmSettled, q1]
    simp only [Dev.risenQual, hf, Bool.and_eq_true, decide_eq_true_eq, beq_iff_eq, Bool.not_eq_true', and_assoc,
      Bool.false_eq_true, if_false]

/-! ### A grave fault (R349) -/

/-- A device with other detections waiting and another first FC0. -/
def Dev.withFc0 (l : List Detection) (x : Option (Nat × Nat)) (d : Dev) : Dev :=
  { d with flt := { d.flt with alarms := l, fc0 := x } }

/-- Once an FC0 stands, no reaction changes anything. -/
theorem Dev.react_of_fc0 {d : Dev} (a : Detection) (h : d.flt.fc0.isSome = true) : d.react a = d := by
  unfold Dev.react
  split
  · simp [Dev.reactFc0, h]
  · simp [Dev.reactFc1, h]
  · simp [Dev.reactFc2, h]

theorem Dev.settleN_of_fc0 (n : Nat) {d : Dev} (h : d.flt.fc0.isSome = true) : ∃ l, d.settleN n = d.withFc0 l d.flt.fc0 := by
  induction n generalizing d with
  | zero => exact ⟨d.flt.alarms, rfl⟩
  | succ n ih =>
    unfold Dev.settleN
    split
    · exact ⟨d.flt.alarms, rfl⟩
    · rename_i a _
      rw [Dev.react_of_fc0 (d := { d with flt := { d.flt with alarms := d.flt.alarms.erase a } }) a h]
      obtain ⟨l, hl⟩ := ih (d := { d with flt := { d.flt with alarms := d.flt.alarms.erase a } }) h
      exact ⟨l, hl⟩

/-- The reaction to the first FC0 notes its detector, aborts the engines and leaves the rest of PLN's world alone. -/
theorem Dev.reactFc0_aside (d : Dev) (a : Detection) :
    (d.withFc0 d.flt.alarms (some (d.flt.fc0.getD (a.det, d.now)))).Aside (d.reactFc0 a) := by
  unfold Dev.reactFc0
  cases h : d.flt.fc0 with
  | some x =>
    have : d.withFc0 d.flt.alarms (some x) = d := by unfold Dev.withFc0; rw [← h]
    simpa [this] using Dev.Aside.refl d
  | none =>
    simp only [Option.isSome_none, Bool.false_eq_true, if_false, Option.getD_none]
    exact Dev.Aside.each (Dev.Aside.refl _) _ _ fun n d hd => ((hd.engAbort n 7 false).dropHeldStart n).modEng n _

/-- A detection of class FC0 that waits alone: its reaction leaves time, PLN and the low registers as they are, and an FC0
stands from then on. -/
theorem Dev.settle_fc0 {d : Dev} {a : Detection} (ha : d.flt.alarms = [a]) (hc : d.classOf a = 0) :
    ∃ l, (d.withFc0 l (some (d.flt.fc0.getD (a.det, d.now)))).Aside d.settle := by
  have hn : d.nextAlarm = some a := by simp [Dev.nextAlarm, ha, hc]
  have hcl : Dev.classOf { d with flt := { d.flt with alarms := d.flt.alarms.erase a } } a = 0 := hc
  have e : d.settle = (Dev.reactFc0 a { d with flt := { d.flt with alarms := d.flt.alarms.erase a } }).settleN 255 := by
    rw [Dev.settle, Dev.settleN, hn]
    dsimp only
    rw [Dev.react, hcl]
    rfl
  have k := Dev.reactFc0_aside { d with flt := { d.flt with alarms := d.flt.alarms.erase a } } a
  rw [e]
  generalize Dev.reactFc0 a { d with flt := { d.flt with alarms := d.flt.alarms.erase a } } = r at k ⊢
  obtain ⟨l, hl⟩ := Dev.settleN_of_fc0 255 (d := r) (by rw [k.fc0]; rfl)
  rw [hl]
  exact ⟨l, k.count, k.elapsed, k.pln, rfl, k.fc0, k.chosen, k.low⟩

/-! ### A fault waits for its reaction -/

/-- A fault is a report, and in a calm device its detection waits alone unless a reset shadows it. -/
theorem Dev.fault_alarms {d : Dev} (hc : d.Calm) (det b : Nat) :
    (d.fault det b).flt.alarms = if d.shadowed b det then [] else [plainDetection det b] := by
  have h1 : (((d.faultRecord (plainDetection det b)).capture (plainDetection det b)).signal 0).flt.alarms = [] :=
    (congrArg FltSt.alarms (Dev.alarms_emitAt d _ _ _ _ _ _)).trans hc
  have hs : d.shadowed (plainDetection det b).block (plainDetection det b).det = d.shadowed b det := rfl
  unfold Dev.fault Dev.alarm
  dsimp only
  rw [hs]
  split_ifs
  · exact h1
  · change _ ++ _ = _
    rw [h1]; rfl

@[simp] theorem Dev.fault_fc0 (d : Dev) (det b : Nat) : (d.fault det b).flt.fc0 = d.flt.fc0 := by
  have h1 : (((d.faultRecord (plainDetection det b)).capture (plainDetection det b)).signal 0).flt.fc0 = d.flt.fc0 :=
    (congrArg FltSt.fc0 (Dev.alarms_emitAt d _ _ _ _ _ _)).trans rfl
  unfold Dev.fault Dev.alarm
  dsimp only
  split_ifs <;> exact h1

/-- The loss of REFCLK_OK is never shadowed: it is no FC1 or FC2 of a block. -/
theorem Dev.settle_refclk_fault {d : Dev} (hc : d.Calm) :
    ∃ l, ((d.fault 0x0006 1).withFc0 l (some (d.flt.fc0.getD (0x0006, d.now)))).Aside (d.fault 0x0006 1).settle := by
  have hs : d.shadowed 1 0x0006 = false := by simp [Dev.shadowed]
  have ha : (d.fault 0x0006 1).flt.alarms = [plainDetection 0x0006 1] := by rw [Dev.fault_alarms hc, hs]; rfl
  have hcl : (d.fault 0x0006 1).classOf (plainDetection 0x0006 1) = 0 := by simp [Dev.classOf, plainDetection]
  have hn : (d.fault 0x0006 1).now = d.now := congrArg BitVec.toNat (d.same_fault 0x0006 1).still.count
  obtain ⟨l, hl⟩ := Dev.settle_fc0 ha hcl
  rw [Dev.fault_fc0, hn] at hl
  exact ⟨l, hl⟩

end Sys2Proof.Machine
end


/-! ## REFCLK, PLL-T and REF_WARM (R36 to R45) -/
section
namespace Sys2Proof.Machine

/-! ### The quality a rise reaches, told from before and after the event -/

/-- The quality after the rising rows of R43, with what the event leaves (`d'`) and what it does not touch (`d`). -/
def Dev.risesTo (d d' : Dev) : Nat :=
  let settled := d'.pln.warmSince.any fun at_ => decide (at_ + msTclk * d.get PLN.WARM_SETTLE ≤ d'.elapsed)
  let a := if d.qual = 0 ∧ d'.on PLN.QUALITY_PLLT_LOCK = true ∧ d'.on PLN.QUALITY_REFCLK_OK = true then 1 else d.qual
  let b := if a = 1 ∧ settled = true then 2 else a
  let c := if b = 2 ∧ d.get PLN.QUALITY_EPOCH_STATE = 2 ∧ d.pln.lastPass = true ∧ d.on PLN.QUALITY_WAKE_CAP = false then 3 else b
  if d'.qualFrozen then d.qual else c

/-- What an event leaves for the rising rows: the quality and what only SYNC checks and wakes change. -/
structure Dev.BeforeRise (d d1 : Dev) : Prop where
  qual : d1.qual = d.qual
  epoch : d1.get PLN.QUALITY_EPOCH_STATE = d.get PLN.QUALITY_EPOCH_STATE
  warm : d1.get PLN.WARM_SETTLE = d.get PLN.WARM_SETTLE
  pass : d1.pln.lastPass = d.pln.lastPass
  wake : d1.on PLN.QUALITY_WAKE_CAP = d.on PLN.QUALITY_WAKE_CAP

/-- What follows the rise leaves the clocks' part of its conditions alone. -/
structure Dev.AfterRise (d1 d' : Dev) : Prop where
  elapsed : d'.elapsed = d1.elapsed
  lock : d'.on PLN.QUALITY_PLLT_LOCK = d1.on PLN.QUALITY_PLLT_LOCK
  ref : d'.on PLN.QUALITY_REFCLK_OK = d1.on PLN.QUALITY_REFCLK_OK
  since : d'.pln.warmSince = d1.pln.warmSince
  frozen : d'.qualFrozen = d1.qualFrozen

theorem Dev.risesTo_eq {d d1 d' : Dev} (h : d.BeforeRise d1) (k : d1.AfterRise d') : d.risesTo d' = d1.risenQual := by
  have hw : d1.warmSettled = d'.pln.warmSince.any fun at_ => decide (at_ + msTclk * d.get PLN.WARM_SETTLE ≤ d'.elapsed) := by
    unfold Dev.warmSettled
    rw [k.since, k.elapsed, h.warm]
    cases d1.pln.warmSince <;> rfl
  unfold Dev.risesTo Dev.risenQual
  rw [h.qual, h.epoch, h.pass, h.wake, k.lock, k.ref, k.frozen, hw]

theorem Dev.ButQual.afterRise {d1 d' : Dev} (h : d1.ButQual d') : d1.AfterRise d' where
  elapsed := h.elapsed
  lock := h.on (by decide)
  ref := h.on (by decide)
  since := by obtain ⟨q, hq⟩ := h.pln; rw [hq]
  frozen := h.qualFrozen

/-- A low field reads as before through what units do. -/
theorem Dev.Aside.on {a b : Dev} (h : a.Aside b) {f : Fld} (hl : f.addr + 4 < 0x50000) (hs : f.addr ≠ 0x10010)
    (h4 : f.addr ≠ 0x1000C := by decide) : b.on f = a.on f := Dev.on_of_get (h.get hl hs h4)

theorem Dev.Aside.qual {a b : Dev} (h : a.Aside b) : b.qual = a.qual := h.get (by decide) (by decide)

theorem Dev.Aside.qualFrozen {a b : Dev} (h : a.Aside b) : b.qualFrozen = a.qualFrozen := by
  unfold Dev.qualFrozen
  rw [h.pln, h.fc0, h.on (f := PLN.QUALITY_REFCLK_OK) (by decide) (by decide)]

theorem Dev.AfterRise.aside {d1 d2 d' : Dev} (h : d1.AfterRise d2) (k : d2.Aside d') : d1.AfterRise d' where
  elapsed := k.elapsed.trans h.elapsed
  lock := (k.on (by decide) (by decide)).trans h.lock
  ref := (k.on (by decide) (by decide)).trans h.ref
  since := by rw [k.pln, h.since]
  frozen := k.qualFrozen.trans h.frozen

/-! ### Windows of REFCLK (R36) -/

/-- A window of `edges` edges is good. -/
def goodWindow (edges : Nat) : Bool := decide (230 ≤ edges) && decide (edges ≤ 282)

/-- The runs after a window. -/
def PlnSt.window (good : Bool) (p : PlnSt) : PlnSt :=
  { p with goodRun := if good then p.goodRun + 1 else 0, badRun := if good then 0 else p.badRun + 1 }

/-- What a window leaves in every case. -/
structure Dev.Windowed (good : Bool) (d d' : Dev) : Prop where
  elapsed : d'.elapsed = d.elapsed
  pln : ∃ q, d'.pln = { d.pln.window good with quals := q }
  ok : d'.on PLN.QUALITY_REFCLK_OK =
    if d.on PLN.QUALITY_REFCLK_OK then decide ((d.pln.window good).badRun < 2) else decide (2 ≤ (d.pln.window good).goodRun)
  qual : d'.qual = if d.on PLN.QUALITY_REFCLK_OK = false ∧ d'.on PLN.QUALITY_REFCLK_OK = true then d.risesTo d' else d.qual
  fc0 : d'.flt.fc0 = if d.on PLN.QUALITY_REFCLK_OK = true ∧ d'.on PLN.QUALITY_REFCLK_OK = false ∧ d.pln.everLocked = true
    then some (d.flt.fc0.getD (0x0006, d.now)) else d.flt.fc0

/-- REFCLK_OK falls before the first lock: nothing else happens. -/
theorem Dev.windowed_lost_early {good : Bool} {d : Dev} (hok : d.on PLN.QUALITY_REFCLK_OK = true)
    (hb : 2 ≤ (d.pln.window good).badRun) (hl : d.pln.everLocked = false) :
    d.Windowed good ((d.modPln (PlnSt.window good)).put PLN.QUALITY_REFCLK_OK 0) := by
  have ok : ((d.modPln (PlnSt.window good)).put PLN.QUALITY_REFCLK_OK 0).on PLN.QUALITY_REFCLK_OK = false :=
    Dev.on_put_bit _ _ false (by decide) rfl
  refine ⟨by simp; rfl, ⟨_, by rw [Dev.put_pln]; rfl⟩, ?_, ?_, ?_⟩
  · rw [ok, hok, if_pos rfl, decide_eq_false (by omega)]
  · rw [if_neg (by simp [hok])]
    exact Dev.get_put_apart _ _ (by decide)
  · rw [if_neg (by simp [hl]), Dev.put_flt]; rfl

/-- REFCLK_OK falls after the first lock: an FC0, whose reaction leaves PLN alone. -/
theorem Dev.windowed_lost {good : Bool} {d : Dev} (hc : d.Calm) (hok : d.on PLN.QUALITY_REFCLK_OK = true)
    (hb : 2 ≤ (d.pln.window good).badRun) (hl : d.pln.everLocked = true) :
    d.Windowed good (((d.modPln (PlnSt.window good)).put PLN.QUALITY_REFCLK_OK 0).fault 0x0006 1).settle := by
  have hc1 : ((d.modPln (PlnSt.window good)).put PLN.QUALITY_REFCLK_OK 0).Calm := Dev.Calm.put (d := d.modPln _) hc _ _
  obtain ⟨l, k⟩ := Dev.settle_refclk_fault hc1
  have same := Dev.same_fault ((d.modPln (PlnSt.window good)).put PLN.QUALITY_REFCLK_OK 0) 0x0006 1
  have off : ((d.modPln (PlnSt.window good)).put PLN.QUALITY_REFCLK_OK 0).on PLN.QUALITY_REFCLK_OK = false :=
    Dev.on_put_bit _ _ false (by decide) rfl
  have ok := (k.on (f := PLN.QUALITY_REFCLK_OK) (by decide) (by decide)).trans ((same.on _).trans off)
  refine ⟨?_, ⟨d.pln.quals, ?_⟩, ?_, ?_, ?_⟩
  · exact k.elapsed.trans (same.still.elapsed.trans (Dev.put_elapsed _ _ _))
  · exact k.pln.trans (same.still.pln.trans (Dev.put_pln _ _ _))
  · rw [ok, hok, if_pos rfl, decide_eq_false (by omega)]
  · rw [if_neg (by simp [hok])]
    exact k.qual.trans ((same.get _).trans (Dev.get_put_apart _ _ (by decide)))
  · rw [if_pos ⟨hok, ok, hl⟩, k.fc0]
    simp [Dev.withFc0, Dev.now]
    rfl

/-- REFCLK_OK rises, and the quality with it. -/
theorem Dev.windowed_back {good : Bool} {d : Dev} (hok : d.on PLN.QUALITY_REFCLK_OK = false)
    (hg : 2 ≤ (d.pln.window good).goodRun) :
    d.Windowed good ((d.modPln (PlnSt.window good)).put PLN.QUALITY_REFCLK_OK 1).qualRise := by
  obtain ⟨k, hq⟩ := Dev.qualRise_spec ((d.modPln (PlnSt.window good)).put PLN.QUALITY_REFCLK_OK 1)
  have on : ((d.modPln (PlnSt.window good)).put PLN.QUALITY_REFCLK_OK 1).on PLN.QUALITY_REFCLK_OK = true :=
    Dev.on_put_bit _ _ true (by decide) rfl
  have ok := (k.on (f := PLN.QUALITY_REFCLK_OK) (by decide)).trans on
  obtain ⟨q, hp⟩ := k.pln
  refine ⟨?_, ⟨q, ?_⟩, ?_, ?_, ?_⟩
  · exact k.elapsed.trans (Dev.put_elapsed _ _ _)
  · rw [hp, Dev.put_pln, Dev.modPln_pln]
  · rw [ok, hok, if_neg (by decide), decide_eq_true hg]
  · rw [if_pos ⟨hok, ok⟩, hq]
    refine (Dev.risesTo_eq ⟨Dev.get_put_apart _ _ (by decide), Dev.get_put_apart _ _ (by decide),
      Dev.get_put_apart _ _ (by decide), by rw [Dev.put_pln], Dev.on_put_apart _ _ (by decide)⟩ k.afterRise).symm
  · rw [if_neg (by simp [hok]), k.flt]
    exact congrArg FltSt.fc0 (Dev.put_flt _ _ _)

/-- A window that changes the runs alone. -/
theorem Dev.windowed_runs {good : Bool} {d : Dev}
    (h : if d.on PLN.QUALITY_REFCLK_OK then (d.pln.window good).badRun < 2 else (d.pln.window good).goodRun < 2) :
    d.Windowed good (d.modPln (PlnSt.window good)) := by
  refine ⟨rfl, ⟨_, rfl⟩, ?_, ?_, ?_⟩
  · cases hok : d.on PLN.QUALITY_REFCLK_OK
    · simp only [hok, Bool.false_eq_true, if_false] at h
      rw [Dev.modPln_on, hok, if_neg (by decide), decide_eq_false (by omega)]
    · simp only [hok, if_true] at h
      rw [Dev.modPln_on, hok, if_pos rfl, decide_eq_true h]
  · rw [if_neg (by rw [Dev.modPln_on]; rintro ⟨off, on⟩; simp [off] at on)]; rfl
  · rw [if_neg (by rw [Dev.modPln_on]; rintro ⟨on, off, -⟩; simp [off] at on)]; rfl

theorem Dev.refclkWindow_windowed (edges : Nat) {d : Dev} (hc : d.Calm) : d.Windowed (goodWindow edges) (d.refclkWindow edges) := by
  have e : d.refclkWindow edges =
      if d.on PLN.QUALITY_REFCLK_OK then
        if 2 ≤ (d.pln.window (goodWindow edges)).badRun then
          if d.pln.everLocked then
            (((d.modPln (PlnSt.window (goodWindow edges))).put PLN.QUALITY_REFCLK_OK 0).fault 0x0006 1).settle
          else (d.modPln (PlnSt.window (goodWindow edges))).put PLN.QUALITY_REFCLK_OK 0
        else d.modPln (PlnSt.window (goodWindow edges))
      else if 2 ≤ (d.pln.window (goodWindow edges)).goodRun then
        ((d.modPln (PlnSt.window (goodWindow edges))).put PLN.QUALITY_REFCLK_OK 1).qualRise
      else d.modPln (PlnSt.window (goodWindow edges)) := rfl
  rw [e]
  split_ifs with hok hb hl hg
  · exact Dev.windowed_lost hc hok hb hl
  · exact Dev.windowed_lost_early hok hb (by simpa using hl)
  · exact Dev.windowed_runs (by rw [if_pos hok]; omega)
  · exact Dev.windowed_back (by simpa using hok) hg
  · exact Dev.windowed_runs (by rw [if_neg hok]; omega)

/-- Settles O15: the runs of good and bad windows, and REFCLK_OK by them (R36). -/
theorem referenceIsWatched : Obligations.ReferenceIsWatched := by
  unfold Obligations.ReferenceIsWatched
  intro s edges hc
  have w := Dev.refclkWindow_windowed edges hc
  obtain ⟨q, hq⟩ := w.pln
  have hg : (s.dev.refclkWindow edges).pln.goodRun = (s.dev.pln.window (goodWindow edges)).goodRun := by rw [hq]
  have hb : (s.dev.refclkWindow edges).pln.badRun = (s.dev.pln.window (goodWindow edges)).badRun := by rw [hq]
  refine ⟨_, rfl, rfl, w.elapsed, hg, hb, ?_⟩
  have ok := w.ok
  rw [← hg, ← hb] at ok
  exact ok

end Sys2Proof.Machine
end


/-! ## DORMANT: the signature opens the next block (R289, R413) -/
section
namespace Sys2Proof.Machine

theorem Dev.tiaEnd_ldg (d : Dev) (k st : Nat) : (d.tiaEnd k st).ldg = d.ldg := by
  have ended (x y : Dev) (hx : x.ldg = d.ldg) (f : TiaM → TiaM) : ((x.modMeas k f).stateSignal y).ldg = d.ldg := by simp [hx]
  have bits : (((d.tiaProduce k st).tiaBit TIA.ACTIVE k false).put (TIA.M_STATE_STATE k) 0).ldg = d.ldg := by
    rw [Dev.put_ldg]; unfold Dev.tiaBit; rw [Dev.put_ldg]
    unfold Dev.tiaProduce; simp; rfl
  unfold Dev.tiaEnd
  dsimp only
  split_ifs
  · rfl
  · exact ended _ _ bits _
  · exact ended _ _ bits _

/-- A list of operations that each leave the ledger alone leaves it alone. -/
theorem Dev.each_ldg {α : Type} (l : List α) (g : α → Dev → Dev) (d : Dev) (hg : ∀ x d, (g x d).ldg = d.ldg) :
    (d.each l g).ldg = d.ldg :=
  Dev.each_keeps (P := fun y => y.ldg = d.ldg) l g d rfl fun x _ y hy => (hg x y).trans hy

theorem Dev.unpowerCmp_ldg (p : Nat) (d : Dev) : (d.unpowerCmp p).ldg = d.ldg :=
  Dev.each_ldg _ _ _ fun k x => x.tiaEnd_ldg k 7

/-- Moving closed blocks to DRAM leaves the block under construction. -/
theorem Dev.spillBlocks_cur (d : Dev) : d.spillBlocks.ldg.cur = d.ldg.cur := by
  unfold Dev.spillBlocks; split_ifs <;> rfl

/-- A channel on the way to DORMANT. -/
def Dev.dormantPin (p : Nat) (d : Dev) : Dev :=
  if d.pinGet PINB.SEL_WAKE_SEL p != 0 then d.modPin p fun s => { s with mode := 3, lowered := false } else d.unpowerCmp p

theorem Dev.dormantPin_ldg (p : Nat) (d : Dev) : (d.dormantPin p).ldg = d.ldg := by
  unfold Dev.dormantPin
  split_ifs
  · rfl
  · exact Dev.unpowerCmp_ldg p d

theorem Dev.enterSteps_ldg (d : Dev) : d.enterSteps.ldg = d.ldg := by
  unfold Dev.enterSteps Dev.modPln; simp

theorem Dev.modDrc_ldg (d : Dev) (f : DrcSt → DrcSt) : (d.modDrc f).ldg = d.ldg := rfl

theorem Dev.modBoot_ldg (d : Dev) (f : BootSt → BootSt) : (d.modBoot f).ldg = d.ldg := rfl

/-- The device after the entry but for the mark that the entry is under way. -/
def Dev.asleep (d : Dev) : Dev :=
  (((((d.closeBlock 16).signNewest.placeSignature).spillBlocks).each allPins Dev.dormantPin).modDrc fun c =>
    { c with selfRefresh := true }).toRefclkEdge.enterSteps.put GLB.POWER_CTRL_DORMANT_RESULT 1

theorem Dev.dormantDone_eq {d : Dev} (h : d.boot.dormEntry = true) :
    d.dormantDone = d.asleep.modBoot fun b => { b with dormEntry := false } := by
  unfold Dev.dormantDone
  rw [h, if_neg (by decide)]
  rfl

/-- After the signature, nothing of the entry changes the block under construction. -/
theorem Dev.asleep_cur (d : Dev) : d.asleep.ldg.cur = ((d.closeBlock 16).signNewest.placeSignature).ldg.cur := by
  have pins := Dev.each_ldg allPins _ ((d.closeBlock 16).signNewest.placeSignature).spillBlocks Dev.dormantPin_ldg
  rw [Dev.asleep, Dev.put_ldg, Dev.enterSteps_ldg, Dev.toRefclkEdge, Dev.until_ldg, Dev.modDrc_ldg, pins, Dev.spillBlocks_cur]

theorem Dev.dormantDone_cur {d : Dev} (h : d.boot.dormEntry = true) :
    d.dormantDone.ldg.cur = ((d.closeBlock 16).signNewest.placeSignature).ldg.cur := by
  rw [Dev.dormantDone_eq h]
  exact (congrArg LdgSt.cur (Dev.modBoot_ldg _ _)).trans d.asleep_cur

/-- The entry's outcome, for a state that is not evaluated. -/
theorem dormantEntryDone_cur {s t : State} (h : s.dev.boot.dormEntry = true) (e : exec .dormantEntryDone s = .next t) :
    t.dev.ldg.cur = ((s.dev.closeBlock 16).signNewest.placeSignature).ldg.cur := by
  have e' : Host.Outcome.next { s with dev := s.dev.dormantDone } = Host.Outcome.next t := e
  injection e' with e'
  rw [← e']
  exact Dev.dormantDone_cur h

/-- A device on its way to DORMANT with one record in the block under construction. -/
def enteringDormant : State :=
  { State.reset with dev := { Dev.reset with
      boot := { BootSt.reset with dormEntry := true }
      ldg := { LdgSt.reset with chain := true, cur := [List.replicate 32 0] } } }

/-- The block closes, and the seven records of its SIGNATURE group stand in the next one. -/
theorem signature_opens_block : ((enteringDormant.dev.closeBlock 16).signNewest.placeSignature).ldg.cur.length = 7 := by
  decide +kernel

/-- Refutes O60: the entry to DORMANT leaves a block under construction, because the signature of the block that it closes is
itself a group of records, and it is placed after the close. -/
theorem not_powerStates : ¬ Obligations.PowerStates := by
  unfold Obligations.PowerStates
  intro h
  obtain ⟨-, -, -, done, -⟩ := h enteringDormant
  obtain ⟨t, ht, -, -, -, -, -, -, -, cur, -⟩ := done rfl
  rw [dormantEntryDone_cur rfl ht] at cur
  exact absurd (congrArg List.length cur) (by rw [signature_opens_block]; decide)

end Sys2Proof.Machine
end


/-! ## Lock, warm-up and REFCLK steps (R37 to R44) -/
section
namespace Sys2Proof.Machine

/-- A command that changes nothing of the device changes nothing. -/
theorem State.onDev_self {s : State} {f : Dev → Dev} (h : f s.dev = s.dev) : s.onDev f = .next s := by
  unfold State.onDev; rw [h]

/-! ### The count while time passes -/

theorem Dev.until_count (d : Dev) (t : Nat) :
    (d.until t).count = d.count + BitVec.ofNat 64 (d.countStep (t - d.elapsed)) := by
  unfold Dev.until
  by_cases h : d.elapsed < t
  · rw [if_pos h]; rfl
  · rw [if_neg h, show t - d.elapsed = 0 by omega]
    simp [Dev.countStep]

/-- In REFCLK steps the Plain moves at the edges alone (R39). -/
theorem Dev.countStep_steps {d : Dev} (h : d.byTclk = false) (k : Nat) :
    d.countStep k = if d.byRefclk then 16 * ((d.elapsed + k) / 16 - d.elapsed / 16) else 0 := by
  simp [Dev.countStep, h]

theorem le_ceilDiv_mul (e : Nat) : e ≤ 16 * ceilDiv e 16 := by unfold ceilDiv; omega

/-! ### A device that has lost or gains the state of the device alone -/

/-- Entry to UNCONFIGURED is the state shown and a signal. -/
theorem Dev.get_enterUnconfigured (d : Dev) {f : Fld} (h : GLB.STATE_STATE.Apart f) : d.enterUnconfigured.get f = d.get f :=
  d.get_put_apart _ h

theorem Dev.afterRise_enterUnconfigured {d1 d : Dev} (h : d1.AfterRise d) : d1.AfterRise d.enterUnconfigured := by
  have on {f : Fld} (hf : GLB.STATE_STATE.Apart f) : d.enterUnconfigured.on f = d.on f :=
    Dev.on_of_get (d.get_enterUnconfigured hf)
  have pln : d.enterUnconfigured.pln = d.pln := d.put_pln _ _
  have flt : d.enterUnconfigured.flt = { d.flt with } := by
    unfold Dev.enterUnconfigured; rw [Dev.signal_flt, Dev.put_flt]
  refine ⟨(d.put_elapsed _ _).trans h.elapsed, (on (by decide)).trans h.lock, (on (by decide)).trans h.ref,
    (congrArg PlnSt.warmSince pln).trans h.since, ?_⟩
  rw [← h.frozen]
  unfold Dev.qualFrozen
  rw [pln, flt, on (by decide)]

/-! ### PLL-T lock (R37, R38, R43) -/

/-- The device at the instant from which the Plain counts by TCLK. -/
def Dev.tclkFrom (d : Dev) : Dev :=
  (((d.until (if d.pln.everLocked then 16 * ceilDiv d.elapsed 16 else d.elapsed)).put PLN.QUALITY_PLLT_LOCK 1).put
    PLN.QUALITY_REFSTEP 0).modPln fun p => { p with everLocked := true }

/-- Nothing of the device was chosen to boot from when the last step of start-up ended. -/
def Dev.noCopy (d : Dev) : Bool := d.inBoot && d.boot.chosen == 0 && d.get GLB.STATE_STEP == 5

theorem Dev.pllLock_eq {d : Dev} (h : (!d.on PLN.QUALITY_PLLT_LOCK && d.on PLN.QUALITY_REFCLK_OK && d.st != stDormant) = true) :
    d.pllLock = if d.tclkFrom.qualRise.restartIdle.smcBeginAll.noCopy then
      d.tclkFrom.qualRise.restartIdle.smcBeginAll.enterUnconfigured else d.tclkFrom.qualRise.restartIdle.smcBeginAll := by
  have hu : (if d.pln.everLocked then d.toRefclkEdge else d) =
      d.until (if d.pln.everLocked then 16 * ceilDiv d.elapsed 16 else d.elapsed) := by
    split_ifs
    · rfl
    · exact (d.until_past le_rfl).symm
  simp only [Bool.and_eq_true, Bool.not_eq_true', bne_iff_ne, ne_eq] at h
  obtain ⟨⟨h1, h2⟩, h3⟩ := h
  unfold Dev.pllLock Dev.noCopy Dev.tclkFrom
  rw [if_neg (by simp [h1, h2, h3]), hu]

theorem Dev.tclkFrom_get (d : Dev) {f : Fld} (h1 : PLN.QUALITY_PLLT_LOCK.Apart f) (h2 : PLN.QUALITY_REFSTEP.Apart f) :
    d.tclkFrom.get f = d.get f :=
  (Dev.get_put_apart _ _ h2).trans ((Dev.get_put_apart _ _ h1).trans (Dev.until_get _ _ _))

theorem Dev.tclkFrom_pln (d : Dev) : d.tclkFrom.pln = { d.pln with everLocked := true } := by
  unfold Dev.tclkFrom; rw [Dev.modPln_pln, Dev.put_pln, Dev.put_pln, Dev.until_pln]

theorem Dev.tclkFrom_byTclk (d : Dev) : d.tclkFrom.byTclk = true := by
  have lock : d.tclkFrom.on PLN.QUALITY_PLLT_LOCK = true :=
    (Dev.on_put_apart _ _ (by decide)).trans (Dev.on_put_bit _ _ true (by decide) rfl)
  have step : d.tclkFrom.on PLN.QUALITY_REFSTEP = false := Dev.on_put_bit _ _ false (by decide) rfl
  unfold Dev.byTclk; rw [lock, step]; rfl

theorem Dev.tclkFrom_elapsed (d : Dev) :
    d.tclkFrom.elapsed = if d.pln.everLocked then 16 * ceilDiv d.elapsed 16 else d.elapsed := by
  have e : d.tclkFrom.elapsed = (d.until (if d.pln.everLocked then 16 * ceilDiv d.elapsed 16 else d.elapsed)).elapsed :=
    (Dev.put_elapsed _ _ _).trans (Dev.put_elapsed _ _ _)
  have := le_ceilDiv_mul d.elapsed
  rw [e, Dev.until_elapsed]
  split_ifs <;> omega

theorem Dev.tclkFrom_count {d : Dev} (h : d.on PLN.QUALITY_PLLT_LOCK = false) : d.tclkFrom.count =
    d.count + BitVec.ofNat 64 (if d.byRefclk then 16 * (ceilDiv d.elapsed 16 - d.elapsed / 16) else 0) := by
  have e : d.tclkFrom.count = (d.until (if d.pln.everLocked then 16 * ceilDiv d.elapsed 16 else d.elapsed)).count :=
    (Dev.put_count _ _ _).trans (Dev.put_count _ _ _)
  have hb : d.byTclk = false := by simp [Dev.byTclk, h]
  rw [e, Dev.until_count, Dev.countStep_steps hb]
  cases hr : d.byRefclk with
  | false => rfl
  | true =>
    have hl : d.pln.everLocked = true := by simp only [Dev.byRefclk, Bool.and_eq_true] at hr; exact hr.2
    have := le_ceilDiv_mul d.elapsed
    rw [if_pos hl, if_pos rfl, if_pos rfl, show d.elapsed + (16 * ceilDiv d.elapsed 16 - d.elapsed) = 16 * ceilDiv d.elapsed 16 by omega,
      Nat.mul_div_cancel_left _ (by decide)]

theorem Dev.tclkFrom_beforeRise (d : Dev) : d.BeforeRise d.tclkFrom where
  qual := d.tclkFrom_get (by decide) (by decide)
  epoch := d.tclkFrom_get (by decide) (by decide)
  warm := d.tclkFrom_get (by decide) (by decide)
  pass := by rw [d.tclkFrom_pln]
  wake := Dev.on_of_get (d.tclkFrom_get (by decide) (by decide))

theorem Dev.restartIdle_aside (d : Dev) : d.Aside d.restartIdle.smcBeginAll := (Dev.Aside.refl d).restartIdle.smcBeginAll

/-- What lock leaves, with or without the end of start-up. -/
structure Dev.Locked (d d' : Dev) : Prop where
  elapsed : d'.elapsed = d.tclkFrom.elapsed
  count : d'.count = d.tclkFrom.count
  byTclk : d'.byTclk = true
  ever : d'.pln.everLocked = true
  qual : d'.qual = d.risesTo d'

theorem Dev.pllLock_locked {d : Dev} (h : (!d.on PLN.QUALITY_PLLT_LOCK && d.on PLN.QUALITY_REFCLK_OK && d.st != stDormant) = true) :
    d.Locked d.pllLock := by
  obtain ⟨k, hq⟩ := d.tclkFrom.qualRise_spec
  have r := d.tclkFrom.qualRise.restartIdle_aside
  obtain ⟨q, hp⟩ := k.pln
  rw [Dev.pllLock_eq h]
  generalize d.tclkFrom.qualRise.restartIdle.smcBeginAll = e at r ⊢
  have after : d.tclkFrom.AfterRise e := k.afterRise.aside r
  have ever : e.pln.everLocked = true := by rw [r.pln, hp, d.tclkFrom_pln]
  have byTclk : e.byTclk = true := by
    rw [← d.tclkFrom_byTclk]
    unfold Dev.byTclk
    rw [after.lock, r.on (f := PLN.QUALITY_REFSTEP) (by decide) (by decide), k.on (by decide)]
  have qual : e.qual = d.tclkFrom.risenQual := r.qual.trans hq
  split_ifs
  · refine ⟨(Dev.put_elapsed _ _ _).trans after.elapsed, (Dev.put_count _ _ _).trans (r.count.trans k.count), ?_, ?_, ?_⟩
    · rw [← byTclk]
      unfold Dev.byTclk
      rw [Dev.on_of_get (e.get_enterUnconfigured (by decide)), Dev.on_of_get (e.get_enterUnconfigured (by decide))]
    · exact (congrArg PlnSt.everLocked (e.put_pln _ _)).trans ever
    · exact (e.get_enterUnconfigured (by decide)).trans
        (qual.trans (Dev.risesTo_eq d.tclkFrom_beforeRise (Dev.afterRise_enterUnconfigured after)).symm)
  · exact ⟨after.elapsed, r.count.trans k.count, byTclk, ever, qual.trans (Dev.risesTo_eq d.tclkFrom_beforeRise after).symm⟩

/-- Lock ends a start-up without a valid copy (R402), and changes the state shown in no other case. -/
theorem Dev.pllLock_st {d : Dev} (h : (!d.on PLN.QUALITY_PLLT_LOCK && d.on PLN.QUALITY_REFCLK_OK && d.st != stDormant) = true) :
    d.pllLock.st = if d.st = stBoot ∧ d.boot.chosen = 0 ∧ d.get GLB.STATE_STEP = 5 then stUnconfigured else d.st := by
  obtain ⟨k, -⟩ := d.tclkFrom.qualRise_spec
  have r := d.tclkFrom.qualRise.restartIdle_aside
  rw [Dev.pllLock_eq h]
  generalize d.tclkFrom.qualRise.restartIdle.smcBeginAll = e at r ⊢
  have get {f : Fld} (h0 : PLN.QUALITY_QUAL.Apart f) (h1 : PLN.QUALITY_PLLT_LOCK.Apart f) (h2 : PLN.QUALITY_REFSTEP.Apart f)
      (hl : f.addr + 4 < 0x50000) (hs : f.addr ≠ 0x10010) (h4 : f.addr ≠ 0x1000C) : e.get f = d.get f :=
    (r.get hl hs h4).trans ((k.get f h0).trans (d.tclkFrom_get h1 h2))
  have st : e.st = d.st := get (by decide) (by decide) (by decide) (by decide) (by decide) (by decide)
  have step : e.get GLB.STATE_STEP = d.get GLB.STATE_STEP :=
    get (by decide) (by decide) (by decide) (by decide) (by decide) (by decide)
  have chosen : e.boot.chosen = d.boot.chosen := by
    rw [r.chosen, k.chosen]; unfold Dev.tclkFrom Dev.modPln; simp
  have hn : e.noCopy = true ↔ d.st = stBoot ∧ d.boot.chosen = 0 ∧ d.get GLB.STATE_STEP = 5 := by
    unfold Dev.noCopy Dev.inBoot
    rw [st, step, chosen]
    simp [and_assoc]
  simp only [hn]
  split_ifs
  · exact Dev.get_put_self _ _ _ (by decide)
  · exact st

/-! ### REF_WARM (R43, R44) -/

/-- The device that shows a REF_WARM level. -/
def Dev.warmFrom (level : Bool) (d : Dev) : Dev :=
  (d.put PLN.QUALITY_REF_WARM (bit level)).modPln fun p => { p with warmSince := if level then some d.elapsed else none }

theorem Dev.warmFrom_get (level : Bool) (d : Dev) {f : Fld} (h : PLN.QUALITY_REF_WARM.Apart f) :
    (d.warmFrom level).get f = d.get f := d.get_put_apart _ h

theorem Dev.warmFrom_pln (level : Bool) (d : Dev) :
    (d.warmFrom level).pln = { d.pln with warmSince := if level then some d.elapsed else none } := by
  unfold Dev.warmFrom; rw [Dev.modPln_pln, Dev.put_pln]

theorem Dev.warmFrom_frozen (level : Bool) (d : Dev) : (d.warmFrom level).qualFrozen = d.qualFrozen := by
  unfold Dev.qualFrozen
  rw [d.warmFrom_pln, Dev.on_of_get (d.warmFrom_get level (f := PLN.QUALITY_REFCLK_OK) (by decide))]
  unfold Dev.warmFrom Dev.modPln
  simp

theorem Dev.warmFrom_beforeRise (level : Bool) (d : Dev) : d.BeforeRise (d.warmFrom level) where
  qual := d.warmFrom_get level (by decide)
  epoch := d.warmFrom_get level (by decide)
  warm := d.warmFrom_get level (by decide)
  pass := by rw [d.warmFrom_pln]
  wake := Dev.on_of_get (d.warmFrom_get level (by decide))

/-- What a REF_WARM change leaves. -/
structure Dev.Warmed (level : Bool) (d d' : Dev) : Prop where
  elapsed : d'.elapsed = d.elapsed
  warm : d'.on PLN.QUALITY_REF_WARM = level
  since : d'.pln.warmSince = if level then some d.elapsed else none
  qual : d'.qual = if level then (if d.get PLN.WARM_SETTLE = 0 then d.risesTo d' else d.qual)
    else if 2 ≤ d.qual ∧ d.qualFrozen = false then 1 else d.qual

/-- A change of the quality alone keeps what a REF_WARM change shows. -/
theorem Dev.warmed_of_butQual {level : Bool} {d d' : Dev} (k : (d.warmFrom level).ButQual d')
    (hq : d'.qual = if level then (if d.get PLN.WARM_SETTLE = 0 then d.risesTo d' else d.qual)
      else if 2 ≤ d.qual ∧ d.qualFrozen = false then 1 else d.qual) : d.Warmed level d' := by
  obtain ⟨q, hp⟩ := k.pln
  refine ⟨k.elapsed.trans (d.put_elapsed _ _), (k.on (by decide)).trans (d.on_put_bit _ level (by decide) rfl), ?_, hq⟩
  rw [hp, d.warmFrom_pln]

theorem Dev.refWarm_warmed {level : Bool} {d : Dev} (h : d.on PLN.QUALITY_REF_WARM ≠ level) : d.Warmed level (d.refWarm level) := by
  have q0 := (d.warmFrom_beforeRise level).qual
  have e : d.refWarm level = if level then (if (d.warmFrom level).get PLN.WARM_SETTLE = 0 then (d.warmFrom level).qualRise
      else d.warmFrom level) else if 2 ≤ (d.warmFrom level).qual then (d.warmFrom level).setQual 1 5 else d.warmFrom level := by
    unfold Dev.refWarm; rw [if_neg h]; rfl
  rw [e, (d.warmFrom_beforeRise level).warm, q0]
  split_ifs with hl hw hq
  · obtain ⟨k, hk⟩ := (d.warmFrom level).qualRise_spec
    refine Dev.warmed_of_butQual k ?_
    rw [if_pos hl, if_pos hw, hk, Dev.risesTo_eq (d.warmFrom_beforeRise level) k.afterRise]
  · exact Dev.warmed_of_butQual (.refl _) (by rw [if_pos hl, if_neg hw, q0])
  · obtain ⟨k, hk⟩ := (d.warmFrom level).setQual_spec 1 5 (by decide) (by decide)
    refine Dev.warmed_of_butQual k ?_
    rw [if_neg hl, hk, d.warmFrom_frozen, q0]
    cases d.qualFrozen <;> simp [hq]
  · exact Dev.warmed_of_butQual (.refl _) (by rw [if_neg hl, if_neg (by omega), q0])

theorem Dev.until_beforeRise (d : Dev) (t : Nat) : d.BeforeRise (d.until t) where
  qual := d.until_get t _
  epoch := d.until_get t _
  warm := d.until_get t _
  pass := by rw [d.until_pln]
  wake := d.until_on t _

theorem Dev.warmExpiry_rises {d : Dev} {since : Nat} (h : d.pln.warmSince = some since) :
    d.warmExpiry.elapsed = max d.elapsed (since + msTclk * d.get PLN.WARM_SETTLE) ∧ d.warmExpiry.qual = d.risesTo d.warmExpiry := by
  unfold Dev.warmExpiry
  rw [h]
  obtain ⟨k, hq⟩ := (d.until (since + msTclk * d.get PLN.WARM_SETTLE)).qualRise_spec
  exact ⟨k.elapsed.trans (d.until_elapsed _), hq.trans (Dev.risesTo_eq (d.until_beforeRise _) k.afterRise).symm⟩

/-! ### REFCLK steps (R39) -/

theorem Dev.refclkStep_count {d : Dev} (h : d.on PLN.QUALITY_REFSTEP = true) :
    d.refclkStep.elapsed = 16 * (d.elapsed / 16 + 1) ∧ d.refclkStep.regs = d.regs ∧
      d.refclkStep.count = d.count + (if d.on PLN.QUALITY_REFCLK_OK = true ∧ d.pln.everLocked = true then 16 else 0) := by
  have hb : d.byTclk = false := by simp [Dev.byTclk, h]
  have hr : d.byRefclk = true ↔ d.on PLN.QUALITY_REFCLK_OK = true ∧ d.pln.everLocked = true := by simp [Dev.byRefclk, h]
  unfold Dev.refclkStep
  rw [if_pos h]
  refine ⟨?_, d.until_regs _, ?_⟩
  · rw [d.until_elapsed]; omega
  · rw [d.until_count, Dev.countStep_steps hb,
      show d.elapsed + (16 * (d.elapsed / 16 + 1) - d.elapsed) = 16 * (d.elapsed / 16 + 1) by omega,
      Nat.mul_div_cancel_left _ (by decide), show d.elapsed / 16 + 1 - d.elapsed / 16 = 1 by omega]
    simp only [hr]
    split_ifs <;> rfl

/-- Settles O16: windows, lock, REF_WARM and its settling, and REFCLK steps, each by what it leaves for the rising rows of R43. -/
theorem clocksAndQuality : Obligations.ClocksAndQuality := by
  unfold Obligations.ClocksAndQuality
  intro s d edge settled risen Does calm
  refine ⟨fun edges => ?_, ⟨fun h => ?_, fun h => ?_⟩, fun level => ⟨fun h => ?_, fun h => ?_⟩, fun h => ?_, fun since h => ?_,
    fun h => ?_, fun h => ?_⟩
  · have w := Dev.refclkWindow_windowed edges calm
    exact ⟨_, rfl, rfl, w.elapsed, w.qual, w.fc0⟩
  · have e : d.pllLock = d := by
      unfold Dev.pllLock
      exact if_pos (by simpa [bne] using congrArg not h)
    exact State.onDev_self e
  · have l := Dev.pllLock_locked h
    have unlocked : d.on PLN.QUALITY_PLLT_LOCK = false := by
      simp only [Bool.and_eq_true, Bool.not_eq_true'] at h
      exact h.1.1
    have at_ := l.elapsed.trans d.tclkFrom_elapsed
    have count := l.count.trans (Dev.tclkFrom_count unlocked)
    have st := Dev.pllLock_st h
    exact ⟨{ s with dev := d.pllLock }, rfl, rfl, at_, ⟨l.byTclk, l.ever, l.qual, count, st⟩⟩
  · exact State.onDev_self (if_pos h)
  · have w := Dev.refWarm_warmed h
    exact ⟨_, rfl, rfl, w.elapsed, w.warm, w.since, w.qual⟩
  · exact State.onDev_self (by unfold Dev.warmExpiry; rw [show s.dev.pln.warmSince = none from h])
  · obtain ⟨he, hq⟩ := Dev.warmExpiry_rises h
    exact ⟨_, rfl, rfl, he, hq⟩
  · exact State.onDev_self (if_neg (by rw [h]; decide))
  · obtain ⟨he, hr, hc⟩ := Dev.refclkStep_count h
    exact ⟨_, rfl, rfl, he, hc, hr⟩

end Sys2Proof.Machine
end


/-! ## TIA measurements arm, and TDR counts (R193 to R206) -/
section
namespace Sys2Proof.Machine

/-! ### One bit of a register of 64 -/

theorem testBit_setBitTo (x i : Nat) (b : Bool) : (setBitTo x i b).testBit i = b := by
  unfold setBitTo
  split_ifs with h hb
  · exact h
  · subst hb
    rw [Nat.add_comm, Nat.testBit_two_pow_add_eq]
    simpa using h
  · obtain rfl : b = false := by simpa using hb
    have hx : x.testBit i = true := by simpa using h
    have e := Nat.testBit_two_pow_add_eq (x - 2 ^ i) i
    rw [Nat.add_sub_cancel' (Nat.ge_two_pow_of_testBit hx), hx] at e
    simpa using e.symm

theorem Dev.testBit_tiaBit (d : Dev) {f : Fld} {k : Nat} (b : Bool) (hw : f.w = 64) (hk : k < 64) :
    ((d.tiaBit f k b).get f).testBit k = b := by
  unfold Dev.tiaBit
  rw [d.get_put_pair f _ hw, Nat.testBit_mod_two_pow, testBit_setBitTo]
  simp [hk]

theorem Dev.tiaBit_get (d : Dev) {f g : Fld} (k : Nat) (b : Bool) (h : f.Apart g) : (d.tiaBit f k b).get g = d.get g :=
  d.get_put_apart _ h

/-! ### What a request meets before the measurement (R49) -/

/-- A field whose dwords are not among those written reads as before. -/
theorem Dev.Wrote.get {as : List Nat} {a b : Dev} (h : a.Wrote as b) {f : Fld} (h0 : f.addr ∉ as) (h4 : f.addr + 4 ∉ as) :
    b.get f = a.get f := Dev.get_of_regs (h.regs _ h0) (h.regs _ h4)

theorem Dev.wrote_cancelArm (d : Dev) : d.Wrote [PLN.SYNC_CTRL_ARM.addr] d.cancelArm := by
  unfold Dev.cancelArm
  split_ifs
  · exact ((d.wrote_put_dword PLN.SYNC_CTRL_ARM 0 (by decide)).trans
      (Dev.wrote_put_dword _ PLN.SYNC_CTRL_ARM_RESULT 7 (by decide))).trans ((Dev.same_notice _ _ _ _).wrote _)
  · exact (Dev.Same.refl d).wrote _

theorem Dev.noticeOf_blks (d : Dev) (a : Detection) (x : List Byte) : (d.noticeOf a x).flt.blks = d.flt.blks := by
  unfold Dev.noticeOf Dev.noticeRecord
  rw [Dev.signal_flt, Dev.alarms_emitAt]
  rfl

theorem Dev.gdBreak_blks (d : Dev) (b : Nat) : (d.gdBreak b).flt.blks = d.flt.blks := by
  unfold Dev.gdBreak
  split
  · exact Dev.noticeOf_blks _ _ _
  · rfl

theorem Dev.cancelArm_blks (d : Dev) : d.cancelArm.flt.blks = d.flt.blks := by
  unfold Dev.cancelArm Dev.notice
  split_ifs
  · rw [Dev.noticeOf_blks, Dev.put_flt, Dev.put_flt]
  · rfl

/-- A request reaches its unit: a pending guarded value of the block and an arming are gone, and nothing else has changed. -/
def Dev.reached (d : Dev) (a : Nat) : Dev := (d.gdBreak (blockOfAddr a)).cancelArm

theorem Dev.wrote_reached (d : Dev) (a : Nat) : d.Wrote [PLN.SYNC_CTRL_ARM.addr] (d.reached a) :=
  ((d.same_gdBreak _).wrote _).trans (Dev.wrote_cancelArm _)

theorem Dev.reached_blks (d : Dev) (a : Nat) : (d.reached a).flt.blks = d.flt.blks :=
  (Dev.cancelArm_blks _).trans (d.gdBreak_blks _)

/-! ### The judgement of an arm (R198) -/

/-- What the judgement of a measurement looks at is alike. -/
structure Dev.JudgedAlike (d d' : Dev) : Prop where
  pins : d'.pins = d.pins
  engs : d'.engs = d.engs
  maps : d'.maps = d.maps
  blks : d'.flt.blks = d.flt.blks
  high : ∀ f : Fld, 0xA0020 ≤ f.addr → d'.get f = d.get f
  timeout : d'.get TIA.TIMEOUT = d.get TIA.TIMEOUT
  steps : d'.on PLN.QUALITY_REFSTEP = d.on PLN.QUALITY_REFSTEP

theorem Dev.JudgedAlike.trans {a b c : Dev} (h : a.JudgedAlike b) (k : b.JudgedAlike c) : a.JudgedAlike c :=
  ⟨k.pins.trans h.pins, k.engs.trans h.engs, k.maps.trans h.maps, k.blks.trans h.blks,
    fun f hf => (k.high f hf).trans (h.high f hf), k.timeout.trans h.timeout, k.steps.trans h.steps⟩

/-- Writes of SYNC_CTRL and of the summary bits below RES_FIFO leave the judgement as it is. -/
theorem Dev.Wrote.judgedAlike {as : List Nat} {d d' : Dev} (h : d.Wrote as d') (hb : d'.flt.blks = d.flt.blks)
    (ha : ∀ a ∈ as, a = 0x10010 ∨ 0xA0008 ≤ a ∧ a < 0xA0020) : d.JudgedAlike d' := by
  have low {a : Nat} (h1 : a ≠ 0x10010) (h2 : a < 0xA0008 ∨ 0xA0020 ≤ a) : a ∉ as := fun hm => by
    rcases ha a hm with h3 | h3 <;> omega
  exact ⟨h.still.pins, h.still.engs, h.still.maps, hb, fun f hf => h.get (low (by omega) (by omega)) (low (by omega) (by omega)),
    h.get (low (by decide) (by decide)) (low (by decide) (by decide)),
    Dev.on_of_get (h.get (low (by decide) (by decide)) (low (by decide) (by decide)))⟩

/-- The configuration that R198 refuses with 5. -/
def Dev.tiaBadCfg (d : Dev) (k : Nat) : Prop :=
  let func := d.get (TIA.M_CFG_FUNC k)
  let len := d.get (TIA.M_GATE_LEN k)
  func = 0 ∨ 7 ≤ func ∨ (func ≠ 5 ∧ d.get (TIA.M_CFG_COUNT k) = 0) ∨ 1055 < d.get (TIA.M_CH_A k) ∨ 1055 < d.get (TIA.M_CH_B k) ∨
    (func = 5 ∧ (len = 0 ∨ d.tiaTimeoutT < len))

/-- The state of channels and time that R198 refuses with 2. -/
def Dev.tiaBadPin (d : Dev) (k : Nat) : Prop :=
  let func := d.get (TIA.M_CFG_FUNC k)
  let pA := d.tiaBind (d.get (TIA.M_CH_A k))
  let pB := d.tiaBind (d.get (TIA.M_CH_B k))
  let two := func = 1 ∨ func = 4
  d.on PLN.QUALITY_REFSTEP = true ∨
    d.cmpUsable pA (decide (2 ≤ d.get (TIA.M_CFG_A_EDGE k)) && func != 6) = false ∨
    (two ∧ d.cmpUsable pB (decide (2 ≤ d.get (TIA.M_CFG_B_EDGE k))) = false) ∨
    d.pinOnBus pA = true ∨ (two ∧ d.pinOnBus pB = true) ∨
    (func = 6 ∧ (d.blockDown (0x20 + bankOf pA) = true ∨ (d.pin pA).measure ≠ none ∨
      (d.eng (d.bankEng (bankOf pA))).aborted = true ∨
      (d.logicalOf pA).any (fun c => d.mapped c && d.engState (d.chanEng c) != seqIdle) = true))

section Alike
variable {d d' : Dev} (h : d.JudgedAlike d')
include h

theorem Dev.JudgedAlike.pin (p : Nat) : d'.pin p = d.pin p := by unfold Dev.pin; rw [h.pins]

theorem Dev.JudgedAlike.pinOn {f : Nat → Nat → Fld} (hf : ∀ b i, 0xA0020 ≤ (f b i).addr) (p : Nat) : d'.pinOn f p = d.pinOn f p := by
  unfold Dev.pinOn Dev.pinGet; rw [h.high _ (hf _ _)]

theorem Dev.JudgedAlike.cmpUsable (p : Nat) (low : Bool) : d'.cmpUsable p low = d.cmpUsable p low := by
  unfold Dev.cmpUsable Dev.cmpReady Dev.cmpLive
  rw [h.pin, h.pinOn fun b i => by simp only [PINB.CFG_CMP_EN]; omega]

theorem Dev.JudgedAlike.pinOnBus (p : Nat) : d'.pinOnBus p = d.pinOnBus p :=
  h.pinOn (fun b i => by simp only [PINB.CARRY_ON_BUS]; omega) p

theorem Dev.JudgedAlike.tiaBind (c : Nat) : d'.tiaBind c = d.tiaBind c := by
  unfold Dev.tiaBind Dev.physOf; rw [h.high _ (by simp only [PINB.CARRY_CARRIER]; omega)]

theorem Dev.JudgedAlike.logicalOf (p : Nat) : d'.logicalOf p = d.logicalOf p := by
  unfold Dev.logicalOf; rw [h.high _ (by simp only [PINB.CARRY_CARRIER]; omega)]

theorem Dev.JudgedAlike.chanIdle (c : Nat) :
    (d'.mapped c && d'.engState (d'.chanEng c) != seqIdle) = (d.mapped c && d.engState (d.chanEng c) != seqIdle) := by
  unfold Dev.mapped Dev.chanEng Dev.bankEng Dev.engState Dev.on
  rw [h.maps, h.high _ (by simp only [PINB.MAP_ACT_UNMAPPED]; omega), h.high _ (by simp only [SEQ.STATUS_STATE]; omega)]

theorem Dev.JudgedAlike.cfg {f : Nat → Fld} (hf : ∀ k, 0xA0020 ≤ (f k).addr) (k : Nat) : d'.get (f k) = d.get (f k) := h.high _ (hf k)

theorem Dev.JudgedAlike.badCfg (k : Nat) : d'.tiaBadCfg k ↔ d.tiaBadCfg k := by
  unfold Dev.tiaBadCfg Dev.tiaTimeoutT
  rw [h.timeout, h.cfg (f := TIA.M_CFG_FUNC) fun k => by simp only [TIA.M_CFG_FUNC]; omega,
    h.cfg (f := TIA.M_GATE_LEN) fun k => by simp only [TIA.M_GATE_LEN]; omega,
    h.cfg (f := TIA.M_CFG_COUNT) fun k => by simp only [TIA.M_CFG_COUNT]; omega,
    h.cfg (f := TIA.M_CH_A) fun k => by simp only [TIA.M_CH_A]; omega,
    h.cfg (f := TIA.M_CH_B) fun k => by simp only [TIA.M_CH_B]; omega]

theorem Dev.JudgedAlike.badPin (k : Nat) : d'.tiaBadPin k ↔ d.tiaBadPin k := by
  unfold Dev.tiaBadPin Dev.blockDown Dev.blk Dev.eng Dev.bankEng
  simp only [h.steps, h.cfg (f := TIA.M_CFG_FUNC) fun k => by simp only [TIA.M_CFG_FUNC]; omega,
    h.cfg (f := TIA.M_CH_A) fun k => by simp only [TIA.M_CH_A]; omega,
    h.cfg (f := TIA.M_CH_B) fun k => by simp only [TIA.M_CH_B]; omega,
    h.cfg (f := TIA.M_CFG_A_EDGE) fun k => by simp only [TIA.M_CFG_A_EDGE]; omega,
    h.cfg (f := TIA.M_CFG_B_EDGE) fun k => by simp only [TIA.M_CFG_B_EDGE]; omega,
    h.tiaBind, h.cmpUsable, h.pinOnBus, h.logicalOf, h.chanIdle, h.pin, h.blks, h.engs, h.maps]

end Alike

/-- The judgement, case by case. -/
theorem Dev.tiaJudge_cases (d : Dev) (k : Nat) :
    (d.tiaBadCfg k → d.tiaJudge k = some 5) ∧
      (¬ d.tiaBadCfg k → (d.tiaBadPin k → d.tiaJudge k = some 2) ∧ (¬ d.tiaBadPin k → d.tiaJudge k = none)) := by
  have state (n : Nat) : (d.get (SEQ.STATUS_STATE n) != 0) = (d.engState n != seqIdle) := rfl
  unfold Dev.tiaJudge
  simp only [state]
  refine ⟨fun h5 => if_pos ?_, fun h5 => ?_⟩
  · simpa [Dev.tiaBadCfg, or_assoc] using h5
  · rw [if_neg (by simpa [Dev.tiaBadCfg, or_assoc] using h5)]
    split_ifs with hA hB
    · refine ⟨fun _ => rfl, fun h2 => absurd ?_ h2⟩
      simp only [Bool.or_eq_true, Bool.and_eq_true, beq_iff_eq, Bool.not_eq_true', or_assoc] at hA
      unfold Dev.tiaBadPin
      tauto
    · refine ⟨fun _ => rfl, fun h2 => absurd ?_ h2⟩
      simp only [Bool.or_eq_true, Bool.and_eq_true, beq_iff_eq, Option.isSome_iff_ne_none, or_assoc] at hB
      unfold Dev.tiaBadPin
      tauto
    · refine ⟨fun h2 => absurd h2 ?_, fun _ => rfl⟩
      simp only [Bool.or_eq_true, Bool.and_eq_true, beq_iff_eq, Bool.not_eq_true', Option.isSome_iff_ne_none, or_assoc, not_or] at hA hB
      obtain ⟨steps, usableA, usableB, busA, busB⟩ := hA
      rintro (h | h | h | h | h | ⟨f, h⟩)
      · exact steps h
      · exact usableA h
      · exact usableB h
      · exact busA h
      · exact busB h
      · exact hB ⟨f, h⟩

end Sys2Proof.Machine
end


/-! ## TIA: the arm and its refusal, and TDR repetitions -/
section
namespace Sys2Proof.Machine

/-! ### The arm (R198, R205) -/

/-- A measurement as an arm sets it up. -/
def Dev.tiaSetup (k : Nat) (d : Dev) : TiaM :=
  { TiaM.reset with
    armAt := d.now, armEl := d.elapsed, func := d.get (TIA.M_CFG_FUNC k), cls := d.get (TIA.M_CFG_CLASS k),
    aEdge := d.get (TIA.M_CFG_A_EDGE k), bEdge := d.get (TIA.M_CFG_B_EDGE k),
    count := d.get (TIA.M_CFG_COUNT k), chA := d.tiaBind (d.get (TIA.M_CH_A k)),
    chB := d.tiaBind (d.get (TIA.M_CH_B k)), gateStart := d.get (TIA.M_GATE_START k),
    gateLen := d.get (TIA.M_GATE_LEN k) }

/-- The summary bits of a measurement cleared. -/
def Dev.tiaCleared (k : Nat) (d : Dev) : Dev := (d.tiaBit TIA.DONE k false).tiaBit TIA.TMO k false

/-- A measurement that waits for its ready instant, or has it. -/
def TiaM.armedAt (now : Nat) (m : TiaM) : TiaM := { m with armed := true, ready := if m.cls = 0 then some (now + 16) else none }

/-- The registers of an arm, by the measurement's class. -/
def Dev.tiaShowArmed (k : Nat) (m : TiaM) (d : Dev) : Dev :=
  ((d.tiaBit TIA.ACTIVE k true).put (TIA.M_STATE_STATE k) (if m.cls = 0 then 2 else 1)).put (TIA.M_STATE_DONE_REPS k) 0

/-- The device with measurement `k` armed as `m`. -/
def Dev.tiaArmed (k : Nat) (m : TiaM) (d : Dev) : Dev :=
  ((d.modMeas k fun _ => m.armedAt d.now).stateSignal d).tiaShowArmed k m

theorem Dev.tiaArm_refused {d : Dev} {k st : Nat} (hn : d.tiaArmedNow k = false) (ha : (d.meas k).armed = false)
    (hj : (d.tiaCleared k).tiaJudge k = some st) :
    d.tiaArm k = ((d.tiaCleared k).modMeas k fun _ => d.tiaSetup k).tiaProduce k st := by
  unfold Dev.tiaArm
  rw [if_neg (by simp [hn]), if_neg (by simp [ha])]
  unfold Dev.tiaCleared at hj
  simp only [hj]
  rfl

theorem Dev.tiaArm_taken {d : Dev} {k : Nat} (hn : d.tiaArmedNow k = false) (ha : (d.meas k).armed = false)
    (hj : (d.tiaCleared k).tiaJudge k = none) :
    d.tiaArm k = if d.get (TIA.M_CFG_FUNC k) = 6 then
        ((d.tiaCleared k).tiaArmed k (d.tiaSetup k)).modPin (d.tiaSetup k).chA fun s => { s with measure := some k }
      else (d.tiaCleared k).tiaArmed k (d.tiaSetup k) := by
  unfold Dev.tiaArm
  rw [if_neg (by simp [hn]), if_neg (by simp [ha])]
  unfold Dev.tiaCleared at hj
  simp only [hj]
  rfl

/-! ### Fields of a measurement's state and the summary bits -/

/-- Fields of one dword, side by side. -/
theorem Fld.apart_beside {a l w l' w' : Nat} (h : l + w ≤ 32 ∧ l' + w' ≤ 32 ∧ (l + w ≤ l' ∨ l' + w' ≤ l)) :
    Fld.Apart ⟨a, l, w⟩ ⟨a, l', w'⟩ := .inr ⟨rfl, h⟩

/-- A field of a dword at any address reads back what was written. -/
theorem Dev.get_put_field (d : Dev) {a l w : Nat} (v : Nat) (h : l + w ≤ 32) : (d.put ⟨a, l, w⟩ v).get ⟨a, l, w⟩ = v % 2 ^ w :=
  d.get_put_self _ v h

/-- Fields in dwords of their own. -/
theorem Fld.apart_of_addr {f g : Fld} (h : f.addr + 4 < g.addr ∨ g.addr + 4 < f.addr) : f.Apart g := by
  left; omega

/-- A summary register lies below the state of every measurement. -/
theorem Fld.summary_apart {f : Fld} {k l w : Nat} (hf : f.addr < 0xA0020) : f.Apart ⟨0xA101C + 0x80 * k, l, w⟩ :=
  Fld.apart_of_addr (.inl (by dsimp only; omega))

theorem Fld.apart_summary {f : Fld} {k l w : Nat} (hf : f.addr < 0xA0020) : Fld.Apart ⟨0xA101C + 0x80 * k, l, w⟩ f :=
  Fld.apart_of_addr (.inr (by dsimp only; omega))

/-! ### A result produced, a measurement ended (R202, R205) -/

/-- A result is one more in the queue, and the status and the repetitions shown. -/
theorem Dev.tiaProduce_eq (d : Dev) (k st : Nat) : ∃ r q, d.tiaProduce k st =
    ((d.modTia fun t => { t with results := t.results ++ [r], rseq := q }).put (TIA.M_STATE_LAST_STATUS k)
      (if st = 0 && (d.meas k).func == 5 && (d.meas k).stamps.length < 3 then 3 else st)).put (TIA.M_STATE_DONE_REPS k)
        (d.meas k).vals.length := ⟨_, _, rfl⟩

/-- What a result leaves. -/
structure Dev.Produced (k st : Nat) (d d' : Dev) : Prop where
  elapsed : d'.elapsed = d.elapsed
  pins : d'.pins = d.pins
  meas : ∀ j, d'.meas j = d.meas j
  results : d'.tia.results.length = d.tia.results.length + 1
  status : st < 16 → (d.meas k).func ≠ 5 ∨ st ≠ 0 → d'.get (TIA.M_STATE_LAST_STATUS k) = st
  reps : d'.get (TIA.M_STATE_DONE_REPS k) = (d.meas k).vals.length % 2 ^ 16
  get : ∀ f : Fld, f.addr < 0xA0020 → d'.get f = d.get f

theorem Dev.tiaProduce_produced (d : Dev) (k st : Nat) : d.Produced k st (d.tiaProduce k st) := by
  obtain ⟨r, q, e⟩ := d.tiaProduce_eq k st
  rw [e]
  refine ⟨by simp; rfl, by simp; rfl, fun j => ?_, ?_, fun h16 h => ?_, ?_, fun f hf => ?_⟩
  · unfold Dev.meas; rw [Dev.put_tia, Dev.put_tia]; rfl
  · rw [Dev.put_tia, Dev.put_tia]; exact List.length_append
  · refine (Dev.get_put_apart _ _ (Fld.apart_beside (by decide))).trans ((Dev.get_put_field _ _ (by decide)).trans ?_)
    rw [if_neg (by rcases h with h | h <;> simp [h])]
    exact Nat.mod_eq_of_lt h16
  · exact Dev.get_put_field _ _ (by decide)
  · exact (Dev.get_put_apart _ _ (Fld.apart_summary hf)).trans (Dev.get_put_apart _ _ (Fld.apart_summary hf))

theorem Dev.meas_congr {d d' : Dev} (h : d'.tia = d.tia) (k : Nat) : d'.meas k = d.meas k := by unfold Dev.meas; rw [h]

/-- A measurement that is no longer armed. -/
def TiaM.over (m : TiaM) : TiaM := { m with armed := false }

/-- What the end of a measurement leaves. -/
structure Dev.TiaEnded (k st : Nat) (d d' : Dev) : Prop where
  elapsed : d'.elapsed = d.elapsed
  meas : d'.meas k = (d.meas k).over
  status : st < 16 → (d.meas k).func ≠ 5 ∨ st ≠ 0 → d'.get (TIA.M_STATE_LAST_STATUS k) = st
  reps : d'.get (TIA.M_STATE_DONE_REPS k) = (d.meas k).vals.length % 2 ^ 16

/-- After its result, a measurement is shown as over. -/
def Dev.tiaOver (k : Nat) (d : Dev) : Dev := (d.tiaBit TIA.ACTIVE k false).put (TIA.M_STATE_STATE k) 0

theorem Dev.tiaOver_tia (k : Nat) (d : Dev) : (d.tiaOver k).tia = d.tia := (Dev.put_tia _ _ _).trans (Dev.put_tia _ _ _)

theorem Dev.tiaOver_elapsed (k : Nat) (d : Dev) : (d.tiaOver k).elapsed = d.elapsed :=
  (Dev.put_elapsed _ _ _).trans (Dev.put_elapsed _ _ _)

theorem Dev.tiaOver_get (k : Nat) (d : Dev) {l w : Nat} (h : 0 + 3 ≤ 32 ∧ l + w ≤ 32 ∧ (0 + 3 ≤ l ∨ l + w ≤ 0)) :
    (d.tiaOver k).get ⟨0xA101C + 0x80 * k, l, w⟩ = d.get ⟨0xA101C + 0x80 * k, l, w⟩ :=
  (Dev.get_put_apart _ _ (Fld.apart_beside h)).trans (Dev.get_put_apart _ _ (Fld.summary_apart (by decide)))

theorem Dev.Produced.tiaEnded {k st : Nat} {d e : Dev} (p : d.Produced k st e) :
    d.TiaEnded k st (((e.tiaOver k).modMeas k TiaM.over).stateSignal (e.tiaOver k)) := by
  have same := Dev.same_stateSignal ((e.tiaOver k).modMeas k TiaM.over) (e.tiaOver k)
  have meas : (e.tiaOver k).meas k = d.meas k := (Dev.meas_congr (e.tiaOver_tia k) k).trans (p.meas k)
  refine ⟨?_, ?_, fun h16 h5 => ?_, ?_⟩
  · rw [same.still.elapsed, Dev.modMeas_elapsed, Dev.tiaOver_elapsed, p.elapsed]
  · rw [Dev.meas_congr same.still.tia, Dev.meas_modMeas_self, meas]
  · exact (same.get _).trans ((Dev.modMeas_get _ _ _ _).trans ((e.tiaOver_get k (by decide)).trans (p.status h16 h5)))
  · exact (same.get _).trans ((Dev.modMeas_get _ _ _ _).trans ((e.tiaOver_get k (by decide)).trans p.reps))

/-- The channel of a TDR is free again. -/
def Dev.tdrFree (p : Nat) (d : Dev) : Dev := d.modPin p fun s => { s with measure := none }

theorem Dev.tiaEnd_eq {d : Dev} {k : Nat} (st : Nat) (h : (d.meas k).armed = true) : d.tiaEnd k st =
    let x := (((d.tiaProduce k st).tiaOver k).modMeas k TiaM.over).stateSignal ((d.tiaProduce k st).tiaOver k)
    if (d.meas k).func = 6 then x.tdrFree (d.meas k).chA else x := by
  unfold Dev.tiaEnd
  exact if_neg (by simp [h])

/-- The end of an armed measurement; TDR gives its channel back. -/
theorem Dev.tiaEnd_ended {d : Dev} {k : Nat} (st : Nat) (h : (d.meas k).armed = true) :
    d.TiaEnded k st (d.tiaEnd k st) ∧ ((d.meas k).func = 6 → ((d.tiaEnd k st).pin (d.meas k).chA).measure = none) := by
  have ended := (d.tiaProduce_produced k st).tiaEnded
  rw [Dev.tiaEnd_eq st h]
  dsimp only
  generalize (((d.tiaProduce k st).tiaOver k).modMeas k TiaM.over).stateSignal ((d.tiaProduce k st).tiaOver k) = x at ended
  split_ifs with h6
  · exact ⟨⟨ended.elapsed, ended.meas, ended.status, ended.reps⟩, fun _ => congrArg PinSt.measure (x.pin_modPin_self _ _)⟩
  · exact ⟨ended, fun h => absurd h h6⟩

end Sys2Proof.Machine
end


/-! ## TIA: the arm request and TDR repetitions, settled -/
section
namespace Sys2Proof.Machine

/-! ### A TDR repetition (R206) -/

/-- A measurement that has taken one more repetition: what is the same, and its values. -/
structure TiaM.Repeated (vals : List Int) (m m' : TiaM) : Prop where
  armed : m'.armed = m.armed
  func : m'.func = m.func
  count : m'.count = m.count
  chA : m'.chA = m.chA
  gateLen : m'.gateLen = m.gateLen
  slot : m'.slot = m.slot + 1
  vals : m'.vals = vals

/-- A measurement one of whose stamps may lie at a border. -/
def TiaM.atBorder (b : Bool) (m : TiaM) : TiaM := if b then { m with border := true } else m

/-- A reflection `r` after the launch of a repetition, at `at_`, lies within its window, the timeout and the gate. -/
def tdrCounts (o timeout gateLen at_ r : Nat) : Bool :=
  r < 512 * 4096 && at_ < 4096 * (o + timeout) && (gateLen = 0 || at_ < 4096 * (o + gateLen))

/-- A measurement with a reflection that counts. -/
def TiaM.counted (d : Dev) (at_ r : Nat) (m : TiaM) : TiaM :=
  { m.use at_ (d.qualAt (at_ / 4096)) (d.isShadow m.chA && 1024 ≤ m.chA) with vals := m.vals ++ [(r : Int)] }

/-- A measurement with the reflection of a repetition. -/
def TiaM.reflected (d : Dev) (o at_ r : Nat) (m : TiaM) : TiaM :=
  let m := m.atBorder (decide (r ≤ m.half) || decide (((r : Int) - 512 * 4096).natAbs ≤ m.half))
  if tdrCounts o d.tiaTimeoutT m.gateLen at_ r then (m.atBorder (m.near d.tiaTimeoutT at_)).counted d at_ r else m

section Repeated
variable {vals : List Int} {m x : TiaM} (h : TiaM.Repeated vals m x)
include h

theorem TiaM.Repeated.atBorder (b : Bool) : TiaM.Repeated vals m (x.atBorder b) := by
  unfold TiaM.atBorder
  split_ifs
  · exact ⟨h.1, h.2, h.3, h.4, h.5, h.6, h.7⟩
  · exact h

theorem TiaM.Repeated.use (s q : Nat) (b : Bool) : TiaM.Repeated vals m (x.use s q b) := by
  unfold TiaM.use
  dsimp only
  split_ifs <;> exact ⟨h.1, h.2, h.3, h.4, h.5, h.6, h.7⟩

theorem TiaM.Repeated.withVals (vs : List Int) : TiaM.Repeated vs m { x with vals := vs } := ⟨h.1, h.2, h.3, h.4, h.5, h.6, rfl⟩

theorem TiaM.Repeated.counted (d : Dev) (at_ r : Nat) : TiaM.Repeated (vals ++ [(r : Int)]) m (x.counted d at_ r) := by
  rw [← h.vals]
  exact (h.use _ _ _).withVals _

theorem TiaM.Repeated.reflected (d : Dev) (o at_ r : Nat) :
    TiaM.Repeated (if tdrCounts o d.tiaTimeoutT m.gateLen at_ r then vals ++ [(r : Int)] else vals) m (x.reflected d o at_ r) := by
  have h1 := h.atBorder (decide (r ≤ x.half) || decide (((r : Int) - 512 * 4096).natAbs ≤ x.half))
  unfold TiaM.reflected
  dsimp only
  rw [h1.gateLen]
  split_ifs
  · exact (h1.atBorder _).counted d at_ r
  · exact h1

end Repeated

/-- The measurement takes its repetition, and ends at its count. -/
def Dev.tdrTake (k : Nat) (m : TiaM) (d : Dev) : Dev :=
  let d := (d.modMeas k fun _ => m).put (TIA.M_STATE_DONE_REPS k) m.vals.length
  if m.count ≤ m.vals.length then d.tiaEnd k 0 else d

/-- The measurement after a repetition of its slot. -/
def TiaM.repetition (refl : Option Nat) (o : Nat) (d : Dev) (m : TiaM) : TiaM :=
  match refl with
  | some r => { m with slot := m.slot + 1 }.reflected d o (4096 * (o + 1024 * m.slot + 256) + r) r
  | none => { m with slot := m.slot + 1 }

theorem Dev.tdrRepetition_eq (d : Dev) (k : Nat) (refl : Option Nat) : d.tdrRepetition k refl =
    match (d.meas k).armed && (d.meas k).func == 6, (d.meas k).open_ with
    | true, some o =>
      let e := d.until (d.elapsedOf (o + 1024 * ((d.meas k).slot + 1)))
      e.tdrTake k ((d.meas k).repetition refl o e)
    | _, _ => d := by
  cases refl <;> rfl

/-- A repetition of an armed TDR in its gate is taken at the end of its slot. -/
theorem Dev.tdrRepetition_taken {d : Dev} {k o : Nat} (refl : Option Nat) (ho : (d.meas k).open_ = some o)
    (ha : (d.meas k).armed = true) (hf : (d.meas k).func = 6) : d.tdrRepetition k refl =
      let e := d.until (d.elapsedOf (o + 1024 * ((d.meas k).slot + 1)))
      e.tdrTake k ((d.meas k).repetition refl o e) := by
  rw [Dev.tdrRepetition_eq, ho, ha, hf]
  rfl

theorem TiaM.repetition_repeated (refl : Option Nat) (o : Nat) (d : Dev) (m : TiaM) :
    TiaM.Repeated (match refl with
      | some r => if tdrCounts o d.tiaTimeoutT m.gateLen (4096 * (o + 1024 * m.slot + 256) + r) r then m.vals ++ [(r : Int)] else m.vals
      | none => m.vals) m (m.repetition refl o d) := by
  have h : TiaM.Repeated m.vals m { m with slot := m.slot + 1 } := ⟨rfl, rfl, rfl, rfl, rfl, rfl, rfl⟩
  cases refl with
  | none => exact h
  | some r => exact h.reflected d o _ r

/-- What a repetition leaves: it goes on below its count, and ends with status 0 at it. -/
structure Dev.TdrTaken (k : Nat) (vals : List Int) (d d' : Dev) : Prop where
  elapsed : d'.elapsed = d.elapsed
  values : (d'.meas k).vals = vals
  slot : (d'.meas k).slot = (d.meas k).slot + 1
  reps : d'.get (TIA.M_STATE_DONE_REPS k) = vals.length % 2 ^ 16
  goesOn : vals.length < (d.meas k).count → (d'.meas k).armed = true ∧ d'.tia.results = d.tia.results
  ends : (d.meas k).count ≤ vals.length → (d'.meas k).armed = false ∧ d'.get (TIA.M_STATE_LAST_STATUS k) = 0 ∧
    (d'.pin (d.meas k).chA).measure = none

theorem Dev.tdrTake_taken {d : Dev} {k : Nat} {vals : List Int} {m : TiaM} (ha : (d.meas k).armed = true)
    (hf : (d.meas k).func = 6) (h : TiaM.Repeated vals (d.meas k) m) : d.TdrTaken k vals (d.tdrTake k m) := by
  have meas : ((d.modMeas k fun _ => m).put (TIA.M_STATE_DONE_REPS k) m.vals.length).meas k = m :=
    (Dev.meas_congr (Dev.put_tia _ _ _) k).trans (Dev.meas_modMeas_self _ _ _)
  have results : ((d.modMeas k fun _ => m).put (TIA.M_STATE_DONE_REPS k) m.vals.length).tia.results = d.tia.results :=
    (congrArg TiaSt.results (Dev.put_tia _ _ _)).trans rfl
  have elapsed : ((d.modMeas k fun _ => m).put (TIA.M_STATE_DONE_REPS k) m.vals.length).elapsed = d.elapsed :=
    Dev.put_elapsed _ _ _
  have reps : ((d.modMeas k fun _ => m).put (TIA.M_STATE_DONE_REPS k) m.vals.length).get (TIA.M_STATE_DONE_REPS k) =
      vals.length % 2 ^ 16 := by
    rw [← h.vals]
    exact Dev.get_put_field _ _ (by decide)
  unfold Dev.tdrTake
  dsimp only
  generalize (d.modMeas k fun _ => m).put (TIA.M_STATE_DONE_REPS k) m.vals.length = e at meas results elapsed reps ⊢
  subst meas
  rw [h.count, h.vals]
  split_ifs with hc
  · obtain ⟨x, pin⟩ := Dev.tiaEnd_ended 0 (h.armed.trans ha)
    have func := h.func.trans hf
    have disarmed : (e.tiaEnd k 0).meas k = (e.meas k).over := x.meas
    refine ⟨x.elapsed.trans elapsed, ?_, ?_, ?_, fun hl => absurd hc (by omega), fun _ => ⟨?_, ?_, ?_⟩⟩
    · rw [disarmed]; exact h.vals
    · rw [disarmed]; exact h.slot
    · rw [x.reps, h.vals]
    · rw [disarmed]; rfl
    · exact x.status (by decide) (.inl (by omega))
    · rw [← h.chA]; exact pin func
  · exact ⟨elapsed, h.vals, h.slot, reps, fun _ => ⟨h.armed.trans ha, results⟩, fun hl => absurd hl hc⟩

end Sys2Proof.Machine
end


/-! ## TIA: the arm request, settled -/
section
namespace Sys2Proof.Machine

/-! ### The summary bits cleared -/

theorem Dev.wrote_tiaCleared (k : Nat) (d : Dev) :
    d.Wrote [TIA.DONE.addr, TIA.DONE.addr + 4, TIA.TMO.addr, TIA.TMO.addr + 4] (d.tiaCleared k) :=
  ((d.wrote_put TIA.DONE _).mono (by decide)).trans ((Dev.wrote_put _ TIA.TMO _).mono (by decide))

theorem Dev.tiaCleared_flt (k : Nat) (d : Dev) : (d.tiaCleared k).flt = d.flt := (Dev.put_flt _ _ _).trans (Dev.put_flt _ _ _)

theorem Dev.tiaCleared_alike (k : Nat) (d : Dev) : d.JudgedAlike (d.tiaCleared k) :=
  (d.wrote_tiaCleared k).judgedAlike (congrArg FltSt.blks (d.tiaCleared_flt k)) (by decide)

theorem Dev.tiaCleared_done (d : Dev) {k : Nat} (hk : k < 64) : ((d.tiaCleared k).get TIA.DONE).testBit k = false := by
  unfold Dev.tiaCleared
  rw [Dev.tiaBit_get _ _ _ (by decide), Dev.testBit_tiaBit _ _ rfl hk]

theorem Dev.tiaCleared_tmo (d : Dev) {k : Nat} (hk : k < 64) : ((d.tiaCleared k).get TIA.TMO).testBit k = false :=
  Dev.testBit_tiaBit _ _ rfl hk

/-! ### A request that reaches its measurement -/

theorem Dev.reached_alike (d : Dev) (a : Nat) : d.JudgedAlike (d.reached a) :=
  (d.wrote_reached a).judgedAlike (d.reached_blks a) (by decide)

theorem Dev.reached_meas (d : Dev) (a k : Nat) : (d.reached a).meas k = d.meas k := Dev.meas_congr (d.wrote_reached a).still.tia k

theorem Dev.reached_now (d : Dev) (a : Nat) : (d.reached a).now = d.now := congrArg BitVec.toNat (d.wrote_reached a).still.count

theorem Dev.tiaArmedNow_iff (d : Dev) (k : Nat) :
    d.tiaArmedNow k = true ↔ (d.meas k).armEl = d.elapsed ∧ ((d.meas k).armed = true ∨ (d.meas k).func ≠ 0) := by
  simp [Dev.tiaArmedNow, and_comm]

theorem Dev.reached_armedNow (d : Dev) (a k : Nat) : (d.reached a).tiaArmedNow k = d.tiaArmedNow k := by
  unfold Dev.tiaArmedNow
  rw [d.reached_meas, (d.wrote_reached a).still.elapsed]

/-- The device as the judgement of an arm request finds it. -/
def Dev.tiaJudged (k : Nat) (d : Dev) : Dev := (d.reached (TIA.M_CTRL_ARM k).addr).tiaCleared k

/-- The measurement an arm request sets up. -/
theorem Dev.reached_setup (d : Dev) (a k : Nat) : (d.reached a).tiaSetup k = d.tiaSetup k := by
  have h := d.reached_alike a
  unfold Dev.tiaSetup
  rw [d.reached_now, (d.wrote_reached a).still.elapsed, h.tiaBind, h.tiaBind,
    h.cfg (f := TIA.M_CFG_FUNC) fun k => by simp only [TIA.M_CFG_FUNC]; omega,
    h.cfg (f := TIA.M_CFG_CLASS) fun k => by simp only [TIA.M_CFG_CLASS]; omega,
    h.cfg (f := TIA.M_CFG_A_EDGE) fun k => by simp only [TIA.M_CFG_A_EDGE]; omega,
    h.cfg (f := TIA.M_CFG_B_EDGE) fun k => by simp only [TIA.M_CFG_B_EDGE]; omega,
    h.cfg (f := TIA.M_CFG_COUNT) fun k => by simp only [TIA.M_CFG_COUNT]; omega,
    h.cfg (f := TIA.M_CH_A) fun k => by simp only [TIA.M_CH_A]; omega,
    h.cfg (f := TIA.M_CH_B) fun k => by simp only [TIA.M_CH_B]; omega,
    h.cfg (f := TIA.M_GATE_START) fun k => by simp only [TIA.M_GATE_START]; omega,
    h.cfg (f := TIA.M_GATE_LEN) fun k => by simp only [TIA.M_GATE_LEN]; omega]

/-- A refused arm of a measurement, by its result. -/
structure Dev.TiaRefused (k st : Nat) (d d' : Dev) : Prop where
  armed : (d'.meas k).armed = false
  status : d'.get (TIA.M_STATE_LAST_STATUS k) = st
  results : d'.tia.results.length = d.tia.results.length + 1
  done : (d'.get TIA.DONE).testBit k = false
  tmo : (d'.get TIA.TMO).testBit k = false

section Request
variable {d : Dev} {k : Nat} (hk : k < 64) (hn : d.tiaArmedNow k = false) (ha : (d.meas k).armed = false)
include hk hn ha

theorem Dev.tiaArm_isRefused {st : Nat} (h0 : st ≠ 0) (h16 : st < 16) (hj : (d.tiaCleared k).tiaJudge k = some st) :
    d.TiaRefused k st (d.tiaArm k) := by
  rw [Dev.tiaArm_refused hn ha hj]
  have p := ((d.tiaCleared k).modMeas k fun _ => d.tiaSetup k).tiaProduce_produced k st
  have results : (d.tiaCleared k).tia.results = d.tia.results := congrArg TiaSt.results (d.wrote_tiaCleared k).still.tia
  refine ⟨?_, p.status h16 (.inr h0), p.results.trans (congrArg (·.length + 1) results), ?_, ?_⟩
  · rw [p.meas, Dev.meas_modMeas_self]; rfl
  · rw [p.get _ (by decide), Dev.modMeas_get, d.tiaCleared_done hk]
  · rw [p.get _ (by decide), Dev.modMeas_get, d.tiaCleared_tmo hk]

end Request

theorem Dev.wrote_tiaShowArmed (k : Nat) (m : TiaM) (d : Dev) :
    d.Wrote [TIA.ACTIVE.addr, TIA.ACTIVE.addr + 4, (TIA.M_STATE_STATE k).addr] (d.tiaShowArmed k m) := by
  have active := (d.wrote_put TIA.ACTIVE (setBitTo (d.get TIA.ACTIVE) k true)).mono
    (bs := [TIA.ACTIVE.addr, TIA.ACTIVE.addr + 4, (TIA.M_STATE_STATE k).addr]) (by simp)
  have field {l w : Nat} (e : Dev) (v : Nat) (h : w ≠ 64) :
      e.Wrote [TIA.ACTIVE.addr, TIA.ACTIVE.addr + 4, (TIA.M_STATE_STATE k).addr] (e.put ⟨0xA101C + 0x80 * k, l, w⟩ v) :=
    (e.wrote_put_dword _ v h).mono (by simp [TIA.M_STATE_STATE])
  exact (active.trans (field _ _ (by decide))).trans (field _ _ (by decide))

theorem Dev.tiaShowArmed_state (k : Nat) (m : TiaM) (d : Dev) :
    (d.tiaShowArmed k m).get (TIA.M_STATE_STATE k) = if m.cls = 0 then 2 else 1 := by
  refine (Dev.get_put_apart _ _ (Fld.apart_beside (by decide))).trans ((Dev.get_put_field _ _ (by decide)).trans ?_)
  split_ifs <;> rfl

/-- The summary registers but ACTIVE stay. -/
theorem Dev.tiaShowArmed_low (k : Nat) (m : TiaM) (d : Dev) {f : Fld} (hf : f.addr < 0xA0020) (h : TIA.ACTIVE.Apart f) :
    (d.tiaShowArmed k m).get f = d.get f :=
  (Dev.get_put_apart _ _ (Fld.apart_summary hf)).trans ((Dev.get_put_apart _ _ (Fld.apart_summary hf)).trans (d.get_put_apart _ h))

theorem Dev.tiaShowArmed_active {k : Nat} (m : TiaM) (d : Dev) (hk : k < 64) :
    ((d.tiaShowArmed k m).get TIA.ACTIVE).testBit k = true := by
  rw [show (d.tiaShowArmed k m).get TIA.ACTIVE = (d.tiaBit TIA.ACTIVE k true).get TIA.ACTIVE from
    (Dev.get_put_apart _ _ (Fld.apart_summary (by decide))).trans (Dev.get_put_apart _ _ (Fld.apart_summary (by decide)))]
  exact d.testBit_tiaBit true rfl hk

/-- An arm that is taken. -/
structure Dev.TiaTaken (k : Nat) (d d' : Dev) : Prop where
  meas : d'.meas k = (d.tiaSetup k).armedAt d.now
  state : d'.get (TIA.M_STATE_STATE k) = if d.get (TIA.M_CFG_CLASS k) = 0 then 2 else 1
  active : (d'.get TIA.ACTIVE).testBit k = true
  done : (d'.get TIA.DONE).testBit k = false
  results : d'.tia.results = d.tia.results
  regs : d.RegsBut [TIA.DONE.addr, TIA.DONE.addr + 4, TIA.TMO.addr, TIA.TMO.addr + 4, TIA.ACTIVE.addr, TIA.ACTIVE.addr + 4,
    (TIA.M_STATE_STATE k).addr] d'

theorem Dev.modMeas_reg (d : Dev) (k : Nat) (f : TiaM → TiaM) (a : Nat) : (d.modMeas k f).reg a = d.reg a := rfl
theorem Dev.modMeas_results (d : Dev) (k : Nat) (f : TiaM → TiaM) : (d.modMeas k f).tia.results = d.tia.results := rfl

theorem Dev.tiaArmed_taken (d : Dev) {k : Nat} (hk : k < 64) : d.TiaTaken k ((d.tiaCleared k).tiaArmed k (d.tiaSetup k)) := by
  have cleared := d.wrote_tiaCleared k
  have done := d.tiaCleared_done hk
  have now_ : (d.tiaCleared k).now = d.now := congrArg BitVec.toNat cleared.still.count
  unfold Dev.tiaArmed
  rw [now_]
  generalize d.tiaCleared k = c at cleared done ⊢
  have same := Dev.same_stateSignal (c.modMeas k fun _ => (d.tiaSetup k).armedAt d.now) c
  generalize (c.modMeas k fun _ => (d.tiaSetup k).armedAt d.now).stateSignal c = e at same ⊢
  have shown := e.wrote_tiaShowArmed k (d.tiaSetup k)
  refine ⟨?_, ?_, Dev.tiaShowArmed_active _ _ hk, ?_, ?_, fun a ha => ?_⟩
  · rw [Dev.meas_congr shown.still.tia, Dev.meas_congr same.still.tia, Dev.meas_modMeas_self]
  · rw [Dev.tiaShowArmed_state]; rfl
  · rw [Dev.tiaShowArmed_low _ _ _ (by decide) (by decide), same.get, Dev.modMeas_get, done]
  · rw [shown.still.tia, same.still.tia, Dev.modMeas_results, cleared.still.tia]
  · rw [shown.regs a (fun h => ha (by simp at h ⊢; tauto)), same.reg, Dev.modMeas_reg]
    exact cleared.regs a (fun h => ha (by simp at h ⊢; tauto))

/-- What an arm shows stays while a channel is taken for TDR. -/
theorem Dev.TiaTaken.modPin {k : Nat} {d x : Dev} (h : d.TiaTaken k x) (p : Nat) (f : PinSt → PinSt) : d.TiaTaken k (x.modPin p f) :=
  ⟨h.meas, h.state, h.active, h.done, h.results, h.regs⟩

theorem Dev.tiaArm_isTaken {d : Dev} {k : Nat} (hk : k < 64) (hn : d.tiaArmedNow k = false) (ha : (d.meas k).armed = false)
    (hj : (d.tiaCleared k).tiaJudge k = none) :
    d.TiaTaken k (d.tiaArm k) ∧
      (d.get (TIA.M_CFG_FUNC k) = 6 → ((d.tiaArm k).pin (d.tiaSetup k).chA).measure = some k) := by
  have taken := d.tiaArmed_taken hk
  have e := Dev.tiaArm_taken hn ha hj
  generalize d.tiaArm k = y at e ⊢
  generalize (d.tiaCleared k).tiaArmed k (d.tiaSetup k) = x at taken e
  generalize (d.tiaSetup k).chA = p at e ⊢
  split_ifs at e with h6
  · subst e
    exact ⟨taken.modPin _ _, fun _ => congrArg PinSt.measure (x.pin_modPin_self _ _)⟩
  · subst e
    exact ⟨taken, fun h => absurd h h6⟩

end Sys2Proof.Machine
end


/-! ## TIA: what an arm request and a TDR repetition leave -/
section
namespace Sys2Proof.Machine

/-- A command of the device ends where its effect on the device says. -/
theorem State.onDev_next {s : State} {f : Dev → Dev} {d' : Dev} (e : f s.dev = d') : s.onDev f = .next { s with dev := d' } := by
  rw [← e]; rfl

theorem Dev.tiaArm_again {d : Dev} {k : Nat} (h : d.tiaArmedNow k = true) : d.tiaArm k = d := if_pos h

theorem Dev.tiaArm_ignored {d : Dev} {k : Nat} (hn : d.tiaArmedNow k = false) (ha : (d.meas k).armed = true) :
    d.tiaArm k = (d.bump TIA.ARM_IGNORED).ignored (TIA.M_CTRL_ARM k).addr := by
  unfold Dev.tiaArm
  rw [if_neg (by simp [hn]), if_pos ha]

section Request
variable {d : Dev} (k : Meas) (ho : d.hostOpen (TIA.M_CTRL_ARM k.val).addr = true)
include ho

theorem Dev.tiaArmRequest_held (he : d.pln.epoch ≠ none) :
    d.hostWrite (TIA.M_CTRL_ARM k.val).addr (Dev.tiaArmRequest k.val) =
      (d.gdBreak (blockOfAddr (TIA.M_CTRL_ARM k.val).addr)).modPln fun p => { p with held := p.held ++ [.tia k] } := by
  have hp := (d.same_gdBreak (blockOfAddr (TIA.M_CTRL_ARM k.val).addr)).still.pln
  rw [Dev.hostWrite_open _ ho]
  unfold Dev.tiaArmRequest Dev.holdForEpoch
  rw [hp, if_pos (Option.isSome_iff_ne_none.2 he), show Fin.ofNat 64 k.val = k from Fin.ofNat_val_eq_self k]

theorem Dev.tiaArmRequest_acted (he : d.pln.epoch = none) :
    d.hostWrite (TIA.M_CTRL_ARM k.val).addr (Dev.tiaArmRequest k.val) = (d.reached (TIA.M_CTRL_ARM k.val).addr).tiaArm k.val := by
  have hp := (d.same_gdBreak (blockOfAddr (TIA.M_CTRL_ARM k.val).addr)).still.pln
  rw [Dev.hostWrite_open _ ho]
  unfold Dev.tiaArmRequest Dev.holdForEpoch
  rw [hp, he]
  rfl

end Request

/-- The setup that an arm request gives, its configuration read once. -/
theorem Dev.reached_judge (d : Dev) (a k : Nat) :
    (d.tiaBadCfg k → ((d.reached a).tiaCleared k).tiaJudge k = some 5) ∧
      (¬ d.tiaBadCfg k → (d.tiaBadPin k → ((d.reached a).tiaCleared k).tiaJudge k = some 2) ∧
        (¬ d.tiaBadPin k → ((d.reached a).tiaCleared k).tiaJudge k = none)) := by
  have h := (d.reached_alike a).trans (Dev.tiaCleared_alike k _)
  rw [← h.badCfg k, ← h.badPin k]
  exact Dev.tiaJudge_cases _ k

section Reached
variable {d : Dev} {a k : Nat} (hk : k < 64) (hn : d.tiaArmedNow k = false)
include hn

/-- An ARM of an armed measurement is counted. -/
theorem Dev.reached_tiaArm_ignored (ha : (d.meas k).armed = true) :
    ((d.reached a).tiaArm k).get TIA.ARM_IGNORED = min (2 ^ 32 - 1) (d.get TIA.ARM_IGNORED + 1) ∧
      d.Wrote [TIA.ARM_IGNORED.addr, PLN.SYNC_CTRL_ARM.addr] ((d.reached a).tiaArm k) := by
  rw [Dev.tiaArm_ignored ((d.reached_armedNow a k).trans hn) (by rw [d.reached_meas]; exact ha)]
  have same := Dev.same_ignored ((d.reached a).bump TIA.ARM_IGNORED) (TIA.M_CTRL_ARM k).addr
  constructor
  · rw [same.get, Dev.get_bump_self _ _ (by decide), (d.reached_alike a).high _ (by decide)]
    rfl
  · exact (((d.wrote_reached a).mono (by simp)).trans ((Dev.wrote_put_dword _ TIA.ARM_IGNORED _ (by decide)).mono (by simp))).trans
      (same.wrote _)

include hk

/-- An ARM judged against ends at once with its status. -/
theorem Dev.reached_tiaArm_refused {st : Nat} (h0 : st ≠ 0) (h16 : st < 16) (ha : (d.meas k).armed = false)
    (hj : ((d.reached a).tiaCleared k).tiaJudge k = some st) : d.TiaRefused k st ((d.reached a).tiaArm k) := by
  have h := Dev.tiaArm_isRefused hk ((d.reached_armedNow a k).trans hn) (by rw [d.reached_meas]; exact ha) h0 h16 hj
  exact ⟨h.armed, h.status, h.results.trans (by rw [(d.wrote_reached a).still.tia]), h.done, h.tmo⟩

/-- An ARM judged for arms the measurement. -/
theorem Dev.reached_tiaArm_taken (ha : (d.meas k).armed = false) (hj : ((d.reached a).tiaCleared k).tiaJudge k = none) :
    (((d.reached a).tiaArm k).meas k = (d.tiaSetup k).armedAt d.now ∧
      ((d.reached a).tiaArm k).get (TIA.M_STATE_STATE k) = (if d.get (TIA.M_CFG_CLASS k) = 0 then 2 else 1) ∧
      (((d.reached a).tiaArm k).get TIA.ACTIVE).testBit k = true ∧ (((d.reached a).tiaArm k).get TIA.DONE).testBit k = false) ∧
    (d.get (TIA.M_CFG_FUNC k) = 6 → (((d.reached a).tiaArm k).pin (d.tiaSetup k).chA).measure = some k) ∧
    ((d.reached a).tiaArm k).tia.results = d.tia.results ∧
    d.RegsBut [TIA.DONE.addr, TIA.DONE.addr + 4, TIA.TMO.addr, TIA.TMO.addr + 4, TIA.ACTIVE.addr, TIA.ACTIVE.addr + 4,
      (TIA.M_STATE_STATE k).addr, PLN.SYNC_CTRL_ARM.addr] ((d.reached a).tiaArm k) := by
  obtain ⟨h, pin⟩ := Dev.tiaArm_isTaken hk ((d.reached_armedNow a k).trans hn) (by rw [d.reached_meas]; exact ha) hj
  have alike := d.reached_alike a
  rw [d.reached_setup, alike.cfg (f := TIA.M_CFG_FUNC) fun k => by simp only [TIA.M_CFG_FUNC]; omega] at pin
  refine ⟨⟨?_, ?_, h.active, h.done⟩, pin, h.results.trans (by rw [(d.wrote_reached a).still.tia]), fun x hx => ?_⟩
  · rw [h.meas, d.reached_setup, d.reached_now]
  · rw [h.state, alike.cfg (f := TIA.M_CFG_CLASS) fun k => by simp only [TIA.M_CFG_CLASS]; omega]
  · rw [h.regs x fun hm => hx (by simp at hm ⊢; tauto)]
    exact (d.wrote_reached a).regs x fun hm => hx (by simp at hm ⊢; tauto)

end Reached

theorem Dev.until_timeout (d : Dev) (t : Nat) : (d.until t).tiaTimeoutT = d.tiaTimeoutT := by
  unfold Dev.tiaTimeoutT; rw [d.until_get]

theorem Dev.until_meas (d : Dev) (t k : Nat) : (d.until t).meas k = d.meas k := Dev.meas_congr (d.until_tia t) k

/-- The values of a measurement after a repetition. -/
def TiaM.valsAfter (m : TiaM) (o timeout : Nat) : Option Nat → List Int
  | some r => if tdrCounts o timeout m.gateLen (4096 * (o + 1024 * m.slot + 256) + r) r then m.vals ++ [(r : Int)] else m.vals
  | none => m.vals

/-- A repetition is taken at the end of its slot. -/
theorem Dev.tdrRepetition_takes {d : Dev} {k o : Nat} (refl : Option Nat) (ho : (d.meas k).open_ = some o)
    (ha : (d.meas k).armed = true) (hf : (d.meas k).func = 6) :
    (d.until (d.elapsedOf (o + 1024 * ((d.meas k).slot + 1)))).TdrTaken k ((d.meas k).valsAfter o d.tiaTimeoutT refl)
      (d.tdrRepetition k refl) := by
  have h := TiaM.repetition_repeated refl o (d.until (d.elapsedOf (o + 1024 * ((d.meas k).slot + 1)))) (d.meas k)
  rw [d.until_timeout] at h
  rw [Dev.tdrRepetition_taken refl ho ha hf]
  refine Dev.tdrTake_taken ((congrArg TiaM.armed (d.until_meas _ k)).trans ha) ((congrArg TiaM.func (d.until_meas _ k)).trans hf) ?_
  rw [d.until_meas]
  cases refl <;> exact h

/-- Settles O31: an arm request is held, merged, counted, refused or taken, and a TDR repetition takes what counts. -/
theorem measurementsArmAndCount : Obligations.MeasurementsArmAndCount := by
  unfold Obligations.MeasurementsArmAndCount
  refine ⟨fun s k ho => ?_, fun s k o r hopen ha hf => ?_⟩
  · intro m func chA chB pA pB two len now bad5 bad2 arm
    refine ⟨fun he => ?_, fun he => ?_⟩
    · have same := s.dev.same_gdBreak (blockOfAddr (TIA.M_CTRL_ARM k.val).addr)
      refine ⟨_, State.onDev_next (Dev.tiaArmRequest_held k ho he), rfl, same.regs, same.still.tia, ?_⟩
      rw [← same.still.pln]
      rfl
    · have request := State.onDev_next (Dev.tiaArmRequest_acted k ho he)
      have notNow (h : ¬ now) : s.dev.tiaArmedNow k.val = false := by
        rw [← Bool.not_eq_true, s.dev.tiaArmedNow_iff]
        exact h
      obtain ⟨judge5, judge⟩ := s.dev.reached_judge (TIA.M_CTRL_ARM k.val).addr k.val
      refine ⟨fun hn => ?_, fun hn ha => ?_, fun hn ha hbad => ?_, fun hn ha h5 h2 => ?_⟩
      · rw [Dev.tiaArm_again ((s.dev.reached_armedNow _ _).trans ((s.dev.tiaArmedNow_iff k.val).2 hn))] at request
        exact ⟨_, request, rfl, s.dev.wrote_reached _⟩
      · obtain ⟨count, wrote⟩ := Dev.reached_tiaArm_ignored (a := (TIA.M_CTRL_ARM k.val).addr) (notNow hn) ha
        exact ⟨_, request, rfl, count, wrote⟩
      · by_cases h5 : bad5
        · have r := Dev.reached_tiaArm_refused k.isLt (notNow hn) (by decide) (by decide) ha (judge5 h5)
          exact ⟨_, request, rfl, r.armed, fun _ => r.status, fun h => absurd h5 h, r.results, r.done, r.tmo⟩
        · have r := Dev.reached_tiaArm_refused k.isLt (notNow hn) (by decide) (by decide) ha
            ((judge h5).1 (hbad.resolve_left h5))
          exact ⟨_, request, rfl, r.armed, fun h => absurd h h5, fun _ => r.status, r.results, r.done, r.tmo⟩
      · obtain ⟨⟨meas, state, active, done⟩, pin, results, regs⟩ :=
          Dev.reached_tiaArm_taken k.isLt (notNow hn) ha ((judge h5).2 h2)
        refine ⟨_, request, rfl, ?_, ?_, ?_, ?_, ?_, state, active, done, pin, results, regs⟩
        all_goals exact (congrArg _ meas).trans rfl
  · intro m at_ counts Takes
    have hc : tdrCounts o s.dev.tiaTimeoutT m.gateLen at_ r = true ↔ counts := by
      simp only [tdrCounts, Bool.and_eq_true, Bool.or_eq_true, decide_eq_true_eq, and_assoc]
      rfl
    have takes (refl : Option Nat) : Takes refl (m.valsAfter o s.dev.tiaTimeoutT refl) := by
      have t := Dev.tdrRepetition_takes refl hopen ha hf
      have count : ((s.dev.until (s.dev.elapsedOf (o + 1024 * (m.slot + 1)))).meas k) = m := s.dev.until_meas _ _
      have ends := t.ends
      have goesOn := t.goesOn
      have slot := t.slot
      rw [count] at ends goesOn slot
      refine ⟨_, rfl, rfl, t.values, slot, t.reps, t.elapsed.trans (s.dev.until_elapsed _), fun h => ?_, ends⟩
      obtain ⟨armed, results⟩ := goesOn h
      exact ⟨armed, results.trans (congrArg TiaSt.results (s.dev.until_tia _))⟩
    refine ⟨fun h => ?_, fun h => ?_, takes none⟩
    · have e : m.valsAfter o s.dev.tiaTimeoutT (some r) = m.vals ++ [(r : Int)] := if_pos (hc.2 h)
      exact e ▸ takes (some r)
    · have e : m.valsAfter o s.dev.tiaTimeoutT (some r) = m.vals := if_neg fun h' => h (hc.1 h')
      exact e ▸ takes (some r)

end Sys2Proof.Machine
end


/-! ## Acquisition units: frames and the ARM (R234 to R248) -/
section
namespace Sys2Proof.Machine

/-! ### Nothing but one unit -/

/-- The frame of a command of one unit: the other units stay, and of the rest only the dwords listed change. -/
structure Dev.AqOnly (u : Nat) (as : List Nat) (d d' : Dev) : Prop where
  wrote : d.Wrote as { d' with aqs := d.aqs }
  others : ∀ w, w ≠ u → d'.aq w = d.aq w

/-- The frame of a command leaves out the units on both sides. -/
theorem Dev.Wrote.withAqs {as : List Nat} {b c : Dev} (k : b.Wrote as { c with aqs := b.aqs }) (x : Tab AqSt) :
    Dev.Wrote as { b with aqs := x } { c with aqs := x } :=
  ⟨{ k.still with aqs := rfl }, k.regs⟩

theorem Dev.AqOnly.trans {u : Nat} {as : List Nat} {a b c : Dev} (h : a.AqOnly u as b) (k : b.AqOnly u as c) : a.AqOnly u as c :=
  ⟨h.wrote.trans (k.wrote.withAqs a.aqs), fun w hw => (k.others w hw).trans (h.others w hw)⟩

theorem Dev.aq_congr {d d' : Dev} (h : d'.aqs = d.aqs) (u : Nat) : d'.aq u = d.aq u := by unfold Dev.aq; rw [h]

theorem Dev.Wrote.aqOnly {as : List Nat} {d d' : Dev} (h : d.Wrote as d') (u : Nat) : d.AqOnly u as d' := by
  refine ⟨?_, fun w _ => Dev.aq_congr h.still.aqs w⟩
  rw [← h.still.aqs]
  exact h

theorem Dev.AqOnly.mono {u : Nat} {as bs : List Nat} {a b : Dev} (h : a.AqOnly u as b) (hs : as ⊆ bs) : a.AqOnly u bs b :=
  ⟨h.wrote.mono hs, h.others⟩

theorem Dev.modAq_only (d : Dev) (u : Nat) (f : AqSt → AqSt) (as : List Nat) : d.AqOnly u as (d.modAq u f) :=
  ⟨(Dev.Same.refl d).wrote as, fun w hw => by simp [Dev.aq, Dev.modAq, Tab.get_insert_ne _ _ _ hw]⟩

@[simp] theorem Dev.aq_modAq_self (d : Dev) (u : Nat) (f : AqSt → AqSt) : (d.modAq u f).aq u = f (d.aq u) := by
  simp [Dev.aq, Dev.modAq]

/-- Writing a field of a dword at any address touches that dword. -/
theorem Dev.wrote_put_field (d : Dev) (a l : Nat) {w : Nat} (v : Nat) (h : w ≠ 64) : d.Wrote [a] (d.put ⟨a, l, w⟩ v) :=
  d.wrote_put_dword ⟨a, l, w⟩ v h

/-- A one-bit field at any address that is cleared reads as clear. -/
theorem Dev.on_put_clear (d : Dev) (a : Nat) {l : Nat} (h : l + 1 ≤ 32) : (d.put ⟨a, l, 1⟩ 0).on ⟨a, l, 1⟩ = false :=
  d.on_put_bit ⟨a, l, 1⟩ false h rfl

/-! ### The state of a unit -/

theorem Dev.wrote_aqGo (d : Dev) (u new : Nat) : d.Wrote [(AQ.STATUS_STATE u).addr] (d.aqGo u new) := by
  have h : d.Wrote [(AQ.STATUS_STATE u).addr] ((d.put (AQ.STATUS_STATE u) new).stateSignal d) :=
    (d.wrote_put_field _ _ new (by decide)).trans ((Dev.same_stateSignal _ _).wrote _)
  unfold Dev.aqGo
  dsimp only
  split_ifs
  · exact h.trans ((Dev.same_emit _ _ _ _).wrote _)
  · exact h

theorem Dev.aqGo_get (d : Dev) (u new : Nat) (f : Fld) : (d.aqGo u new).get f = (d.put (AQ.STATUS_STATE u) new).get f := by
  unfold Dev.aqGo
  dsimp only
  split_ifs
  · exact ((Dev.same_emit _ _ _ _).get f).trans ((Dev.same_stateSignal _ _).get f)
  · exact (Dev.same_stateSignal _ _).get f

theorem Dev.aqGo_state (d : Dev) (u : Nat) {new : Nat} (h : new < 8) : (d.aqGo u new).aqState u = new := by
  refine (d.aqGo_get u new _).trans ((Dev.get_put_field _ _ (by decide)).trans (Nat.mod_eq_of_lt h))

theorem Dev.aqGo_beside (d : Dev) (u new : Nat) {l w : Nat} (h : 0 + 3 ≤ 32 ∧ l + w ≤ 32 ∧ (0 + 3 ≤ l ∨ l + w ≤ 0)) :
    (d.aqGo u new).get ⟨0xB0084 + 0x2000 * u, l, w⟩ = d.get ⟨0xB0084 + 0x2000 * u, l, w⟩ :=
  (d.aqGo_get u new _).trans (Dev.get_put_apart _ _ (Fld.apart_beside h))

/-! ### Reports and registers leave the units alone -/

theorem Dev.aqRuns_iff (d : Dev) (u : Nat) :
    d.aqRuns u = true ↔ d.aqState u ≠ aqIdle ∧ d.aqState u ≠ aqDone ∧ d.aqState u ≠ aqReset := by
  simp [Dev.aqRuns, Dev.aqQuiet, and_assoc]

theorem Dev.aqQuiet_iff (d : Dev) (u : Nat) : d.aqQuiet u = true ↔ d.aqState u = aqIdle ∨ d.aqState u = aqDone := by
  simp [Dev.aqQuiet]

/-- A unit whose state is as before runs as before. -/
theorem Dev.aqRuns_congr {d d' : Dev} {u : Nat} (h : d'.aqState u = d.aqState u) : d'.aqRuns u = d.aqRuns u := by
  unfold Dev.aqRuns Dev.aqQuiet; rw [h]

/-! ### An accepted ARM (R244) -/

/-- The registers of an accepted ARM. -/
def Dev.aqShowArmed (u : Nat) (d : Dev) : Dev :=
  ((((d.put (AQ.STATUS_ARM_RESULT u) 1).put (AQ.STATUS_SEG u) 0).put (AQ.STATUS_POST_DONE u) 0).put (AQ.STATUS_SUPP u) 0).put
    (AQ.ARM_NUM u) (((((d.put (AQ.STATUS_ARM_RESULT u) 1).put (AQ.STATUS_SEG u) 0).put (AQ.STATUS_POST_DONE u) 0).put
      (AQ.STATUS_SUPP u) 0).get (AQ.ARM_NUM u) + 1)

/-- A unit at the beginning of a run whose first sample is `k`. -/
def AqSt.begun (k : Nat) (a : AqSt) : AqSt :=
  { a with next := k, samples := [], entries := [], trigs := [], lastK := none, borders := 0, lostEntries := 0 }

/-- The device after an accepted ARM. -/
def Dev.aqArmTaken (u : Nat) (d : Dev) : Dev :=
  ((d.aqShowArmed u).modAq u (AqSt.begun ((d.aqShowArmed u).aqNextIndex u))).aqBeginDead u ((d.aqShowArmed u).aqNextIndex u)

/-- The dwords an accepted ARM writes. -/
def aqArmDwords (u : Nat) : List Nat := [(AQ.STATUS_STATE u).addr, (AQ.ARM_NUM u).addr]

theorem Dev.wrote_aqShowArmed (u : Nat) (d : Dev) : d.Wrote (aqArmDwords u) (d.aqShowArmed u) := by
  have status (e : Dev) (l w v : Nat) (h : w ≠ 64) : e.Wrote (aqArmDwords u) (e.put ⟨0xB0084 + 0x2000 * u, l, w⟩ v) :=
    (e.wrote_put_field _ _ v h).mono (by simp [aqArmDwords, AQ.STATUS_STATE])
  have num (e : Dev) (v : Nat) : e.Wrote (aqArmDwords u) (e.put (AQ.ARM_NUM u) v) :=
    (e.wrote_put_field _ _ v (by decide)).mono (by simp [aqArmDwords, AQ.ARM_NUM])
  exact ((((status _ _ _ _ (by decide)).trans (status _ _ _ _ (by decide))).trans (status _ _ _ _ (by decide))).trans
    (status _ _ _ _ (by decide))).trans (num _ _)

/-- What an accepted ARM leaves. -/
structure Dev.AqAccepted (u : Nat) (d d' : Dev) : Prop where
  only : d.AqOnly u (aqArmDwords u) d'
  result : d'.get (AQ.STATUS_ARM_RESULT u) = 1
  state : d'.aqState u = aqDead
  seg : d'.get (AQ.STATUS_SEG u) = 0
  postDone : d'.on (AQ.STATUS_POST_DONE u) = false
  supp : d'.on (AQ.STATUS_SUPP u) = false
  num : d'.get (AQ.ARM_NUM u) = (d.get (AQ.ARM_NUM u) + 1) % 2 ^ (AQ.ARM_NUM u).w
  samples : (d'.aq u).samples = []
  entries : (d'.aq u).entries = []
  done : (d'.aq u).done = (d.aq u).done
  dead : (d'.aq u).dead = if d.aqFree u then some (d'.aq u).next else none

/-- What the registers of an accepted ARM show beside the state. -/
theorem Dev.aqShowArmed_get (u : Nat) (d : Dev) : (d.aqShowArmed u).get (AQ.STATUS_ARM_RESULT u) = 1 ∧
    (d.aqShowArmed u).get (AQ.STATUS_SEG u) = 0 ∧ (d.aqShowArmed u).on (AQ.STATUS_POST_DONE u) = false ∧
    (d.aqShowArmed u).on (AQ.STATUS_SUPP u) = false ∧
    (d.aqShowArmed u).get (AQ.ARM_NUM u) = (d.get (AQ.ARM_NUM u) + 1) % 2 ^ (AQ.ARM_NUM u).w := by
  have num {a b : Nat} : Fld.Apart ⟨0xB0090 + 0x2000 * u, 0, 16⟩ ⟨0xB0084 + 0x2000 * u, a, b⟩ :=
    Fld.apart_of_addr (.inr (by dsimp only; omega))
  have status {a b : Nat} : Fld.Apart ⟨0xB0084 + 0x2000 * u, a, b⟩ ⟨0xB0090 + 0x2000 * u, 0, 16⟩ :=
    Fld.apart_of_addr (.inl (by dsimp only; omega))
  have beside (e : Dev) (v l w l' w' : Nat) (h : l + w ≤ 32 ∧ l' + w' ≤ 32 ∧ (l + w ≤ l' ∨ l' + w' ≤ l)) :
      (e.put ⟨0xB0084 + 0x2000 * u, l, w⟩ v).get ⟨0xB0084 + 0x2000 * u, l', w'⟩ = e.get ⟨0xB0084 + 0x2000 * u, l', w'⟩ :=
    e.get_put_apart v (Fld.apart_beside h)
  refine ⟨?_, ?_, ?_, ?_, ?_⟩
  · exact (Dev.get_put_apart _ _ num).trans ((beside _ _ _ _ _ _ (by decide)).trans ((beside _ _ _ _ _ _ (by decide)).trans
      ((beside _ _ _ _ _ _ (by decide)).trans (Dev.get_put_field _ _ (by decide)))))
  · exact (Dev.get_put_apart _ _ num).trans ((beside _ _ _ _ _ _ (by decide)).trans ((beside _ _ _ _ _ _ (by decide)).trans
      (Dev.get_put_field _ _ (by decide))))
  · exact (Dev.on_put_apart _ _ num).trans ((Dev.on_of_get (beside _ _ _ _ _ _ (by decide))).trans
      (Dev.on_put_clear _ _ (by decide)))
  · exact (Dev.on_put_apart _ _ num).trans (Dev.on_put_clear _ _ (by decide))
  · have before := (Dev.get_put_apart ((((d.put (AQ.STATUS_ARM_RESULT u) 1).put (AQ.STATUS_SEG u) 0).put (AQ.STATUS_POST_DONE u) 0))
      (f := AQ.STATUS_SUPP u) (g := AQ.ARM_NUM u) 0 status).trans ((Dev.get_put_apart _ 0 status).trans
        ((Dev.get_put_apart _ 0 status).trans (Dev.get_put_apart d 1 status)))
    refine (Dev.get_put_field _ _ (by decide)).trans ?_
    rw [before]
    rfl

end Sys2Proof.Machine
end


/-! ## Acquisition units: ARM, TRIGGER and DISARM (R244) -/
section
namespace Sys2Proof.Machine

/-! ### An accepted ARM -/

/-- A unit in dead time from sample `k`, if a slot is free. -/
def AqSt.inDead (free : Bool) (k : Nat) (a : AqSt) : AqSt := { a with dead := if free then some k else none, next := max a.next k }

theorem Dev.aqBeginDead_eq (d : Dev) (u k : Nat) : d.aqBeginDead u k = (d.modAq u (AqSt.inDead (d.aqFree u) k)).aqGo u aqDead := rfl

theorem Dev.aqFree_of {d d' : Dev} {u : Nat} (hd : (d'.aq u).done = (d.aq u).done) (hs : (d'.aq u).seg = (d.aq u).seg)
    (hg : d'.aqSlots u = d.aqSlots u) : d'.aqFree u = d.aqFree u := by
  unfold Dev.aqFree; rw [hd, hs, hg]

theorem Dev.modAq_slots (d : Dev) (u : Nat) (f : AqSt → AqSt) : (d.modAq u f).aqSlots u = d.aqSlots u := rfl

theorem Dev.aqShowArmed_slots (d : Dev) (u : Nat) : (d.aqShowArmed u).aqSlots u = d.aqSlots u := by
  have h := d.wrote_aqShowArmed u
  unfold Dev.aqSlots
  rw [h.get (f := AQ.PART_GRAN u) (by simp [aqArmDwords, AQ.PART_GRAN, AQ.STATUS_STATE, AQ.ARM_NUM])
      (by simp [aqArmDwords, AQ.PART_GRAN, AQ.STATUS_STATE, AQ.ARM_NUM]; omega),
    h.get (f := AQ.SLOT u) (by simp [aqArmDwords, AQ.SLOT, AQ.STATUS_STATE, AQ.ARM_NUM])
      (by simp [aqArmDwords, AQ.SLOT, AQ.STATUS_STATE, AQ.ARM_NUM]; omega)]

theorem Dev.aqArmTaken_accepted (d : Dev) (u : Nat) : d.AqAccepted u (d.aqArmTaken u) ∧ ((d.aqArmTaken u).aq u).trigs = [] := by
  have shown := d.wrote_aqShowArmed u
  obtain ⟨result, seg, post, supp, num⟩ := d.aqShowArmed_get u
  have slots := d.aqShowArmed_slots u
  have aq : (d.aqShowArmed u).aq u = d.aq u := Dev.aq_congr shown.still.aqs u
  unfold Dev.aqArmTaken
  generalize (d.aqShowArmed u).aqNextIndex u = k
  generalize d.aqShowArmed u = e at *
  have free : (e.modAq u (AqSt.begun k)).aqFree u = d.aqFree u :=
    Dev.aqFree_of (by rw [Dev.aq_modAq_self, aq]; rfl) (by rw [Dev.aq_modAq_self, aq]; rfl) ((e.modAq_slots u _).trans slots)
  rw [Dev.aqBeginDead_eq, free]
  have begun : ((e.modAq u (AqSt.begun k)).modAq u (AqSt.inDead (d.aqFree u) k)).aq u =
      ((d.aq u).begun k).inDead (d.aqFree u) k := by rw [Dev.aq_modAq_self, Dev.aq_modAq_self, aq]
  have only : d.AqOnly u (aqArmDwords u) ((e.modAq u (AqSt.begun k)).modAq u (AqSt.inDead (d.aqFree u) k)) :=
    ((shown.aqOnly u).trans (e.modAq_only u _ _)).trans (Dev.modAq_only _ u _ _)
  have regs (f : Fld) : ((e.modAq u (AqSt.begun k)).modAq u (AqSt.inDead (d.aqFree u) k)).get f = e.get f :=
    (Dev.modAq_get _ _ _ _).trans (Dev.modAq_get _ _ _ _)
  generalize (e.modAq u (AqSt.begun k)).modAq u (AqSt.inDead (d.aqFree u) k) = x at *
  have go := x.wrote_aqGo u aqDead
  have aqx : (x.aqGo u aqDead).aq u = ((d.aq u).begun k).inDead (d.aqFree u) k := (Dev.aq_congr go.still.aqs u).trans begun
  refine ⟨⟨only.trans ((go.aqOnly u).mono (by simp [aqArmDwords])), ?_, x.aqGo_state u (by decide), ?_, ?_, ?_, ?_, ?_, ?_, ?_, ?_⟩, ?_⟩
  · exact (x.aqGo_beside u _ (by decide)).trans ((regs _).trans result)
  · exact (x.aqGo_beside u _ (by decide)).trans ((regs _).trans seg)
  · exact (Dev.on_of_get (x.aqGo_beside u _ (by decide))).trans ((Dev.on_of_get (regs _)).trans post)
  · exact (Dev.on_of_get (x.aqGo_beside u _ (by decide))).trans ((Dev.on_of_get (regs _)).trans supp)
  · refine (go.get ?_ ?_).trans ((regs _).trans num)
    · simp [AQ.ARM_NUM, AQ.STATUS_STATE]
    · simp [AQ.ARM_NUM, AQ.STATUS_STATE]; omega
  · rw [aqx]; rfl
  · rw [aqx]; rfl
  · rw [aqx]; rfl
  · rw [aqx]
    simp [AqSt.inDead, AqSt.begun]
  · rw [aqx]; rfl

/-! ### A trigger reaches a unit (R241, R244) -/

/-- A unit but for the triggers it has not judged. -/
def AqSt.withTrigs (l : List AqTrig) (a : AqSt) : AqSt := { a with trigs := l }

/-- Triggers alone change. -/
structure Dev.TrigsOnly (u : Nat) (d d' : Dev) : Prop where
  only : d.AqOnly u [] d'
  aq : ∃ l, d'.aq u = (d.aq u).withTrigs l

theorem Dev.TrigsOnly.refl (u : Nat) (d : Dev) : d.TrigsOnly u d :=
  ⟨((Dev.Same.refl d).wrote []).aqOnly u, (d.aq u).trigs, rfl⟩

theorem Dev.TrigsOnly.trans {u : Nat} {a b c : Dev} (h : a.TrigsOnly u b) (k : b.TrigsOnly u c) : a.TrigsOnly u c := by
  obtain ⟨_, hl⟩ := h.aq
  obtain ⟨m, hm⟩ := k.aq
  exact ⟨h.only.trans k.only, m, by rw [hm, hl]; rfl⟩

theorem Dev.AqOnly.get_nil {u : Nat} {d d' : Dev} (h : d.AqOnly u [] d') (f : Fld) : d'.get f = d.get f :=
  Dev.get_of_regs (h.wrote.regs _ (by simp)) (h.wrote.regs _ (by simp))

theorem Dev.aqDeliver_trigs (d : Dev) (u src : Nat) (stamp : Int) (half : Nat) : d.TrigsOnly u (d.aqDeliver u src stamp half) := by
  unfold Dev.aqDeliver
  split_ifs
  · exact ⟨d.modAq_only u _ [], _, d.aq_modAq_self u _⟩
  · exact .refl u d

theorem Dev.aqDelivers_trigs (d : Dev) (u : Nat) (l : List (Nat × Int × Nat)) :
    d.TrigsOnly u (d.each l fun (source, stamp, half) => Dev.aqDeliver u source stamp half) :=
  Dev.each_keeps (P := d.TrigsOnly u) l _ d (.refl u d) fun _ _ x hx => hx.trans (x.aqDeliver_trigs u _ _ _)

/-- Triggers change nothing of what an ARM shows. -/
theorem Dev.AqAccepted.trigs {u : Nat} {d x y : Dev} (h : d.AqAccepted u x) (k : x.TrigsOnly u y) : d.AqAccepted u y := by
  obtain ⟨l, hl⟩ := k.aq
  have on (f : Fld) : y.on f = x.on f := Dev.on_of_get (k.only.get_nil f)
  refine ⟨h.only.trans (k.only.mono (by simp)), ?_, ?_, ?_, ?_, ?_, ?_, ?_, ?_, ?_, ?_⟩
  · rw [k.only.get_nil, h.result]
  · exact (k.only.get_nil _).trans h.state
  · rw [k.only.get_nil, h.seg]
  · rw [on, h.postDone]
  · rw [on, h.supp]
  · rw [k.only.get_nil, h.num]
  · rw [hl]; exact h.samples
  · rw [hl]; exact h.entries
  · rw [hl]; exact h.done
  · rw [hl]; exact h.dead

end Sys2Proof.Machine
end


/-! ## Acquisition units: the order of commands, DISARM, PART (R239, R244) -/
section
namespace Sys2Proof.Machine

/-! ### An ARM judged (R244) -/

/-- An ARM answers that it is refused. -/
def Dev.aqRefuse (u r : Nat) (d : Dev) : Dev := (d.put (AQ.STATUS_ARM_RESULT u) r).ignored (AQ.CTRL_ARM u).addr

theorem Dev.aqArmNow_held {d : Dev} {u : Nat} (h : d.aqState u = aqReset ∨ d.aqRuns u = true) : d.Same (d.aqArmNow u) := by
  unfold Dev.aqArmNow
  dsimp only
  by_cases hr : d.aqState u = aqReset
  · rw [if_pos hr]
    exact d.same_ignored _
  · rw [if_neg hr, if_pos (h.resolve_left hr)]
    exact .refl d

section Quiet
variable {d : Dev} {u : Nat} (hq : d.aqQuiet u = true)
include hq

theorem Dev.aqQuiet_not_held : d.aqState u ≠ aqReset ∧ d.aqRuns u = false := by
  rcases (d.aqQuiet_iff u).1 hq with h | h <;> exact ⟨by simp [h], by simp [Dev.aqRuns, hq]⟩

theorem Dev.aqArmNow_quiet : d.aqArmNow u =
    if d.aqConfigOk u = false then d.aqRefuse u 2 else if d.aqClaimed u then d.aqRefuse u 3
    else if d.on PLN.QUALITY_REFSTEP then d.aqRefuse u 4 else d.aqArmTaken u := by
  obtain ⟨hs, hr⟩ := Dev.aqQuiet_not_held hq
  unfold Dev.aqArmNow
  dsimp only
  rw [if_neg hs, if_neg (by simp [hr])]
  simp only [Bool.not_eq_true']
  rfl

end Quiet

/-- A refusal shows its result in the dword of the state, which stays. -/
theorem Dev.aqRefuse_shows (d : Dev) (u : Nat) {r : Nat} (hr : r < 16) :
    d.Wrote [(AQ.STATUS_ARM_RESULT u).addr] (d.aqRefuse u r) ∧ (d.aqRefuse u r).get (AQ.STATUS_ARM_RESULT u) = r ∧
      (d.aqRefuse u r).aqState u = d.aqState u := by
  have same := Dev.same_ignored (d.put (AQ.STATUS_ARM_RESULT u) r) (AQ.CTRL_ARM u).addr
  refine ⟨(d.wrote_put_field _ _ r (by decide)).trans (same.wrote _), ?_, ?_⟩
  · exact (same.get _).trans ((Dev.get_put_field _ _ (by decide)).trans (Nat.mod_eq_of_lt hr))
  · exact (same.get _).trans (Dev.get_put_apart _ _ (Fld.apart_beside (by decide)))

/-! ### The commands of one CCLK period (log 11) -/

/-- A unit that notes an ARM among its commands. -/
def AqSt.noted (c : AqCmds) (arm : Nat) (was : Nat × Nat) (a : AqSt) : AqSt := { a with cmds := { c with arm, was } }

/-- An ARM that does not set the unit running acts, and is noted. -/
theorem Dev.aqArmFirst_without {d : Dev} {u : Nat} (h : d.aqRuns u = true ∨ (d.aqArmNow u).aqRuns u = false) :
    ∃ arm was, d.aqArmFirst u = (d.aqArmNow u).modAq u (AqSt.noted (d.aqCmds u) arm was) := by
  refine ⟨if d.aqRuns u then 2 else if (d.aqArmNow u).aqRuns u then 1 else 3, (d.aqState u, d.get (AQ.STATUS_SEG u)), ?_⟩
  unfold Dev.aqArmFirst
  dsimp only
  rw [if_neg]
  · rfl
  · rcases h with h | h <;> simp [h]
    split_ifs <;> decide

/-- An ARM that sets the unit running acts before the TRIGGERs that came before it. -/
theorem Dev.aqArmFirst_running {d : Dev} {u : Nat} (h0 : d.aqRuns u = false) (h1 : (d.aqArmNow u).aqRuns u = true) :
    ∃ arm was, d.aqArmFirst u = ((d.aqArmNow u).modAq u (AqSt.noted (d.aqCmds u) arm was)).each (d.aqCmds u).trigs
      fun (source, stamp, half) => Dev.aqDeliver u source stamp half := by
  refine ⟨1, (d.aqState u, d.get (AQ.STATUS_SEG u)), ?_⟩
  unfold Dev.aqArmFirst
  dsimp only
  rw [h0, h1]
  rfl

/-- An ARM without effect, or refused, by what it leaves. -/
structure Dev.AqHeld (u : Nat) (as : List Nat) (d d' : Dev) : Prop where
  only : d.AqOnly u as d'
  state : d'.aqState u = d.aqState u
  aq : d'.aq u = { d.aq u with cmds := (d'.aq u).cmds }

theorem Dev.aqHeld_noted {u : Nat} {as : List Nat} {d x : Dev} (h : d.Wrote as x) (hs : x.aqState u = d.aqState u) (c : AqCmds)
    (arm : Nat) (was : Nat × Nat) : d.AqHeld u as (x.modAq u (AqSt.noted c arm was)) := by
  refine ⟨(h.aqOnly u).trans (x.modAq_only u _ _), (Dev.modAq_get _ _ _ _).trans hs, ?_⟩
  rw [Dev.aq_modAq_self, Dev.aq_congr h.still.aqs u]
  rfl

theorem Dev.aqArmFirst_held {d : Dev} {u : Nat} (h : d.aqState u = aqReset ∨ d.aqRuns u = true) : d.AqHeld u [] (d.aqArmFirst u) := by
  have same := Dev.aqArmNow_held h
  have state : (d.aqArmNow u).aqState u = d.aqState u := same.get _
  obtain ⟨arm, was, e⟩ := Dev.aqArmFirst_without (d := d) (u := u) (by
    rcases h with h | h
    · exact .inr (by rw [Dev.aqRuns_congr state]; simp [Dev.aqRuns, h])
    · exact .inl h)
  rw [e]
  exact Dev.aqHeld_noted (same.wrote _) state _ _ _

/-- A refused ARM. -/
theorem Dev.aqArmFirst_refused {d : Dev} {u r : Nat} (hq : d.aqQuiet u = true) (hr : r < 16) (h : d.aqArmNow u = d.aqRefuse u r) :
    d.AqHeld u [(AQ.STATUS_ARM_RESULT u).addr] (d.aqArmFirst u) ∧ (d.aqArmFirst u).get (AQ.STATUS_ARM_RESULT u) = r := by
  obtain ⟨wrote, result, state⟩ := d.aqRefuse_shows u hr
  obtain ⟨arm, was, e⟩ := Dev.aqArmFirst_without (d := d) (u := u) (.inr (by
    rw [h, Dev.aqRuns_congr state]; exact (Dev.aqQuiet_not_held hq).2))
  rw [e, h]
  exact ⟨Dev.aqHeld_noted wrote state _ _ _, (Dev.modAq_get _ _ _ _).trans result⟩

/-- Noting a command changes nothing of what an ARM shows. -/
theorem Dev.AqAccepted.noted {u : Nat} {d x : Dev} (h : d.AqAccepted u x) (c : AqCmds) (arm : Nat) (was : Nat × Nat) :
    d.AqAccepted u (x.modAq u (AqSt.noted c arm was)) := by
  have aq : (x.modAq u (AqSt.noted c arm was)).aq u = (x.aq u).noted c arm was := x.aq_modAq_self u _
  refine ⟨h.only.trans (x.modAq_only u _ _), h.result, h.state, h.seg, h.postDone, h.supp, h.num, ?_, ?_, ?_, ?_⟩
  · rw [aq]; exact h.samples
  · rw [aq]; exact h.entries
  · rw [aq]; exact h.done
  · rw [aq]; exact h.dead

/-- An accepted ARM. -/
theorem Dev.aqArmFirst_accepted {d : Dev} {u : Nat} (hq : d.aqQuiet u = true) (h : d.aqArmNow u = d.aqArmTaken u) :
    d.AqAccepted u (d.aqArmFirst u) ∧ ((d.aqCmds u).trigs = [] → ((d.aqArmFirst u).aq u).trigs = []) := by
  obtain ⟨taken, trigs⟩ := d.aqArmTaken_accepted u
  have runs : (d.aqArmNow u).aqRuns u = true := by
    rw [h, Dev.aqRuns_iff, taken.state]; decide
  obtain ⟨arm, was, e⟩ := Dev.aqArmFirst_running (Dev.aqQuiet_not_held hq).2 runs
  rw [e, h]
  refine ⟨(taken.noted _ arm was).trigs (Dev.aqDelivers_trigs _ u _), fun ht => ?_⟩
  rw [ht]
  exact (congrArg AqSt.trigs (Dev.aq_modAq_self _ u _)).trans trigs

end Sys2Proof.Machine
end


/-! ## Acquisition units: requests of the host (R49, R107, R234 to R248) -/
section
namespace Sys2Proof.Machine

/-! ### An ARM request reaches its unit (R49) -/

section Alike
variable {d d' : Dev} (h : d.JudgedAlike d')
include h

theorem Dev.JudgedAlike.aq {f : Nat → Fld} (hf : ∀ u, 0xB0000 ≤ (f u).addr) (u : Nat) : d'.get (f u) = d.get (f u) :=
  h.high _ (by have := hf u; omega)

theorem Dev.JudgedAlike.aqState (u : Nat) : d'.aqState u = d.aqState u := h.aq (fun u => by simp only [AQ.STATUS_STATE]; omega) u

theorem Dev.JudgedAlike.aqQuiet (u : Nat) : d'.aqQuiet u = d.aqQuiet u := by unfold Dev.aqQuiet; rw [h.aqState]

theorem Dev.JudgedAlike.aqSlots (u : Nat) : d'.aqSlots u = d.aqSlots u := by
  unfold Dev.aqSlots
  rw [h.aq (f := AQ.PART_GRAN) fun u => by simp only [AQ.PART_GRAN]; omega, h.aq (f := AQ.SLOT) fun u => by simp only [AQ.SLOT]; omega]

theorem Dev.JudgedAlike.aqSampleSize (u : Nat) : d'.aqSampleSize u = d.aqSampleSize u := by
  unfold Dev.aqSampleSize Dev.aqKind Dev.aqChannels Dev.on
  simp only [h.aq (f := AQ.CFG_KIND) fun u => by simp only [AQ.CFG_KIND]; omega,
    h.aq (f := AQ.CFG_CMP_COUNT) fun u => by simp only [AQ.CFG_CMP_COUNT]; omega,
    fun j => h.aq (f := fun u => AQ.SMC_SEL_EN u j) fun u => by simp only [AQ.SMC_SEL_EN]; omega]

theorem Dev.JudgedAlike.aqConfigOk (u : Nat) : d'.aqConfigOk u = d.aqConfigOk u := by
  unfold Dev.aqConfigOk Dev.aqKind Dev.aqChannels Dev.on
  simp only [h.aqSampleSize, h.aqSlots, h.aq (f := AQ.CFG_KIND) fun u => by simp only [AQ.CFG_KIND]; omega,
    h.aq (f := AQ.CFG_CMP_COUNT) fun u => by simp only [AQ.CFG_CMP_COUNT]; omega,
    h.aq (f := AQ.CFG_CMP_FIRST) fun u => by simp only [AQ.CFG_CMP_FIRST]; omega,
    h.aq (f := AQ.DIV) fun u => by simp only [AQ.DIV]; omega, h.aq (f := AQ.SLOT) fun u => by simp only [AQ.SLOT]; omega,
    h.aq (f := AQ.PRE) fun u => by simp only [AQ.PRE]; omega, h.aq (f := AQ.POST) fun u => by simp only [AQ.POST]; omega,
    h.aq (f := AQ.SEGS) fun u => by simp only [AQ.SEGS]; omega, h.aq (f := AQ.TRIG_EDGE) fun u => by simp only [AQ.TRIG_EDGE]; omega,
    fun j => h.aq (f := fun u => AQ.SMC_SEL_EN u j) fun u => by simp only [AQ.SMC_SEL_EN]; omega,
    fun j => h.aq (f := fun u => AQ.SMC_SEL_QTY u j) fun u => by simp only [AQ.SMC_SEL_QTY]; omega]

theorem Dev.JudgedAlike.aqClaimed (u : Nat) : d'.aqClaimed u = d.aqClaimed u := by
  unfold Dev.aqClaimed
  simp only [h.aqQuiet, h.aq (f := AQ.CLAIM) fun u => by simp only [AQ.CLAIM]; omega]

end Alike

section Reached
variable (d : Dev) (a u : Nat)

theorem Dev.reached_aq : (d.reached a).aq u = d.aq u := Dev.aq_congr (d.wrote_reached a).still.aqs u

theorem Dev.reached_aqCmds : (d.reached a).aqCmds u = d.aqCmds u := by
  unfold Dev.aqCmds Dev.cclk
  rw [d.reached_aq, (d.wrote_reached a).still.elapsed]

theorem Dev.reached_aqFree : (d.reached a).aqFree u = d.aqFree u :=
  Dev.aqFree_of (by rw [d.reached_aq]) (by rw [d.reached_aq]) ((d.reached_alike a).aqSlots u)

variable {d a u}

theorem Dev.AqHeld.reached {as : List Nat} {d' : Dev} (h : (d.reached a).AqHeld u as d') :
    d.AqHeld u (as ++ [PLN.SYNC_CTRL_ARM.addr]) d' := by
  refine ⟨(((d.wrote_reached a).aqOnly u).mono (by simp)).trans (h.only.mono (by simp)), ?_, ?_⟩
  · rw [h.state, (d.reached_alike a).aqState]
  · rw [← d.reached_aq a u]; exact h.aq

end Reached

section Request
variable {d : Dev} (u : UnitIx) (ho : d.hostOpen (AQ.CTRL_ARM u.val).addr = true)
include ho

theorem Dev.aqArmRequest_held (he : d.pln.epoch.isSome = true) :
    d.hostWrite (AQ.CTRL_ARM u.val).addr (Dev.aqArmRequest u.val) =
      (d.gdBreak (blockOfAddr (AQ.CTRL_ARM u.val).addr)).modPln fun p => { p with held := p.held ++ [.acq u] } := by
  have hp := (d.same_gdBreak (blockOfAddr (AQ.CTRL_ARM u.val).addr)).still.pln
  rw [Dev.hostWrite_open _ ho]
  unfold Dev.aqArmRequest Dev.holdForEpoch
  rw [hp, if_pos he, show Fin.ofNat 8 u.val = u from Fin.ofNat_val_eq_self u]

theorem Dev.aqArmRequest_acted (he : d.pln.epoch = none) :
    d.hostWrite (AQ.CTRL_ARM u.val).addr (Dev.aqArmRequest u.val) = (d.reached (AQ.CTRL_ARM u.val).addr).aqArmFirst u.val := by
  have hp := (d.same_gdBreak (blockOfAddr (AQ.CTRL_ARM u.val).addr)).still.pln
  rw [Dev.hostWrite_open _ ho]
  unfold Dev.aqArmRequest Dev.holdForEpoch
  rw [hp, he]
  rfl

end Request

/-! ### A software trigger (R241) -/

theorem Dev.aqTrigger_aq (d : Dev) (u src : Nat) (stamp : Int) (half : Nat) : ∃ c,
    (d.aqTrigger u src stamp half).aq u = { d.aq u with
      cmds := c
      trigs := if d.aqRuns u then insertTrig ⟨stamp + signedOf 16 (d.get (AQ.TRIG_SKEW u)), src, half⟩ (d.aq u).trigs
        else (d.aq u).trigs } := by
  refine ⟨{ d.aqCmds u with trigs := (d.aqCmds u).trigs ++ [(src, stamp, half)] }, ?_⟩
  have runs (f : AqSt → AqSt) : (d.modAq u f).aqRuns u = d.aqRuns u := rfl
  unfold Dev.aqTrigger Dev.aqDeliver
  dsimp only
  rw [runs]
  split_ifs
  · rw [Dev.aq_modAq_self, Dev.aq_modAq_self]
    rfl
  · rw [Dev.aq_modAq_self]

theorem Dev.aqTrigger_only (d : Dev) (u src : Nat) (stamp : Int) (half : Nat) : d.AqOnly u [] (d.aqTrigger u src stamp half) :=
  (d.modAq_only u _ []).trans (Dev.aqDeliver_trigs _ u src stamp half).only

end Sys2Proof.Machine
end


/-! ## Acquisition units: DISARM, configuration and PART -/
section
namespace Sys2Proof.Machine

/-! ### DISARM (R244) -/

/-- A unit changes, and no register. -/
structure Dev.UnitOnly (u : Nat) (d d' : Dev) : Prop where
  regs : d'.regs = d.regs
  others : ∀ w, w ≠ u → d'.aq w = d.aq w

theorem Dev.UnitOnly.refl (u : Nat) (d : Dev) : d.UnitOnly u d := ⟨rfl, fun _ _ => rfl⟩

theorem Dev.UnitOnly.trans {u : Nat} {a b c : Dev} (h : a.UnitOnly u b) (k : b.UnitOnly u c) : a.UnitOnly u c :=
  ⟨k.regs.trans h.regs, fun w hw => (k.others w hw).trans (h.others w hw)⟩

theorem Dev.modAq_unit (d : Dev) (u : Nat) (f : AqSt → AqSt) : d.UnitOnly u (d.modAq u f) := ⟨rfl, (d.modAq_only u f []).others⟩

/-- Lines taken into the memory are tokens given back. -/
theorem Dev.aqDrain_keeps (d : Dev) : d.aqDrain.regs = d.regs ∧ d.aqDrain.aqs = d.aqs :=
  Dev.each_keeps (P := fun x => x.regs = d.regs ∧ x.aqs = d.aqs) (d.acq.lines.take (d.cclk - d.acq.at_))
    (fun u d => d.give poolAT u 1) d ⟨rfl, rfl⟩ fun _ _ _ h => h

theorem Dev.aqFlush_unit (d : Dev) (u : Nat) : d.UnitOnly u (d.aqFlush u) ∧ (d.aqFlush u).aq u = { d.aq u with fill := 0 } := by
  unfold Dev.aqFlush
  split_ifs with h
  · refine ⟨.refl u d, ?_⟩
    rw [← h]
  · obtain ⟨regs, aqs⟩ := d.aqDrain_keeps
    have drained : d.UnitOnly u d.aqDrain := ⟨regs, fun w _ => Dev.aq_congr aqs w⟩
    have flushed := drained.trans (d.aqDrain.modAq_unit u fun a => { a with fill := 0 })
    refine ⟨⟨flushed.regs, flushed.others⟩, ?_⟩
    have aq := d.aqDrain.aq_modAq_self u fun a => { a with fill := 0 }
    rw [Dev.aq_congr aqs u] at aq
    exact aq

/-- An open segment is closed and queued. -/
theorem Dev.aqCloseSeg_unit (d : Dev) (u : Nat) (trunc : Bool) : d.UnitOnly u (d.aqCloseSeg u trunc) ∧
    ((d.aqCloseSeg u trunc).aq u).seg = none ∧
    ((d.aqCloseSeg u trunc).aq u).done.length = (d.aq u).done.length + bit (d.aq u).seg.isSome := by
  obtain ⟨flushed, aq⟩ := d.aqFlush_unit u
  unfold Dev.aqCloseSeg
  split
  next h => exact ⟨.refl u d, h, by rw [h]; rfl⟩
  next s h =>
    refine ⟨flushed.trans (Dev.modAq_unit _ u _), ?_, ?_⟩
    · rw [Dev.aq_modAq_self]
    · rw [Dev.aq_modAq_self, aq, h]
      exact List.length_append

/-- What the end of a run leaves. -/
structure Dev.AqStopped (u : Nat) (d d' : Dev) : Prop where
  state : d'.aqState u = aqIdle
  unit : (d'.aq u).seg = none ∧ (d'.aq u).trigs = [] ∧ (d'.aq u).samples = [] ∧ (d'.aq u).entries = [] ∧ (d'.aq u).fill = 0
  others : ∀ w, w ≠ u → d'.aq w = d.aq w
  done : (d'.aq u).done.length = (d.aq u).done.length + bit (d.aq u).seg.isSome
  regs : d.RegsBut [(AQ.STATUS_STATE u).addr, (AQ.OUTSIDE u).addr] d'

/-- A unit that holds nothing. -/
def AqSt.emptied (a : AqSt) : AqSt := { a with trigs := [], samples := [], entries := [], dead := none }

theorem Dev.aqDisarmNow_stopped {d : Dev} {u : Nat} (hi : d.aqState u ≠ aqIdle) (hr : d.aqState u ≠ aqReset) :
    d.AqStopped u (d.aqDisarmNow u) := by
  obtain ⟨closed, seg, done⟩ := d.aqCloseSeg_unit u true
  obtain ⟨flushed, aq⟩ := (d.aqCloseSeg u true).aqFlush_unit u
  have e : d.aqDisarmNow u = ((((d.aqCloseSeg u true).aqFlush u).bumpBy (AQ.OUTSIDE u)
      (((d.aqCloseSeg u true).aqFlush u).aq u).entries.length).modAq u AqSt.emptied).aqGo u aqIdle := by
    unfold Dev.aqDisarmNow
    exact if_neg (by simp [hi, hr])
  rw [e]
  have unit := closed.trans flushed
  generalize (d.aqCloseSeg u true).aqFlush u = x at aq unit ⊢
  have counted := Dev.wrote_put_dword x (AQ.OUTSIDE u) (min (2 ^ (AQ.OUTSIDE u).w - 1) (x.get (AQ.OUTSIDE u) + (x.aq u).entries.length))
    (by simp [AQ.OUTSIDE])
  change x.Wrote _ (x.bumpBy (AQ.OUTSIDE u) (x.aq u).entries.length) at counted
  generalize x.bumpBy (AQ.OUTSIDE u) (x.aq u).entries.length = y at counted ⊢
  have go := (y.modAq u AqSt.emptied).wrote_aqGo u aqIdle
  have aqy : ((y.modAq u AqSt.emptied).aqGo u aqIdle).aq u = (x.aq u).emptied := by
    rw [Dev.aq_congr go.still.aqs u, Dev.aq_modAq_self, Dev.aq_congr counted.still.aqs u]
  rw [aq] at aqy
  refine ⟨Dev.aqGo_state _ u (by decide), ⟨?_, ?_, ?_, ?_, ?_⟩, fun w hw => ?_, ?_, fun a ha => ?_⟩
  · rw [aqy]; exact seg
  · rw [aqy]; rfl
  · rw [aqy]; rfl
  · rw [aqy]; rfl
  · rw [aqy]; rfl
  · rw [Dev.aq_congr go.still.aqs w, (y.modAq_only u _ []).others w hw, Dev.aq_congr counted.still.aqs w, unit.others w hw]
  · rw [aqy]; exact done
  · simp only [List.mem_cons, List.not_mem_nil, or_false, not_or] at ha
    have modAq_reg : (y.modAq u AqSt.emptied).reg a = y.reg a := rfl
    rw [go.regs a (by simpa using ha.1), modAq_reg, counted.regs a (by simpa using ha.2)]
    unfold Dev.reg
    rw [unit.regs]

theorem Dev.aqDisarm_now {d : Dev} {u : Nat} (h1 : (d.aqCmds u).arm ≠ 1) (h2 : (d.aqCmds u).arm ≠ 2) :
    d.aqDisarm u = d.aqDisarmNow u := by
  unfold Dev.aqDisarm
  dsimp only
  split
  next h => exact absurd h h1
  next h => exact absurd h h2
  next => rfl

/-- A DISARM that an ARM of its CCLK period stands against is at most a record. -/
theorem Dev.aqDisarm_after {d : Dev} {u : Nat} (h : (d.aqCmds u).arm = 1) : d.Same (d.aqDisarm u) := by
  unfold Dev.aqDisarm
  dsimp only
  rw [h]
  split_ifs
  · exact d.same_emit _ _ _
  · exact .refl d

theorem Dev.Same.aqCmds {d d' : Dev} (h : d.Same d') (u : Nat) : d'.aqCmds u = d.aqCmds u := by
  unfold Dev.aqCmds Dev.cclk
  rw [Dev.aq_congr h.still.aqs, h.still.elapsed]

end Sys2Proof.Machine
end


/-! ## Acquisition units: configuration and PART, and the statement -/
section
namespace Sys2Proof.Machine

/-! ### A register takes a value or ignores the write (R9, R10, R234) -/

/-- A write stores a value under the access type of the register, or nothing. -/
def Dev.Stores (r : RegRow) (addr : Nat) (x : Option W32) (d d' : Dev) : Prop :=
  match x with
  | some x => d'.reg addr = r.stores (d.reg addr) x ∧ d.Wrote [addr] d'
  | none => d.Same d'

theorem Dev.same_noteOld (d : Dev) (addr : Nat) : d.Same (d.noteOld addr) := by
  unfold Dev.noteOld Dev.lsNow
  dsimp only
  split_ifs <;> exact ⟨by constructor <;> rfl, rfl⟩

theorem Dev.storeRow_stores (d : Dev) (r : RegRow) (addr : Nat) (v : W32) : d.Stores r addr (some v) (d.storeRow r addr v) :=
  ⟨Dev.reg_setReg_self _ _ _, ((d.same_noteOld addr).wrote _).trans (Dev.wrote_setReg _ _ _)⟩

theorem Dev.storeIf_stores (d : Dev) (ok : Bool) (r : RegRow) (addr : Nat) (v : W32) :
    d.Stores r addr (takenIf ok v) (d.storeIf ok r addr v) := by
  cases ok with
  | true => exact d.storeRow_stores r addr v
  | false => exact d.same_ignored addr

theorem Dev.Stores.report {r : RegRow} {addr : Nat} {v : W32} {d x y : Dev} (h : d.Stores r addr (some v) x) (k : x.Same y) :
    d.Stores r addr (some v) y := ⟨(k.reg addr).trans h.1, h.2.trans (k.wrote _)⟩

/-- One field whose value is not allowed keeps its value. -/
theorem Dev.storeFields_stores (d : Dev) (lo w : Nat) (ok : Nat → Bool) (r : RegRow) (addr : Nat) (v : W32) :
    d.Stores r addr (some (keepUnless ok (d.reg addr) lo w v)) (d.storeFields [(lo, w, ok)] r addr v) := by
  unfold Dev.storeFields keepUnless
  cases h : ok (bitsOf v.toNat lo w) with
  | true => simpa [h] using d.storeRow_stores r addr v
  | false => simpa [h, keepField] using (d.storeRow_stores r addr _).report (Dev.same_ignored _ addr)

/-- What a full write of an acquisition configuration register stores, by whether the unit is quiet. -/
def acqTaken (quiet : Bool) (off : Nat) (old v : W32) : Option W32 :=
  if off = 0x18 then takenIf quiet (keepUnless (· != 3) old 5 2 v)
  else if off = 0x28 then takenIf quiet (dropLow 16 v)
  else if off = 0x30 then takenIf (quiet && v.toNat % 65536 != 0) v
  else if off < 0x80 then takenIf quiet v else some v

theorem Dev.taken_acq (d : Dev) (u i off : Nat) (old v : W32) : d.taken 0x18 u i off old v = acqTaken (d.aqQuiet u) off old v := rfl

theorem Dev.aqWrite_stores (d : Dev) (u i off : Nat) (r : RegRow) (addr : Nat) (v : W32) (h : isAcqConfig off = true) :
    d.Stores r addr (d.taken 0x18 u i off (d.reg addr) v) (d.aqWrite u off r addr v) := by
  simp only [isAcqConfig, Bool.and_eq_true, decide_eq_true_eq, bne_iff_ne] at h
  obtain ⟨low, part⟩ := h
  rw [d.taken_acq]
  unfold Dev.aqWrite acqTaken
  rw [if_neg part, if_neg (show off ≠ 0x80 by omega), if_pos low, if_pos low]
  by_cases h18 : off = 0x18
  · rw [if_pos h18, if_pos h18]
    cases d.aqQuiet u with
    | true => exact d.storeFields_stores 5 2 _ r addr v
    | false => exact d.same_ignored addr
  · rw [if_neg h18, if_neg h18]
    split_ifs
    · exact d.storeIf_stores _ r addr _
    · exact d.storeIf_stores _ r addr v
    · exact d.storeIf_stores _ r addr v

theorem Dev.Same.stores {r : RegRow} {addr : Nat} {x : Option W32} {d e d' : Dev} (h : d.Same e) (k : e.Stores r addr x d') :
    d.Stores r addr x d' := by
  cases x with
  | none => exact h.trans k
  | some x => exact ⟨by rw [← h.reg addr]; exact k.1, (h.wrote _).trans k.2⟩

theorem Dev.Same.taken18 {d e : Dev} (h : d.Same e) (u i off : Nat) (old v : W32) :
    e.taken 0x18 u i off old v = d.taken 0x18 u i off old v := by
  have quiet : e.aqQuiet u = d.aqQuiet u := by unfold Dev.aqQuiet Dev.aqState; rw [h.get]
  rw [d.taken_acq, e.taken_acq, quiet]

/-- A register is decoded by its dword. -/
theorem decodeReg_dword (b off : Nat) (h : b % 4 = 0) : decodeReg (b + off / 4 * 4) = decodeReg (b + off) := by
  unfold decodeReg
  rw [show (b + off / 4 * 4) / 4 * 4 = (b + off) / 4 * 4 by omega]

/-! ### PART (R107, R239) -/

/-- A write of PART that is refused. -/
def Dev.aqPartRefuse (u r : Nat) (d : Dev) : Dev := (d.put (AQ.PART_PART_RESULT u) r).ignored (AQ.PART_BASE u).addr

/-- A write of PART that is taken. -/
def Dev.aqPartTake (u : Nat) (range : Nat × Nat) (d : Dev) : Dev :=
  ((d.put (AQ.PART_BASE u) range.1).put (AQ.PART_GRAN u) range.2).put (AQ.PART_PART_RESULT u) 1

/-- Another unit's range meets this one. -/
def Dev.aqPartMeets (u : Nat) (range : Nat × Nat) (d : Dev) : Prop :=
  ∃ w, w < 8 ∧ w ≠ u ∧ rangesMeet range (d.get (AQ.PART_BASE w), d.get (AQ.PART_GRAN w)) = true

theorem Dev.aqPartWrite_eq (d : Dev) (u v : Nat) [Decidable (d.aqPartMeets u (bitsOf v 0 6, bitsOf v 8 7))] :
    d.aqPartWrite u v =
      if d.aqQuiet u = false ∨ (d.aq u).done ≠ [] then d.aqPartRefuse u 2
      else if 64 < bitsOf v 0 6 + bitsOf v 8 7 then d.aqPartRefuse u 3
      else if d.aqPartMeets u (bitsOf v 0 6, bitsOf v 8 7) then d.aqPartRefuse u 4
      else d.aqPartTake u (bitsOf v 0 6, bitsOf v 8 7) := by
  have busy : (!d.aqQuiet u || !(d.aq u).done.isEmpty) = true ↔ d.aqQuiet u = false ∨ (d.aq u).done ≠ [] := by simp
  have meets : (!((List.range 8).filter fun w => w != u && rangesMeet (bitsOf v 0 6, bitsOf v 8 7)
      (d.get (AQ.PART_BASE w), d.get (AQ.PART_GRAN w))).isEmpty) = true ↔ d.aqPartMeets u (bitsOf v 0 6, bitsOf v 8 7) := by
    simp [Dev.aqPartMeets]
  unfold Dev.aqPartWrite
  simp only [busy, meets]
  rfl

/-- A refused write of PART shows its result. -/
theorem Dev.aqPartRefuse_shows (d : Dev) (u : Nat) {r : Nat} (hr : r < 16) :
    (d.aqPartRefuse u r).get (AQ.PART_PART_RESULT u) = r ∧ (d.aqPartRefuse u r).get (AQ.PART_BASE u) = d.get (AQ.PART_BASE u) ∧
      (d.aqPartRefuse u r).get (AQ.PART_GRAN u) = d.get (AQ.PART_GRAN u) ∧ d.Wrote [(AQ.PART_BASE u).addr] (d.aqPartRefuse u r) := by
  have same := Dev.same_ignored (d.put (AQ.PART_PART_RESULT u) r) (AQ.PART_BASE u).addr
  refine ⟨?_, ?_, ?_, (d.wrote_put_field _ _ r (by decide)).trans (same.wrote _)⟩
  · exact (same.get _).trans ((Dev.get_put_field _ _ (by decide)).trans (Nat.mod_eq_of_lt hr))
  · exact (same.get _).trans (Dev.get_put_apart _ _ (Fld.apart_beside (by decide)))
  · exact (same.get _).trans (Dev.get_put_apart _ _ (Fld.apart_beside (by decide)))

theorem Dev.aqPartTake_shows (d : Dev) (u : Nat) {range : Nat × Nat} (h1 : range.1 < 64) (h2 : range.2 < 128) :
    (d.aqPartTake u range).get (AQ.PART_PART_RESULT u) = 1 ∧ (d.aqPartTake u range).get (AQ.PART_BASE u) = range.1 ∧
      (d.aqPartTake u range).get (AQ.PART_GRAN u) = range.2 ∧ d.Wrote [(AQ.PART_BASE u).addr] (d.aqPartTake u range) := by
  refine ⟨?_, ?_, ?_, ((d.wrote_put_field _ _ _ (by decide)).trans (Dev.wrote_put_field _ _ _ _ (by decide))).trans
    (Dev.wrote_put_field _ _ _ _ (by decide))⟩
  · exact Dev.get_put_field _ _ (by decide)
  · exact (Dev.get_put_apart _ _ (Fld.apart_beside (by decide))).trans ((Dev.get_put_apart _ _ (Fld.apart_beside (by decide))).trans
      ((Dev.get_put_field _ _ (by decide)).trans (Nat.mod_eq_of_lt h1)))
  · exact (Dev.get_put_apart _ _ (Fld.apart_beside (by decide))).trans
      ((Dev.get_put_field _ _ (by decide)).trans (Nat.mod_eq_of_lt h2))

end Sys2Proof.Machine
end


/-! ## Acquisition commands, settled -/
section
namespace Sys2Proof.Machine

/-! ### The requests, by what they leave -/

section Arm
variable {d : Dev} {a u : Nat}

/-- An ARM that its unit does not judge, seen from before the request. -/
theorem Dev.reached_arm_held (h : d.aqState u = aqReset ∨ d.aqRuns u = true) :
    d.AqHeld u [PLN.SYNC_CTRL_ARM.addr] ((d.reached a).aqArmFirst u) := by
  have state := (d.reached_alike a).aqState u
  exact (Dev.aqArmFirst_held (by rw [Dev.aqRuns_congr state, state]; exact h)).reached

variable (hq : d.aqQuiet u = true)
include hq

theorem Dev.reached_arm_quiet : (d.reached a).aqQuiet u = true ∧ (d.reached a).aqArmNow u =
    if d.aqConfigOk u = false then (d.reached a).aqRefuse u 2 else if d.aqClaimed u then (d.reached a).aqRefuse u 3
    else if d.on PLN.QUALITY_REFSTEP then (d.reached a).aqRefuse u 4 else (d.reached a).aqArmTaken u := by
  have h := d.reached_alike a
  have quiet := (h.aqQuiet u).trans hq
  rw [← h.aqConfigOk, ← h.aqClaimed, ← h.steps]
  exact ⟨quiet, Dev.aqArmNow_quiet quiet⟩

theorem Dev.reached_arm_refused {r : Nat} (hr : r < 16) (h : (d.reached a).aqArmNow u = (d.reached a).aqRefuse u r) :
    d.AqHeld u [(AQ.STATUS_ARM_RESULT u).addr, PLN.SYNC_CTRL_ARM.addr] ((d.reached a).aqArmFirst u) ∧
      ((d.reached a).aqArmFirst u).get (AQ.STATUS_ARM_RESULT u) = r := by
  obtain ⟨held, result⟩ := Dev.aqArmFirst_refused (Dev.reached_arm_quiet hq).1 hr h
  exact ⟨held.reached, result⟩

theorem Dev.reached_arm_accepted (h : (d.reached a).aqArmNow u = (d.reached a).aqArmTaken u) :
    (d.reached a).AqAccepted u ((d.reached a).aqArmFirst u) ∧
      ((d.aqCmds u).trigs = [] → (((d.reached a).aqArmFirst u).aq u).trigs = []) := by
  rw [← d.reached_aqCmds a u]
  exact Dev.aqArmFirst_accepted (Dev.reached_arm_quiet hq).1 h

end Arm

/-- The frame of an accepted ARM, with the arming that it cancels. -/
theorem Dev.AqAccepted.frame {d d' : Dev} {a u : Nat} (h : (d.reached a).AqAccepted u d') :
    d.AqOnly u [(AQ.STATUS_STATE u).addr, (AQ.ARM_NUM u).addr, PLN.SYNC_CTRL_ARM.addr] d' :=
  (((d.wrote_reached a).aqOnly u).mono (by simp)).trans (h.only.mono (by simp [aqArmDwords]))

/-- What follows when a request's write reaches its register: a pending guarded value of the block is gone. -/
theorem Dev.gdBroken_same (d : Dev) (a : Nat) : d.Same (d.gdBreak (blockOfAddr a)) := d.same_gdBreak _

theorem Dev.Same.now {d e : Dev} (h : d.Same e) : e.now = d.now := congrArg BitVec.toNat h.still.count

/-- A software trigger is queued with its skew in a running unit. -/
theorem Dev.aqSoftware_aq {d e : Dev} (h : d.Same e) (u : Nat) : ∃ c, (e.aqSoftware u).aq u = { d.aq u with
    cmds := c
    trigs := if d.aqRuns u then insertTrig ⟨4096 * d.now + signedOf 16 (d.get (AQ.TRIG_SKEW u)), 0, 8192⟩ (d.aq u).trigs
      else (d.aq u).trigs } := by
  have runs : e.aqRuns u = d.aqRuns u := Dev.aqRuns_congr (h.get _)
  rw [← h.now, ← h.get (AQ.TRIG_SKEW u), ← runs, ← Dev.aq_congr h.still.aqs u]
  exact e.aqTrigger_aq u 0 _ 8192

/-- DISARM of a unit that neither runs nor has finished does nothing. -/
theorem Dev.aqDisarmNow_idle {d : Dev} {u : Nat} (h : d.aqState u = aqIdle ∨ d.aqState u = aqReset) : d.aqDisarmNow u = d := by
  unfold Dev.aqDisarmNow
  exact if_pos (by simpa using h)

/-- What the end of a run leaves, seen from before the request. -/
theorem Dev.AqStopped.of_same {d e d' : Dev} {u : Nat} (h : d.Same e) (k : e.AqStopped u d') : d.AqStopped u d' where
  state := k.state
  unit := k.unit
  others w hw := (k.others w hw).trans (Dev.aq_congr h.still.aqs w)
  done := by rw [k.done, Dev.aq_congr h.still.aqs]
  regs a ha := (k.regs a ha).trans (h.reg a)

/-- A configuration write meets the register that its offset decodes to. -/
theorem execAcqConfigWrite_eq {s : State} {u : UnitIx} {off : BitVec 8} {v : W32} {r : RegRow} {w : Window} {n i j addr : Nat} {c : Bool}
    (hd : decodeReg (0xB0000 + 0x2000 * u.val + off.toNat) = .reg r w n i j addr c) (hc : isAcqConfig (off.toNat / 4 * 4) = true)
    (ho : s.dev.hostOpen addr = true) : execAcqConfigWrite u off v s =
      .next { s with dev := (s.dev.gdBreak (blockOfAddr addr)).aqWrite u.val (off.toNat / 4 * 4) r addr v } := by
  refine State.onDev_next ?_
  dsimp only
  rw [decodeReg_dword _ _ (by omega), hd]
  dsimp only
  rw [if_pos hc, Dev.hostWrite_open _ ho]

/-- A configuration write stores what the unit takes. -/
theorem Dev.aqConfig_stores {d : Dev} {u i off addr : Nat} {r : RegRow} {v : W32} (h : isAcqConfig off = true) :
    d.Stores r addr (d.taken 0x18 u i off (d.reg addr) v) ((d.gdBreak (blockOfAddr addr)).aqWrite u off r addr v) := by
  have same := d.gdBroken_same addr
  rw [← same.taken18, ← same.reg addr]
  exact same.stores (Dev.aqWrite_stores _ u i off r addr v h)

section Part
variable {d e : Dev} (h : d.Same e)
include h

open Classical in
theorem Dev.Same.aqPartWrite (u v : Nat) : e.aqPartWrite u v =
    if d.aqQuiet u = false ∨ (d.aq u).done ≠ [] then e.aqPartRefuse u 2
    else if 64 < bitsOf v 0 6 + bitsOf v 8 7 then e.aqPartRefuse u 3
    else if d.aqPartMeets u (bitsOf v 0 6, bitsOf v 8 7) then e.aqPartRefuse u 4
    else e.aqPartTake u (bitsOf v 0 6, bitsOf v 8 7) := by
  have quiet : e.aqQuiet u = d.aqQuiet u := by unfold Dev.aqQuiet Dev.aqState; rw [h.get]
  have meets : e.aqPartMeets u (bitsOf v 0 6, bitsOf v 8 7) ↔ d.aqPartMeets u (bitsOf v 0 6, bitsOf v 8 7) := by
    unfold Dev.aqPartMeets; simp only [h.get]
  rw [Dev.aqPartWrite_eq, quiet, Dev.aq_congr h.still.aqs]
  simp only [meets]

theorem Dev.Same.partRefuse (u : Nat) {r : Nat} (hr : r < 16) :
    (e.aqPartRefuse u r).get (AQ.PART_PART_RESULT u) = r ∧ (e.aqPartRefuse u r).get (AQ.PART_BASE u) = d.get (AQ.PART_BASE u) ∧
      (e.aqPartRefuse u r).get (AQ.PART_GRAN u) = d.get (AQ.PART_GRAN u) ∧ d.Wrote [(AQ.PART_BASE u).addr] (e.aqPartRefuse u r) := by
  obtain ⟨result, base, gran, wrote⟩ := e.aqPartRefuse_shows u hr
  exact ⟨result, base.trans (h.get _), gran.trans (h.get _), (h.wrote _).trans wrote⟩

end Part

/-- Settles O38: an ARM by what its unit judges, triggers, DISARM, configuration and PART. -/
theorem acquisitionCommands : Obligations.AcquisitionCommands := by
  unfold Obligations.AcquisitionCommands
  refine ⟨fun s u => ?_, fun s u off v r w n i j addr c hd hc ho => ?_, fun s u v ho => ?_⟩
  · intro d unit Only Keeps armed
    refine ⟨fun ho => ⟨fun he => ?_, fun he => ?_⟩, fun ho => ?_, fun ho h1 h2 => ⟨fun hi => ?_, fun hi hr => ?_⟩, fun ho h1 => ?_⟩
    · have same := d.gdBroken_same (AQ.CTRL_ARM u.val).addr
      refine ⟨_, State.onDev_next (Dev.aqArmRequest_held u ho he), rfl, ?_, ?_⟩
      · rw [← same.still.pln]
        rfl
      · rw [← same.still.pln]
        exact same
    · have request := State.onDev_next (Dev.aqArmRequest_acted u ho he)
      refine ⟨fun h => ?_, fun hq => ⟨fun h => ?_, fun h2 h => ?_, fun h2 h3 h => ?_, fun h2 h3 h4 => ?_⟩⟩
      · have held := Dev.reached_arm_held (a := (AQ.CTRL_ARM u.val).addr) h
        exact ⟨_, request, rfl, ⟨held.state, held.aq⟩, held.only.wrote, held.only.others⟩
      · obtain ⟨held, result⟩ := Dev.reached_arm_refused hq (by decide) ((Dev.reached_arm_quiet hq).2.trans (if_pos h))
        exact ⟨_, request, rfl, ⟨result, held.state, held.aq⟩, held.only.wrote, held.only.others⟩
      · obtain ⟨held, result⟩ := Dev.reached_arm_refused hq (by decide)
          ((Dev.reached_arm_quiet hq).2.trans ((if_neg (by simp [h2])).trans (if_pos h)))
        exact ⟨_, request, rfl, ⟨result, held.state, held.aq⟩, held.only.wrote, held.only.others⟩
      · obtain ⟨held, result⟩ := Dev.reached_arm_refused hq (by decide)
          ((Dev.reached_arm_quiet hq).2.trans ((if_neg (by simp [h2])).trans ((if_neg (by simp [h3])).trans (if_pos h))))
        exact ⟨_, request, rfl, ⟨result, held.state, held.aq⟩, held.only.wrote, held.only.others⟩
      · obtain ⟨x, trigs⟩ := Dev.reached_arm_accepted (a := (AQ.CTRL_ARM u.val).addr) hq
          ((Dev.reached_arm_quiet hq).2.trans ((if_neg (by simp [h2])).trans ((if_neg (by simp [h3])).trans (if_neg (by simp [h4])))))
        have num := x.num
        have done := x.done
        have dead := x.dead
        rw [(d.reached_alike _).aq (f := AQ.ARM_NUM) fun u => by simp only [AQ.ARM_NUM]; omega] at num
        rw [d.reached_aq] at done
        rw [d.reached_aqFree] at dead
        exact ⟨_, request, rfl, ⟨x.result, x.state, x.seg, x.postDone, x.supp, num, x.samples, x.entries, done, trigs,
          fun hf => dead.trans (if_pos hf), fun hf => dead.trans (if_neg (by simp [hf]))⟩, x.frame.wrote, x.frame.others⟩
    · have same := d.gdBroken_same (AQ.CTRL_TRIGGER u.val).addr
      obtain ⟨cmds, aq⟩ := Dev.aqSoftware_aq same u.val
      have only : d.AqOnly u.val [] ((d.gdBreak (blockOfAddr (AQ.CTRL_TRIGGER u.val).addr)).aqSoftware u.val) :=
        ((same.wrote []).aqOnly u.val).trans (Dev.aqTrigger_only _ u.val 0 _ 8192)
      refine ⟨_, State.onDev_next (Dev.hostWrite_open (Dev.aqSoftware u.val) ho), rfl, ?_, only.wrote, only.others⟩
      exact aq.trans (by rw [aq])
    · have same := d.gdBroken_same (AQ.CTRL_DISARM u.val).addr
      rw [← same.aqCmds] at h1 h2
      have e := (Dev.hostWrite_open (Dev.aqDisarm u.val) ho).trans ((Dev.aqDisarm_now h1 h2).trans
        (Dev.aqDisarmNow_idle (by unfold Dev.aqState; rw [same.get]; exact hi)))
      exact ⟨_, State.onDev_next e, rfl, same⟩
    · have same := d.gdBroken_same (AQ.CTRL_DISARM u.val).addr
      rw [← same.aqCmds] at h1 h2
      have e := (Dev.hostWrite_open (Dev.aqDisarm u.val) ho).trans (Dev.aqDisarm_now h1 h2)
      have stopped := Dev.AqStopped.of_same same (Dev.aqDisarmNow_stopped (u := u.val)
        (by unfold Dev.aqState; rw [same.get]; exact hi) (by unfold Dev.aqState; rw [same.get]; exact hr))
      obtain ⟨seg, trigs, samples, entries, fill⟩ := stopped.unit
      exact ⟨_, State.onDev_next e, rfl, stopped.state, seg, trigs, samples, entries, fill, stopped.others, stopped.done, stopped.regs⟩
    · have same := d.gdBroken_same (AQ.CTRL_DISARM u.val).addr
      rw [← same.aqCmds] at h1
      exact ⟨_, State.onDev_next (Dev.hostWrite_open (Dev.aqDisarm u.val) ho), rfl, same.trans (Dev.aqDisarm_after h1)⟩
  · have stores := Dev.aqConfig_stores (d := s.dev) (u := u.val) (i := i) (r := r) (addr := addr) (v := v) hc
    refine ⟨fun x hx => ?_, fun hx => ?_⟩
    · rw [hx] at stores
      exact ⟨_, execAcqConfigWrite_eq hd hc ho, rfl, stores.1, stores.2⟩
    · rw [hx] at stores
      exact ⟨_, execAcqConfigWrite_eq hd hc ho, rfl, stores⟩
  · intro range taken Refused
    have same := s.dev.gdBroken_same (AQ.PART_BASE u.val).addr
    have write := (Dev.hostWrite_open (Dev.aqPartWrite u.val v.toNat) ho).trans (same.aqPartWrite u.val v.toNat)
    have free (hq : s.dev.aqQuiet u.val = true) (hd : (s.dev.aq u.val).done = []) :
        ¬ (s.dev.aqQuiet u.val = false ∨ (s.dev.aq u.val).done ≠ []) := by simp [hq, hd]
    have refused {r : Nat} (hr : r < 16) (e : s.dev.hostWrite (AQ.PART_BASE u.val).addr (Dev.aqPartWrite u.val v.toNat) =
        (s.dev.gdBreak (blockOfAddr (AQ.PART_BASE u.val).addr)).aqPartRefuse u.val r) : Refused r :=
      ⟨_, State.onDev_next e, rfl, same.partRefuse u.val hr⟩
    refine ⟨fun h => ?_, fun hq hd h => ?_, fun hq hd h64 h => ?_, fun hq hd h64 h => ?_⟩
    · exact refused (by decide) (write.trans (if_pos h))
    · exact refused (by decide) (write.trans ((if_neg (free hq hd)).trans (if_pos h)))
    · exact refused (by decide) (write.trans ((if_neg (free hq hd)).trans ((if_neg (by exact Nat.not_lt.2 h64)).trans (if_pos h))))
    · obtain ⟨result, base, gran, wrote⟩ := (s.dev.gdBreak (blockOfAddr (AQ.PART_BASE u.val).addr)).aqPartTake_shows u.val
        (range := range) (Nat.mod_lt _ (by decide)) (Nat.mod_lt _ (by decide))
      have e := write.trans ((if_neg (free hq hd)).trans ((if_neg (by exact Nat.not_lt.2 h64)).trans (if_neg h)))
      exact ⟨_, State.onDev_next e, rfl, result, base, gran, (same.wrote _).trans wrote⟩

end Sys2Proof.Machine
end


/-! ## SYNC and epochs: a load that is not due (O17) -/
section
namespace Sys2Proof.Machine

/-- Out of reset, no epoch on its way, while the loss of REFCLK_OK waits for its reaction. -/
def faultWaits : State :=
  { State.reset with dev := { State.reset.dev with flt := { State.reset.dev.flt with alarms := [plainDetection 0x0006 1] } } }

/-- EPOCH_LOAD ends with the reactions to the detections that wait, whether or not an epoch was due. -/
theorem faultWaits_reacts : ∃ t, exec .epochLoad faultWaits = .next t ∧ t.dev.flt.fc0.isSome = true := by
  have class0 : faultWaits.dev.classOf (plainDetection 0x0006 1) = 0 := by simp [Dev.classOf, plainDetection]
  obtain ⟨l, h⟩ := Dev.settle_fc0 (d := faultWaits.dev) rfl class0
  exact ⟨{ faultWaits with dev := faultWaits.dev.settle }, rfl, by rw [h.fc0]; rfl⟩

/-- Refutes O17: the clause for an EPOCH_LOAD with no epoch on its way has no premise that the device is calm. An FC0 detection
that waits takes its reaction in that command, so the state does change. -/
theorem not_syncAndEpochs : ¬ Obligations.SyncAndEpochs := by
  unfold Obligations.SyncAndEpochs
  intro h
  obtain ⟨-, -, idle, -⟩ := h faultWaits
  obtain ⟨t, e, reacted⟩ := faultWaits_reacts
  have unchanged : exec .epochLoad faultWaits = .next faultWaits := idle rfl
  rw [unchanged] at e
  injection e with e
  rw [← e] at reacted
  exact absurd reacted (by decide)

end Sys2Proof.Machine
end


/-! ## Results and fail memory: an ECC loss that is taken as FC0 (O27) -/
section
namespace Sys2Proof.Machine

/-- A fail record of engine 0 that sets bit 0 of entry 0 of its map (R181). -/
def mappedRecord : FRec := ⟨0, 0, 5, 0, 0, 0, 0, 0, 0, false, 0, 0, some 0, false⟩

/-- That record waits in the col of engine 0 while FCAP stands at its recovery limit (RECOV_LIMIT 0) and FLT.REACT_OOS_FC0 makes
a fault of such a block an FC0 (R360). -/
def lossAtLimit : State :=
  { State.reset with
    dev := ((State.reset.dev.put FLT.RECOV_LIMIT 0).put FLT.REACT_OOS_FC0 1).modFc 0 fun f => { f with col := [mappedRecord] } }

/-- FCAP takes part there. -/
theorem lossAtLimit_up : lossAtLimit.dev.blockDown 0x14 = false := by decide +kernel

/-- The loss is captured as the first FC0; the first-error capture of FC1 stays free. -/
theorem lossAtLimit_stores :
    ∃ t, exec (.failRecordStore (0, 4)) lossAtLimit = .next t ∧ (t.dev.fec 0).det = 0x1002 ∧ (t.dev.fec 1).valid = false := by
  refine ⟨_, rfl, ?_, ?_⟩ <;> decide +kernel

/-- Refutes O27: the clause on 4 or more wrong bits has no premise that FLT.REACT_OOS_FC0 is clear. With it set and FCAP at its
recovery limit the loss is an FC0, and the first-error capture of FC1 stays free. -/
theorem not_resultsAndFailMemory : ¬ Obligations.ResultsAndFailMemory := by
  unfold Obligations.ResultsAndFailMemory
  intro h
  obtain ⟨-, stores, -⟩ := h
  obtain ⟨-, -, lost⟩ := stores lossAtLimit 0 4
  obtain ⟨t, e, -, free⟩ := lossAtLimit_stores
  obtain ⟨t', e', -, valid, -⟩ := lost (show _ = _ from rfl) mappedRecord [] rfl lossAtLimit_up (by decide) (.inl (by decide))
  rw [e] at e'
  injection e' with e'
  rw [← e', free] at valid
  exact Bool.false_ne_true valid

end Sys2Proof.Machine
end


/-! ## The merger: what placing records leaves alone (O44) -/
section
namespace Sys2Proof.Machine

/-! ### Registers -/

theorem Dev.get_lt_pair (d : Dev) {f : Fld} (hw : f.w = 64) : d.get f < 2 ^ 64 := by
  unfold Dev.get
  rw [if_pos hw]
  have := (d.reg f.addr).isLt
  have := (d.reg (f.addr + 4)).isLt
  omega

/-- A counter of one dword reads its sum, or its maximum. -/
theorem Dev.get_bumpBy_self (d : Dev) (f : Fld) (n : Nat) (hw : f.lo + f.w ≤ 32) :
    (d.bumpBy f n).get f = min (2 ^ f.w - 1) (d.get f + n) := by
  have : 0 < 2 ^ f.w := by positivity
  unfold Dev.bumpBy
  rw [d.get_put_self f _ hw, Nat.mod_eq_of_lt (by omega)]

/-! ### The block under construction -/

section Span
variable (l : LdgSt) (g : List Byte)
theorem LdgSt.span_held : (l.span g).held = l.held := by unfold LdgSt.span; split <;> rfl
theorem LdgSt.span_jumps : (l.span g).jumps = l.jumps := by unfold LdgSt.span; split <;> rfl
theorem LdgSt.span_tallies : (l.span g).tallies = l.tallies := by unfold LdgSt.span; split <;> rfl
theorem LdgSt.span_buffer : (l.span g).buffer = l.buffer := by unfold LdgSt.span; split <;> rfl
theorem LdgSt.span_collapsed : (l.span g).collapsed = l.collapsed := by unfold LdgSt.span; split <;> rfl
end Span

/-- What placing records leaves alone: time, the units, the paths, the detections, the records the merger holds and LATE_COUNT.
Blocks only join the buffer, and a collapse only begins. -/
structure Dev.Packs (d d' : Dev) : Prop where
  still : d.Still d'
  paths : d'.paths = d.paths
  flt : d'.flt = d.flt
  held : d'.ldg.held = d.ldg.held
  jumps : d'.ldg.jumps = d.ldg.jumps
  filled : d.ldg.buffer.length ≤ d'.ldg.buffer.length
  collapsed : d.ldg.collapsed = true → d'.ldg.collapsed = true
  late : d'.get LDG.LATE_COUNT = d.get LDG.LATE_COUNT

namespace Dev.Packs

theorem refl (d : Dev) : d.Packs d := ⟨.refl d, rfl, rfl, rfl, rfl, le_rfl, id, rfl⟩

theorem trans {a b c : Dev} (h : a.Packs b) (k : b.Packs c) : a.Packs c where
  still := h.still.trans k.still
  paths := k.paths.trans h.paths
  flt := k.flt.trans h.flt
  held := k.held.trans h.held
  jumps := k.jumps.trans h.jumps
  filled := h.filled.trans k.filled
  collapsed hc := k.collapsed (h.collapsed hc)
  late := k.late.trans h.late

/-- Writing a field that shares no bit with LATE_COUNT. -/
theorem put (d : Dev) (f : Fld) (v : Nat) (hf : f.Apart LDG.LATE_COUNT) : d.Packs (d.put f v) :=
  ⟨(d.wrote_put f v).still, by simp, by simp, by simp, by simp, by simp, by simp, d.get_put_apart v hf⟩

theorem give (d : Dev) (p h n : Nat) : d.Packs (d.give p h n) := ⟨(d.same_give p h n).still, rfl, rfl, rfl, rfl, le_rfl, id, rfl⟩

/-- Changing LDG in what the frame does not name. -/
theorem setLdg (d : Dev) {l : LdgSt} (h : l.held = d.ldg.held) (j : l.jumps = d.ldg.jumps)
    (b : d.ldg.buffer.length ≤ l.buffer.length) (c : d.ldg.collapsed = true → l.collapsed = true) : d.Packs { d with ldg := l } :=
  ⟨by constructor <;> rfl, rfl, rfl, h, j, b, c, rfl⟩

theorem modLdg (d : Dev) (f : LdgSt → LdgSt) (h : (f d.ldg).held = d.ldg.held) (j : (f d.ldg).jumps = d.ldg.jumps)
    (b : d.ldg.buffer.length ≤ (f d.ldg).buffer.length) (c : d.ldg.collapsed = true → (f d.ldg).collapsed = true) :
    d.Packs (d.modLdg f) := .setLdg d h j b c

theorem front {a b : Dev} (h : a.Packs b) : b.front = a.front := by
  unfold Dev.front Dev.now
  rw [h.still.count, h.still.elapsed, h.jumps]

theorem ldgFree {a b : Dev} (h : a.Packs b) : b.ldgFree ≤ a.ldgFree := Nat.sub_le_sub_left h.filled _

theorem path {a b : Dev} (h : a.Packs b) (p : Nat) : b.path p = a.path p := by unfold Dev.path; rw [h.paths]

end Dev.Packs

theorem Dev.putDigest_packs (g : List Byte) (d : Dev) : d.Packs (d.putDigest g) :=
  Dev.each_keeps (P := d.Packs) _ _ d (.refl d) fun j hj d' h => h.trans (.put d' _ _ (by
    have : j < 8 := by simpa using hj
    refine .inl ⟨?_, .inr ?_, .inr ?_⟩ <;> simp [LDG.LATE_COUNT, LDG.LAST_DIGEST]; omega))

theorem Dev.putDigest_ldg (g : List Byte) (d : Dev) : (d.putDigest g).ldg = d.ldg :=
  Dev.each_keeps (P := fun d' => d'.ldg = d.ldg) _ _ d rfl fun _ _ _ h => by simpa using h

theorem Dev.closeBlock_packs (x : Nat) (d : Dev) : d.Packs (d.closeBlock x) := by
  unfold Dev.closeBlock
  dsimp only
  split_ifs
  · exact .refl d
  · exact .setLdg d rfl rfl le_rfl id
  · refine Dev.Packs.trans (.trans (.setLdg d ?_ ?_ ?_ ?_) (Dev.putDigest_packs _ _)) (.put _ _ _ (by decide))
    · rw [LdgSt.span_held]
    · rw [LdgSt.span_jumps]
    · rw [LdgSt.span_buffer]; simp
    · rw [LdgSt.span_collapsed]; simp +contextual

theorem Dev.closeBlock_tallies (x : Nat) (d : Dev) : (d.closeBlock x).ldg.tallies = d.ldg.tallies := by
  unfold Dev.closeBlock
  dsimp only
  split_ifs
  · rfl
  · rfl
  · rw [Dev.put_ldg, Dev.putDigest_ldg, LdgSt.span_tallies]

theorem Dev.closeIf_packs (p : Prop) [Decidable p] (d : Dev) : d.Packs (if p then d.closeBlock 0 else d) := by
  split_ifs
  · exact d.closeBlock_packs 0
  · exact .refl d

theorem Dev.closeIf_tallies (p : Prop) [Decidable p] (d : Dev) :
    (if p then d.closeBlock 0 else d).ldg.tallies = d.ldg.tallies := by
  split_ifs
  · exact d.closeBlock_tallies 0
  · rfl

/-- Slots join the block under construction, and NEXT_SEQ counts them (R283). -/
def Dev.append (bs : List (List Byte)) (d : Dev) : Dev :=
  (d.modLdg fun l => { l with cur := l.cur ++ bs, curSince := if l.cur.isEmpty then d.elapsed else l.curSince }).put
    LDG.NEXT_SEQ (d.get LDG.NEXT_SEQ + bs.length)

theorem Dev.append_packs (bs : List (List Byte)) (d : Dev) : d.Packs (d.append bs) := by
  unfold Dev.append
  exact (Dev.Packs.modLdg d _ rfl rfl le_rfl id).trans (.put _ LDG.NEXT_SEQ _ (by decide))

theorem Dev.append_tallies (bs : List (List Byte)) (d : Dev) : (d.append bs).ldg.tallies = d.ldg.tallies := by
  unfold Dev.append; rw [Dev.put_ldg]; rfl

/-- A group opens the next block where it does not fit, and closes the one it fills. -/
theorem Dev.storeGroup_eq (r : Rec) (d : Dev) :
    d.storeGroup r =
      (let d' := (if 126 < d.ldg.cur.length + r.bytes.length then d.closeBlock 0 else d).append r.bytes
       if 126 ≤ d'.ldg.cur.length then d'.closeBlock 0 else d') := rfl

theorem Dev.storeGroup_packs (r : Rec) (d : Dev) : d.Packs (d.storeGroup r) := by
  rw [Dev.storeGroup_eq]
  exact ((d.closeIf_packs _).trans (Dev.append_packs _ _)).trans (Dev.closeIf_packs _ _)

theorem Dev.storeGroup_tallies (r : Rec) (d : Dev) : (d.storeGroup r).ldg.tallies = d.ldg.tallies := by
  rw [Dev.storeGroup_eq]
  exact (Dev.closeIf_tallies _ _).trans ((Dev.append_tallies _ _).trans (d.closeIf_tallies _))

/-- LDG's own records take their numbers (R337). -/
def Dev.countOwn (n : Nat) (d : Dev) : Dev := d.modLdg fun l => { l with ownPseq := (l.ownPseq + n) % 2 ^ 32 }

theorem Dev.countOwn_packs (n : Nat) (d : Dev) : d.Packs (d.countOwn n) := .modLdg d _ rfl rfl le_rfl id

theorem Dev.countOwn_tallies (n : Nat) (d : Dev) : (d.countOwn n).ldg.tallies = d.ldg.tallies := rfl

theorem Dev.placeOwn_eq (p t : Nat) (x : List Byte) (d : Dev) :
    d.placeOwn p t x = (d.storeGroup (d.ownRecord p t x)).countOwn (recordsOf x) := rfl

theorem Dev.placeOwn_packs (p t : Nat) (x : List Byte) (d : Dev) : d.Packs (d.placeOwn p t x) := by
  rw [Dev.placeOwn_eq]
  exact (d.storeGroup_packs _).trans (Dev.countOwn_packs _ _)

/-! ### Tallies -/

theorem Dev.tally_congr {a b : Dev} (h : b.ldg.tallies = a.ldg.tallies) (p : Nat) : b.tally p = a.tally p := by
  unfold Dev.tally; rw [h]

@[simp] theorem Dev.tally_setTally_self (d : Dev) (p : Nat) (t : Tally) : (d.setTally p t).tally p = t := Tab.get_insert_self _ _ _ _

theorem Dev.tally_setTally_ne (d : Dev) {p q : Nat} (t : Tally) (h : q ≠ p) : (d.setTally p t).tally q = d.tally q :=
  Tab.get_insert_ne _ _ _ h

theorem Tally.add_count (t : Tally) (n x y : Nat) : (t.add n x y).count = t.count + n := by
  unfold Tally.add
  split_ifs with h
  · simp [h]
  · rfl

theorem Dev.setTally_packs (p : Nat) (t : Tally) (d : Dev) : d.Packs (d.setTally p t) := .setLdg d rfl rfl le_rfl id

theorem Dev.placeSummary_packs (p : Nat) (d : Dev) : d.Packs (d.placeSummary p) := by
  unfold Dev.placeSummary
  dsimp only
  split_ifs
  · exact .refl d
  · exact ((d.placeOwn_packs _ _ _).trans (Dev.setTally_packs _ _ _)).trans (.put _ LDG.SUMMARY_COUNT _ (by decide))

theorem Dev.placeSummary_of_zero {d : Dev} {p : Nat} (h : (d.tally p).count = 0) : d.placeSummary p = d := by
  simp [Dev.placeSummary, h]

theorem Dev.placeSummary_of_some {d : Dev} {p : Nat} (h : (d.tally p).count ≠ 0) :
    d.placeSummary p = ((d.placeOwn p 0x02 (d.tally p).summary).setTally p .zero).bump LDG.SUMMARY_COUNT := if_neg h

@[simp] theorem Dev.tally_bump (d : Dev) (f : Fld) (p : Nat) : (d.bump f).tally p = d.tally p :=
  Dev.tally_congr (congrArg LdgSt.tallies (d.bump_ldg f)) p

theorem Dev.placeOwn_tally (p t : Nat) (x : List Byte) (d : Dev) (q : Nat) : (d.placeOwn p t x).tally q = d.tally q := by
  refine Dev.tally_congr ?_ q
  rw [Dev.placeOwn_eq, Dev.countOwn_tallies, Dev.storeGroup_tallies]

theorem Dev.placeSummary_tally_ne (d : Dev) {p q : Nat} (h : q ≠ p) : (d.placeSummary p).tally q = d.tally q := by
  by_cases h0 : (d.tally p).count = 0
  · rw [Dev.placeSummary_of_zero h0]
  · rw [Dev.placeSummary_of_some h0, Dev.tally_bump, Dev.tally_setTally_ne _ _ h, Dev.placeOwn_tally]

theorem Dev.collapse_packs (r : Rec) (d : Dev) : d.Packs (d.collapse r) := d.setTally_packs _ _

theorem Dev.collapse_tally_self (r : Rec) (d : Dev) :
    ((d.collapse r).tally r.path).count = (d.tally r.path).count + recordsOf r.payload := by
  unfold Dev.collapse
  rw [Dev.tally_setTally_self]
  exact Tally.add_count _ _ _ _

theorem Dev.takeOvf_packs (r : Rec) (d : Dev) : d.Packs (d.takeOvf r) := by
  unfold Dev.takeOvf
  split_ifs
  · exact .refl d
  · exact d.setTally_packs _ _

theorem Dev.takeOvf_tally_self (r : Rec) (d : Dev) : ((d.takeOvf r).tally r.path).count = (d.tally r.path).count + r.ovf.1 := by
  unfold Dev.takeOvf
  split_ifs with h
  · simp [h]
  · rw [Dev.tally_setTally_self, Tally.add_count]

/-! ### A record's turn -/

/-- A record as the merger places or tallies it, before its tokens return. -/
def Dev.merged (r : Rec) (d : Dev) : Dev :=
  if d.placeable r.path then
    if 0 < (d.placeSummary r.path).ldgFree then (d.placeSummary r.path).storeGroup r else (d.placeSummary r.path).collapse r
  else d.collapse r

theorem Dev.mergeRecord_eq (r : Rec) (d : Dev) :
    d.mergeRecord r = if r.path = 0 then d.merged r else (d.merged r).give poolLT r.path (recordsOf r.payload) := rfl

theorem Dev.mergeRecord_ldg (r : Rec) (d : Dev) : (d.mergeRecord r).ldg = (d.merged r).ldg := by
  rw [Dev.mergeRecord_eq]; split_ifs <;> rfl

theorem Dev.mergeRecord_regs (r : Rec) (d : Dev) : (d.mergeRecord r).regs = (d.merged r).regs := by
  rw [Dev.mergeRecord_eq]; split_ifs <;> rfl

theorem Dev.merged_packs (r : Rec) (d : Dev) : d.Packs (d.merged r) := by
  unfold Dev.merged
  split_ifs
  · exact (d.placeSummary_packs _).trans (Dev.storeGroup_packs _ _)
  · exact (d.placeSummary_packs _).trans (Dev.collapse_packs _ _)
  · exact d.collapse_packs r

theorem Dev.mergeRecord_packs (r : Rec) (d : Dev) : d.Packs (d.mergeRecord r) := by
  rw [Dev.mergeRecord_eq]
  split_ifs
  · exact d.merged_packs r
  · exact (d.merged_packs r).trans (.give _ _ _ _)

theorem Dev.mergeRecord_tally_ne (d : Dev) {r : Rec} {q : Nat} (hq : q ≠ r.path) : (d.mergeRecord r).tally q = d.tally q := by
  refine (Dev.tally_congr (congrArg LdgSt.tallies (d.mergeRecord_ldg r)) q).trans ?_
  unfold Dev.merged
  split_ifs
  · exact (Dev.tally_congr (Dev.storeGroup_tallies _ _) q).trans (d.placeSummary_tally_ne hq)
  · exact (Dev.tally_setTally_ne _ _ hq).trans (d.placeSummary_tally_ne hq)
  · exact Dev.tally_setTally_ne _ _ hq

/-- Without room a record is tallied. -/
theorem Dev.merged_tallied {d : Dev} {r : Rec} (h : d.placeable r.path = false) : d.merged r = d.collapse r := by
  unfold Dev.merged; rw [h]; rfl

end Sys2Proof.Machine
end


/-! ## The merger's order, and what a release places or tallies (O44) -/
section
namespace Sys2Proof.Machine

/-! ### Ascending by stamp, then path, then arrival (R284) -/

/-- The order in which the merger places records, up to the order of arrival. -/
def Rec.before (a b : Rec) : Prop := a.full < b.full ∨ a.full = b.full ∧ a.path ≤ b.path

theorem insertRec_perm (r : Rec) (xs : List Rec) : (insertRec r xs).Perm (r :: xs) := by
  induction xs with
  | nil => exact .refl _
  | cons x xs ih =>
    unfold insertRec
    split_ifs
    · exact .refl _
    · exact (ih.cons x).trans (.swap _ _ _)

theorem insertRec_sorted (r : Rec) {xs : List Rec} (h : xs.Pairwise Rec.before) : (insertRec r xs).Pairwise Rec.before := by
  induction xs with
  | nil => exact List.pairwise_singleton _ _
  | cons x xs ih =>
    obtain ⟨hx, hxs⟩ := List.pairwise_cons.1 h
    unfold insertRec
    split_ifs with hr
    · simp only [Bool.or_eq_true, decide_eq_true_eq, Bool.and_eq_true, beq_iff_eq] at hr
      refine List.pairwise_cons.2 ⟨fun y hy => ?_, h⟩
      have hxy : y = x ∨ x.before y := (List.mem_cons.1 hy).imp_right (hx y)
      rcases hxy with rfl | hxy <;> unfold Rec.before at * <;> omega
    · simp only [Bool.or_eq_true, decide_eq_true_eq, Bool.and_eq_true, beq_iff_eq] at hr
      refine List.pairwise_cons.2 ⟨fun y hy => ?_, ih hxs⟩
      rcases List.mem_cons.1 ((insertRec_perm r xs).mem_iff.1 hy) with rfl | hy
      · unfold Rec.before; omega
      · exact hx y hy

/-- Records of one stamp and path. -/
def Rec.ties (f p : Nat) (r : Rec) : Bool := r.full == f && r.path == p

/-- A record goes behind those that tie with it. -/
theorem insertRec_ties (r : Rec) {xs : List Rec} (h : xs.Pairwise Rec.before) (f p : Nat) :
    (insertRec r xs).filter (Rec.ties f p) = xs.filter (Rec.ties f p) ++ [r].filter (Rec.ties f p) := by
  induction xs with
  | nil => rfl
  | cons x xs ih =>
    obtain ⟨hx, hxs⟩ := List.pairwise_cons.1 h
    unfold insertRec
    split_ifs with hr
    · by_cases ht : Rec.ties f p r = true
      · have none : (x :: xs).filter (Rec.ties f p) = [] := List.filter_eq_nil_iff.2 fun y hy => by
          have hxy : y = x ∨ x.before y := (List.mem_cons.1 hy).imp_right (hx y)
          simp only [Rec.ties, Bool.or_eq_true, decide_eq_true_eq, Bool.and_eq_true, beq_iff_eq] at hr ht ⊢
          rcases hxy with rfl | hxy <;> unfold Rec.before at * <;> omega
        rw [List.filter_cons_of_pos ht, none, List.nil_append, List.filter_cons_of_pos ht]; rfl
      · rw [List.filter_cons_of_neg ht, List.filter_cons_of_neg ht, List.filter_nil, List.append_nil]
    · rw [List.filter_cons, List.filter_cons, ih hxs]
      split_ifs <;> rfl

theorem foldl_insertRec (rs : List Rec) {xs : List Rec} (h : xs.Pairwise Rec.before) :
    let ys := rs.foldl (fun acc r => insertRec r acc) xs
    ys.Perm (xs ++ rs) ∧ ys.Pairwise Rec.before ∧
      ∀ f p, ys.filter (Rec.ties f p) = xs.filter (Rec.ties f p) ++ rs.filter (Rec.ties f p) := by
  induction rs generalizing xs with
  | nil => simpa using h
  | cons r rs ih =>
    obtain ⟨perm, sorted, ties⟩ := ih (insertRec_sorted r h)
    refine ⟨perm.trans ?_, sorted, fun f p => (ties f p).trans ?_⟩
    · exact ((insertRec_perm r xs).append_right rs).trans List.perm_middle.symm
    · rw [insertRec_ties r h, List.append_assoc, ← List.filter_append]; rfl

theorem sortRecs_perm (rs : List Rec) : (sortRecs rs).Perm rs := (foldl_insertRec rs List.Pairwise.nil).1

theorem sortRecs_sorted (rs : List Rec) : (sortRecs rs).Pairwise Rec.before := (foldl_insertRec rs List.Pairwise.nil).2.1

theorem sortRecs_stable (rs : List Rec) (f p : Nat) :
    (sortRecs rs).filter (Rec.ties f p) = rs.filter (Rec.ties f p) := (foldl_insertRec rs List.Pairwise.nil).2.2 f p

/-! ### Slots -/

theorem slotsOf_append (xs ys : List Rec) : slotsOf (xs ++ ys) = slotsOf xs + slotsOf ys := by simp [slotsOf]

theorem slotsOf_perm {xs ys : List Rec} (h : xs.Perm ys) : slotsOf xs = slotsOf ys := (h.map _).sum_eq

theorem Rec.bytes_length (r : Rec) : r.bytes.length = recordsOf r.payload := by simp [Rec.bytes]

theorem flatMap_bytes_length (rs : List Rec) : (rs.flatMap Rec.bytes).length = slotsOf rs := by
  simp [slotsOf, List.length_flatMap, Rec.bytes_length]

/-- Records in the order in which a release places them are those it takes. -/
theorem release_order_perm (go : List Rec) :
    (sortRecs (go.filter fun r => !r.nt) ++ go.filter fun r => r.nt).Perm go :=
  ((sortRecs_perm _).append_right _).trans (List.perm_append_comm.trans (List.filter_append_perm _ go))

/-! ### Records placed with room -/

/-- Slots join the block under construction and NEXT_SEQ counts them; blocks, tallies, LDG's own records and every other register
stay. -/
structure Dev.Appends (bs : List (List Byte)) (d d' : Dev) : Prop where
  cur : d'.ldg.cur = d.ldg.cur ++ bs
  seq : d'.get LDG.NEXT_SEQ = (d.get LDG.NEXT_SEQ + bs.length) % 2 ^ 64
  buffer : d'.ldg.buffer = d.ldg.buffer
  collapsed : d'.ldg.collapsed = d.ldg.collapsed
  tallies : d'.ldg.tallies = d.ldg.tallies
  own : d'.ldg.own = d.ldg.own
  regs : d.RegsBut [LDG.NEXT_SEQ.addr, LDG.NEXT_SEQ.addr + 4] d'

theorem Dev.Appends.refl (d : Dev) : d.Appends [] d :=
  ⟨by simp, by rw [List.length_nil, Nat.add_zero, Nat.mod_eq_of_lt (d.get_lt_pair rfl)], rfl, rfl, rfl, rfl, fun _ _ => rfl⟩

theorem Dev.Appends.trans {a b c : Dev} {xs ys : List (List Byte)} (h : a.Appends xs b) (k : b.Appends ys c) :
    a.Appends (xs ++ ys) c where
  cur := by rw [k.cur, h.cur, List.append_assoc]
  seq := by rw [k.seq, h.seq, Nat.mod_add_mod, List.length_append, Nat.add_assoc]
  buffer := k.buffer.trans h.buffer
  collapsed := k.collapsed.trans h.collapsed
  tallies := k.tallies.trans h.tallies
  own := k.own.trans h.own
  regs x hx := (k.regs x hx).trans (h.regs x hx)

theorem Dev.append_appends (bs : List (List Byte)) (d : Dev) : d.Appends bs (d.append bs) := by
  unfold Dev.append
  exact ⟨by rw [Dev.put_ldg]; rfl, Dev.get_put_pair _ _ _ rfl, by rw [Dev.put_ldg]; rfl, by rw [Dev.put_ldg]; rfl,
    by rw [Dev.put_ldg]; rfl, by rw [Dev.put_ldg]; rfl, (Dev.wrote_put _ LDG.NEXT_SEQ _).regs⟩

/-- A group that neither overflows nor fills the block under construction joins it. -/
theorem Dev.storeGroup_appends {r : Rec} {d : Dev} (h : d.ldg.cur.length + recordsOf r.payload < 126) :
    d.Appends r.bytes (d.storeGroup r) := by
  have app := d.append_appends r.bytes
  have len : (d.append r.bytes).ldg.cur.length = d.ldg.cur.length + recordsOf r.payload := by
    rw [app.cur, List.length_append, r.bytes_length]
  have fits : (if 126 < d.ldg.cur.length + r.bytes.length then d.closeBlock 0 else d) = d := by
    rw [r.bytes_length, if_neg (by omega)]
  have e : d.storeGroup r = d.append r.bytes := by
    rw [Dev.storeGroup_eq, fits]
    exact if_neg (by rw [len]; omega)
  rwa [e]

theorem Dev.Appends.countOwn {a b : Dev} {bs : List (List Byte)} (h : a.Appends bs b) (n : Nat) : a.Appends bs (b.countOwn n) :=
  ⟨h.cur, h.seq, h.buffer, h.collapsed, h.tallies, h.own, h.regs⟩

theorem Dev.mergeRecord_appends {r : Rec} {d : Dev} (hp : d.placeable r.path = true) (h0 : (d.tally r.path).count = 0)
    (h : d.ldg.cur.length + recordsOf r.payload < 126) : d.Appends r.bytes (d.mergeRecord r) := by
  have free : 0 < d.ldgFree := by unfold Dev.placeable at hp; simp_all
  have e : d.merged r = d.storeGroup r := by
    unfold Dev.merged; rw [if_pos hp, Dev.placeSummary_of_zero h0, if_pos free]
  have app : d.Appends r.bytes (d.merged r) := by rw [e]; exact Dev.storeGroup_appends h
  rw [Dev.mergeRecord_eq]
  split_ifs
  · exact app
  · exact ⟨app.cur, app.seq, app.buffer, app.collapsed, app.tallies, app.own, app.regs⟩

/-- Room for every path, and nothing to summarize. -/
def Dev.roomy (d : Dev) : Prop := d.ldg.collapsed = false ∧ 8 < d.ldgFree ∧ ∀ p, (d.tally p).count = 0

theorem Dev.roomy.placeable {d : Dev} (h : d.roomy) (p : Nat) : d.placeable p = true := by
  obtain ⟨hc, hf, -⟩ := h
  simp [Dev.placeable, hc, hf]; omega

theorem Dev.Appends.roomy {a b : Dev} {bs : List (List Byte)} (h : a.Appends bs b) (k : a.roomy) : b.roomy := by
  obtain ⟨hc, hf, ht⟩ := k
  refine ⟨h.collapsed.trans hc, ?_, fun p => (congrArg Tally.count (Dev.tally_congr h.tallies p)).trans (ht p)⟩
  unfold Dev.ldgFree at *; rw [h.buffer]; exact hf

theorem Dev.each_mergeRecord_appends (rs : List Rec) {d : Dev} (hr : d.roomy) (h : d.ldg.cur.length + slotsOf rs < 126) :
    d.Appends (rs.flatMap Rec.bytes) (d.each rs Dev.mergeRecord) := by
  induction rs generalizing d with
  | nil => exact .refl d
  | cons r rs ih =>
    have split : slotsOf (r :: rs) = recordsOf r.payload + slotsOf rs := by simp [slotsOf]
    have first := Dev.mergeRecord_appends (r := r) (hr.placeable _) (hr.2.2 _) (by omega)
    have rest := ih (first.roomy hr) (by rw [first.cur, List.length_append, r.bytes_length]; omega)
    exact first.trans rest

/-- One of LDG's own records that waited, stamped F and numbered (R284, R337). -/
def Dev.placeWaiting (r : Rec) (d : Dev) : Dev :=
  (d.storeGroup { r with coarse := d.front, fine := 0, pseq := d.ldg.ownPseq }).countOwn (recordsOf r.payload)

theorem Dev.placeOwnWaiting_eq (d : Dev) :
    d.placeOwnWaiting = if d.ldgFree = 0 then d.modLdg fun l => { l with ownFirst := l.ownFirst || !l.own.isEmpty }
      else (d.modLdg fun l => { l with own := [], ownFirst := false }).each d.ldg.own Dev.placeWaiting := rfl

theorem Dev.placeWaiting_packs (r : Rec) (d : Dev) : d.Packs (d.placeWaiting r) :=
  (d.storeGroup_packs _).trans (Dev.countOwn_packs _ _)

theorem Dev.placeWaiting_tallies (r : Rec) (d : Dev) : (d.placeWaiting r).ldg.tallies = d.ldg.tallies := by
  unfold Dev.placeWaiting; rw [Dev.countOwn_tallies, Dev.storeGroup_tallies]

theorem Dev.placeWaiting_appends {r : Rec} {d : Dev} (h : d.ldg.cur.length + recordsOf r.payload < 126) :
    ∃ bs, bs.length = recordsOf r.payload ∧ d.Appends bs (d.placeWaiting r) := by
  have app := Dev.storeGroup_appends (r := { r with coarse := d.front, fine := 0, pseq := d.ldg.ownPseq }) h
  refine ⟨_, ?_, app.countOwn (recordsOf r.payload)⟩
  exact Rec.bytes_length _

theorem Dev.placeOwnWaiting_packs (d : Dev) : d.Packs d.placeOwnWaiting := by
  rw [Dev.placeOwnWaiting_eq]
  split_ifs
  · exact .setLdg d rfl rfl le_rfl id
  · exact Dev.each_keeps (P := d.Packs) _ _ _ (.setLdg d rfl rfl le_rfl id) fun r _ _ h => h.trans (Dev.placeWaiting_packs r _)

theorem Dev.placeOwnWaiting_tallies (d : Dev) : d.placeOwnWaiting.ldg.tallies = d.ldg.tallies := by
  rw [Dev.placeOwnWaiting_eq]
  split_ifs
  · rfl
  · exact Dev.each_keeps (P := fun d' => d'.ldg.tallies = d.ldg.tallies) _ _ _ rfl fun r _ _ h =>
      (Dev.placeWaiting_tallies r _).trans h

theorem Dev.each_placeWaiting_appends (rs : List Rec) {d : Dev} (h : d.ldg.cur.length + slotsOf rs < 126) :
    ∃ bs, bs.length = slotsOf rs ∧ d.Appends bs (d.each rs Dev.placeWaiting) := by
  induction rs generalizing d with
  | nil => exact ⟨[], rfl, .refl d⟩
  | cons r rs ih =>
    have split : slotsOf (r :: rs) = recordsOf r.payload + slotsOf rs := by simp [slotsOf]
    obtain ⟨xs, hx, first⟩ := Dev.placeWaiting_appends (d := d) (r := r) (by omega)
    obtain ⟨ys, hy, rest⟩ := ih (d := d.placeWaiting r) (by rw [first.cur, List.length_append, hx]; omega)
    exact ⟨xs ++ ys, by rw [List.length_append, hx, hy, split], first.trans rest⟩

/-! ### The releases of one CCLK -/

/-- LDG as a release finds it: the collapse ended if enough blocks are free, and its own records that waited placed. -/
def Dev.releasing (d : Dev) : Dev :=
  let d := if d.ldg.relAt = d.cclk then d else d.modLdg fun l => { l with relAt := d.cclk, relLen := l.cur.length }
  let d := if d.ldg.collapsed && 16 ≤ d.ldgFree then d.modLdg fun l => { l with collapsed := false } else d
  if d.ldg.ownFirst then d.placeOwnWaiting else d

end Sys2Proof.Machine
end


section
namespace Sys2Proof.Machine

/-! ### Records tallied without room -/

/-- Too few blocks are free for the records of any path but 2, or the collapse has not ended (R293). -/
def Dev.scarce (d : Dev) : Prop := d.ldgFree ≤ 8 ∨ d.ldg.collapsed = true

theorem Dev.scarce.placeable {d : Dev} (h : d.scarce) {p : Nat} (hp : p ≠ 2) : d.placeable p = false := by
  rcases h with h | h
  · simp [Dev.placeable, hp, show ¬ 8 < d.ldgFree by omega]
  · simp [Dev.placeable, hp, h]

theorem Dev.Packs.scarce {a b : Dev} (h : a.Packs b) (k : a.scarce) : b.scarce :=
  k.imp (h.ldgFree.trans ·) h.collapsed

theorem Dev.mergeRecord_scarce {d : Dev} (h : d.scarce) {p : Nat} (hp : p ≠ 2) (r : Rec) :
    ((d.mergeRecord r).tally p).count = (d.tally p).count + slotsOf ([r].filter fun r => r.path == p) := by
  by_cases hr : r.path = p
  · have tallied := congrArg Tally.count (Dev.tally_congr (congrArg LdgSt.tallies (d.mergeRecord_ldg r)) p)
    rw [tallied, Dev.merged_tallied (h.placeable (hr ▸ hp)), ← hr, Dev.collapse_tally_self]
    simp [slotsOf]
  · rw [d.mergeRecord_tally_ne (Ne.symm hr)]
    simp [slotsOf, hr]

/-- Without room a list of records is tallied by path. -/
theorem Dev.each_mergeRecord_scarce (rs : List Rec) {d : Dev} (h : d.scarce) {p : Nat} (hp : p ≠ 2) :
    d.Packs (d.each rs Dev.mergeRecord) ∧
      ((d.each rs Dev.mergeRecord).tally p).count = (d.tally p).count + slotsOf (rs.filter fun r => r.path == p) := by
  induction rs generalizing d with
  | nil => exact ⟨.refl d, rfl⟩
  | cons r rs ih =>
    have packs := d.mergeRecord_packs r
    obtain ⟨rest, count⟩ := ih (packs.scarce h)
    refine ⟨packs.trans rest, count.trans ?_⟩
    rw [Dev.mergeRecord_scarce h hp, Nat.add_assoc, ← slotsOf_append, ← List.filter_append]
    rfl

theorem Dev.each_mergeRecord_packs (rs : List Rec) (d : Dev) : d.Packs (d.each rs Dev.mergeRecord) :=
  Dev.each_keeps (P := d.Packs) _ _ _ (.refl d) fun r _ _ h => h.trans (Dev.mergeRecord_packs r _)

/-! ### The releases of one CCLK -/

/-- Note the slots that stand in the block under construction before the releases of this CCLK (R286). -/
def Dev.markRelease (d : Dev) : Dev :=
  if d.ldg.relAt = d.cclk then d else d.modLdg fun l => { l with relAt := d.cclk, relLen := l.cur.length }

/-- The collapse ends once 16 blocks are free (R293). -/
def Dev.endCollapse (d : Dev) : Dev :=
  if d.ldg.collapsed && 16 ≤ d.ldgFree then d.modLdg fun l => { l with collapsed := false } else d

/-- LDG's own records that waited for a block go first (R295). -/
def Dev.ownFirst (d : Dev) : Dev := if d.ldg.ownFirst then d.placeOwnWaiting else d

/-- The merger takes a record of those it holds: one below the front, or an NT one (R284). -/
def Dev.releases (d : Dev) (r : Rec) : Bool := r.nt || decide (r.full < 4096 * d.front)

/-- The records that a release takes, placed or tallied in their order, after those of LDG that go first. -/
def Dev.releaseHeld (d : Dev) : Dev :=
  let go := d.ldg.held.filter d.releases
  ((d.modLdg fun l => { l with held := l.held.filter fun r => !d.releases r }).each
    (sortRecs (go.filter fun r => !r.nt)) Dev.mergeRecord).each (go.filter fun r => r.nt) Dev.mergeRecord

theorem Dev.release_eq (d : Dev) : d.release = d.markRelease.endCollapse.ownFirst.releaseHeld.placeOwnWaiting := rfl

theorem Dev.markRelease_packs (d : Dev) : d.Packs d.markRelease := by
  unfold Dev.markRelease
  split_ifs
  · exact .refl d
  · exact .modLdg d _ rfl rfl le_rfl id

theorem Dev.markRelease_appends (d : Dev) : d.Appends [] d.markRelease := by
  unfold Dev.markRelease
  split_ifs
  · exact .refl d
  · have h := Dev.Appends.refl d
    exact ⟨h.cur, h.seq, rfl, rfl, rfl, rfl, fun _ _ => rfl⟩

theorem Dev.markRelease_ownFirst (d : Dev) : d.markRelease.ldg.ownFirst = d.ldg.ownFirst := by
  unfold Dev.markRelease; split_ifs <;> rfl

/-- What the start of a release leaves alone, whether the collapse ends or not. -/
structure Dev.Opens (d d' : Dev) : Prop where
  elapsed : d'.elapsed = d.elapsed
  front : d'.front = d.front
  held : d'.ldg.held = d.ldg.held

theorem Dev.Packs.opens {a b : Dev} (h : a.Packs b) : a.Opens b := ⟨h.still.elapsed, h.front, h.held⟩

theorem Dev.Opens.trans {a b c : Dev} (h : a.Opens b) (k : b.Opens c) : a.Opens c :=
  ⟨k.elapsed.trans h.elapsed, k.front.trans h.front, k.held.trans h.held⟩

theorem Dev.endCollapse_opens (d : Dev) : d.Opens d.endCollapse := by
  unfold Dev.endCollapse; split_ifs <;> exact ⟨rfl, rfl, rfl⟩

theorem Dev.ownFirst_packs (d : Dev) : d.Packs d.ownFirst := by
  unfold Dev.ownFirst
  split_ifs
  · exact d.placeOwnWaiting_packs
  · exact .refl d

theorem Dev.opening_opens (d : Dev) : d.Opens d.markRelease.endCollapse.ownFirst :=
  (d.markRelease_packs.opens.trans (Dev.endCollapse_opens _)).trans (Dev.ownFirst_packs _).opens

/-- A release takes the records below the front and the NT ones, and no time. -/
theorem Dev.releaseHeld_keeps (d : Dev) : d.releaseHeld.elapsed = d.elapsed ∧
    d.releaseHeld.ldg.held = d.ldg.held.filter fun r => !d.releases r := by
  have packs := (Dev.each_mergeRecord_packs (sortRecs ((d.ldg.held.filter d.releases).filter fun r => !r.nt))
    (d.modLdg fun l => { l with held := l.held.filter fun r => !d.releases r })).trans
    (Dev.each_mergeRecord_packs ((d.ldg.held.filter d.releases).filter fun r => r.nt) _)
  exact ⟨packs.still.elapsed, packs.held⟩

theorem Dev.release_keeps (d : Dev) : d.release.elapsed = d.elapsed ∧
    d.release.ldg.held = d.ldg.held.filter fun r => !d.releases r := by
  have opens := d.opening_opens
  obtain ⟨time, held⟩ := d.markRelease.endCollapse.ownFirst.releaseHeld_keeps
  have own := d.markRelease.endCollapse.ownFirst.releaseHeld.placeOwnWaiting_packs
  rw [Dev.release_eq]
  refine ⟨own.still.elapsed.trans (time.trans opens.elapsed), own.held.trans (held.trans ?_)⟩
  unfold Dev.releases
  rw [opens.held, opens.front]

/-- With room and nothing to summarize, a release places what it takes in the merger's order. -/
theorem Dev.releaseHeld_appends {d : Dev} (hr : d.roomy)
    (h : d.ldg.cur.length + slotsOf (d.ldg.held.filter d.releases) < 126) :
    d.Appends ((sortRecs ((d.ldg.held.filter d.releases).filter fun r => !r.nt) ++
      (d.ldg.held.filter d.releases).filter fun r => r.nt).flatMap Rec.bytes) d.releaseHeld := by
  have start : d.Appends [] (d.modLdg fun l => { l with held := l.held.filter fun r => !d.releases r }) := by
    have h := Dev.Appends.refl d
    exact ⟨h.cur, h.seq, rfl, rfl, rfl, rfl, fun _ _ => rfl⟩
  have all := Dev.each_mergeRecord_appends
    (sortRecs ((d.ldg.held.filter d.releases).filter fun r => !r.nt) ++ (d.ldg.held.filter d.releases).filter fun r => r.nt)
    (start.roomy hr) (by rw [slotsOf_perm (release_order_perm _)]; exact h)
  have e : d.releaseHeld = (d.modLdg fun l => { l with held := l.held.filter fun r => !d.releases r }).each
      (sortRecs ((d.ldg.held.filter d.releases).filter fun r => !r.nt) ++
        (d.ldg.held.filter d.releases).filter fun r => r.nt) Dev.mergeRecord := by
    unfold Dev.releaseHeld Dev.each; rw [List.foldl_append]
  rw [e]
  exact start.trans all

/-- LDG's own records follow what a release placed. -/
theorem Dev.placeOwnWaiting_appends {d : Dev} (hr : d.roomy) (h : d.ldg.cur.length + slotsOf d.ldg.own < 126) :
    ∃ bs, bs.length = slotsOf d.ldg.own ∧ d.placeOwnWaiting.ldg.cur = d.ldg.cur ++ bs ∧ d.placeOwnWaiting.ldg.own = [] ∧
      d.placeOwnWaiting.ldg.buffer = d.ldg.buffer ∧
      d.placeOwnWaiting.get LDG.NEXT_SEQ = (d.get LDG.NEXT_SEQ + slotsOf d.ldg.own) % 2 ^ 64 ∧
      d.RegsBut [LDG.NEXT_SEQ.addr, LDG.NEXT_SEQ.addr + 4] d.placeOwnWaiting := by
  obtain ⟨-, free, -⟩ := hr
  obtain ⟨bs, len, app⟩ := Dev.each_placeWaiting_appends d.ldg.own (d := d.modLdg fun l => { l with own := [], ownFirst := false }) h
  rw [Dev.placeOwnWaiting_eq, if_neg (by omega)]
  exact ⟨bs, len, app.cur, app.own, app.buffer, by rw [app.seq, len]; rfl, app.regs⟩

/-- Without room a release tallies what it takes by path. -/
theorem Dev.release_scarce {d : Dev} (h : d.ldgFree ≤ 8 ∨ d.ldg.collapsed = true ∧ d.ldgFree < 16) {p : Nat} (hp : p ≠ 2) :
    (d.release.tally p).count = (d.tally p).count + slotsOf ((d.ldg.held.filter d.releases).filter fun r => r.path == p) := by
  have marked := d.markRelease_appends
  have free : d.markRelease.ldgFree = d.ldgFree := by unfold Dev.ldgFree; rw [marked.buffer]
  have stays : d.markRelease.endCollapse = d.markRelease := by
    refine if_neg ?_
    simp only [Bool.and_eq_true, decide_eq_true_eq, free, marked.collapsed]
    rcases h with h | ⟨-, h⟩ <;> omega
  have scarce : d.scarce := h.imp id And.left
  have opens := d.opening_opens
  rw [Dev.release_eq, Dev.tally_congr (Dev.placeOwnWaiting_tallies _)]
  rw [stays] at opens ⊢
  have scarce' := (d.markRelease_packs.trans (Dev.ownFirst_packs _)).scarce scarce
  have tallies : d.markRelease.ownFirst.tally p = d.tally p := by
    have own : d.markRelease.ownFirst.ldg.tallies = d.markRelease.ldg.tallies := by
      unfold Dev.ownFirst
      split_ifs
      · exact Dev.placeOwnWaiting_tallies _
      · rfl
    exact Dev.tally_congr (own.trans marked.tallies) p
  generalize d.markRelease.ownFirst = e at opens scarce' tallies
  have go : e.ldg.held.filter e.releases = d.ldg.held.filter d.releases := by
    unfold Dev.releases; rw [opens.held, opens.front]
  obtain ⟨packs, count⟩ := Dev.each_mergeRecord_scarce (sortRecs ((e.ldg.held.filter e.releases).filter fun r => !r.nt))
    (d := e.modLdg fun l => { l with held := l.held.filter fun r => !e.releases r }) scarce' hp
  obtain ⟨-, count'⟩ := Dev.each_mergeRecord_scarce ((e.ldg.held.filter e.releases).filter fun r => r.nt) (packs.scarce scarce') hp
  refine count'.trans ?_
  rw [count, Nat.add_assoc, ← slotsOf_append, ← List.filter_append, slotsOf_perm ((release_order_perm _).filter _), go, ← tallies]
  rfl

end Sys2Proof.Machine
end


/-! ## What the units outside the sequencer leave to it

`Dev.Keeps A E` is the frame of the operations of TIA, CAL, SMC and the abort of an engine: time, the detections that wait, the
first-error captures but FC3's, what has been posted to the host, the dwords at the addresses `A` and the engines `E` with their
timing sets stay. -/
section
namespace Sys2Proof.Machine

/-- The dwords of HDMA and of the vector sequencer, its fail capture and its timing sets. -/
def inner (a : Nat) : Prop := (0x70000 ≤ a ∧ a < 0x80000) ∨ (0x100000 ≤ a ∧ a < 0x2000000)

/-- A field that lies, whole, in the registers of TIA, AQ, CAL, the pin banks or the SMC groups. -/
def outer (x : Nat) : Prop := (0x80000 ≤ x ∧ x + 4 < 0x100000) ∨ 0x2000000 ≤ x

theorem outer.ne {x a : Nat} (h : outer x) (ha : inner a) : a ≠ x ∧ a ≠ x + 4 := by unfold outer inner at *; omega

theorem outer_high {b k : Nat} (h : 0x2000000 ≤ b) : outer (b + k) := .inr (by omega)

theorem outer_page {b i j : Nat} (h : 0x2000000 ≤ b) : outer (b + i + j) := .inr (by omega)

structure Dev.Keeps (A E : Nat → Prop) (d d' : Dev) : Prop where
  count : d'.count = d.count
  elapsed : d'.elapsed = d.elapsed
  alarms : d'.flt.alarms = d.flt.alarms
  fec : ∀ c, c ≠ 3 → d'.fec c = d.fec c
  posted : d'.host.posted = d.host.posted
  eng : ∀ n, E n → d'.eng n = d.eng n
  tset : ∀ n, E n → d'.tset n = d.tset n
  reg : ∀ x, A x → d'.reg x = d.reg x

/-! ### Posts and captures through reports -/

theorem Dev.produce_host (d : Dev) (r : Rec) : (d.produce r).host = d.host := by
  unfold Dev.produce; dsimp only; split_ifs <;> rfl

theorem Dev.emitAt_host (d : Dev) (c f p t fl : Nat) (x : List Byte) : (d.emitAt c f p t fl x).host = d.host := by
  unfold Dev.emitAt
  dsimp only
  split_ifs
  · rfl
  · exact d.produce_host _

theorem Dev.signal_posted (d : Dev) (v : Nat) : (d.signal v).host.posted = d.host.posted := rfl

theorem Dev.noticeOf_posted (d : Dev) (a : Detection) (x : List Byte) : (d.noticeOf a x).host.posted = d.host.posted := by
  unfold Dev.noticeOf Dev.noticeRecord
  rw [Dev.signal_posted, Dev.emitAt_host]
  rfl

theorem Dev.stateSignal_posted (d was : Dev) : (d.stateSignal was).host.posted = d.host.posted := by
  unfold Dev.stateSignal; split_ifs <;> rfl

theorem Dev.fec_of_flt {d d' : Dev} (h : d'.flt = d.flt) (c : Nat) : d'.fec c = d.fec c := by unfold Dev.fec; rw [h]

namespace Dev.Keeps
variable {A E : Nat → Prop}

theorem refl (d : Dev) : d.Keeps A E d := ⟨rfl, rfl, rfl, fun _ _ => rfl, rfl, fun _ _ => rfl, fun _ _ => rfl, fun _ _ => rfl⟩

theorem trans {a b c : Dev} (h : a.Keeps A E b) (k : b.Keeps A E c) : a.Keeps A E c where
  count := k.count.trans h.count
  elapsed := k.elapsed.trans h.elapsed
  alarms := k.alarms.trans h.alarms
  fec c hc := (k.fec c hc).trans (h.fec c hc)
  posted := k.posted.trans h.posted
  eng n hn := (k.eng n hn).trans (h.eng n hn)
  tset n hn := (k.tset n hn).trans (h.tset n hn)
  reg x hx := (k.reg x hx).trans (h.reg x hx)

theorem mono {A' E' : Nat → Prop} {a b : Dev} (h : a.Keeps A E b) (hA : ∀ x, A' x → A x) (hE : ∀ n, E' n → E n) : a.Keeps A' E' b :=
  { h with eng := fun n hn => h.eng n (hE n hn), tset := fun n hn => h.tset n (hE n hn), reg := fun x hx => h.reg x (hA x hx) }

theorem ite {a x y : Dev} {p : Prop} [Decidable p] (hx : a.Keeps A E x) (hy : a.Keeps A E y) :
    a.Keeps A E (if p then x else y) := by
  split_ifs
  · exact hx
  · exact hy

/-- A field that lies whole in kept dwords reads as before. -/
theorem get {a b : Dev} (h : a.Keeps A E b) {f : Fld} (h0 : A f.addr) (h4 : A (f.addr + 4) ∨ f.w ≠ 64) : b.get f = a.get f := by
  unfold Dev.get
  rw [h.reg _ h0]
  split_ifs with hw
  · rw [h.reg _ (h4.resolve_right (not_not.2 hw))]
  · rfl

end Dev.Keeps

/-- A report changes nothing else. -/
theorem Dev.Same.keeps {A E : Nat → Prop} {a b : Dev} (h : a.Same b) (ha : b.flt.alarms = a.flt.alarms)
    (hf : ∀ c, c ≠ 3 → b.fec c = a.fec c) (hp : b.host.posted = a.host.posted) : a.Keeps A E b where
  count := h.still.count
  elapsed := h.still.elapsed
  alarms := ha
  fec := hf
  posted := hp
  eng n _ := by unfold Dev.eng; rw [h.still.engs]
  tset n _ := by unfold Dev.tset; rw [h.still.tsets]
  reg x _ := h.reg x

section Rules
variable {A E : Nat → Prop} {a d : Dev} (h : a.Keeps A E d)
include h

theorem Dev.Keeps.put {f : Fld} (v : Nat) (hf : ∀ x, A x → x ≠ f.addr ∧ (x ≠ f.addr + 4 ∨ f.w ≠ 64)) : a.Keeps A E (d.put f v) :=
  h.trans ⟨by simp, by simp, by simp, fun c _ => Dev.fec_of_flt (by simp) c, by simp, fun n _ => by simp [Dev.eng],
    fun n _ => by simp [Dev.tset], fun x hx => d.reg_put_ne v (hf x hx).1 (hf x hx).2⟩

theorem Dev.Keeps.setReg {x : Nat} (v : W32) (hx : ¬ A x) : a.Keeps A E (d.setReg x v) :=
  h.trans ⟨rfl, rfl, rfl, fun _ _ => rfl, rfl, fun _ _ => rfl, fun _ _ => rfl,
    fun _ hy => d.reg_setReg_ne v fun e => hx (e ▸ hy)⟩

theorem Dev.Keeps.bumpBy {f : Fld} (n : Nat) (hf : ∀ x, A x → x ≠ f.addr ∧ (x ≠ f.addr + 4 ∨ f.w ≠ 64)) :
    a.Keeps A E (d.bumpBy f n) := h.put _ hf

theorem Dev.Keeps.modEng {n : Nat} (g : EngSt → EngSt) (hn : ¬ E n) : a.Keeps A E (d.modEng n g) :=
  h.trans ⟨rfl, rfl, rfl, fun _ _ => rfl, rfl, fun _ hm => d.eng_modEng_ne g fun e => hn (e ▸ hm), fun _ _ => rfl, fun _ _ => rfl⟩
theorem Dev.Keeps.modTset {n : Nat} (g : TsetSt → TsetSt) (hn : ¬ E n) : a.Keeps A E (d.modTset n g) :=
  h.trans ⟨rfl, rfl, rfl, fun _ _ => rfl, rfl, fun _ _ => rfl, fun _ hm => Tab.get_insert_ne _ _ _ fun e => hn (e ▸ hm),
    fun _ _ => rfl⟩
theorem Dev.Keeps.modPin (c : Nat) (g : PinSt → PinSt) : a.Keeps A E (d.modPin c g) :=
  h.trans ⟨rfl, rfl, rfl, fun _ _ => rfl, rfl, fun _ _ => rfl, fun _ _ => rfl, fun _ _ => rfl⟩
theorem Dev.Keeps.modFc (n : Nat) (g : FcapSt → FcapSt) : a.Keeps A E (d.modFc n g) :=
  h.trans ⟨rfl, rfl, rfl, fun _ _ => rfl, rfl, fun _ _ => rfl, fun _ _ => rfl, fun _ _ => rfl⟩
theorem Dev.Keeps.modMeas (k : Nat) (g : TiaM → TiaM) : a.Keeps A E (d.modMeas k g) :=
  h.trans ⟨rfl, rfl, rfl, fun _ _ => rfl, rfl, fun _ _ => rfl, fun _ _ => rfl, fun _ _ => rfl⟩
theorem Dev.Keeps.modTia (g : TiaSt → TiaSt) : a.Keeps A E (d.modTia g) :=
  h.trans ⟨rfl, rfl, rfl, fun _ _ => rfl, rfl, fun _ _ => rfl, fun _ _ => rfl, fun _ _ => rfl⟩
theorem Dev.Keeps.modBus (k : Nat) (g : BusSt → BusSt) : a.Keeps A E (d.modBus k g) :=
  h.trans ⟨rfl, rfl, rfl, fun _ _ => rfl, rfl, fun _ _ => rfl, fun _ _ => rfl, fun _ _ => rfl⟩
theorem Dev.Keeps.modSm (p : Nat) (g : SmcSt → SmcSt) : a.Keeps A E (d.modSm p g) :=
  h.trans ⟨rfl, rfl, rfl, fun _ _ => rfl, rfl, fun _ _ => rfl, fun _ _ => rfl, fun _ _ => rfl⟩
theorem Dev.Keeps.modAq (u : Nat) (g : AqSt → AqSt) : a.Keeps A E (d.modAq u g) :=
  h.trans ⟨rfl, rfl, rfl, fun _ _ => rfl, rfl, fun _ _ => rfl, fun _ _ => rfl, fun _ _ => rfl⟩
theorem Dev.Keeps.modBlk (b : Nat) (g : BlkRt → BlkRt) : a.Keeps A E (d.modBlk b g) :=
  h.trans ⟨rfl, rfl, rfl, fun _ _ => rfl, rfl, fun _ _ => rfl, fun _ _ => rfl, fun _ _ => rfl⟩
theorem Dev.Keeps.give (p n k : Nat) : a.Keeps A E (d.give p n k) :=
  h.trans ⟨rfl, rfl, rfl, fun _ _ => rfl, rfl, fun _ _ => rfl, fun _ _ => rfl, fun _ _ => rfl⟩
theorem Dev.Keeps.setPath (p : Nat) (q : PathQ) : a.Keeps A E (d.setPath p q) :=
  h.trans ⟨rfl, rfl, rfl, fun _ _ => rfl, rfl, fun _ _ => rfl, fun _ _ => rfl, fun _ _ => rfl⟩
theorem Dev.Keeps.signal (v : Nat) : a.Keeps A E (d.signal v) :=
  h.trans ⟨rfl, rfl, rfl, fun _ _ => rfl, rfl, fun _ _ => rfl, fun _ _ => rfl, fun _ _ => rfl⟩
theorem Dev.Keeps.dropHeldStart (n : Nat) : a.Keeps A E (d.dropHeldStart n) :=
  h.trans ⟨rfl, rfl, rfl, fun _ _ => rfl, rfl, fun _ _ => rfl, fun _ _ => rfl, fun _ _ => rfl⟩

theorem Dev.Keeps.stateSignal (was : Dev) : a.Keeps A E (d.stateSignal was) :=
  h.trans ((d.same_stateSignal was).keeps (by simp) (fun c _ => Dev.fec_of_flt (by simp) c) (d.stateSignal_posted was))

theorem Dev.Keeps.emitAt (c f p t fl : Nat) (x : List Byte) : a.Keeps A E (d.emitAt c f p t fl x) :=
  h.trans ((d.same_emitAt c f p t fl x).keeps (by simp) (fun c _ => Dev.fec_of_flt (by simp) c)
    (congrArg HostSt.posted (d.emitAt_host c f p t fl x)))

theorem Dev.Keeps.emit (p t : Nat) (x : List Byte) : a.Keeps A E (d.emit p t x) := h.emitAt _ _ _ _ _ _

/-- A notice is of class FC3. -/
theorem Dev.Keeps.noticeOf {e : Detection} (x : List Byte) (he : e.det / 4096 = 3) : a.Keeps A E (d.noticeOf e x) :=
  h.trans ((d.same_noticeOf e x).keeps (d.noticeOf_alarms e x)
    (fun c hc => by rw [d.fec_noticeOf, d.fec_capture_ne]; rwa [d.classOf_notice e he]) (d.noticeOf_posted e x))

theorem Dev.Keeps.each {α : Type} (l : List α) (g : α → Dev → Dev) (hg : ∀ x ∈ l, ∀ d, a.Keeps A E d → a.Keeps A E (g x d)) :
    a.Keeps A E (d.each l g) := Dev.each_keeps (P := a.Keeps A E) l g d h hg

end Rules

/-! ### The registers of the units -/

theorem busStateF_outer {k : Nat} (h : k < 48) : outer (busStateF k).addr := by
  unfold busStateF
  split_ifs
  · exact .inl ⟨by simp [CAL.BANK_STATE_STATE]; omega, by simp [CAL.BANK_STATE_STATE]; omega⟩
  · exact .inl ⟨by simp [CAL.GRP_STATE_STATE]; omega, by simp [CAL.GRP_STATE_STATE]; omega⟩

theorem onBusF_outer (k i : Nat) : outer (onBusF k i).addr := by
  unfold onBusF; split_ifs <;> exact outer_page (by omega)

theorem tiaState_outer {k : Nat} (h : k < 64) : outer (0xa101c + 0x80 * k) := .inl (by omega)

section Units
variable {A E : Nat → Prop} (hA : ∀ x, A x → inner x) {a d : Dev} (h : a.Keeps A E d)
include hA h

theorem Dev.Keeps.putOuter {f : Fld} (v : Nat) (hf : outer f.addr) : a.Keeps A E (d.put f v) :=
  h.put v fun x hx => ⟨(hf.ne (hA x hx)).1, .inl (hf.ne (hA x hx)).2⟩

theorem Dev.Keeps.setRegOuter {x : Nat} (v : W32) (hx : outer x) : a.Keeps A E (d.setReg x v) :=
  h.setReg v fun hA' => (hx.ne (hA x hA')).1 rfl

/-! ### TIA -/

theorem Dev.Keeps.tiaBit {f : Fld} (k : Nat) (b : Bool) (hf : outer f.addr) : a.Keeps A E (d.tiaBit f k b) := h.putOuter hA _ hf

theorem Dev.Keeps.tiaProduce {k : Nat} (hk : k < 64) (st : Nat) : a.Keeps A E (d.tiaProduce k st) :=
  ((h.modTia _).putOuter hA _ (tiaState_outer hk)).putOuter hA _ (tiaState_outer hk)

theorem Dev.Keeps.tiaEnd {k : Nat} (hk : k < 64) (st : Nat) : a.Keeps A E (d.tiaEnd k st) := by
  have ended := ((((h.tiaProduce hA hk st).tiaBit hA (f := TIA.ACTIVE) k false (.inl (by decide))).putOuter hA
    (f := TIA.M_STATE_STATE k) 0 (tiaState_outer hk)).modMeas k fun m => { m with armed := false }).stateSignal
      (((d.tiaProduce k st).tiaBit TIA.ACTIVE k false).put (TIA.M_STATE_STATE k) 0)
  unfold Dev.tiaEnd
  dsimp only
  split_ifs
  · exact h
  · exact ended.modPin _ _
  · exact ended

theorem Dev.Keeps.tiaLoseChannel (p : Nat) : a.Keeps A E (d.tiaLoseChannel p) :=
  h.each _ _ fun k hk _ hd => hd.tiaEnd hA (by
    have := List.mem_of_mem_filter (List.mem_of_mem_filter hk)
    simpa using this) _

theorem Dev.Keeps.startSettle (p mode : Nat) (r : Option Nat) : a.Keeps A E (d.startSettle p mode r) := by
  cases r with
  | none => exact ((h.modPin _ _).modPin _ _).tiaLoseChannel hA p
  | some r => exact (((h.modPin _ _).modPin _ _).modPin _ _).tiaLoseChannel hA p

/-! ### CAL -/

theorem Dev.Keeps.dropPass (k : Nat) : a.Keeps A E (d.dropPass k) := by
  unfold Dev.dropPass
  split
  · exact h
  · exact (h.putOuter hA _ (onBusF_outer _ _)).modBus _ _

theorem Dev.Keeps.copyPage (k i j : Nat) : a.Keeps A E (d.copyPage k i j) := by
  refine h.each _ _ fun o _ d hd => hd.setRegOuter hA _ (.inr ?_)
  dsimp only
  split_ifs <;> simp only [PINB.CFG_ABORT_STATE, SMCG.MODE_MODE] <;> omega

theorem Dev.Keeps.mirrorComparators (p : Nat) : a.Keeps A E (d.mirrorComparators p) := .ite (h.startSettle hA _ _ _) h

theorem Dev.Keeps.beginMirror {k : Nat} (hk : k < 48) (i j st : Nat) : a.Keeps A E (d.beginMirror k i j st) := by
  have h1 := h.putOuter hA st (busStateF_outer hk)
  have h2 := h1.copyPage hA k i j
  unfold Dev.beginMirror
  exact ((h2.ite h1).mirrorComparators hA _ |>.ite (h2.ite h1)).modBus _ _

theorem Dev.Keeps.abandonPass {k : Nat} (hk : k < 48) : a.Keeps A E (d.abandonPass k) := by
  have h1 := h.dropPass hA k
  unfold Dev.abandonPass
  split
  · exact h
  · exact h1.ite ((h1.putOuter hA _ (busStateF_outer hk)).ite (h1.beginMirror hA hk _ _ _))

theorem Dev.Keeps.calStart (n : Nat) : a.Keeps A E (d.calStart n) := by
  refine h.each _ _ fun k hk d hd => ?_
  have bound : k < 32 := by simpa using List.mem_of_mem_filter hk
  split
  · split_ifs
    · exact hd.abandonPass hA (by omega)
    · exact hd
  · exact hd

omit hA in
theorem Dev.Keeps.smcBegin (k : Nat) : a.Keeps A E (d.smcBegin k) := by
  unfold Dev.smcBegin
  split
  · exact (h.modBus _ _).ite h
  · exact (h.modBus _ _).ite h
  · exact h

omit hA in
theorem Dev.Keeps.smcBeginAll : a.Keeps A E d.smcBeginAll := h.each _ _ fun k _ _ hd => hd.smcBegin k

/-! ### SMC -/

theorem Dev.Keeps.smcPut {f : Nat → Nat → Fld} (p v : Nat) (hf : ∀ g i, outer (f g i).addr) : a.Keeps A E (d.smcPut f p v) :=
  h.each _ _ fun _ _ _ hd => hd.putOuter hA _ (hf _ _)

theorem Dev.Keeps.smcGo (p st : Nat) : a.Keeps A E (d.smcGo p st) :=
  ((h.each _ _ fun _ _ _ hd => hd.smcPut hA _ _ fun _ _ => outer_page (by decide)).stateSignal _).smcBegin _

theorem Dev.Keeps.smcSettled (p : Nat) : a.Keeps A E (d.smcSettled p) := by
  unfold Dev.smcSettled
  dsimp only
  exact (((h.modSm _ _).ite h).smcPut hA _ _ fun _ _ => outer_page (by decide)).smcBegin _

omit hA in
theorem Dev.Keeps.smcOutput (p st : Nat) : a.Keeps A E (d.smcOutput p st) := h.emit _ _ _

theorem Dev.Keeps.smcOpening (p : Nat) : a.Keeps A E (d.smcOpening p) := ((h.smcGo hA _ _).modSm _ _).smcSettled hA _

theorem Dev.Keeps.smcShutdown (p c : Nat) : a.Keeps A E (d.smcShutdown p c) := by
  have h1 : a.Keeps A E (d.smcPut SMCG.OUT_OFF_CAUSE p c) := h.smcPut hA _ _ fun _ _ => outer_page (by decide)
  have h2 (g : SmcSt → SmcSt) := (((h1.modSm p g).smcGo hA p 3).smcSettled hA p).smcOutput p 3
  exact ((h2 _).smcOpening hA p).ite (h2 _)

omit hA in
theorem Dev.Keeps.smcUnrecord (p : Nat) : a.Keeps A E (d.smcUnrecord p) := by
  unfold Dev.smcUnrecord
  dsimp only
  split
  · exact ((h.setPath _ _).give _ _ _).ite h
  · exact h

theorem Dev.Keeps.smcOffNow (p c : Nat) : a.Keeps A E (d.smcOffNow p c) := by
  have caused {d : Dev} (hd : a.Keeps A E d) : a.Keeps A E (d.smcPut SMCG.OUT_OFF_CAUSE p c) :=
    hd.smcPut hA _ _ fun _ _ => outer_page (by decide)
  have opens {d : Dev} {q : Prop} [Decidable q] (hd : a.Keeps A E d) : a.Keeps A E (if q then d.smcOpening p else d) :=
    (hd.smcOpening hA p).ite hd
  have h1 : a.Keeps A E ((d.smcPut SMCG.OUT_OUT_EN p 0).modSm p fun s => { s with offReq := some d.elapsed, offHeld := none }) :=
    (h.smcPut hA p 0 fun _ _ => outer_page (by decide)).modSm p _
  have h2 := h1.smcPut hA (f := SMCG.OUT_PENDING_ON) p 0 fun _ _ => outer_page (by decide)
  unfold Dev.smcOffNow
  dsimp only
  split
  · exact h1
  · exact ((h1.smcGo hA p 0).smcUnrecord p).ite (opens (h1.ite ((caused h1).modSm p _)))
  · exact (((caused h1).modSm p _).smcOpening hA p).ite (h1.smcShutdown hA p c)
  · exact opens (((caused h2).ite h2).modSm p _ |>.ite ((caused h2).ite h2))

theorem Dev.Keeps.smcOff (q c : Nat) : a.Keeps A E (d.smcOff q c) :=
  ((h.smcPut hA _ 0 fun _ _ => outer_page (by decide)).modSm _ _).ite (h.smcOffNow hA _ _)

theorem Dev.Keeps.smcEngineAbort (n : Nat) : a.Keeps A E (d.smcEngineAbort n) :=
  h.each _ _ fun _ _ _ hd => (hd.smcOff hA _ _).ite hd

/-! ### Engines -/

theorem Dev.Keeps.engGo (n st : Nat) (hs : ∀ x, A x → x ≠ (SEQ.STATUS_STATE n).addr) : a.Keeps A E (d.engGo n st) := by
  have h1 : a.Keeps A E (if st = seqLoading then d.calStart n else d) := (h.calStart hA n).ite h
  exact h.ite ((((h1.put _ fun x hx => ⟨hs x hx, .inr (by simp [SEQ.STATUS_STATE])⟩).signal _).stateSignal _).smcBeginAll)

end Units

/-! ### The abort of an engine -/

/-- No dword: the frame without registers. -/
abbrev noReg (_ : Nat) : Prop := False

section Abort
variable {E : Nat → Prop} {a d : Dev} {n : Nat} (hn : ¬ E n) (h : a.Keeps noReg E d)
include h

theorem Dev.Keeps.puts (f : Fld) (v : Nat) : a.Keeps noReg E (d.put f v) := h.put v fun _ => False.elim

theorem Dev.Keeps.captureRes (c : Nat) (e : Bool) (t : Nat) : a.Keeps noReg E (d.captureRes n c e t) := by
  have stack {d : Dev} (hd : a.Keeps noReg E d) (l : List Nat) : a.Keeps noReg E (d.each (List.range 8) fun k =>
      Dev.put (SEQ.RES_STACK n k) (l.getD k 0)) := hd.each _ _ fun _ _ _ hd => hd.puts _ _
  exact (((((stack ((((((((((h.puts _ _).puts _ _).puts _ _).puts _ _).puts _ _).puts _ _).puts _ _).puts _ _).puts _ _).puts _ _)
    _).puts _ _).puts _ _).puts _ _).setReg _ id).puts _ _

theorem Dev.Keeps.advanceRing (r k : Nat) : a.Keeps noReg E (d.advanceRing r k) :=
  h.ite ((h.puts (HDMA.RING_DEV_PTR r) _).trans
    ⟨rfl, rfl, rfl, fun _ _ => rfl, rfl, fun _ _ => rfl, fun _ _ => rfl, fun _ _ => rfl⟩)

theorem Dev.Keeps.fcapEnd (n : Nat) : a.Keeps noReg E (d.fcapEnd n) := (h.modFc _ _).puts _ _

include hn

theorem Dev.Keeps.streamFlush (k : Bool) : a.Keeps noReg E (d.streamFlush n k) := by
  have h1 (g : EngSt → EngSt) := ((h.advanceRing n ((d.eng n).stream.bufs.filter fun b => !b.past).length).modEng g hn).puts
    (SEQ.STREAM_STATUS_DESC_ERR n) 0
  exact Dev.Keeps.emit (.ite (h1 _) ((h1 _).puts _ _)) _ _ _

theorem Dev.Keeps.landDecision : a.Keeps noReg E (d.landDecision n) := (h.modEng _ hn).puts _ _

/-- An abort that lands leaves the other engines, the captured errors and what was posted. -/
theorem Dev.Keeps.engAbort (c : Nat) (e : Bool) : a.Keeps noReg E (d.engAbort n c e) := by
  unfold Dev.engAbort
  refine .ite (Dev.Keeps.smcEngineAbort (fun _ => False.elim)
    (Dev.Keeps.fcapEnd (Dev.Keeps.streamFlush hn (Dev.Keeps.emit ?_ _ _ _) _) _) _) h
  have landed := ((h.landDecision hn).ite h (p := (e && !(d.eng n).stopped) = true)).captureRes (n := n) c e
    (if e && !(d.eng n).stopped then d.landDecision n else d).now
  refine Dev.Keeps.puts (Dev.Keeps.puts (Dev.Keeps.engGo (fun _ => False.elim)
    (Dev.Keeps.modTset (Dev.Keeps.modEng ?_ _ hn) _ hn) _ _ fun _ => False.elim) _ _) _ _
  exact landed.each _ _ fun _ _ _ hd => (hd.modPin _ _).ite hd

end Abort

/-- No engine: the frame of what aborts them all. -/
abbrev noEng (_ : Nat) : Prop := False

/-- The reaction to an FC0 leaves the first-error captures but FC3's and what was posted. -/
theorem Dev.reactFc0_keeps (d : Dev) (a : Detection) : d.Keeps noReg noEng (d.reactFc0 a) := by
  unfold Dev.reactFc0
  refine .ite (.refl d) (Dev.Keeps.each ?_ _ _ fun n _ d' hd => ((hd.engAbort id 7 false).dropHeldStart n).modEng _ id)
  exact ⟨rfl, rfl, rfl, fun _ _ => rfl, rfl, fun _ _ => rfl, fun _ _ => rfl, fun _ _ => rfl⟩

end Sys2Proof.Machine
end


/-! ## A record reaches the merger (O44) -/
section
namespace Sys2Proof.Machine

/-! ### The reaction to a detection that waits alone; a token fault is an FC0 -/

theorem Dev.settleN_calm (k : Nat) {d : Dev} (c : d.Calm) : d.settleN k = d := by
  unfold Dev.Calm at c
  cases k with
  | zero => rfl
  | succ k => simp [Dev.settleN, Dev.nextAlarm, c]

theorem Dev.nextAlarm_mem {d : Dev} {a : Detection} (h : d.nextAlarm = some a) : a ∈ d.flt.alarms := by
  unfold Dev.nextAlarm at h
  split at h
  · next x hx => exact Option.some.inj h ▸ List.mem_of_find?_eq_some hx
  · exact List.mem_of_find?_eq_some h

/-- A detection that waits alone, and whose reaction raises no other: the command ends with the captures, but FC3's, and the posts
that it had before the reaction. -/
theorem Dev.settle_alone {d : Dev} {a : Detection} (ha : d.flt.alarms = [a])
    (hr : ∀ e : Dev, e.Keeps noReg noEng (e.react a)) :
    (∀ c, c ≠ 3 → d.settle.fec c = d.fec c) ∧ d.settle.host.posted = d.host.posted := by
  unfold Dev.settle Dev.settleN
  split
  · exact ⟨fun _ _ => rfl, rfl⟩
  · next a' h =>
    have same : a' = a := by simpa [ha] using Dev.nextAlarm_mem h
    subst same
    have k := hr { d with flt := { d.flt with alarms := d.flt.alarms.erase a' } }
    have calm : Dev.Calm (Dev.react a' { d with flt := { d.flt with alarms := d.flt.alarms.erase a' } }) :=
      k.alarms.trans (by simp [ha])
    rw [Dev.settleN_calm _ calm]
    exact ⟨k.fec, k.posted⟩

theorem Dev.fec_alarm (d : Dev) (a : Detection) (c : Nat) : (d.alarm a).fec c = (d.capture a).fec c := by
  have h : (((d.faultRecord a).capture a).signal 0).fec c = (d.capture a).fec c := by
    have record : (d.faultRecord a).flt = d.flt := Dev.alarms_emitAt _ _ _ _ _ _ _
    have same := d.same_faultRecord a
    have class_ : (d.faultRecord a).classOf a = d.classOf a := by
      unfold Dev.classOf Dev.atLimit Dev.shadowed Dev.recovs Dev.blk
      rw [record, same.on, same.on, same.get, same.get, same.still.elapsed]
    have now : (d.faultRecord a).now = d.now := by unfold Dev.now; rw [same.still.count]
    show ((d.faultRecord a).capture a).fec c = _
    unfold Dev.capture Dev.fec
    dsimp only
    rw [record, class_, now]
  unfold Dev.alarm
  dsimp only
  split_ifs
  · exact h
  · exact h

/-- A detection below the codes of FC1 is taken at once, whatever is being reset. -/
theorem Dev.shadowed_low (d : Dev) (b : Nat) {det : Nat} (h : det < 4096) : d.shadowed b det = false := by
  unfold Dev.shadowed
  rw [List.any_eq_false]
  intro x _
  simp [show ¬ 4096 ≤ det by omega]

/-- The detection of a token conservation violation (R337, R341). -/
def tokenDetection : Detection := ⟨0x0001, 6, 0xFF, 8, 0, 0, false⟩

theorem Dev.classOf_token (d : Dev) : d.classOf tokenDetection = 0 := by simp [Dev.classOf, tokenDetection]

theorem Dev.react_token (d : Dev) : d.Keeps noReg noEng (d.react tokenDetection) := by
  unfold Dev.react
  rw [d.classOf_token]
  exact d.reactFc0_keeps _

theorem Dev.tokenFault_alarms {d : Dev} (hc : d.Calm) : d.tokenFault.flt.alarms = [tokenDetection] := by
  have h : (d.faultRecord tokenDetection).flt.alarms = [] := (congrArg FltSt.alarms (Dev.alarms_emitAt _ _ _ _ _ _ _)).trans hc
  have e : d.alarm tokenDetection = { ((d.faultRecord tokenDetection).capture tokenDetection).signal 0 with
      flt := { (((d.faultRecord tokenDetection).capture tokenDetection).signal 0).flt with
        alarms := (d.faultRecord tokenDetection).flt.alarms ++ [tokenDetection] } } := by
    unfold Dev.alarm
    rw [d.shadowed_low _ (show tokenDetection.det < 4096 by decide)]
    rfl
  show (d.alarm tokenDetection).flt.alarms = _
  rw [e, h]; rfl

theorem Dev.tokenFault_fec {d : Dev} (h : (d.fec 0).valid = false) : (d.tokenFault.fec 0).det = 1 := by
  show ((d.alarm tokenDetection).fec 0).det = 1
  have captured := d.fec_capture_self tokenDetection
  rw [d.classOf_token, h] at captured
  rw [d.fec_alarm, captured]
  rfl

/-! ### What an arrival does, by case -/

section Arrive
variable {d : Dev} {r : Rec}

theorem Dev.arrive_sealed (h : d.merging = false) :
    d.arrive r = (d.bumpBy LDG.POST_SEAL (recordsOf r.payload)).give poolLT r.path (recordsOf r.payload) := by
  simp [Dev.arrive, h]

theorem Dev.takeOvf_ldg (r : Rec) (d : Dev) : (d.takeOvf r).ldg = { d.ldg with tallies := (d.takeOvf r).ldg.tallies } := by
  unfold Dev.takeOvf; split_ifs <;> rfl

theorem Dev.takeOvf_regs (r : Rec) (d : Dev) : (d.takeOvf r).regs = d.regs := by unfold Dev.takeOvf; split_ifs <;> rfl

theorem Dev.takeOvf_chain (r : Rec) (d : Dev) : (d.takeOvf r).ldg.chain = d.ldg.chain := by rw [Dev.takeOvf_ldg]

theorem Dev.arrive_held (h : d.merging = true) (hh : d.ldg.chain = false ∨ r.nt = false ∧ 4096 * d.front ≤ r.full) :
    d.arrive r = (d.takeOvf r).modLdg fun l => { l with held := l.held ++ [r] } := by
  have front := (d.takeOvf_packs r).front
  rcases hh with hc | ⟨hn, hf⟩
  · simp [Dev.arrive, h, d.takeOvf_chain, hc]
  · have : ¬ r.full < 4096 * d.front := by omega
    simp [Dev.arrive, h, hn, front, this]

theorem Dev.arrive_nt (h : d.merging = true) (hc : d.ldg.chain = true) (hn : r.nt = true) :
    d.arrive r = (d.takeOvf r).mergeRecord r := by
  simp [Dev.arrive, h, d.takeOvf_chain, hc, hn]

theorem Dev.arrive_late (h : d.merging = true) (hc : d.ldg.chain = true) (hn : r.nt = false) (hf : r.full < 4096 * d.front) :
    d.arrive r = ((d.takeOvf r).bumpBy LDG.LATE_COUNT (recordsOf r.payload)).mergeRecord { r with late := true } := by
  simp [Dev.arrive, h, d.takeOvf_chain, hc, hn, (d.takeOvf_packs r).front, hf]

/-- What every arrival leaves alone. -/
structure Dev.Reaches (d d' : Dev) : Prop where
  elapsed : d'.elapsed = d.elapsed
  paths : d'.paths = d.paths
  flt : d'.flt = d.flt

theorem Dev.Packs.reaches {a b : Dev} (h : a.Packs b) : a.Reaches b := ⟨h.still.elapsed, h.paths, h.flt⟩

theorem Dev.bumpBy_reaches (d : Dev) (f : Fld) (n : Nat) : d.Reaches (d.bumpBy f n) := ⟨by simp, by simp, by simp⟩

theorem Dev.Reaches.trans {a b c : Dev} (h : a.Reaches b) (k : b.Reaches c) : a.Reaches c :=
  ⟨k.elapsed.trans h.elapsed, k.paths.trans h.paths, k.flt.trans h.flt⟩

theorem Dev.arrive_reaches (r : Rec) (d : Dev) : d.Reaches (d.arrive r) := by
  cases h : d.merging with
  | false =>
    rw [Dev.arrive_sealed h]
    have b := d.bumpBy_reaches LDG.POST_SEAL (recordsOf r.payload)
    exact ⟨b.elapsed, b.paths, b.flt⟩
  | true =>
    have ovf := (d.takeOvf_packs r).reaches
    by_cases hh : d.ldg.chain = false ∨ r.nt = false ∧ 4096 * d.front ≤ r.full
    · rw [Dev.arrive_held h hh]
      exact ⟨ovf.elapsed, ovf.paths, ovf.flt⟩
    · obtain ⟨hc, hn⟩ := not_or.1 hh
      cases hn' : r.nt with
      | true =>
        rw [Dev.arrive_nt h (by simpa using hc) hn']
        exact ovf.trans (Dev.mergeRecord_packs _ _).reaches
      | false =>
        rw [Dev.arrive_late h (by simpa using hc) hn' (by simpa [hn'] using hn)]
        exact (ovf.trans (Dev.bumpBy_reaches _ _ _)).trans (Dev.mergeRecord_packs _ _).reaches

end Arrive

/-! ### A record is placed, tallied, or follows a SUMMARY -/

theorem recordsOf_summary (t : Tally) : recordsOf t.summary = 2 := by
  have : t.summary.length = 37 := by simp [Tally.summary, leBytes]
  simp [recordsOf, this, ceilDiv]

/-- What becomes of a record whose turn has come, by what its path's tally holds and the room there is. -/
structure Dev.Placed (r : Rec) (tally : Nat) (d d' : Dev) : Prop where
  held : d'.ldg.held = d.ldg.held
  tallied : d.placeable r.path = false → d'.ldg.cur = d.ldg.cur ∧ (d'.tally r.path).count = tally + recordsOf r.payload
  alone : d.placeable r.path = true → tally = 0 → d.ldg.cur.length + recordsOf r.payload < 126 →
    d'.ldg.cur = d.ldg.cur ++ r.bytes ∧ d'.get LDG.NEXT_SEQ = (d.get LDG.NEXT_SEQ + recordsOf r.payload) % 2 ^ 64
  summary : d.placeable r.path = true → tally ≠ 0 → d.ldg.cur.length + 2 + recordsOf r.payload < 126 →
    d'.ldg.cur.length = d.ldg.cur.length + 2 + recordsOf r.payload ∧ (d'.tally r.path).count = 0 ∧
    d'.ldg.cur.drop (d.ldg.cur.length + 2) = r.bytes ∧
    d'.get LDG.SUMMARY_COUNT = min (2 ^ LDG.SUMMARY_COUNT.w - 1) (d.get LDG.SUMMARY_COUNT + 1) ∧
    d'.get LDG.NEXT_SEQ = (d.get LDG.NEXT_SEQ + 2 + recordsOf r.payload) % 2 ^ 64

/-- A SUMMARY with room joins the block under construction, and its tally is cleared. -/
theorem Dev.placeSummary_appends {d : Dev} {p : Nat} (h0 : (d.tally p).count ≠ 0) (h : d.ldg.cur.length + 2 < 126) :
    ∃ bs, bs.length = 2 ∧ (d.placeSummary p).ldg.cur = d.ldg.cur ++ bs ∧ (d.placeSummary p).ldg.buffer = d.ldg.buffer ∧
      (d.placeSummary p).get LDG.NEXT_SEQ = (d.get LDG.NEXT_SEQ + 2) % 2 ^ 64 ∧ ((d.placeSummary p).tally p).count = 0 ∧
      (d.placeSummary p).get LDG.SUMMARY_COUNT = min (2 ^ LDG.SUMMARY_COUNT.w - 1) (d.get LDG.SUMMARY_COUNT + 1) := by
  have own := (Dev.storeGroup_appends (d := d) (r := d.ownRecord p 0x02 (d.tally p).summary)
    (by rw [show (d.ownRecord p 0x02 (d.tally p).summary).payload = (d.tally p).summary from rfl, recordsOf_summary]; exact h)).countOwn
    (recordsOf (d.tally p).summary)
  rw [← Dev.placeOwn_eq] at own
  have two : (d.ownRecord p 0x02 (d.tally p).summary).bytes.length = 2 := (Rec.bytes_length _).trans (recordsOf_summary _)
  rw [Dev.placeSummary_of_some h0]
  generalize d.placeOwn p 0x02 (d.tally p).summary = e at own
  refine ⟨_, two, ?_, ?_, ?_, ?_, ?_⟩
  · rw [Dev.bump_ldg]; exact own.cur
  · rw [Dev.bump_ldg]; exact own.buffer
  · unfold Dev.bump Dev.bumpBy
    rw [Dev.get_put_apart _ _ (by decide)]
    exact own.seq.trans (by rw [two])
  · rw [Dev.tally_bump, Dev.tally_setTally_self]; rfl
  · rw [Dev.get_bump_self _ _ (by decide), ← Dev.get_of_regs (own.regs _ (by decide)) (own.regs _ (by decide))]
    rfl

theorem Dev.mergeRecord_placed (r : Rec) (d : Dev) : Dev.Placed r (d.tally r.path).count d (d.mergeRecord r) := by
  have ldg := d.mergeRecord_ldg r
  have regs := d.mergeRecord_regs r
  have free (hp : d.placeable r.path = true) : 0 < d.ldgFree := by unfold Dev.placeable at hp; simp_all
  refine ⟨(d.mergeRecord_packs r).held, fun hp => ?_, fun hp h0 hl => ?_, fun hp h0 hl => ?_⟩
  · rw [Dev.tally_congr (congrArg LdgSt.tallies ldg), ldg, Dev.merged_tallied hp, Dev.collapse_tally_self]
    exact ⟨rfl, rfl⟩
  · have app := Dev.mergeRecord_appends hp h0 hl
    exact ⟨app.cur, by rw [app.seq, r.bytes_length]⟩
  · obtain ⟨bs, two, cur, buffer, seq, cleared, count⟩ := Dev.placeSummary_appends h0 (by omega)
    have room : 0 < (d.placeSummary r.path).ldgFree := by unfold Dev.ldgFree; rw [buffer]; exact free hp
    have e : d.merged r = (d.placeSummary r.path).storeGroup r := by unfold Dev.merged; rw [if_pos hp, if_pos room]
    have app := Dev.storeGroup_appends (d := d.placeSummary r.path) (r := r) (by rw [cur, List.length_append, two]; omega)
    rw [← e] at app
    rw [Dev.get_congr regs, Dev.get_congr regs, Dev.tally_congr (congrArg LdgSt.tallies ldg), ldg, app.cur, cur]
    refine ⟨by rw [List.length_append, List.length_append, two, r.bytes_length], ?_, ?_, ?_, ?_⟩
    · rw [Dev.tally_congr app.tallies]; exact cleared
    · rw [← two, ← List.length_append, List.drop_left]
    · rw [Dev.get_of_regs (app.regs _ (by decide)) (app.regs _ (by decide)), count]
    · rw [app.seq, seq, Nat.mod_add_mod, r.bytes_length]

/-- The overflow tally of the record joins its path's before its turn, and a counter may have moved. -/
theorem Dev.Placed.of_arrived {r : Rec} {d e d' : Dev} (h : Dev.Placed r (e.tally r.path).count e d')
    (held : e.ldg.held = d.ldg.held) (cur : e.ldg.cur = d.ldg.cur) (room : ∀ p, e.placeable p = d.placeable p)
    (seq : e.get LDG.NEXT_SEQ = d.get LDG.NEXT_SEQ) (count : e.get LDG.SUMMARY_COUNT = d.get LDG.SUMMARY_COUNT) :
    Dev.Placed r (e.tally r.path).count d d' := by
  obtain ⟨h1, h2, h3, h4⟩ := h
  rw [held] at h1
  rw [room, cur] at h2
  rw [room, cur, seq] at h3
  rw [room, cur, seq, count] at h4
  exact ⟨h1, h2, h3, h4⟩

theorem Dev.takeOvf_placeable (r : Rec) (d : Dev) (p : Nat) : (d.takeOvf r).placeable p = d.placeable p := by
  unfold Dev.placeable Dev.ldgFree; rw [Dev.takeOvf_ldg]

theorem Dev.takeOvf_cur (r : Rec) (d : Dev) : (d.takeOvf r).ldg.cur = d.ldg.cur := by rw [Dev.takeOvf_ldg]

theorem Dev.arrive_nt_placed {d : Dev} {r : Rec} (h : d.merging = true) (hc : d.ldg.chain = true) (hn : r.nt = true) :
    Dev.Placed r ((d.tally r.path).count + r.ovf.1) d (d.arrive r) := by
  rw [Dev.arrive_nt h hc hn, ← d.takeOvf_tally_self r]
  exact ((d.takeOvf r).mergeRecord_placed r).of_arrived (d.takeOvf_packs r).held (d.takeOvf_cur r) (d.takeOvf_placeable r)
    (Dev.get_congr (d.takeOvf_regs r) _) (Dev.get_congr (d.takeOvf_regs r) _)

theorem Dev.arrive_late_placed {d : Dev} {r : Rec} (h : d.merging = true) (hc : d.ldg.chain = true) (hn : r.nt = false)
    (hf : r.full < 4096 * d.front) :
    Dev.Placed { r with late := true } ((d.tally r.path).count + r.ovf.1) d (d.arrive r) ∧
      (d.arrive r).get LDG.LATE_COUNT = min (2 ^ LDG.LATE_COUNT.w - 1) (d.get LDG.LATE_COUNT + recordsOf r.payload) := by
  rw [Dev.arrive_late h hc hn hf, ← d.takeOvf_tally_self r]
  have ldg : ((d.takeOvf r).bumpBy LDG.LATE_COUNT (recordsOf r.payload)).ldg = (d.takeOvf r).ldg := by simp
  have late := (((d.takeOvf r).bumpBy LDG.LATE_COUNT (recordsOf r.payload)).mergeRecord_packs { r with late := true }).late
  refine ⟨?_, late.trans ?_⟩
  · rw [← Dev.tally_congr (congrArg LdgSt.tallies ldg)]
    refine (Dev.mergeRecord_placed { r with late := true } _).of_arrived ?_ ?_ (fun p => ?_) ?_ ?_
    · rw [ldg]; exact (d.takeOvf_packs r).held
    · rw [ldg, d.takeOvf_cur]
    · unfold Dev.placeable Dev.ldgFree; rw [ldg]; exact d.takeOvf_placeable r p
    · exact (Dev.get_put_apart _ _ (by decide)).trans (Dev.get_congr (d.takeOvf_regs r) _)
    · exact (Dev.get_put_apart _ _ (by decide)).trans (Dev.get_congr (d.takeOvf_regs r) _)
  · rw [Dev.get_bumpBy_self _ _ _ (by decide), Dev.get_congr (d.takeOvf_regs r)]

/-! ### RECORD_ARRIVAL -/

theorem exec_recordArrival (p : Byte) (s : State) :
    exec (.recordArrival p) s = s.onDev fun d => (d.recordArrival p.toNat).settle := rfl

theorem exec_mergerRelease (s : State) : exec .mergerRelease s = s.onDev fun d => if d.ledgerWorks then d.release else d := rfl

/-- A path whose oldest record has left its col. -/
def Dev.popRecord (p : Nat) (r : Rec) (rest : List Rec) (d : Dev) : Dev :=
  d.setPath p { d.path p with col := rest, rx := (r.pseq + recordsOf r.payload) % 2 ^ 32 }

theorem Dev.path_popRecord_self (d : Dev) (p : Nat) (r : Rec) (rest : List Rec) :
    (d.popRecord p r rest).path p = { d.path p with col := rest, rx := (r.pseq + recordsOf r.payload) % 2 ^ 32 } :=
  Tab.get_insert_self _ _ _ _

theorem Dev.path_popRecord_ne (d : Dev) {p q : Nat} (r : Rec) (rest : List Rec) (h : q ≠ p) :
    (d.popRecord p r rest).path q = d.path q := Tab.get_insert_ne _ _ _ h

theorem Dev.recordArrival_stays {d : Dev} {p : Nat} (h : d.st = stDormant ∨ d.blockDown 0 = true ∨ (d.path p).col = []) :
    d.recordArrival p = d := by
  unfold Dev.recordArrival
  dsimp only
  split
  · rfl
  · next col =>
    refine if_pos ?_
    rcases h with h | h | h
    · simp [h]
    · simp [h]
    · simp [h] at col

theorem Dev.recordArrival_pops {d : Dev} {p : Nat} {r : Rec} {rest : List Rec} (col : (d.path p).col = r :: rest)
    (up : d.st ≠ stDormant) (run : d.blockDown 0 = false) :
    d.recordArrival p = (if r.pseq = (d.path p).rx then d.popRecord p r rest else (d.popRecord p r rest).tokenFault).arrive r := by
  unfold Dev.recordArrival
  simp only [col, up, run, decide_false, Bool.or_false, Bool.false_eq_true, if_false]
  rfl

/-- A record that leaves its col in a calm device: what the command leaves alone, and what its arrival does. -/
theorem recordArrival_next {s : State} {p : Byte} {r : Rec} {rest : List Rec} (hc : s.dev.Calm)
    (col : (s.dev.path p.toNat).col = r :: rest) (up : s.dev.st ≠ stDormant) (run : s.dev.blockDown 0 = false)
    (seq : r.pseq = (s.dev.path p.toNat).rx) :
    ∃ t, exec (.recordArrival p) s = .next t ∧ t.mem = s.mem ∧ t.dev.elapsed = s.dev.elapsed ∧
      (t.dev.path p.toNat).col = rest ∧ (t.dev.path p.toNat).rx = (r.pseq + recordsOf r.payload) % 2 ^ 32 ∧
      (∀ q, q ≠ p.toNat → t.dev.path q = s.dev.path q) ∧ t.dev = (s.dev.popRecord p.toNat r rest).arrive r := by
  have step : s.dev.recordArrival p.toNat = (s.dev.popRecord p.toNat r rest).arrive r := by
    rw [Dev.recordArrival_pops col up run, if_pos seq]
  have reaches := (s.dev.popRecord p.toNat r rest).arrive_reaches r
  have path (q : Nat) : ((s.dev.popRecord p.toNat r rest).arrive r).path q = (s.dev.popRecord p.toNat r rest).path q := by
    unfold Dev.path; rw [reaches.paths]
  have calm : (s.dev.recordArrival p.toNat).Calm := by rw [step]; exact Dev.Calm.of_flt (d := s.dev) reaches.flt hc
  refine ⟨_, (exec_recordArrival p s).trans (State.onDev_next (Dev.settle_calm calm)), rfl, ?_, ?_, ?_, fun q hq => ?_, step⟩
  · exact (congrArg Dev.elapsed step).trans reaches.elapsed
  · show ((s.dev.recordArrival p.toNat).path p.toNat).col = _
    rw [step, path, Dev.path_popRecord_self]
  · show ((s.dev.recordArrival p.toNat).path p.toNat).rx = _
    rw [step, path, Dev.path_popRecord_self]
  · show (s.dev.recordArrival p.toNat).path q = _
    rw [step, path, Dev.path_popRecord_ne _ _ _ hq]

/-- A record out of sequence is captured as the first FC0, and its reaction leaves the capture. -/
theorem recordArrival_fault {s : State} {p : Byte} {r : Rec} {rest : List Rec} (hc : s.dev.Calm)
    (col : (s.dev.path p.toNat).col = r :: rest) (up : s.dev.st ≠ stDormant) (run : s.dev.blockDown 0 = false)
    (seq : r.pseq ≠ (s.dev.path p.toNat).rx) (free : (s.dev.fec 0).valid = false) :
    ((s.dev.recordArrival p.toNat).settle.fec 0).det = 1 := by
  have flt := ((s.dev.popRecord p.toNat r rest).tokenFault.arrive_reaches r).flt
  have alarms : ((s.dev.popRecord p.toNat r rest).tokenFault.arrive r).flt.alarms = [tokenDetection] := by
    rw [flt]; exact Dev.tokenFault_alarms (d := s.dev.popRecord p.toNat r rest) hc
  rw [Dev.recordArrival_pops col up run, if_neg seq, (Dev.settle_alone alarms Dev.react_token).1 0 (by decide),
    Dev.fec_of_flt flt]
  exact Dev.tokenFault_fec (d := s.dev.popRecord p.toNat r rest) free

/-- A release with room places what it takes in the merger's order, then LDG's own records. -/
theorem Dev.release_appends {d : Dev} (hc : d.ldg.collapsed = false) (hf : 8 < d.ldgFree) (ht : ∀ p, (d.tally p).count = 0)
    (ho : d.ldg.ownFirst = false)
    (hl : d.ldg.cur.length + slotsOf (d.ldg.held.filter d.releases) + slotsOf d.ldg.own < 126) :
    let go := d.ldg.held.filter d.releases
    d.release.ldg.cur.take (d.ldg.cur.length + slotsOf go) =
        d.ldg.cur ++ (sortRecs (go.filter fun r => !r.nt) ++ go.filter fun r => r.nt).flatMap Rec.bytes ∧
      d.release.ldg.cur.length = d.ldg.cur.length + slotsOf go + slotsOf d.ldg.own ∧ d.release.ldg.own = [] ∧
      d.release.ldg.buffer = d.ldg.buffer ∧
      d.release.get LDG.NEXT_SEQ = (d.get LDG.NEXT_SEQ + slotsOf go + slotsOf d.ldg.own) % 2 ^ 64 ∧
      d.RegsBut [LDG.NEXT_SEQ.addr, LDG.NEXT_SEQ.addr + 4] d.release := by
  intro go
  have fits : d.ldg.cur.length + slotsOf go + slotsOf d.ldg.own < 126 := hl
  have marked := d.markRelease_appends
  have opening : d.markRelease.endCollapse.ownFirst = d.markRelease := by
    unfold Dev.endCollapse
    rw [marked.collapsed, hc, Bool.false_and, if_neg Bool.false_ne_true]
    unfold Dev.ownFirst
    rw [d.markRelease_ownFirst, ho, if_neg Bool.false_ne_true]
  have opens := d.opening_opens
  rw [Dev.release_eq, opening]
  rw [opening] at opens
  have taken : d.markRelease.ldg.held.filter d.markRelease.releases = go := by
    unfold Dev.releases; rw [opens.held, opens.front]; rfl
  have cur := marked.cur
  rw [List.append_nil] at cur
  have placed := Dev.releaseHeld_appends (marked.roomy ⟨hc, hf, ht⟩) (by rw [cur, taken]; omega)
  rw [taken] at placed
  have all := marked.trans placed
  have order : (((sortRecs (go.filter fun r => !r.nt) ++ go.filter fun r => r.nt).flatMap Rec.bytes)).length = slotsOf go := by
    rw [flatMap_bytes_length, slotsOf_perm (release_order_perm go)]
  rw [List.nil_append] at all
  obtain ⟨bs, len, cur', own, buffer, seq, regs⟩ := Dev.placeOwnWaiting_appends (all.roomy ⟨hc, hf, ht⟩)
    (by rw [all.cur, all.own, List.length_append, order]; omega)
  rw [all.own] at len seq
  refine ⟨?_, ?_, own, buffer.trans all.buffer, ?_, fun x hx => (regs x hx).trans (all.regs x hx)⟩
  · rw [cur', all.cur, ← order, ← List.length_append, List.take_left]
  · rw [cur', all.cur, List.length_append, List.length_append, order, len]
  · rw [seq, all.seq, Nat.mod_add_mod, order]

/-! ### The obligation -/

/-- The decision of an arrival that reads its record's late bit as `late`. -/
theorem Dev.Placed.of_late {r : Rec} {tally : Nat} {d d' : Dev} (late : Bool)
    (h : Dev.Placed { r with late := late } tally d d') :
    d'.ldg.held = d.ldg.held ∧
      (d.placeable r.path = false → d'.ldg.cur = d.ldg.cur ∧ (d'.tally r.path).count = tally + recordsOf r.payload) ∧
      (d.placeable r.path = true → tally = 0 → d.ldg.cur.length + recordsOf r.payload < 126 →
        d'.ldg.cur = d.ldg.cur ++ ({ r with late := late } : Rec).bytes ∧
        d'.get LDG.NEXT_SEQ = (d.get LDG.NEXT_SEQ + recordsOf r.payload) % 2 ^ 64) ∧
      (d.placeable r.path = true → tally ≠ 0 → d.ldg.cur.length + 2 + recordsOf r.payload < 126 →
        d'.ldg.cur.length = d.ldg.cur.length + 2 + recordsOf r.payload ∧ (d'.tally r.path).count = 0 ∧
        d'.ldg.cur.drop (d.ldg.cur.length + 2) = ({ r with late := late } : Rec).bytes ∧
        d'.get LDG.SUMMARY_COUNT = min (2 ^ LDG.SUMMARY_COUNT.w - 1) (d.get LDG.SUMMARY_COUNT + 1) ∧
        d'.get LDG.NEXT_SEQ = (d.get LDG.NEXT_SEQ + 2 + recordsOf r.payload) % 2 ^ 64) :=
  ⟨h.held, h.tallied, h.alone, h.summary⟩

/-- Settles O44: the arrivals case by case, a release as a fold of the merger's step over the records it takes, and the order by
induction on the records inserted. -/
theorem recordsAreMerged : Obligations.RecordsAreMerged := by
  unfold Obligations.RecordsAreMerged
  refine ⟨fun s p => ?_, fun s => ?_, fun rs => ⟨sortRecs_perm rs, sortRecs_sorted rs, sortRecs_stable rs⟩⟩
  · intro d hc
    refine ⟨fun stay => (exec_recordArrival p s).trans (State.onDev_self ?_), fun r rest col up run => ?_⟩
    · rw [Dev.recordArrival_stays stay, Dev.settle_calm hc]
    intro n tally Arrives Placed joins
    refine ⟨fun seq free => ⟨_, (exec_recordArrival p s).trans (State.onDev_next rfl),
      recordArrival_fault hc col up run seq free⟩, fun seq => ?_⟩
    obtain ⟨t, e, mem, time, left, rx, others, arrived⟩ := recordArrival_next hc col up run seq
    refine ⟨fun hm => ⟨t, e, mem, time, left, rx, others, ?_⟩, fun hm hh => ⟨t, e, mem, time, left, rx, others, ?_⟩,
      fun hm hch hn => ⟨t, e, mem, time, left, rx, others, ?_⟩, fun hm hch hn hf => ⟨t, e, mem, time, left, rx, others, ?_⟩⟩
    all_goals rw [arrived]
    · rw [Dev.arrive_sealed (d := d.popRecord p.toNat r rest) hm]
      exact ⟨Dev.bumpBy_ldg _ _ _, (Dev.wrote_put_dword (d.popRecord p.toNat r rest) LDG.POST_SEAL _ (by decide)).regs,
        (d.popRecord p.toNat r rest).get_bumpBy_self LDG.POST_SEAL n (by decide)⟩
    · rw [Dev.arrive_held (d := d.popRecord p.toNat r rest) hm hh]
      refine ⟨?_, (d.popRecord p.toNat r rest).takeOvf_tally_self r, (d.popRecord p.toNat r rest).takeOvf_regs r⟩
      rw [Dev.modLdg, (d.popRecord p.toNat r rest).takeOvf_ldg]; rfl
    · exact (Dev.arrive_nt_placed (d := d.popRecord p.toNat r rest) hm hch hn).of_late r.late
    · obtain ⟨h, count⟩ := Dev.arrive_late_placed (d := d.popRecord p.toNat r rest) hm hch hn hf
      exact ⟨h.of_late true, count⟩
  · intro d released go
    obtain ⟨time, held⟩ := d.release_keeps
    refine ⟨fun stop => (exec_mergerRelease s).trans (State.onDev_self (if_neg (by rw [stop]; exact Bool.false_ne_true))),
      fun works => ?_⟩
    refine ⟨_, (exec_mergerRelease s).trans (State.onDev_next (if_pos works)), rfl, time, held, fun hc hf ht ho hl => ?_,
      fun short p _ hp => Dev.release_scarce short hp⟩
    exact Dev.release_appends hc hf ht ho hl

end Sys2Proof.Machine
end


/-! ## Bytes stored read back, and a change of an engine's state -/
section
namespace Sys2Proof.Machine

/-! ### Fields at addresses given by an index -/

/-- A field of another dword reads as before. -/
theorem Dev.get_put_word (d : Dev) {a b l w l' w' : Nat} (v : Nat) (h : b ≠ a) (hw : w ≠ 64) (hw' : w' ≠ 64) :
    (d.put ⟨a, l, w⟩ v).get ⟨b, l', w'⟩ = d.get ⟨b, l', w'⟩ := d.get_put_other v h hw hw'

/-- A field beside it in the same dword reads as before. -/
theorem Dev.get_put_bits (d : Dev) {a l w l' w' : Nat} (v : Nat) (h : l + w ≤ 32) (h' : l' + w' ≤ 32)
    (hl : l + w ≤ l' ∨ l' + w' ≤ l) : (d.put ⟨a, l, w⟩ v).get ⟨a, l', w'⟩ = d.get ⟨a, l', w'⟩ := d.get_put_beside v rfl h h' hl

/-- A field of a dword beside a pair of dwords reads as before. -/
theorem Dev.get_put_wide (d : Dev) {a b l l' w' : Nat} (v : Nat) (h : b ≠ a) (h4 : b ≠ a + 4) (hw' : w' ≠ 64) :
    (d.put ⟨a, l, 64⟩ v).get ⟨b, l', w'⟩ = d.get ⟨b, l', w'⟩ := d.get_put_apart v (.inl ⟨h, .inl h4, .inr hw'⟩)

/-- A pair of dwords beside a field of a dword reads as before. -/
theorem Dev.get_wide_put (d : Dev) {a b l l' w : Nat} (v : Nat) (h : b ≠ a) (h4 : b + 4 ≠ a) (hw : w ≠ 64) :
    (d.put ⟨a, l, w⟩ v).get ⟨b, l', 64⟩ = d.get ⟨b, l', 64⟩ := d.get_put_apart v (.inl ⟨h, .inr hw, .inl h4⟩)

/-- Writing a field of a dword touches any list of dwords that has it. -/
theorem Dev.wrote_put_mem (d : Dev) {a l w : Nat} (v : Nat) {as : List Nat} (h : a ∈ as) (hw : w ≠ 64) :
    d.Wrote as (d.put ⟨a, l, w⟩ v) :=
  (d.wrote_put_field a l v hw).mono fun x hx => by rw [List.mem_singleton] at hx; rwa [hx]

/-! ### Memories -/

/-- Bytes stored at keys that differ read back. -/
theorem Tab.get_sets_self {dflt : Nat → Byte} (key : Nat → Nat) : ∀ (bs : List Byte) (k : Nat) (t : Tab Byte), t.wf dflt = true →
    (∀ i j, i < k + bs.length → j < k + bs.length → key i = key j → i = j) → ∀ j < bs.length,
      Tab.get dflt ((bs.zipIdx k).foldl (fun t (b, i) => t.set dflt (key i) b) t) (key (k + j)) = bs.getD j 0
  | [], _, _, _, _, _, hj => absurd hj (by simp)
  | b :: bs, k, t, h, inj, j, hj => by
    rw [List.length_cons] at inj hj
    rw [List.zipIdx_cons, List.foldl_cons]
    have wf := Tab.wf_set (key k) b h
    cases j with
    | zero =>
      refine (Tab.get_sets_ne key (key k) _ _ wf fun x hx e => ?_).trans (Tab.get_set_self (key k) b h)
      have := List.mem_zipIdx hx
      have := inj x.2 k (by omega) (by omega) e
      omega
    | succ j =>
      have rest := Tab.get_sets_self key bs (k + 1) _ wf (fun i j hi hj => inj i j (by omega) (by omega)) j (by omega)
      rwa [show k + 1 + j = k + (j + 1) by omega] at rest

theorem get_storeAt_self {t : Tab Byte} {key : Nat → Nat} {bs : List Byte} (h : t.wf ramByte = true)
    (inj : ∀ i j, i < bs.length → j < bs.length → key i = key j → i = j) {j : Nat} (hj : j < bs.length) :
    Tab.get ramByte (storeAt t key bs) (key j) = bs.getD j 0 := by
  have := Tab.get_sets_self key bs 0 t h (fun i j hi hj => inj i j (by omega) (by omega)) j hj
  rwa [Nat.zero_add] at this

/-- Offsets of less than a ring's size from one offset lie apart. -/
theorem ring_offsets_apart {o size i j : Nat} (hi : i < size) (hj : j < size) (h : (o + i) % size = (o + j) % size) : i = j := by
  have := Nat.ModEq.add_left_cancel' o h
  rwa [Nat.ModEq, Nat.mod_eq_of_lt hi, Nat.mod_eq_of_lt hj] at this

/-! ### A change of an engine's state -/

theorem Dev.bus_modBus_self (d : Dev) (k : Nat) (f : BusSt → BusSt) : (d.modBus k f).bus k = f (d.bus k) := Tab.get_insert_self _ _ _ _

theorem Dev.bus_modBus_ne (d : Dev) {j k : Nat} (f : BusSt → BusSt) (h : j ≠ k) : (d.modBus k f).bus j = d.bus j :=
  Tab.get_insert_ne _ _ _ h

/-- Nothing but the instants to which handovers of SMC groups are fixed. -/
structure Dev.Recommits (d d' : Dev) : Prop where
  rest : ∃ b, d' = { d with cal := { d.cal with buses := b } }
  bus : ∀ k, { d'.bus k with commit := none } = { d.bus k with commit := none }

theorem Dev.Recommits.refl (d : Dev) : d.Recommits d := ⟨⟨d.cal.buses, rfl⟩, fun _ => rfl⟩

theorem Dev.Recommits.trans {a b c : Dev} (h : a.Recommits b) (k : b.Recommits c) : a.Recommits c := by
  obtain ⟨⟨x, rfl⟩, hb⟩ := h
  obtain ⟨⟨y, rfl⟩, kb⟩ := k
  exact ⟨⟨y, rfl⟩, fun j => (kb j).trans (hb j)⟩

theorem Dev.recommits_modBus (d : Dev) (k : Nat) (x : Option Nat) : d.Recommits (d.modBus k fun b => { b with commit := x }) := by
  refine ⟨⟨_, rfl⟩, fun j => ?_⟩
  by_cases h : j = k
  · subst h; rw [d.bus_modBus_self]
  · rw [d.bus_modBus_ne _ h]

theorem Dev.recommits_smcBegin (k : Nat) (d : Dev) : d.Recommits (d.smcBegin k) := by
  unfold Dev.smcBegin
  split
  · split_ifs
    · exact d.recommits_modBus _ _
    · exact .refl d
  · dsimp only
    split_ifs
    · exact d.recommits_modBus _ _
    · exact .refl d
  · exact .refl d

theorem Dev.recommits_smcBeginAll (d : Dev) : d.Recommits d.smcBeginAll :=
  Dev.each_keeps (P := d.Recommits) _ _ d (.refl d) fun k _ _ h => h.trans (Dev.recommits_smcBegin k _)

/-! ### What one engine's command leaves alone -/

theorem Dev.Wrote.byEngine {a b : Dev} {as : List Nat} (h : a.Wrote as b) (n : Nat) : a.ByEngine n as b := by
  have engs : { a with engs := b.engs, cal := { a.cal with buses := b.cal.buses } } = a := by rw [h.still.engs, h.still.cal]
  refine ⟨by rw [engs]; exact h, fun m _ => ?_, fun k => ?_⟩
  · unfold Dev.eng; rw [h.still.engs]
  · unfold Dev.bus; rw [h.still.cal]

theorem Dev.ByEngine.trans {n : Nat} {as : List Nat} {a b c : Dev} (h : a.ByEngine n as b) (k : b.ByEngine n as c) :
    a.ByEngine n as c := by
  obtain ⟨⟨hs, hr⟩, he, hb⟩ := h
  obtain ⟨⟨ks, kr⟩, ke, kb⟩ := k
  refine ⟨⟨?_, fun x hx => (kr x hx).trans (hr x hx)⟩, fun m hm => (ke m hm).trans (he m hm), fun j => (kb j).trans (hb j)⟩
  exact {
    count := ks.count.trans hs.count, elapsed := ks.elapsed.trans hs.elapsed, snaps := ks.snaps.trans hs.snaps
    draws := ks.draws.trans hs.draws, disc := ks.disc.trans hs.disc, pln := ks.pln.trans hs.pln, maps := ks.maps.trans hs.maps
    engs := rfl, tsets := ks.tsets.trans hs.tsets, pins := ks.pins.trans hs.pins, banks := ks.banks.trans hs.banks
    fcap := ks.fcap.trans hs.fcap, tia := ks.tia.trans hs.tia
    cal := ks.cal.trans (congrArg (fun x : CalSt => { x with buses := c.cal.buses }) hs.cal)
    trg := ks.trg.trans hs.trg, aqs := ks.aqs.trans hs.aqs, acq := ks.acq.trans hs.acq, smc := ks.smc.trans hs.smc
    drc := ks.drc.trans hs.drc, hks := ks.hks.trans hs.hks, gov := ks.gov.trans hs.gov }

theorem Dev.ByEngine.mono {n : Nat} {as bs : List Nat} {a b : Dev} (h : a.ByEngine n as b) (hs : as ⊆ bs) : a.ByEngine n bs b :=
  ⟨h.1.mono hs, h.2⟩

theorem Dev.byEngine_modEng (d : Dev) (n : Nat) (f : EngSt → EngSt) (as : List Nat) : d.ByEngine n as (d.modEng n f) :=
  ⟨⟨by constructor <;> rfl, fun _ _ => rfl⟩, fun _ hm => d.eng_modEng_ne f hm, fun _ => rfl⟩

theorem Dev.Recommits.byEngine {a b : Dev} (h : a.Recommits b) (n : Nat) (as : List Nat) : a.ByEngine n as b := by
  obtain ⟨⟨x, rfl⟩, hb⟩ := h
  exact ⟨⟨by constructor <;> rfl, fun _ _ => rfl⟩, fun _ _ => rfl, hb⟩

theorem Dev.ByEngine.elapsed {n : Nat} {as : List Nat} {a b : Dev} (h : a.ByEngine n as b) : b.elapsed = a.elapsed := h.1.still.elapsed

theorem Dev.Recommits.engs {a b : Dev} (h : a.Recommits b) : b.engs = a.engs := by obtain ⟨⟨_, rfl⟩, _⟩ := h; rfl
theorem Dev.Recommits.regs {a b : Dev} (h : a.Recommits b) : b.regs = a.regs := by obtain ⟨⟨_, rfl⟩, _⟩ := h; rfl

/-- Before the handovers are judged again: the state's register, and the signal of the change. -/
def Dev.showState (n st : Nat) (d : Dev) : Dev := ((d.put (SEQ.STATUS_STATE n) st).signal (4 + n)).stateSignal d

theorem Dev.showState_same (d : Dev) (n st : Nat) : (d.put (SEQ.STATUS_STATE n) st).Same (d.showState n st) :=
  (Dev.same_signal _ _).trans (Dev.same_stateSignal _ _)

section Go
variable {d : Dev} {n st : Nat} (hl : st ≠ seqLoading)
include hl

theorem Dev.engGo_eq : d.engGo n st = if d.engState n = st then d else (d.showState n st).smcBeginAll := by
  unfold Dev.engGo; rw [if_neg hl]; rfl

theorem Dev.engGo_engs : (d.engGo n st).engs = d.engs := by
  rw [Dev.engGo_eq hl]
  split_ifs
  · rfl
  · exact (Dev.recommits_smcBeginAll _).engs.trans ((d.showState_same n st).still.engs.trans (Dev.put_engs _ _ _))

theorem Dev.engGo_eng (m : Nat) : (d.engGo n st).eng m = d.eng m := by unfold Dev.eng; rw [Dev.engGo_engs hl]

theorem Dev.engGo_regs (hs : d.engState n ≠ st) : (d.engGo n st).regs = (d.put (SEQ.STATUS_STATE n) st).regs := by
  rw [Dev.engGo_eq hl, if_neg hs]
  exact (Dev.recommits_smcBeginAll _).regs.trans (d.showState_same n st).regs

theorem Dev.engGo_byEngine : d.ByEngine n [(SEQ.STATUS_STATE n).addr] (d.engGo n st) := by
  rw [Dev.engGo_eq hl]
  split_ifs
  · exact ((Dev.Same.refl d).wrote _).byEngine n
  · refine Dev.ByEngine.trans (Dev.Wrote.byEngine ?_ n) ((Dev.recommits_smcBeginAll _).byEngine n _)
    exact (d.wrote_put_dword _ _ (by simp [SEQ.STATUS_STATE])).trans ((d.showState_same n st).wrote _)

/-- The state an engine goes to shows. -/
theorem Dev.engGo_state (h8 : st < 8) : (d.engGo n st).engState n = st := by
  by_cases hs : d.engState n = st
  · rw [Dev.engGo_eq hl, if_pos hs]; exact hs
  · unfold Dev.engState
    rw [Dev.get_congr (Dev.engGo_regs hl hs), Dev.get_put_self _ _ _ (by simp [SEQ.STATUS_STATE])]
    exact Nat.mod_eq_of_lt h8

/-- Another field reads as before the change of state. -/
theorem Dev.engGo_get {f : Fld} (hf : (SEQ.STATUS_STATE n).Apart f) : (d.engGo n st).get f = d.get f := by
  by_cases hs : d.engState n = st
  · rw [Dev.engGo_eq hl, if_pos hs]
  · rw [Dev.get_congr (Dev.engGo_regs hl hs), d.get_put_apart _ hf]

/-- What shows beside the state in STATUS. -/
theorem Dev.engGo_get_status {l w : Nat} (h3 : 3 ≤ l) (h : l + w ≤ 32) :
    (d.engGo n st).get ⟨0x100010 + 0x10000 * n, l, w⟩ = d.get ⟨0x100010 + 0x10000 * n, l, w⟩ :=
  Dev.engGo_get hl (.inr ⟨rfl, by simp [SEQ.STATUS_STATE], h, .inl (by simpa [SEQ.STATUS_STATE] using h3)⟩)

/-- What shows outside STATUS. -/
theorem Dev.engGo_get_word {b l w : Nat} (h : b ≠ 0x100010 + 0x10000 * n) (h4 : b + 4 ≠ 0x100010 + 0x10000 * n) :
    (d.engGo n st).get ⟨b, l, w⟩ = d.get ⟨b, l, w⟩ :=
  Dev.engGo_get hl (.inl ⟨h, .inr (by simp [SEQ.STATUS_STATE]), .inl h4⟩)

end Go

end Sys2Proof.Machine
end


/-! ## Program loads end, streams take descriptors and lines (O25) -/
section
namespace Sys2Proof.Machine

/-! ### The link, and a stream that stops -/

theorem Dev.wrote_linkUse (d : Dev) : d.Wrote [HDMA.LINK_STATUS_L0.addr] d.linkUse := by
  unfold Dev.linkUse
  split_ifs
  · exact (d.wrote_put_dword HDMA.LINK_STATUS_L1 0 (by decide)).trans (Dev.wrote_put_dword _ HDMA.LINK_STATUS_L0 1 (by decide))
  · exact (Dev.Same.refl d).wrote _

theorem Dev.linkUse_get (d : Dev) {f : Fld} (h : f.addr ≠ 0x70010) (h4 : f.addr + 4 ≠ 0x70010) : d.linkUse.get f = d.get f :=
  d.wrote_linkUse.get (by simpa [HDMA.LINK_STATUS_L0] using h) (by simpa [HDMA.LINK_STATUS_L0] using h4)

theorem Dev.linkUse_engs (d : Dev) : d.linkUse.engs = d.engs := d.wrote_linkUse.still.engs

theorem Dev.linkUse_eng (d : Dev) (n : Nat) : d.linkUse.eng n = d.eng n := by unfold Dev.eng; rw [d.linkUse_engs]

theorem Dev.same_descInvalid (d : Dev) (r c i : Nat) : d.Same (d.descInvalid r c i) :=
  (d.same_notice _ _ _).trans (Dev.same_signal _ _)

/-- A stream that stops shows DESC_ERR, and only that (R112). -/
theorem Dev.streamStop_spec (d : Dev) (n c i : Nat) : (d.streamStop n c i).on (SEQ.STREAM_STATUS_DESC_ERR n) = true ∧
    d.Wrote [(SEQ.STREAM_STATUS_DESC_ERR n).addr] (d.streamStop n c i) := by
  have same := Dev.same_descInvalid (d.put (SEQ.STREAM_STATUS_DESC_ERR n) 1) n c i
  refine ⟨(same.on _).trans (d.on_put_bit _ true (by simp [SEQ.STREAM_STATUS_DESC_ERR]) rfl), ?_⟩
  exact (d.wrote_put_dword _ 1 (by simp [SEQ.STREAM_STATUS_DESC_ERR])).trans (same.wrote _)

theorem Dev.Wrote.eng {as : List Nat} {a b : Dev} (h : a.Wrote as b) (n : Nat) : b.eng n = a.eng n := by
  unfold Dev.eng; rw [h.still.engs]

/-! ### The end of a program load (R97 to R99) -/

/-- The word a load is judged by: the first that fails, if one does. -/
theorem Mem.firstBad_isNone (m : Mem) (n : Nat) : (m.firstBad n).isNone = true ↔ ∀ a, a < 16384 → m.wordReason n a = 0 := by
  simp [Mem.firstBad]

theorem Mem.firstBad_eq_some {m : Mem} {n a : Nat} (ha : a < 16384) (bad : m.wordReason n a ≠ 0)
    (first : ∀ b, b < a → m.wordReason n b = 0) : m.firstBad n = some (a, m.wordReason n a) := by
  have found : (List.range 16384).find? (fun a => m.wordReason n a != 0) = some a := by
    rw [List.find?_range_eq_some]
    exact ⟨by simpa using bad, List.mem_range.2 ha, fun j hj => by simpa using first j hj⟩
  unfold Mem.firstBad; rw [found]; rfl

theorem Mem.wordReason_lt (m : Mem) (n a : Nat) : m.wordReason n a < 16 := by
  unfold Mem.wordReason; dsimp only; split_ifs <;> omega

/-- The registers that the end of a load shows, before the engine goes to IDLE. -/
def Dev.showLoad (n : Nat) (valid : Bool) (reason first crc : Nat) (d : Dev) : Dev :=
  (((d.put (SEQ.STATUS_PROG_VALID n) (bit valid)).put (SEQ.LOAD_STATUS_REASON n) reason).put
    (SEQ.LOAD_STATUS_FIRST_BAD n) first).put (SEQ.PROG_CRC n) crc

/-- The reports of the end of a load: its record, and a notice of a program that is not valid. -/
def Dev.reportLoad (n : Nat) (valid : Bool) (reason first crc : Nat) (d : Dev) : Dev :=
  let d' := d.emit (0x10 + n) 0x2A (leBytes 8 (d.get (SEQ.PROG_ID n)) ++ leBytes 4 crc ++ leBytes 1 (bit valid) ++ leBytes 1 reason)
  if valid then d' else d'.notice 0x300D (0x10 + n) (leBytes 1 n ++ leBytes 1 reason ++ leBytes 2 first)

theorem Dev.same_reportLoad (n : Nat) (valid : Bool) (reason first crc : Nat) (d : Dev) :
    d.Same (d.reportLoad n valid reason first crc) := by
  unfold Dev.reportLoad
  dsimp only
  split_ifs
  · exact d.same_emit _ _ _
  · exact (d.same_emit _ _ _).trans (Dev.same_notice _ _ _ _)

/-- REASON and address of the first bad word, zeros where there is none. -/
def loadVerdict (bad : Option (Nat × Nat)) : Nat × Nat := match bad with | some (a, r) => (r, a) | none => (0, 0)

/-- The CRC of a store (R99). -/
def Mem.storeCrc (m : Mem) (n : Nat) : Nat := (crc32c ((List.range 16384).flatMap fun a => m.sramBytes (microAddr n a) 22)).toNat

theorem Dev.programLoadEnd_eq {d : Dev} {m : Mem} {n : Nat} (hl : (d.eng n).loading = false) (hs : d.engState n = seqLoading) :
    let bad := m.firstBad n
    d.programLoadEnd m n = ((d.showLoad n bad.isNone (loadVerdict bad).1 (loadVerdict bad).2 (m.storeCrc n)).engGo n
      seqIdle).reportLoad n bad.isNone (loadVerdict bad).1 (loadVerdict bad).2 (m.storeCrc n) := by
  have go : ¬ ((d.eng n).loading = true ∨ d.engState n ≠ seqLoading) := by simp [hl, hs]
  unfold Dev.programLoadEnd
  simp only [Bool.or_eq_true, decide_eq_true_eq, if_neg go]
  cases m.firstBad n <;> rfl

section ShowLoad
variable (d : Dev) (n : Nat) (valid : Bool) (reason first crc : Nat)

theorem Dev.wrote_showLoad : d.Wrote [(SEQ.STATUS_STATE n).addr, (SEQ.LOAD_STATUS_REASON n).addr, (SEQ.PROG_CRC n).addr]
    (d.showLoad n valid reason first crc) :=
  (((d.wrote_put_mem _ (.head _) (by decide)).trans (Dev.wrote_put_mem _ _ (.tail _ (.head _)) (by decide))).trans
    (Dev.wrote_put_mem _ _ (.tail _ (.head _)) (by decide))).trans
    (Dev.wrote_put_mem _ _ (.tail _ (.tail _ (.head _))) (by decide))

theorem Dev.showLoad_valid : (d.showLoad n valid reason first crc).on (SEQ.STATUS_PROG_VALID n) = valid := by
  have read : (d.showLoad n valid reason first crc).get (SEQ.STATUS_PROG_VALID n) = bit valid % 2 ^ 1 := by
    simp (disch := omega) only [Dev.showLoad, SEQ.STATUS_PROG_VALID, SEQ.LOAD_STATUS_REASON, SEQ.LOAD_STATUS_FIRST_BAD,
      SEQ.PROG_CRC, Dev.get_put_word, Dev.get_put_field]
  unfold Dev.on
  rw [read]
  cases valid <;> rfl

theorem Dev.showLoad_reason : (d.showLoad n valid reason first crc).get (SEQ.LOAD_STATUS_REASON n) = reason % 2 ^ 4 := by
  simp (disch := omega) only [Dev.showLoad, SEQ.STATUS_PROG_VALID, SEQ.LOAD_STATUS_REASON, SEQ.LOAD_STATUS_FIRST_BAD,
    SEQ.PROG_CRC, Dev.get_put_word, Dev.get_put_bits, Dev.get_put_field]

theorem Dev.showLoad_first : (d.showLoad n valid reason first crc).get (SEQ.LOAD_STATUS_FIRST_BAD n) = first % 2 ^ 14 := by
  simp (disch := omega) only [Dev.showLoad, SEQ.STATUS_PROG_VALID, SEQ.LOAD_STATUS_REASON, SEQ.LOAD_STATUS_FIRST_BAD,
    SEQ.PROG_CRC, Dev.get_put_word, Dev.get_put_field]

theorem Dev.showLoad_crc : (d.showLoad n valid reason first crc).get (SEQ.PROG_CRC n) = crc % 2 ^ 32 :=
  Dev.get_put_field _ _ (by decide)

theorem Dev.showLoad_state : (d.showLoad n valid reason first crc).engState n = d.engState n := by
  simp (disch := omega) only [Dev.engState, Dev.showLoad, SEQ.STATUS_STATE, SEQ.STATUS_PROG_VALID, SEQ.LOAD_STATUS_REASON,
    SEQ.LOAD_STATUS_FIRST_BAD, SEQ.PROG_CRC, Dev.get_put_word, Dev.get_put_bits]

end ShowLoad

theorem exec_programLoadEnd (n : Eng) (s : State) :
    exec (.programLoadEnd n) s = s.onDev (Dev.programLoadEnd s.mem n.val) := rfl

theorem exec_streamDescriptor (n : Eng) (x : StreamDesc) (s : State) :
    exec (.streamDescriptor n x) s = s.onDev (Dev.streamDescriptor n.val x) := rfl

theorem exec_streamRefill (n : Eng) (line : List Byte) (bad : Bool) (s : State) :
    exec (.streamRefill n line bad) s = s.onBoth (streamRefill n.val line bad) := rfl

/-- The end of a load, as the device shows it. -/
theorem Dev.programLoadEnd_spec {d : Dev} {m : Mem} {n : Nat} (hl : (d.eng n).loading = false) (hs : d.engState n = seqLoading) :
    let d' := d.programLoadEnd m n
    let bad := m.firstBad n
    d'.engState n = seqIdle ∧ d'.on (SEQ.STATUS_PROG_VALID n) = bad.isNone ∧ d'.get (SEQ.PROG_CRC n) = m.storeCrc n ∧
      d'.get (SEQ.LOAD_STATUS_REASON n) = (loadVerdict bad).1 % 2 ^ 4 ∧
      d'.get (SEQ.LOAD_STATUS_FIRST_BAD n) = (loadVerdict bad).2 % 2 ^ 14 ∧ d'.eng n = d.eng n ∧
      d.ByEngine n [(SEQ.STATUS_STATE n).addr, (SEQ.LOAD_STATUS_REASON n).addr, (SEQ.PROG_CRC n).addr] d' := by
  intro d' bad
  have idle : seqIdle ≠ seqLoading := by decide
  let shown := d.showLoad n bad.isNone (loadVerdict bad).1 (loadVerdict bad).2 (m.storeCrc n)
  have wrote : d.Wrote _ shown := d.wrote_showLoad n bad.isNone (loadVerdict bad).1 (loadVerdict bad).2 (m.storeCrc n)
  have same : (shown.engGo n seqIdle).Same d' := by
    rw [show d' = _ from Dev.programLoadEnd_eq hl hs]
    exact Dev.same_reportLoad _ _ _ _ _ _
  have crc : m.storeCrc n < 2 ^ 32 := BitVec.isLt _
  refine ⟨?_, ?_, ?_, ?_, ?_, ?_, ?_⟩
  · exact (same.get _).trans (Dev.engGo_state idle (by decide))
  · have beside : (shown.engGo n seqIdle).get (SEQ.STATUS_PROG_VALID n) = shown.get (SEQ.STATUS_PROG_VALID n) :=
      Dev.engGo_get_status idle (by decide) (by decide)
    rw [same.on, Dev.on_of_get beside]
    exact d.showLoad_valid _ _ _ _ _
  · rw [same.get, show (shown.engGo n seqIdle).get (SEQ.PROG_CRC n) = _ from Dev.engGo_get_word idle (by omega) (by omega)]
    exact (d.showLoad_crc _ _ _ _ _).trans (Nat.mod_eq_of_lt crc)
  · rw [same.get, show (shown.engGo n seqIdle).get (SEQ.LOAD_STATUS_REASON n) = _ from Dev.engGo_get_word idle (by omega) (by omega)]
    exact d.showLoad_reason _ _ _ _ _
  · rw [same.get, show (shown.engGo n seqIdle).get (SEQ.LOAD_STATUS_FIRST_BAD n) = _ from Dev.engGo_get_word idle (by omega) (by omega)]
    exact d.showLoad_first _ _ _ _ _
  · rw [(same.wrote []).eng, Dev.engGo_eng idle, wrote.eng]
  · exact ((wrote.byEngine n).trans ((Dev.engGo_byEngine idle).mono (by simp))).trans ((same.wrote _).byEngine n)

/-! ### Descriptors (R111, R112) -/

/-- A ring that may take a descriptor. -/
def Dev.takesDescriptor (d : Dev) (n : Nat) : Prop := d.hdmaRuns = true ∧ d.ringLive n = true ∧
  d.on (SEQ.STREAM_STATUS_DESC_ERR n) = false ∧ d.bufsAhead n < min 16 (d.ringCount n)

/-- The buffer of a descriptor. -/
def descBuf (x : StreamDesc) : Buf :=
  { addr := x.addr.toNat, vcount := x.vcount.toNat, seq := x.seq.toNat, eos := x.flags.getLsbD 0,
    irq := x.flags.getLsbD 1, dram := x.flags.getLsbD 2, tag := x.tag, linesIn := 0, issued := 0, past := false }

theorem Dev.streamCond_seq {d : Dev} {n : Nat} {x : StreamDesc} (h : d.streamCond n x = 0) : x.seq.toNat = d.get (SEQ.STREAM_SEQ n) := by
  by_contra hx
  simp [Dev.streamCond, hx] at h

theorem Dev.streamDescriptor_legal {d : Dev} {n : Nat} {x : StreamDesc} (ht : d.takesDescriptor n) (hc : d.streamCond n x = 0) :
    ((d.streamDescriptor n x).eng n).stream.bufs = (d.eng n).stream.bufs ++ [descBuf x] ∧
      (d.streamDescriptor n x).get (SEQ.STREAM_SEQ n) = (d.get (SEQ.STREAM_SEQ n) + 1) % 2 ^ 32 := by
  obtain ⟨h1, h2, h3, h4⟩ := ht
  have e : d.streamDescriptor n x = (d.linkUse.put (SEQ.STREAM_SEQ n) ((x.seq.toNat + 1) % 2 ^ 32)).modEng n fun e =>
      { e with stream := { e.stream with bufs := e.stream.bufs ++ [descBuf x] } } := by
    simp [Dev.streamDescriptor, h1, h2, h3, h4, hc, descBuf]
  rw [e, Dev.eng_modEng_self]
  refine ⟨?_, ?_⟩
  · have : (d.linkUse.put (SEQ.STREAM_SEQ n) ((x.seq.toNat + 1) % 2 ^ 32)).eng n = d.eng n := by
      rw [(Dev.wrote_put _ _ _).eng, d.linkUse_eng]
    rw [this]
  · refine (Dev.get_put_field d.linkUse _ (by decide)).trans ?_
    rw [Nat.mod_mod, Dev.streamCond_seq hc]

theorem Dev.streamDescriptor_illegal {d : Dev} {n : Nat} {x : StreamDesc} (ht : d.takesDescriptor n) (hc : d.streamCond n x ≠ 0) :
    (d.streamDescriptor n x).on (SEQ.STREAM_STATUS_DESC_ERR n) = true ∧
      d.Wrote [(SEQ.STREAM_STATUS_DESC_ERR n).addr, HDMA.LINK_STATUS_L0.addr] (d.streamDescriptor n x) := by
  obtain ⟨h1, h2, h3, h4⟩ := ht
  have e : d.streamDescriptor n x = d.linkUse.streamStop n (d.streamCond n x) ((d.get (HDMA.RING_DEV_PTR n) + d.bufsAhead n) % 2 ^ 32) := by
    simp [Dev.streamDescriptor, h1, h2, h3, h4, hc]
  obtain ⟨err, wrote⟩ := d.linkUse.streamStop_spec n (d.streamCond n x) ((d.get (HDMA.RING_DEV_PTR n) + d.bufsAhead n) % 2 ^ 32)
  rw [e]
  exact ⟨err, (d.wrote_linkUse.mono (by simp)).trans (wrote.mono (by simp))⟩

/-! ### Lines from the host (R113) -/

theorem StreamSt.getElem?_of_fetching {s : StreamSt} {stride : Nat} {b : Buf} {i : Nat} (h : s.fetching stride = some (b, i)) :
    s.bufs[i]? = some b := by
  have mem := List.mem_of_find?_eq_some h
  exact List.mem_zipIdx_iff_getElem?.1 mem

theorem Dev.linkUse_ringRange (d : Dev) (n : Nat) : d.linkUse.ringRange n = d.ringRange n := by
  unfold Dev.ringRange
  rw [d.linkUse_get (by simp [SEQ.CACHE_PART_S_BASE]; omega) (by simp [SEQ.CACHE_PART_S_BASE]; omega),
    d.linkUse_get (by simp [SEQ.CACHE_PART_S_GRAN]; omega) (by simp [SEQ.CACHE_PART_S_GRAN]; omega)]

theorem Dev.linkUse_stride (d : Dev) (n : Nat) : d.linkUse.stride n = d.stride n := by
  unfold Dev.stride Dev.posCount
  rw [d.linkUse_get (by simp [SEQ.CONFIG_POS_COUNT]; omega) (by simp [SEQ.CONFIG_POS_COUNT]; omega)]

theorem Dev.linkUse_refillAt (d : Dev) (n : Nat) : d.linkUse.refillAt n = d.refillAt n := by
  unfold Dev.refillAt
  rw [d.linkUse_ringRange, d.linkUse_eng]

/-- A line that has entered counts in its buffer. -/
theorem Dev.lineIn_linesIn (d : Dev) (n k : Nat) {i : Nat} {b : Buf} (bad : Bool) (h : (d.eng n).stream.bufs[i]? = some b) :
    (((d.lineIn n i k b bad).eng n).stream.bufs[i]?.map fun c => c.linesIn) = some (b.linesIn + 1) := by
  have short : i < (d.eng n).stream.bufs.length := (List.getElem?_eq_some_iff.1 h).1
  have flagged (c : Bool) (v : Nat) (d : Dev) : (d.when c (Dev.signal v)).engs = d.engs := by unfold Dev.when; split_ifs <;> rfl
  have ring (d : Dev) (r k : Nat) : (d.advanceRing r k).engs = d.engs := by
    unfold Dev.advanceRing
    dsimp only
    split_ifs
    · rfl
    · exact Dev.put_engs _ _ _
  have spans (l : List (Nat × Nat)) (d : Dev) : (d.each l fun x => Dev.cacheWritten x.1 x.2 bad).engs = d.engs :=
    Dev.each_keeps (P := fun d' => d'.engs = d.engs) _ _ _ rfl fun _ _ _ h => h
  have engs : ∀ (p : Prop) [Decidable p] (l : List (Nat × Nat)) (d : Dev),
      (if p then (d.each l fun x => Dev.cacheWritten x.1 x.2 bad).advanceRing n 1
        else d.each l fun x => Dev.cacheWritten x.1 x.2 bad).engs = d.engs := by
    intro p _ l d
    split_ifs
    · rw [ring, spans]
    · exact spans l d
  unfold Dev.lineIn
  dsimp only
  unfold Dev.eng
  rw [flagged, engs]
  change ((Dev.eng (Dev.modEng n _ _) n).stream.bufs[i]?.map _) = _
  rw [Dev.eng_modEng_self]
  exact congrArg _ (List.getElem?_set_self short)

end Sys2Proof.Machine
end


section
namespace Sys2Proof.Machine

/-- A line of the host enters the ring of a buffer that is being fetched, where the link and the tokens allow it. -/
theorem streamRefill_host {d : Dev} {m : Mem} {n i : Nat} {b : Buf} {line : List Byte} (bad : Bool)
    (hf : (d.eng n).stream.fetching (d.stride n) = some (b, i)) (open_ : d.refillOpen n = true) (host : b.dram = false)
    (runs : d.hdmaRuns = true) (live : d.ringLive n = true) (may : d.mayTake poolHT n 1 = true) :
    streamRefill n line bad m d = enterLine n i b line bad m d.linkUse := by
  simp [streamRefill, refillLine, hf, open_, host, runs, live, may]

theorem Dev.refillOpen_size {d : Dev} {n : Nat} (h : d.refillOpen n = true) : 64 ≤ (d.ringRange n).2 := by
  unfold Dev.refillOpen at h
  simp only [Bool.and_eq_true, decide_eq_true_eq] at h
  omega

theorem enterLine_eq (n i : Nat) (b : Buf) (line : List Byte) (bad : Bool) (m : Mem) (d : Dev) :
    enterLine n i b line bad m d = (d.lineIn n i (b.nextBytes (d.stride n)) b bad,
      m.writeRing (d.ringRange n).1 (d.ringRange n).2 (d.refillAt n).2 ((padTo 64 line).take (b.nextBytes (d.stride n)))) := rfl

/-- Bytes stored in a ring that has room for them read back, and no other byte changes. -/
theorem Mem.writeRing_bytes {m : Mem} (base o : Nat) {size : Nat} {bs : List Byte} (hm : m.wf = true) (hs : bs.length ≤ size)
    (h0 : 0 < size) :
    (∀ j, j < bs.length → Tab.get ramByte (m.writeRing base size o bs).sram (base + (o + j) % size) = bs.getD j 0) ∧
      ∀ a, (∀ j, j < bs.length → a ≠ base + (o + j) % size) →
        Tab.get ramByte (m.writeRing base size o bs).sram a = Tab.get ramByte m.sram a := by
  have wf := ((Mem.wf_iff m).1 hm).1
  have sram : (m.writeRing base size o bs).sram = storeAt m.sram (fun i => base + (o + i) % size) bs := by
    unfold Mem.writeRing; rw [Nat.max_eq_right h0]
  rw [sram]
  refine ⟨fun j hj => get_storeAt_self (key := fun i => base + (o + i) % size) wf (fun i j hi hj e => ?_) hj,
    fun a ha => get_storeAt_ne _ _ a wf fun i hi => (ha i hi).symm⟩
  exact ring_offsets_apart (by omega) (by omega) (Nat.add_left_cancel e)

/-! ### Lines from DRAM (R113) -/

theorem Dev.admitWrites_keeps (d : Dev) : d.admitWrites.drc.reads = d.drc.reads ∧ d.admitWrites.engs = d.engs :=
  Dev.each_keeps (P := fun d' => d'.drc.reads = d.drc.reads ∧ d'.engs = d.engs) _ _ d ⟨rfl, rfl⟩ fun w _ d' h => by
    split_ifs
    · exact h
    · exact h

/-- A read that its port may make joins the queue of the controller, at its line's address. -/
theorem Dev.portRequest_read {d : Dev} {port a : Nat} (ha : a % 64 = 0) (up : d.dramUp = true)
    (may : d.dramAllowed port a = true) :
    ∃ r, (d.portRequest port false a []).drc.reads = d.drc.reads ++ [r] ∧ r.port = port ∧ r.write = false ∧ r.addr = a ∧
      r.at_ = d.elapsed ∧ (d.portRequest port false a []).engs = d.engs := by
  have line : a / 64 * 64 = a := Nat.div_mul_cancel (Nat.dvd_of_mod_eq_zero ha)
  unfold Dev.portRequest
  simp only [line, up, may, Bool.not_true, Bool.false_and, Bool.and_false, Bool.false_eq_true, if_false]
  exact ⟨_, (Dev.admitWrites_keeps _).1, rfl, rfl, rfl, rfl, (Dev.admitWrites_keeps _).2⟩

section Dram
variable {d : Dev} {m : Mem} {n i : Nat} {b : Buf} {line : List Byte} {bad : Bool}
  (hf : (d.eng n).stream.fetching (d.stride n) = some (b, i)) (open_ : d.refillOpen n = true) (dram : b.dram = true)
  (fresh : d.readPending n (b.addr + 64 * b.linesIn) = false)
include hf open_ dram fresh

theorem streamRefill_read (up : d.dramUp = true) (may : d.dramAllowed n (b.addr + 64 * b.linesIn) = true) :
    streamRefill n line bad m d = (d.portRequest n false (b.addr + 64 * b.linesIn) [], m) := by
  simp [streamRefill, hf, open_, dram, fresh, up, may]

theorem streamRefill_stops (h : ¬ (d.dramUp = true ∧ d.dramAllowed n (b.addr + 64 * b.linesIn) = true)) :
    streamRefill n line bad m d =
      (if d.on (SEQ.STREAM_STATUS_DESC_ERR n) then d else d.streamStop n 5 (d.descIndex n i), m) := by
  have barred : (!d.dramUp || !d.dramAllowed n (b.addr + 64 * b.linesIn)) = true := by
    rw [not_and_or, Bool.not_eq_true, Bool.not_eq_true] at h
    rcases h with h | h <;> simp [h]
  simp [streamRefill, hf, open_, dram, fresh, barred]

end Dram

/-- The line of a buffer of `k` bytes more, cut from a line of 64. -/
theorem take_padTo_line {line : List Byte} (h : line.length = 64) {k : Nat} (hk : k ≤ 64) :
    ((padTo 64 line).take k).length = k ∧ ∀ j, j < k → ((padTo 64 line).take k).getD j 0 = line.getD j 0 := by
  have whole : padTo 64 line = line := by
    unfold padTo; rw [List.take_append_of_le_length (by omega), ← h, List.take_length]
  rw [whole]
  exact ⟨by rw [List.length_take]; omega, fun j hj => by rw [List.getD, List.getD, List.getElem?_take_of_lt hj]⟩

/-- Settles O25: the end of a load through the registers it shows, descriptors and lines by the branch they take. -/
theorem loadEndsAndStreams : Obligations.LoadEndsAndStreams := by
  unfold Obligations.LoadEndsAndStreams
  refine ⟨fun s n loading state => ?_, fun s n x line bad => ⟨fun runs live err ahead => ?_, fun b i hf hopen host runs live may len inv => ?_,
    fun b i hf hopen dram fresh align calm => ?_⟩⟩
  · obtain ⟨idle, valid, crc, reason, first, eng, by_⟩ := Dev.programLoadEnd_spec (m := s.mem) loading state
    refine ⟨_, (exec_programLoadEnd n s).trans (State.onDev_next rfl), rfl, idle, ?_, crc, fun a ha bad before => ?_, eng, by_⟩
    · rw [valid]; exact s.mem.firstBad_isNone n.val
    · rw [Mem.firstBad_eq_some ha bad before] at reason first
      exact ⟨reason.trans (Nat.mod_eq_of_lt (s.mem.wordReason_lt _ _)), first.trans (Nat.mod_eq_of_lt ha)⟩
  · refine ⟨fun hc => ?_, fun hc => ?_⟩
    · obtain ⟨bufs, seq⟩ := Dev.streamDescriptor_legal ⟨runs, live, err, ahead⟩ hc
      exact ⟨_, descBuf x, (exec_streamDescriptor n x s).trans (State.onDev_next rfl), rfl, bufs, rfl, rfl, rfl, rfl, seq⟩
    · obtain ⟨err', wrote⟩ := Dev.streamDescriptor_illegal ⟨runs, live, err, ahead⟩ hc
      exact ⟨_, (exec_streamDescriptor n x s).trans (State.onDev_next rfl), rfl, err', wrote.eng _, wrote.regs⟩
  · intro k base size o
    have fetched : (s.dev.linkUse.eng n.val).stream.bufs[i]? = some b := by
      rw [s.dev.linkUse_eng]; exact StreamSt.getElem?_of_fetching hf
    have room := Dev.refillOpen_size hopen
    obtain ⟨cut, bytes⟩ := take_padTo_line len (k := k) (Nat.min_le_left _ _)
    obtain ⟨stored, others⟩ := Mem.writeRing_bytes base o (size := size) (bs := (padTo 64 line).take k) inv
      (by rw [cut]; exact (Nat.min_le_left _ _).trans room) (by omega)
    rw [cut] at stored others
    have e : exec (.streamRefill n line bad) s = .next { s with
        dev := s.dev.linkUse.lineIn n.val i k b bad
        mem := s.mem.writeRing base size o ((padTo 64 line).take k) } := by
      rw [exec_streamRefill, State.onBoth_eq, streamRefill_host bad hf hopen host runs live may, enterLine_eq, s.dev.linkUse_stride,
        s.dev.linkUse_ringRange, s.dev.linkUse_refillAt]
    exact ⟨_, e, rfl, rfl, fun j hj => (stored j hj).trans (bytes j hj), others, s.dev.linkUse.lineIn_linesIn _ _ _ fetched⟩
  · intro ok
    refine ⟨fun ⟨up, may⟩ => ?_, fun hok => ?_⟩
    · obtain ⟨r, reads, port, write, addr, at_, engs⟩ := Dev.portRequest_read (port := n.val) (by omega) up may
      have e : exec (.streamRefill n line bad) s = .next { s with
          dev := s.dev.portRequest n.val false (b.addr + 64 * b.linesIn) [] } := by
        rw [exec_streamRefill, State.onBoth_eq, streamRefill_read hf hopen dram fresh up may]
      exact ⟨_, r, e, rfl, reads, port, write, addr, at_, by unfold Dev.eng; rw [engs]⟩
    · have e : exec (.streamRefill n line bad) s = .next { s with
          dev := if s.dev.on (SEQ.STREAM_STATUS_DESC_ERR n.val) then s.dev
            else s.dev.streamStop n.val 5 (s.dev.descIndex n.val i) } := by
        rw [exec_streamRefill, State.onBoth_eq, streamRefill_stops hf hopen dram fresh hok]
      refine ⟨_, e, rfl, ?_⟩
      dsimp only
      split_ifs with stopped
      · exact ⟨stopped, rfl, fun _ _ => rfl⟩
      · obtain ⟨err, wrote⟩ := s.dev.streamStop_spec n.val 5 (s.dev.descIndex n.val i)
        exact ⟨err, wrote.eng _, wrote.regs⟩

end Sys2Proof.Machine
end


/-! ## Ring 4: a descriptor is taken, carried out and reported (O57) -/
section
namespace Sys2Proof.Machine

/-! ### Bytes in the memories -/

theorem leBytes_length : ∀ n x, (leBytes n x).length = n
  | 0, _ => rfl
  | n + 1, x => congrArg Nat.succ (leBytes_length n (x / 256))

theorem padTo_length (n : Nat) (l : List Byte) : (padTo n l).length = n := by simp [padTo]

theorem bytesAt_congr {t u : Tab Byte} {a len : Nat} (h : ∀ i, i < len → Tab.get ramByte u (a + i) = Tab.get ramByte t (a + i)) :
    bytesAt u a len = bytesAt t a len :=
  List.map_congr_left fun i hi => h i (List.mem_range.1 hi)

/-- Bytes stored in a row read back as that row. -/
theorem bytesAt_storeAt {t : Tab Byte} (h : t.wf ramByte = true) (a : Nat) (bs : List Byte) :
    bytesAt (storeAt t (a + ·) bs) a bs.length = bs := by
  refine List.ext_getElem (by simp [bytesAt]) fun i hi hb => ?_
  have read := get_storeAt_self (key := (a + ·)) h (fun i j _ _ e => Nat.add_left_cancel e) hb
  simp only [bytesAt, List.getElem_map, List.getElem_range]
  rw [read, List.getD_eq_getElem _ _ hb]

theorem Mem.writeSram_bytes {m : Mem} (h : m.wf = true) (a : Nat) (bs : List Byte) :
    (m.writeSram a bs).sramBytes a bs.length = bs := bytesAt_storeAt ((Mem.wf_iff m).1 h).1 a bs

theorem Mem.writeDram_bytes {m : Mem} (h : m.wf = true) (a : Nat) (bs : List Byte) :
    (m.writeDram a bs).dramBytes a bs.length = bs := bytesAt_storeAt ((Mem.wf_iff m).1 h).2.1 a bs

/-- Microwords stored one after another. -/
def Mem.writeWords (n a : Nat) (words : List (BitVec 176)) (count : Nat) (m : Mem) : Mem :=
  (List.range count).foldl (fun m i => m.writeSram (microAddr n (a + i)) (leBytes 22 (words.getD i 0).toNat)) m

theorem Mem.writeWords_succ (n a : Nat) (words : List (BitVec 176)) (count : Nat) (m : Mem) :
    m.writeWords n a words (count + 1) =
      (m.writeWords n a words count).writeSram (microAddr n (a + count)) (leBytes 22 (words.getD count 0).toNat) := by
  unfold Mem.writeWords; rw [List.range_succ, List.foldl_append]; rfl

/-- Every microword stored reads back, and no other byte changes. -/
theorem Mem.writeWords_spec {m : Mem} (h : m.wf = true) (n a : Nat) (words : List (BitVec 176)) (count : Nat) :
    let m' := m.writeWords n a words count
    m'.wf = true ∧ (∀ i, i < count → m'.sramBytes (microAddr n (a + i)) 22 = leBytes 22 (words.getD i 0).toNat) ∧
      (∀ b, b < microAddr n a ∨ microAddr n (a + count) ≤ b → m'.sramByte b = m.sramByte b) ∧
      m'.dram = m.dram ∧ m'.dramCheck = m.dramCheck ∧ m'.nvm = m.nvm := by
  induction count with
  | zero => exact ⟨h, fun i hi => absurd hi (Nat.not_lt_zero i), fun _ _ => rfl, rfl, rfl, rfl⟩
  | succ k ih =>
    obtain ⟨wf, words', others, dram, check, nvm⟩ := ih
    have len := leBytes_length 22 (words.getD k 0).toNat
    intro m'
    have e : m' = _ := Mem.writeWords_succ n a words k m
    have frame (b : Nat) (hb : b < microAddr n (a + k) ∨ microAddr n (a + k) + 22 ≤ b) :
        m'.sramByte b = (m.writeWords n a words k).sramByte b := by
      rw [e]; exact Mem.writeSram_frame _ _ _ wf (by rw [len]; exact hb)
    refine ⟨by rw [e]; exact Mem.wf_writeSram _ _ wf, fun i hi => ?_, fun b hb => ?_, ?_, ?_, ?_⟩
    · rcases Nat.lt_succ_iff_lt_or_eq.1 hi with hi | rfl
      · rw [← words' i hi]
        exact bytesAt_congr fun j hj => frame _ (.inl (by unfold microAddr; omega))
      · have read := Mem.writeSram_bytes wf (microAddr n (a + i)) (leBytes 22 (words.getD i 0).toNat)
        rwa [len, ← e] at read
    · unfold microAddr at hb
      rw [frame b (by unfold microAddr; omega)]
      exact others b (by unfold microAddr; omega)
    · rw [e]; exact dram
    · rw [e]; exact check
    · rw [e]; exact nvm

/-! ### Notices -/

theorem Dev.noted_noticeOf (d : Dev) {e : Detection} (x : List Byte) (he : e.det / 4096 = 3) :
    d.Noted e.det e.block e.master e.access e.addr (d.noticeOf e x) := by
  have captured := d.fec_capture_self e
  rw [d.classOf_notice e he] at captured
  unfold Dev.Noted
  rw [d.fec_noticeOf, captured]

/-- The capture stands between states that agree in it and in the count of the Plain. -/
theorem Dev.Noted.congr {det block master access addr : Nat} {a b c d : Dev} (h : b.Noted det block master access addr c)
    (fec : b.fec 3 = a.fec 3) (count : b.count = a.count) (after : d.fec 3 = c.fec 3) :
    a.Noted det block master access addr d := by
  unfold Dev.Noted Dev.now at *
  rw [after, h, fec, count]

/-! ### A descriptor is taken -/

/-- A field of one dword reads from that dword alone. -/
theorem Dev.get_of_dword {d d' : Dev} {f : Fld} (hw : f.w ≠ 64) (h : d'.reg f.addr = d.reg f.addr) : d'.get f = d.get f := by
  unfold Dev.get
  rw [if_neg hw, if_neg hw, h]

/-- The registers that a load reports through: ring 4 and PL_SEQ, with all of HDMA but the state of the link. -/
def loadReg (a : Nat) : Prop := 0x70000 ≤ a ∧ a < 0x80000 ∧ a ≠ 0x70010

theorem loadReg.inner {a : Nat} (h : loadReg a) : inner a := .inl ⟨h.1, h.2.1⟩

theorem Dev.linkUse_flt (d : Dev) : d.linkUse.flt = d.flt := by unfold Dev.linkUse; split_ifs <;> simp

theorem Dev.linkUse_host (d : Dev) : d.linkUse.host = d.host := by unfold Dev.linkUse; split_ifs <;> simp

theorem Dev.linkUse_drc (d : Dev) : d.linkUse.drc = d.drc := d.wrote_linkUse.still.drc

theorem Dev.linkUse_elapsed (d : Dev) : d.linkUse.elapsed = d.elapsed := d.wrote_linkUse.still.elapsed

/-- HDMA takes a ring 4 descriptor: the next SEQ is expected. -/
def Dev.takeLoad (x : LoadDesc) (d : Dev) : Dev := d.linkUse.put HDMA.PL_SEQ ((x.seq.toNat + 1) % 2 ^ 32)

theorem Dev.wrote_takeLoad (d : Dev) (x : LoadDesc) : d.Wrote [0x70010, 0x7000C] (d.takeLoad x) :=
  (d.wrote_linkUse.mono (by simp [HDMA.LINK_STATUS_L0])).trans
    ((Dev.wrote_put_dword _ HDMA.PL_SEQ _ (by decide)).mono (by simp [HDMA.PL_SEQ]))

theorem Dev.takeLoad_flt (d : Dev) (x : LoadDesc) : (d.takeLoad x).flt = d.flt := (Dev.put_flt _ _ _).trans d.linkUse_flt

theorem Dev.takeLoad_host (d : Dev) (x : LoadDesc) : (d.takeLoad x).host = d.host := (Dev.put_host _ _ _).trans d.linkUse_host

theorem Dev.takeLoad_eng (d : Dev) (x : LoadDesc) (n : Nat) : (d.takeLoad x).eng n = d.eng n := (d.wrote_takeLoad x).eng n

theorem Dev.takeLoad_get (d : Dev) (x : LoadDesc) {f : Fld} (h : 0x70014 ≤ f.addr) : (d.takeLoad x).get f = d.get f :=
  (d.wrote_takeLoad x).get (by simp; omega) (by simp; omega)

theorem Dev.takeLoad_seq (d : Dev) (x : LoadDesc) : (d.takeLoad x).get HDMA.PL_SEQ = (x.seq.toNat + 1) % 2 ^ 32 :=
  (Dev.get_put_self _ HDMA.PL_SEQ _ (by decide)).trans (Nat.mod_mod _ _)

/-- The status of a descriptor is posted, the ring advances, and IRQ signals. -/
def Dev.finishLoad (x : LoadDesc) (index status : Nat) (d : Dev) : Dev :=
  ((d.post (.status (index % max 1 (d.get (HDMA.RING_SIZE 4))) status)).advanceRing 4 1).when (x.ctrl.getLsbD 5) (Dev.signal 8)

/-- Ring 4 is open for the next descriptor of a type. -/
def Dev.loadOpen (d : Dev) (typ : Nat) (x : LoadDesc) : Bool :=
  d.hdmaRuns && d.ringLive 4 && 0 < d.ringCount 4 && d.mayTake poolHT 4 1 && loadType x == typ

theorem Dev.linkUse_loadCond (d : Dev) (x : LoadDesc) : d.linkUse.loadCond x = d.loadCond x := by
  have seq : d.linkUse.get HDMA.PL_SEQ = d.get HDMA.PL_SEQ :=
    Dev.get_of_dword (by decide) (d.wrote_linkUse.regs _ (by decide))
  unfold Dev.loadCond
  rw [seq]

section Descriptor
variable {typ : Nat} {x : LoadDesc} {f : Dev → Mem → Nat × Dev × Mem} {m : Mem} {d : Dev}

theorem loadDescriptor_closed (h : d.loadOpen typ x = false) : loadDescriptor typ x f m d = (d, m) := by
  unfold Dev.loadOpen at h
  unfold loadDescriptor
  rw [h]; rfl

theorem loadDescriptor_illegal (h : d.loadOpen typ x = true) (hc : d.loadCond x ≠ 0) :
    loadDescriptor typ x f m d =
      ((d.linkUse.put (HDMA.RING_STATUS_DESC_ERR 4) 1).descInvalid 4 (d.loadCond x) (d.get (HDMA.RING_DEV_PTR 4)), m) := by
  unfold Dev.loadOpen at h
  unfold loadDescriptor
  rw [if_pos h, ← d.linkUse_loadCond]
  exact if_pos (d.linkUse_loadCond x ▸ hc)

theorem loadDescriptor_legal (h : d.Loads typ x) :
    loadDescriptor typ x f m d = ((f (d.takeLoad x) m).2.1.finishLoad x (d.get (HDMA.RING_DEV_PTR 4)) (f (d.takeLoad x) m).1,
      (f (d.takeLoad x) m).2.2) := by
  obtain ⟨runs, live, count, may, type_, legal⟩ := h
  have open_ : (d.hdmaRuns && d.ringLive 4 && decide (0 < d.ringCount 4) && d.mayTake poolHT 4 1 && loadType x == typ) = true := by
    simp only [runs, live, count, type_, decide_true, beq_self_eq_true, Bool.true_and, Bool.and_true]
    exact may
  unfold loadDescriptor
  rw [if_pos open_]
  exact if_neg (not_not.2 (d.linkUse_loadCond x ▸ legal))

end Descriptor

/-! ### Its report -/

theorem Dev.when_signal_posted (d : Dev) (b : Bool) (v : Nat) : (d.when b (Dev.signal v)).host.posted = d.host.posted := by
  unfold Dev.when; split_ifs <;> rfl

theorem Dev.same_when_signal (d : Dev) (b : Bool) (v : Nat) : d.Same (d.when b (Dev.signal v)) := by
  unfold Dev.when
  split_ifs
  · exact d.same_signal v
  · exact .refl d

theorem Dev.when_signal_flt (d : Dev) (b : Bool) (v : Nat) : (d.when b (Dev.signal v)).flt = d.flt := by
  unfold Dev.when; split_ifs <;> rfl

theorem Dev.post_posted (d : Dev) (w : Posted) : (d.post w).host.posted = d.host.posted ++ [w] := by
  unfold Dev.post Dev.modHost
  rw [d.linkUse_host]

theorem Dev.wrote_post (d : Dev) (w : Posted) : d.Wrote [HDMA.LINK_STATUS_L0.addr] (d.post w) :=
  d.wrote_linkUse.trans ⟨by constructor <;> rfl, fun _ _ => rfl⟩

theorem Dev.post_flt (d : Dev) (w : Posted) : (d.post w).flt = d.flt := d.linkUse_flt

theorem Dev.wrote_advanceRing (d : Dev) (r k : Nat) : d.Wrote [(HDMA.RING_DEV_PTR r).addr] (d.advanceRing r k) := by
  unfold Dev.advanceRing
  dsimp only
  split_ifs
  · exact (Dev.Same.refl d).wrote _
  · exact (d.wrote_put_field _ _ _ (by decide)).trans ⟨by constructor <;> rfl, fun _ _ => rfl⟩

theorem Dev.advanceRing_posted (d : Dev) (r k : Nat) : (d.advanceRing r k).host.posted = d.host.posted := by
  unfold Dev.advanceRing
  dsimp only
  split_ifs
  · rfl
  · show (d.put _ _).host.posted = _
    rw [Dev.put_host]

theorem Dev.advanceRing_flt (d : Dev) (r k : Nat) : (d.advanceRing r k).flt = d.flt := by
  unfold Dev.advanceRing
  dsimp only
  split_ifs
  · rfl
  · exact Dev.put_flt _ _ _

theorem Dev.advanceRing_ptr (d : Dev) (r : Nat) :
    (d.advanceRing r 1).get (HDMA.RING_DEV_PTR r) = (d.get (HDMA.RING_DEV_PTR r) + 1) % 2 ^ 32 :=
  (d.get_put_field _ (by decide)).trans (Nat.mod_mod _ _)

section Finish
variable (d : Dev) (x : LoadDesc) (index status : Nat)

theorem Dev.wrote_finishLoad : d.Wrote [0x70010, 0x70214] (d.finishLoad x index status) :=
  (((d.wrote_post _).mono (by simp [HDMA.LINK_STATUS_L0])).trans
    ((Dev.wrote_advanceRing _ 4 1).mono (by simp [HDMA.RING_DEV_PTR]))).trans ((Dev.same_when_signal _ _ _).wrote _)

theorem Dev.finishLoad_posted : (d.finishLoad x index status).host.posted =
    d.host.posted ++ [.status (index % max 1 (d.get (HDMA.RING_SIZE 4))) status] := by
  unfold Dev.finishLoad
  rw [Dev.when_signal_posted, Dev.advanceRing_posted, Dev.post_posted]

theorem Dev.finishLoad_flt : (d.finishLoad x index status).flt = d.flt := by
  unfold Dev.finishLoad
  rw [Dev.when_signal_flt, Dev.advanceRing_flt, Dev.post_flt]

theorem Dev.finishLoad_ptr : (d.finishLoad x index status).get (HDMA.RING_DEV_PTR 4) = (d.get (HDMA.RING_DEV_PTR 4) + 1) % 2 ^ 32 := by
  unfold Dev.finishLoad
  rw [(Dev.same_when_signal _ _ _).get, Dev.advanceRing_ptr, (d.wrote_post _).get (by decide) (by decide)]

theorem Dev.finishLoad_get {f : Fld} (h : 0x70218 ≤ f.addr) : (d.finishLoad x index status).get f = d.get f :=
  (d.wrote_finishLoad x index status).get (by simp; omega) (by simp; omega)

end Finish

/-- A descriptor carried out in a way that keeps HDMA's registers, and that posts `before`. -/
theorem Dev.loaded_finishLoad {d e : Dev} {x : LoadDesc} {before : List Posted} (status : Nat)
    (posted : e.host.posted = d.host.posted ++ before) (elapsed : e.elapsed = d.elapsed)
    (regs : ∀ a, loadReg a → e.reg a = (d.takeLoad x).reg a) :
    d.Loaded status x before (e.finishLoad x (d.get (HDMA.RING_DEV_PTR 4)) status) := by
  have ring {f : Fld} (low : 0x70014 ≤ f.addr) (high : f.addr < 0x7fff0) : e.get f = d.get f :=
    (Dev.get_of_regs (regs _ ⟨by omega, by omega, by omega⟩) (regs _ ⟨by omega, by omega, by omega⟩)).trans (d.takeLoad_get x low)
  have size : e.get (HDMA.RING_SIZE 4) = d.get (HDMA.RING_SIZE 4) := ring (by decide) (by decide)
  have ptr : e.get (HDMA.RING_DEV_PTR 4) = d.get (HDMA.RING_DEV_PTR 4) := ring (by decide) (by decide)
  have seq : (e.finishLoad x (d.get (HDMA.RING_DEV_PTR 4)) status).get HDMA.PL_SEQ = (d.takeLoad x).get HDMA.PL_SEQ :=
    Dev.get_of_dword (by decide)
      (((e.wrote_finishLoad x _ status).regs _ (by decide)).trans (regs _ ⟨by decide, by decide, by decide⟩))
  refine ⟨?_, ?_, ?_, ?_⟩
  · rw [Dev.finishLoad_posted, posted, size]
  · rw [Dev.finishLoad_ptr, ptr]
  · rw [seq, d.takeLoad_seq]
  · exact (e.wrote_finishLoad x _ status).still.elapsed.trans elapsed

/-- The same for what the units' frame keeps. -/
theorem Dev.Keeps.loaded {E : Nat → Prop} {d e : Dev} {x : LoadDesc} (h : (d.takeLoad x).Keeps loadReg E e) (status : Nat) :
    d.Loaded status x [] (e.finishLoad x (d.get (HDMA.RING_DEV_PTR 4)) status) :=
  Dev.loaded_finishLoad status (by rw [h.posted, d.takeLoad_host, List.append_nil])
    (h.elapsed.trans (d.wrote_takeLoad x).still.elapsed) h.reg

end Sys2Proof.Machine
end


/-! ## Ring 4: a refused descriptor, PROGRAM and PINNED (O57) -/
section
namespace Sys2Proof.Machine

/-! ### A command that carries out a descriptor -/

/-- A command does what `f` makes of a descriptor, as long as no detection waits. -/
def Carries (i : Instr) (typ : Nat) (x : LoadDesc) (f : Dev → Mem → Nat × Dev × Mem) : Prop :=
  ∀ s : State, let y := loadDescriptor typ x f s.mem s.dev
    y.1.Calm → exec i s = .next { s with dev := y.1, mem := y.2 }

theorem program_carries (x : LoadDesc) (words : List (BitVec 176)) : Carries (.program x words) 0 x (loadProgram x words) :=
  fun _ _ => rfl

theorem pinned_carries (x : LoadDesc) (bytes : List Byte) : Carries (.pinned x bytes) 1 x (loadPinned x bytes) := fun _ _ => rfl

theorem exec_dramWrite (x : LoadDesc) (bytes : List Byte) (ok : Bool) (s : State) : exec (.dramWrite x bytes ok) s =
    .next { s with dev := (loadDescriptor 2 x (loadDramWrite x bytes ok) s.mem s.dev).1.settle
                   mem := (loadDescriptor 2 x (loadDramWrite x bytes ok) s.mem s.dev).2 } := rfl

theorem exec_dramRead (x : LoadDesc) (bad : List Nat) (s : State) : exec (.dramRead x bad) s =
    .next { s with dev := (loadDescriptor 3 x (loadDramRead x bad) s.mem s.dev).1.settle
                   mem := (loadDescriptor 3 x (loadDramRead x bad) s.mem s.dev).2 } := rfl

theorem dramWrite_carries (x : LoadDesc) (bytes : List Byte) (ok : Bool) :
    Carries (.dramWrite x bytes ok) 2 x (loadDramWrite x bytes ok) := by
  intro s y h
  rw [exec_dramWrite, Dev.settle_calm h]

theorem dramRead_carries (x : LoadDesc) (bad : List Nat) : Carries (.dramRead x bad) 3 x (loadDramRead x bad) := by
  intro s y h
  rw [exec_dramRead, Dev.settle_calm h]

/-- Ring 4 stops at a descriptor (R379). -/
def Dev.stopLoad (cond index : Nat) (d : Dev) : Dev := (d.linkUse.put (HDMA.RING_STATUS_DESC_ERR 4) 1).descInvalid 4 cond index

theorem Dev.noted_descInvalid (d : Dev) (cond index : Nat) : d.Noted 0x300E 7 0xFF 0 0 (d.descInvalid 4 cond index) := by
  unfold Dev.descInvalid
  exact (d.noted_noticeOf (e := plainDetection 0x300E 7) _ rfl).congr rfl rfl (Dev.fec_of_flt (Dev.signal_flt _ _) 3)

theorem Dev.descInvalid_posted (d : Dev) (r cond index : Nat) : (d.descInvalid r cond index).host.posted = d.host.posted := by
  unfold Dev.descInvalid
  rw [Dev.signal_posted]
  exact d.noticeOf_posted _ _

theorem Dev.descInvalid_alarms (d : Dev) (r cond index : Nat) : (d.descInvalid r cond index).flt.alarms = d.flt.alarms :=
  d.noticeOf_alarms _ _

theorem Dev.stopLoad_spec (d : Dev) (cond index : Nat) : let d' := d.stopLoad cond index
    (d.Calm → d'.Calm) ∧ d'.on (HDMA.RING_STATUS_DESC_ERR 4) = true ∧
      d'.get (HDMA.RING_DEV_PTR 4) = d.get (HDMA.RING_DEV_PTR 4) ∧ d'.host.posted = d.host.posted ∧
      d.Wrote [(HDMA.RING_STATUS_DESC_ERR 4).addr, HDMA.LINK_STATUS_L0.addr] d' ∧ d.Noted 0x300E 7 0xFF 0 0 d' := by
  have flt : (d.linkUse.put (HDMA.RING_STATUS_DESC_ERR 4) 1).flt = d.flt := (Dev.put_flt _ _ _).trans d.linkUse_flt
  have host : (d.linkUse.put (HDMA.RING_STATUS_DESC_ERR 4) 1).host = d.host := (Dev.put_host _ _ _).trans d.linkUse_host
  have wrote : d.Wrote [(HDMA.RING_STATUS_DESC_ERR 4).addr, HDMA.LINK_STATUS_L0.addr] (d.linkUse.put (HDMA.RING_STATUS_DESC_ERR 4) 1) :=
    (d.wrote_linkUse.mono (by simp)).trans ((Dev.wrote_put_dword _ _ _ (by decide)).mono (by simp))
  have same := Dev.same_descInvalid (d.linkUse.put (HDMA.RING_STATUS_DESC_ERR 4) 1) 4 cond index
  refine ⟨fun c => ?_, ?_, ?_, ?_, wrote.trans (same.wrote _), ?_⟩
  · exact (Dev.descInvalid_alarms _ _ _ _).trans ((congrArg FltSt.alarms flt).trans c)
  · exact (same.on _).trans (Dev.on_put_bit _ _ true (by decide) rfl)
  · exact (same.get _).trans (Dev.get_of_dword (by decide) (wrote.regs _ (by decide)))
  · exact (Dev.descInvalid_posted _ _ _ _).trans (congrArg HostSt.posted host)
  · exact (Dev.noted_descInvalid _ cond index).congr (Dev.fec_of_flt flt 3) wrote.still.count rfl

section Carried
variable {i : Instr} {typ : Nat} {x : LoadDesc} {f : Dev → Mem → Nat × Dev × Mem} (hi : Carries i typ x f) {s : State}
include hi

theorem Carries.closed (hc : s.dev.Calm) (h : s.dev.loadOpen typ x = false) : exec i s = .next s := by
  have stays : loadDescriptor typ x f s.mem s.dev = (s.dev, s.mem) := loadDescriptor_closed h
  have run := hi s
  rw [stays] at run
  exact run hc

/-- A descriptor that fails its check (R379). -/
theorem Carries.illegal (hc : s.dev.Calm) (h : s.dev.loadOpen typ x = true) (bad : s.dev.loadCond x ≠ 0) :
    ∃ t, exec i s = .next t ∧ t.mem = s.mem ∧ t.dev.on (HDMA.RING_STATUS_DESC_ERR 4) = true ∧
      t.dev.get (HDMA.RING_DEV_PTR 4) = s.dev.get (HDMA.RING_DEV_PTR 4) ∧ t.dev.host.posted = s.dev.host.posted ∧
      s.dev.Wrote [(HDMA.RING_STATUS_DESC_ERR 4).addr, HDMA.LINK_STATUS_L0.addr] t.dev ∧ s.dev.Noted 0x300E 7 0xFF 0 0 t.dev := by
  have stop : loadDescriptor typ x f s.mem s.dev = (s.dev.stopLoad (s.dev.loadCond x) (s.dev.get (HDMA.RING_DEV_PTR 4)), s.mem) :=
    loadDescriptor_illegal h bad
  obtain ⟨calm, spec⟩ := s.dev.stopLoad_spec (s.dev.loadCond x) (s.dev.get (HDMA.RING_DEV_PTR 4))
  have run := hi s
  rw [stop] at run
  exact ⟨_, run (calm hc), rfl, spec⟩

/-- A legal descriptor: what `f` does, and the report. -/
theorem Carries.done (hl : s.dev.Loads typ x) (hc : (f (s.dev.takeLoad x) s.mem).2.1.Calm) :
    exec i s = .next { s with
      dev := (f (s.dev.takeLoad x) s.mem).2.1.finishLoad x (s.dev.get (HDMA.RING_DEV_PTR 4)) (f (s.dev.takeLoad x) s.mem).1
      mem := (f (s.dev.takeLoad x) s.mem).2.2 } := by
  have run := hi s
  rw [loadDescriptor_legal hl] at run
  exact run ((congrArg FltSt.alarms (Dev.finishLoad_flt _ _ _ _)).trans hc)

/-- A legal descriptor whose carrying out keeps HDMA's registers. -/
theorem Carries.loaded {status : Nat} {e : Dev} {m : Mem} {E : Nat → Prop} (hl : s.dev.Loads typ x) (hc : s.dev.Calm)
    (hf : f (s.dev.takeLoad x) s.mem = (status, e, m)) (k : (s.dev.takeLoad x).Keeps loadReg E e) :
    ∃ t, exec i s = .next t ∧ s.dev.Loaded status x [] t.dev ∧ t.mem = m ∧
      t.dev = e.finishLoad x (s.dev.get (HDMA.RING_DEV_PTR 4)) status := by
  have run := hi.done hl (by rw [hf]; exact k.alarms.trans ((congrArg FltSt.alarms (s.dev.takeLoad_flt x)).trans hc))
  rw [hf] at run
  exact ⟨_, run, k.loaded status, rfl, rfl⟩

end Carried

/-! ### PROGRAM (R97) -/

section Program
variable {d : Dev} {x : LoadDesc} (words : List (BitVec 176)) (m : Mem)

theorem loadEng_lt (x : LoadDesc) : loadEng x < 4 := Nat.mod_lt _ (by decide)

/-- The load of a program is given up. -/
def Dev.refusesLoad (d : Dev) (n : Nat) : Bool := (d.eng n).loadRefused || (!(d.eng n).loading && d.engState n != seqIdle)

/-- An idle engine goes to LOADING. -/
def Dev.beginLoad (n : Nat) (d : Dev) : Dev := if d.engState n = seqIdle then d.engGo n seqLoading else d

/-- A descriptor of a program counts for its engine; the last one brings the program's name. -/
def Dev.countLoad (x : LoadDesc) (n : Nat) (d : Dev) : Dev :=
  let d := d.modEng n fun e => { e with loading := !loadLast x }
  if loadLast x then d.put (SEQ.PROG_ID n) x.ident.toNat else d

theorem Dev.takeLoad_engState (d : Dev) (x : LoadDesc) (n : Nat) : (d.takeLoad x).engState n = d.engState n :=
  d.takeLoad_get x (by simp [SEQ.STATUS_STATE]; omega)

theorem Dev.takeLoad_refusesLoad (d : Dev) (x : LoadDesc) (n : Nat) : (d.takeLoad x).refusesLoad n = d.refusesLoad n := by
  unfold Dev.refusesLoad; rw [d.takeLoad_eng, d.takeLoad_engState]

theorem loadProgram_refused (h : d.refusesLoad (loadEng x) = true) :
    loadProgram x words d m = (2, d.modEng (loadEng x) fun e => { e with loadRefused := !loadLast x }, m) := by
  have h' : ((d.eng (loadEng x)).loadRefused || (!(d.eng (loadEng x)).loading && decide (d.engState (loadEng x) ≠ seqIdle))) = true := by
    simpa [Dev.refusesLoad, bne_iff_ne] using h
  exact if_pos h'

theorem loadProgram_taken (h : d.refusesLoad (loadEng x) = false) :
    loadProgram x words d m = (1, (d.beginLoad (loadEng x)).countLoad x (loadEng x),
      m.writeWords (loadEng x) x.devAddr.toNat words x.count.toNat) := by
  have h' : ¬ ((d.eng (loadEng x)).loadRefused || (!(d.eng (loadEng x)).loading && decide (d.engState (loadEng x) ≠ seqIdle))) = true := by
    simpa [Dev.refusesLoad, bne_iff_ne] using h
  exact if_neg h'

/-- What the start of a load leaves of the sequencer. -/
theorem Dev.beginLoad_keeps (d : Dev) (n : Nat) :
    d.Keeps (fun a => inner a ∧ a ≠ (SEQ.STATUS_STATE n).addr) (fun _ => True) (d.beginLoad n) :=
  .ite (Dev.Keeps.engGo (fun _ h => h.1) (.refl d) n seqLoading fun _ h => h.2) (.refl d)

/-- The state LOADING shows. -/
theorem Dev.engGo_loading {d : Dev} {n : Nat} (h : d.engState n ≠ seqLoading) : (d.engGo n seqLoading).engState n = seqLoading := by
  have regs : (d.engGo n seqLoading).regs = ((d.calStart n).put (SEQ.STATUS_STATE n) seqLoading).regs := by
    unfold Dev.engGo
    rw [if_neg h, if_pos rfl]
    exact (Dev.recommits_smcBeginAll _).regs.trans ((Dev.same_signal _ _).trans (Dev.same_stateSignal _ _)).regs
  exact (Dev.get_congr regs _).trans ((Dev.get_put_self _ _ _ (by simp [SEQ.STATUS_STATE])).trans rfl)

theorem Dev.beginLoad_state (d : Dev) (n : Nat) :
    (d.beginLoad n).engState n = if d.engState n = seqIdle then seqLoading else d.engState n := by
  unfold Dev.beginLoad
  split_ifs with h
  · exact Dev.engGo_loading (h ▸ by decide)
  · rfl

theorem Dev.countLoad_keeps (d : Dev) (x : LoadDesc) (n : Nat) : d.Keeps loadReg noEng (d.countLoad x n) := by
  have counted : d.Keeps loadReg noEng (d.modEng n fun e => { e with loading := !loadLast x }) :=
    (Dev.Keeps.refl d).modEng _ id
  exact .ite (counted.put _ fun a ha => by simp [loadReg, SEQ.PROG_ID] at *; omega) counted

theorem Dev.countLoad_loading (d : Dev) (x : LoadDesc) (n : Nat) : ((d.countLoad x n).eng n).loading = !loadLast x := by
  unfold Dev.countLoad
  dsimp only
  split_ifs
  · exact congrArg EngSt.loading ((congrArg (Tab.get _ · n) (Dev.put_engs _ _ _)).trans (d.eng_modEng_self n _))
  · rw [Dev.eng_modEng_self]

theorem Dev.countLoad_state (d : Dev) (x : LoadDesc) (n : Nat) : (d.countLoad x n).engState n = d.engState n := by
  unfold Dev.countLoad Dev.engState
  dsimp only
  split_ifs
  · exact Dev.get_put_apart _ _ (by simp [SEQ.PROG_ID, SEQ.STATUS_STATE, Fld.Apart]; omega)
  · rfl

theorem Dev.countLoad_ident (d : Dev) (x : LoadDesc) (n : Nat) :
    (d.countLoad x n).get (SEQ.PROG_ID n) = if loadLast x then x.ident.toNat else d.get (SEQ.PROG_ID n) := by
  unfold Dev.countLoad
  dsimp only
  split_ifs
  · exact (Dev.get_put_pair _ _ _ rfl).trans (Nat.mod_eq_of_lt x.ident.isLt)
  · rfl

/-- What a descriptor of a program does (R97, R378). -/
theorem program_spec {s : State} {x : LoadDesc} (words : List (BitVec 176)) (hc : s.dev.Calm)
    (hl : s.dev.Loads 0 x) :
    let d := s.dev
    let n := loadEng x
    let a := x.devAddr.toNat
    (d.refusesLoad n = true → ∃ t, exec (.program x words) s = .next t ∧ d.Loaded 2 x [] t.dev ∧ t.mem = s.mem ∧
      (t.dev.eng n).loadRefused = !loadLast x ∧ t.dev.engState n = d.engState n) ∧
    (d.refusesLoad n = false → ∃ t, exec (.program x words) s = .next t ∧ d.Loaded 1 x [] t.dev ∧
      (t.dev.eng n).loading = !loadLast x ∧ t.dev.engState n = (if d.engState n = seqIdle then seqLoading else d.engState n) ∧
      t.dev.get (SEQ.PROG_ID n) = (if loadLast x then x.ident.toNat else d.get (SEQ.PROG_ID n)) ∧
      t.mem = s.mem.writeWords n a words x.count.toNat) := by
  intro d n a
  have shown {e : Dev} {k : Nat} : (e.finishLoad x (d.get (HDMA.RING_DEV_PTR 4)) k).engState n = e.engState n :=
    Dev.finishLoad_get _ _ _ _ (by simp [SEQ.STATUS_STATE]; omega)
  constructor
  · intro h
    have f := loadProgram_refused words s.mem (x := x) ((d.takeLoad_refusesLoad x n).trans h)
    obtain ⟨t, run, loaded, mem, dev⟩ := (program_carries x words).loaded hl hc f ((Dev.Keeps.refl _).modEng (E := noEng) _ id)
    refine ⟨t, run, loaded, mem, ?_, ?_⟩
    · rw [dev, (Dev.wrote_finishLoad _ _ _ _).eng, Dev.eng_modEng_self]
    · rw [dev, shown]; exact d.takeLoad_engState x n
  · intro h
    have f := loadProgram_taken words s.mem (x := x) ((d.takeLoad_refusesLoad x n).trans h)
    have begun := (d.takeLoad x).beginLoad_keeps n
    have keeps : (d.takeLoad x).Keeps loadReg noEng (((d.takeLoad x).beginLoad n).countLoad x n) :=
      (begun.mono (fun a ha => ⟨ha.inner, by have := ha.2.1; simp [SEQ.STATUS_STATE]; omega⟩) fun _ => False.elim).trans
        (Dev.countLoad_keeps _ x n)
    obtain ⟨t, run, loaded, mem, dev⟩ := (program_carries x words).loaded hl hc f keeps
    refine ⟨t, run, loaded, ?_, ?_, ?_, mem⟩
    · rw [dev, (Dev.wrote_finishLoad _ _ _ _).eng, Dev.countLoad_loading]
    · rw [dev, shown, Dev.countLoad_state, Dev.beginLoad_state, d.takeLoad_engState]
    · have four := loadEng_lt x
      have ident : ((d.takeLoad x).beginLoad n).get (SEQ.PROG_ID n) = (d.takeLoad x).get (SEQ.PROG_ID n) :=
        begun.get (by simp [inner, SEQ.PROG_ID, SEQ.STATUS_STATE]; omega)
          (.inl (by simp [inner, SEQ.PROG_ID, SEQ.STATUS_STATE]; omega))
      rw [dev, Dev.finishLoad_get _ _ _ _ (by simp [SEQ.PROG_ID]; omega), Dev.countLoad_ident, ident,
        d.takeLoad_get x (by simp [SEQ.PROG_ID]; omega)]

end Program

/-! ### PINNED (R108) -/

section Pinned
variable {d : Dev} {x : LoadDesc} (bytes : List Byte) (m : Mem)

theorem Dev.takeLoad_stride (d : Dev) (x : LoadDesc) (n : Nat) : (d.takeLoad x).stride n = d.stride n := by
  unfold Dev.stride Dev.posCount
  rw [d.takeLoad_get x (by simp [SEQ.CONFIG_POS_COUNT]; omega)]

theorem Dev.takeLoad_pinnedRange (d : Dev) (x : LoadDesc) (n : Nat) : (d.takeLoad x).pinnedRange n = d.pinnedRange n := by
  unfold Dev.pinnedRange
  rw [d.takeLoad_get x (by simp [SEQ.CACHE_PART_P_BASE]; omega), d.takeLoad_get x (by simp [SEQ.CACHE_PART_P_GRAN]; omega)]

/-- The pinned vectors of a descriptor lie in the engine's region. -/
def Dev.pinnedRoom (d : Dev) (x : LoadDesc) : Prop :=
  x.devAddr.toNat + x.count.toNat ≤ (d.pinnedRange (loadEng x)).2 / d.stride (loadEng x)

/-- Where they lie. -/
def Dev.pinnedFirst (d : Dev) (x : LoadDesc) : Nat :=
  (d.pinnedRange (loadEng x)).1 + x.devAddr.toNat * d.stride (loadEng x)

theorem loadPinned_busy (h : d.engState (loadEng x) ≠ seqIdle) : loadPinned x bytes d m = (2, d, m) := if_pos h

theorem loadPinned_full (h : d.engState (loadEng x) = seqIdle) (r : ¬ d.pinnedRoom x) : loadPinned x bytes d m = (3, d, m) :=
  (if_neg (not_not.2 h)).trans (if_pos (Nat.lt_of_not_le r))

theorem loadPinned_stored (h : d.engState (loadEng x) = seqIdle) (r : d.pinnedRoom x) :
    loadPinned x bytes d m = (1, d.cacheWritten (d.pinnedFirst x) (x.count.toNat * d.stride (loadEng x)) false,
      m.writeSram (d.pinnedFirst x) (padTo (x.count.toNat * d.stride (loadEng x)) bytes)) :=
  (if_neg (not_not.2 h)).trans (if_neg (Nat.not_lt.2 r))

theorem Dev.cacheWritten_keeps (d : Dev) (a len : Nat) (bad : Bool) : d.Keeps loadReg noEng (d.cacheWritten a len bad) :=
  ⟨rfl, rfl, rfl, fun _ _ => rfl, rfl, fun _ _ => rfl, fun _ _ => rfl, fun _ _ => rfl⟩

/-- What a descriptor of pinned vectors does (R108, R378). -/
theorem pinned_spec {s : State} {x : LoadDesc} (bytes : List Byte) (hc : s.dev.Calm) (hl : s.dev.Loads 1 x) :
    let d := s.dev
    let n := loadEng x
    let Done (status : Nat) (m : Mem) : Prop := ∃ t, exec (.pinned x bytes) s = .next t ∧ d.Loaded status x [] t.dev ∧ t.mem = m
    (d.engState n ≠ seqIdle → Done 2 s.mem) ∧ (d.engState n = seqIdle → ¬ d.pinnedRoom x → Done 3 s.mem) ∧
      (d.engState n = seqIdle → d.pinnedRoom x → Done 1
        (s.mem.writeSram (d.pinnedFirst x) (padTo (x.count.toNat * d.stride n) bytes))) := by
  intro d n Done
  have state := d.takeLoad_engState x n
  have room : (d.takeLoad x).pinnedRoom x = d.pinnedRoom x := by
    unfold Dev.pinnedRoom; rw [d.takeLoad_pinnedRange, d.takeLoad_stride]
  have first : (d.takeLoad x).pinnedFirst x = d.pinnedFirst x := by
    unfold Dev.pinnedFirst; rw [d.takeLoad_pinnedRange, d.takeLoad_stride]
  have done {status : Nat} {e : Dev} {m : Mem} (hf : loadPinned x bytes (d.takeLoad x) s.mem = (status, e, m))
      (k : (d.takeLoad x).Keeps loadReg noEng e) : Done status m := by
    obtain ⟨t, run, loaded, mem, -⟩ := (pinned_carries x bytes).loaded hl hc hf k
    exact ⟨t, run, loaded, mem⟩
  refine ⟨fun h => ?_, fun h r => ?_, fun h r => ?_⟩
  · exact done (loadPinned_busy bytes s.mem (state.trans_ne h)) (.refl _)
  · exact done (loadPinned_full bytes s.mem (state.trans h) (room ▸ r)) (.refl _)
  · have f := loadPinned_stored bytes s.mem (state.trans h) (room ▸ r)
    rw [first, d.takeLoad_stride] at f
    exact done f (Dev.cacheWritten_keeps _ _ _ _)

end Pinned

end Sys2Proof.Machine
end


/-! ## Ring 4: transfers to and from DRAM (O57) -/
section
namespace Sys2Proof.Machine

/-! ### The reaction to a fault of HDMA -/

theorem Dev.stopBlock_hdma (d : Dev) : d.stopBlock 7 =
    ((d.each (pathsOfBlock 7) (Dev.discardPath 7)).resetBlockRegs 7).each (pathsOfBlock 7) Dev.toToken := by
  unfold Dev.stopBlock
  simp

section Reset
variable {E : Nat → Prop} {a d : Dev} (h : a.Keeps noReg E d)
include h

theorem Dev.Keeps.replaceReq (c : Nat) : a.Keeps noReg E (d.replaceReq c) :=
  (Dev.Keeps.ite (p := d.flt.replace = 0) (h.signal 2) h).trans
    ⟨rfl, rfl, rfl, fun _ _ => rfl, rfl, fun _ _ => rfl, fun _ _ => rfl, fun _ _ => rfl⟩

theorem Dev.Keeps.noteDiscarded (b p n x y : Nat) : a.Keeps noReg E (d.noteDiscarded b p n x y) := h.ite (h.modBlk _ _)

theorem Dev.Keeps.discardPath (b p : Nat) : a.Keeps noReg E (d.discardPath b p) :=
  h.ite ((((h.give _ _ _).puts _ _).setPath _ _).noteDiscarded _ _ _ _ _)

theorem Dev.Keeps.disciplineRecord (p : Nat) (b : Bool) : a.Keeps noReg E (d.disciplineRecord p b) := h.emit _ _ _

theorem Dev.Keeps.setDisc (x : Nat) : a.Keeps noReg E { d with disc := x } :=
  h.trans ⟨rfl, rfl, rfl, fun _ _ => rfl, rfl, fun _ _ => rfl, fun _ _ => rfl, fun _ _ => rfl⟩

theorem Dev.Keeps.toToken (p : Nat) : a.Keeps noReg E (d.toToken p) := h.ite ((h.setDisc _).disciplineRecord p false)

theorem Dev.Keeps.resetBlockRegs {b : Nat} (hb : b ≠ 0x18) : a.Keeps noReg E (d.resetBlockRegs b) := by
  unfold Dev.resetBlockRegs
  rw [if_neg hb]
  refine Dev.Keeps.each ?_ _ _ fun _ _ _ hd => hd.puts _ _
  exact h.trans ⟨rfl, rfl, rfl, fun _ _ => rfl, rfl, fun _ _ => rfl, fun _ _ => rfl, fun _ => False.elim⟩

/-- HDMA stops (R351). -/
theorem Dev.Keeps.stopHdma : a.Keeps noReg E (d.stopBlock 7) := by
  rw [d.stopBlock_hdma]
  exact (Dev.Keeps.resetBlockRegs (h.each _ _ fun p _ _ hd => hd.discardPath 7 p) (by decide)).each _ _ fun p _ _ hd => hd.toToken p

end Reset

/-- The reaction to an FC1 of HDMA leaves the first-error captures but FC3's and what was posted. -/
theorem Dev.reactFc1_hdma (d : Dev) {a : Detection} (hb : a.block = 7) (hd : a.det ≠ 0x1006) :
    d.Keeps noReg noEng (d.reactFc1 a) := by
  unfold Dev.reactFc1
  rw [hb]
  dsimp only
  rw [if_neg hd, if_neg (show ¬ 7 = 8 by decide)]
  have start (g : BlkRt → BlkRt) : d.Keeps noReg noEng (d.modBlk 7 g) := (Dev.Keeps.refl d).modBlk 7 g
  split_ifs
  · exact .refl d
  · exact .refl d
  · exact start _
  · exact (((start _).puts _ _).replaceReq 3).stopHdma
  · exact (start _).stopHdma

/-! ### A barred line (R312) -/

/-- The detection of a line that a descriptor may not address. -/
def lineDetection (access a : Nat) : Detection := ⟨0x1009, 7, 7, access, a, 0, false⟩

theorem Dev.classOf_line (d : Dev) (access a : Nat) : d.classOf (lineDetection access a) = 0 ∨ d.classOf (lineDetection access a) = 1 := by
  unfold Dev.classOf
  dsimp only
  split_ifs
  · exact .inl rfl
  · exact .inl rfl
  · exact .inr (by simp [lineDetection])

theorem Dev.classOf_line_fc1 (d : Dev) (access a : Nat) (h : d.on FLT.REACT_OOS_FC0 = false) : d.classOf (lineDetection access a) = 1 := by
  simp [Dev.classOf, lineDetection, h]

theorem Dev.react_line (d : Dev) (access a : Nat) : d.Keeps noReg noEng (d.react (lineDetection access a)) := by
  unfold Dev.react
  rcases d.classOf_line access a with h | h <;> rw [h]
  · exact d.reactFc0_keeps _
  · exact d.reactFc1_hdma rfl (by simp [lineDetection])

theorem Dev.alarm_posted (d : Dev) (a : Detection) : (d.alarm a).host.posted = d.host.posted := by
  have record : (d.faultRecord a).host = d.host := d.emitAt_host _ _ _ _ _ _
  have signalled : (((d.faultRecord a).capture a).signal 0).host.posted = d.host.posted :=
    (Dev.signal_posted _ _).trans (congrArg HostSt.posted record)
  unfold Dev.alarm
  dsimp only
  split_ifs
  · exact signalled
  · exact signalled

theorem Dev.alarm_alarms {d : Dev} (h : d.Calm) (a : Detection) : (d.alarm a).flt.alarms = [] ∨ (d.alarm a).flt.alarms = [a] := by
  have record : (d.faultRecord a).flt.alarms = [] := (congrArg FltSt.alarms (Dev.alarms_emitAt _ _ _ _ _ _ _)).trans h
  unfold Dev.alarm
  dsimp only
  split_ifs
  · exact .inl record
  · exact .inr (congrArg (· ++ [a]) record)

/-- A barred line is reported, as an FC1 and as an error of the transfer (R312, R346). -/
def Dev.barLine (access a : Nat) (d : Dev) : Dev := (d.alarm (lineDetection access a)).transferErr a access

section Barred
variable {d : Dev} (access a : Nat)

theorem Dev.same_barLine : d.Same (d.barLine access a) := (d.same_alarm _).trans (Dev.same_noticeOf _ _ _)

theorem Dev.barLine_posted : (d.barLine access a).host.posted = d.host.posted :=
  (Dev.noticeOf_posted _ _ _).trans (d.alarm_posted _)

theorem Dev.barLine_alarms (h : d.Calm) : (d.barLine access a).flt.alarms = [] ∨ (d.barLine access a).flt.alarms = [lineDetection access a] := by
  have e : (d.barLine access a).flt.alarms = (d.alarm (lineDetection access a)).flt.alarms := Dev.noticeOf_alarms _ _ _
  rw [e]; exact Dev.alarm_alarms h _

theorem Dev.barLine_fec (free : (d.fec 1).valid = false) (react : d.on FLT.REACT_OOS_FC0 = false) :
    (d.barLine access a).fec 1 = ⟨0x1009, 7, 7, a, d.now, 0, access, true⟩ := by
  have class_ := d.classOf_line_fc1 access a react
  have captured := d.fec_capture_self (lineDetection access a)
  rw [class_, free] at captured
  have notice : (d.barLine access a).fec 1 = (d.alarm (lineDetection access a)).fec 1 := by
    unfold Dev.barLine Dev.transferErr
    rw [Dev.fec_noticeOf, Dev.fec_capture_ne _ _ (by rw [Dev.classOf_notice _ _ (by simp)]; decide)]
  rw [notice, Dev.fec_alarm, captured]
  rfl

/-- With nothing or a barred line waiting, the command ends with the captures and the posts it had before the reactions. -/
theorem Dev.settle_line {e : Dev} (h : e.flt.alarms = [] ∨ e.flt.alarms = [lineDetection access a]) :
    e.settle.fec 1 = e.fec 1 ∧ e.settle.host.posted = e.host.posted := by
  rcases h with h | h
  · rw [Dev.settle_calm h]; exact ⟨rfl, rfl⟩
  · obtain ⟨fec, posted⟩ := Dev.settle_alone h fun e => e.react_line access a
    exact ⟨fec 1 (by decide), posted⟩

end Barred

/-! ### The bytes of lines -/

theorem bytesAt_append (t : Tab Byte) (a x y : Nat) : bytesAt t a (x + y) = bytesAt t a x ++ bytesAt t (a + x) y := by
  simp [bytesAt, List.range_add, Function.comp_def, Nat.add_assoc]

theorem Mem.lines_bytes (m : Mem) (a : Nat) :
    ∀ n, (List.range n).flatMap (fun i => m.dramBytes (a + 64 * i) 64) = m.dramBytes a (64 * n)
  | 0 => rfl
  | n + 1 => by
    rw [List.range_succ, List.flatMap_append, m.lines_bytes a n, Nat.mul_succ]
    simpa [Mem.dramBytes] using (bytesAt_append m.dram a (64 * n) 64).symm

theorem flatMap_zero_lines : ∀ l : List Nat, l.flatMap (fun _ => List.replicate 64 (0 : Byte)) = List.replicate (64 * l.length) 0
  | [] => rfl
  | _ :: l => by rw [List.flatMap_cons, flatMap_zero_lines l, List.replicate_append_replicate, List.length_cons]; congr 1; omega

theorem readLines_good (m : Mem) (a n : Nat) : readLines m a n [] = m.dramBytes a (64 * n) := m.lines_bytes a n

/-- Lines from a barred one on are zeros (R378). -/
theorem readLines_barred (m : Mem) (a : Nat) {i n : Nat} (h : i ≤ n) :
    readLines m a n (List.range' i (n - i)) = m.dramBytes a (64 * i) ++ List.replicate (64 * (n - i)) 0 := by
  obtain ⟨k, rfl⟩ := Nat.exists_eq_add_of_le h
  unfold readLines
  rw [List.range_add, List.flatMap_append, Nat.add_sub_cancel_left]
  congr 1
  · rw [← m.lines_bytes a i]
    refine List.flatMap_congr fun j hj => if_neg ?_
    have := List.mem_range.1 hj
    simp [List.mem_range'_1]; omega
  · have len := flatMap_zero_lines ((List.range k).map (i + ·))
    rw [List.length_map, List.length_range] at len
    rw [← len]
    refine List.flatMap_congr fun j hj => if_pos ?_
    obtain ⟨x, hx, rfl⟩ := List.mem_map.1 hj
    have := List.mem_range.1 hx
    simp [List.mem_range'_1]; omega

/-- The lines of a transfer that are in error are those of `bad` that it has. -/
theorem readLines_filter (m : Mem) (a n : Nat) (bad : List Nat) :
    readLines m a n (bad.filter (· < n)) = readLines m a n bad := by
  refine List.flatMap_congr fun j hj => ?_
  have lt := List.mem_range.1 hj
  have same : (bad.filter (· < n)).contains j = bad.contains j := by
    rw [Bool.eq_iff_iff]; simp [lt]
  rw [same]

/-! ### Uncorrectable lines (R329) -/

theorem Dev.get_lt_of_dword (d : Dev) {f : Fld} (hw : f.w ≠ 64) : d.get f < 2 ^ f.w := by
  unfold Dev.get
  rw [if_neg hw]
  exact Nat.mod_lt _ (by positivity)

theorem Dev.dramUe_count (d : Dev) (x : Nat) : (d.dramUe x).get DRC.UE_COUNT = min (2 ^ 32 - 1) (d.get DRC.UE_COUNT + 1) :=
  (Dev.get_put_apart _ _ (by decide)).trans (d.get_bumpBy_self _ 1 (by decide))

theorem Dev.dramUe_last (d : Dev) (x : Nat) : (d.dramUe x).get DRC.LAST_UE = x % 2 ^ 64 := Dev.get_put_pair _ _ _ rfl

theorem Dev.dramUe_flt (d : Dev) (x : Nat) : (d.dramUe x).flt = d.flt := (Dev.put_flt _ _ _).trans (Dev.put_flt _ _ _)

theorem Dev.Keeps.dramUe {a d : Dev} (h : a.Keeps loadReg noEng d) (x : Nat) : a.Keeps loadReg noEng (d.dramUe x) :=
  (h.bumpBy 1 fun y hy => by simp [loadReg, DRC.UE_COUNT] at *; omega).put _ fun y hy => by simp [loadReg, DRC.LAST_UE] at *; omega

/-- Uncorrectable lines count, and the last one's address shows. -/
def Dev.dramUes (a : Nat) (ks : List Nat) (d : Dev) : Dev := d.each ks fun k => Dev.dramUe (a + 64 * k)

theorem Dev.dramUes_cons (a k : Nat) (ks : List Nat) (d : Dev) : d.dramUes a (k :: ks) = (d.dramUe (a + 64 * k)).dramUes a ks := rfl

theorem Dev.dramUes_count (a : Nat) (ks : List Nat) (d : Dev) :
    (d.dramUes a ks).get DRC.UE_COUNT = min (2 ^ 32 - 1) (d.get DRC.UE_COUNT + ks.length) := by
  induction ks generalizing d with
  | nil =>
    have : d.get DRC.UE_COUNT < 2 ^ 32 := Dev.get_lt_of_dword d (by decide)
    exact (Nat.min_eq_right (Nat.le_sub_one_of_lt this)).symm
  | cons k ks ih => rw [Dev.dramUes_cons, ih, Dev.dramUe_count, List.length_cons]; omega

theorem Dev.dramUes_last (a : Nat) (k : Nat) (ks : List Nat) (d : Dev) :
    (d.dramUes a (k :: ks)).get DRC.LAST_UE = (a + 64 * (k :: ks).getLastD 0) % 2 ^ 64 := by
  induction ks generalizing d k with
  | nil => exact d.dramUe_last _
  | cons j ks ih => rw [Dev.dramUes_cons, ih]; rfl

theorem Dev.dramUes_keeps (a : Nat) (ks : List Nat) (d : Dev) : d.Keeps loadReg noEng (d.dramUes a ks) :=
  (Dev.Keeps.refl d).each _ _ fun _ _ _ hd => hd.dramUe _

theorem Dev.dramUes_flt (a : Nat) (ks : List Nat) (d : Dev) : (d.dramUes a ks).flt = d.flt :=
  Dev.each_keeps (P := fun e => e.flt = d.flt) _ _ _ rfl fun _ _ e he => (e.dramUe_flt _).trans he

end Sys2Proof.Machine
end


/-! ## Ring 4: DRAM_WRITE and DRAM_READ, and the obligation (O57) -/
section
namespace Sys2Proof.Machine

/-! ### What a taken descriptor leaves of DRC -/

section Taken
variable (d : Dev) (x : LoadDesc)

theorem Dev.takeLoad_usable : (d.takeLoad x).get DRC.USABLE = d.get DRC.USABLE := d.takeLoad_get x (by decide)

theorem Dev.takeLoad_dramUp : (d.takeLoad x).dramUp = d.dramUp := by
  unfold Dev.dramUp Dev.on; rw [d.takeLoad_get x (by decide)]

theorem Dev.takeLoad_decodeDram (a : Nat) : (d.takeLoad x).decodeDram a = d.decodeDram a := by
  unfold Dev.decodeDram Dev.pairBytes Dev.dataRows Dev.pairsIn
  rw [d.takeLoad_get x (f := DRC.STATUS_IN_SERVICE) (by decide), d.takeLoad_get x (f := DRC.CONFIG_MAP) (by decide),
    d.takeLoad_get x (f := DRC.CONFIG_DENSITY) (by decide)]

theorem Dev.takeLoad_barredLine (y : LoadDesc) : (d.takeLoad x).barredLine y = d.barredLine y := by
  unfold Dev.barredLine Dev.dramAllowed
  simp only [d.takeLoad_usable, d.takeLoad_decodeDram, d.takeLoad_get x (f := DRC.CONFIG_MAP) (by decide),
    d.takeLoad_get x (f := DRC.MAP3_PORT 4) (by decide)]

theorem Dev.takeLoad_react : (d.takeLoad x).on FLT.REACT_OOS_FC0 = d.on FLT.REACT_OOS_FC0 := by
  unfold Dev.on; rw [(d.wrote_takeLoad x).get (by decide) (by decide)]

theorem Dev.takeLoad_fec (c : Nat) : (d.takeLoad x).fec c = d.fec c := Dev.fec_of_flt (d.takeLoad_flt x) c

theorem Dev.takeLoad_now : (d.takeLoad x).now = d.now := congrArg BitVec.toNat (d.wrote_takeLoad x).still.count

theorem Dev.takeLoad_calm {d : Dev} (h : d.Calm) : (d.takeLoad x).Calm := (congrArg FltSt.alarms (d.takeLoad_flt x)).trans h

theorem Dev.takeLoad_posted : (d.takeLoad x).host.posted = d.host.posted := congrArg HostSt.posted (d.takeLoad_host x)

end Taken

theorem Dev.barredLine_lt {d : Dev} {x : LoadDesc} {i : Nat} (h : d.barredLine x = some i) : i < x.count.toNat :=
  List.mem_range.1 (List.mem_of_find?_eq_some h)

/-! ### The branches of a transfer -/

section Branches
variable {d : Dev} {x : LoadDesc} (m : Mem)

/-- The transfer lies in what DRAM has (R308). -/
def Dev.fitsDram (d : Dev) (x : LoadDesc) : Prop := x.devAddr.toNat + 64 * x.count.toNat ≤ d.get DRC.USABLE

/-- Every line's row is noted. -/
def Dev.noteRows (x : LoadDesc) (d : Dev) : Dev :=
  d.each (List.range x.count.toNat) fun i => Dev.noteRow (x.devAddr.toNat + 64 * i)

section Write
variable (bytes : List Byte) {ok : Bool}

theorem loadDramWrite_range (h : ¬ d.fitsDram x) : loadDramWrite x bytes ok d m = (3, d, m) := if_pos (Nat.lt_of_not_le h)

theorem loadDramWrite_failed (h : d.fitsDram x) (bad : d.dramUp = false ∨ ok = false) :
    loadDramWrite x bytes ok d m = (4, d.transferErr x.devAddr.toNat 6, m) := by
  refine (if_neg (Nat.not_lt.2 h)).trans (if_pos ?_)
  rcases bad with bad | bad <;> simp [bad]

theorem loadDramWrite_passed (h : d.fitsDram x) (up : d.dramUp = true) (good : ok = true) :
    loadDramWrite x bytes ok d m = match d.barredLine x with
      | some i => (4, d.barLine 6 (x.devAddr.toNat + 64 * i), m)
      | none => (1, d.noteRows x, m.writeDram x.devAddr.toNat (padTo (64 * x.count.toNat) bytes)) := by
  refine (if_neg (Nat.not_lt.2 h)).trans (if_neg ?_)
  simp [up, good]

end Write

section Read
variable {bad : List Nat}

theorem loadDramRead_range (h : ¬ d.fitsDram x) : loadDramRead x bad d m = (3, d, m) := if_pos (Nat.lt_of_not_le h)

theorem loadDramRead_failed (h : d.fitsDram x) (down : d.dramUp = false) :
    loadDramRead x bad d m =
      (4, (d.transferErr x.devAddr.toNat 5).post (.data x.hostAddr.toNat (List.replicate (64 * x.count.toNat) 0)), m) := by
  refine (if_neg (Nat.not_lt.2 h)).trans (if_pos ?_)
  simp [down]

theorem loadDramRead_barred (h : d.fitsDram x) (up : d.dramUp = true) {i : Nat} (bar : d.barredLine x = some i) :
    loadDramRead x bad d m = (4, (d.barLine 5 (x.devAddr.toNat + 64 * i)).post (.data x.hostAddr.toNat
      (readLines m x.devAddr.toNat x.count.toNat (List.range' i (x.count.toNat - i)))), m) := by
  refine (if_neg (Nat.not_lt.2 h)).trans ((if_neg (by simp [up])).trans ?_)
  rw [bar]; rfl

theorem loadDramRead_passed (h : d.fitsDram x) (up : d.dramUp = true) (bar : d.barredLine x = none) :
    loadDramRead x bad d m = match bad.filter (· < x.count.toNat) with
      | [] => (1, d.post (.data x.hostAddr.toNat (readLines m x.devAddr.toNat x.count.toNat [])), m)
      | k :: rest => (4, ((d.dramUes x.devAddr.toNat (k :: rest)).transferErr (x.devAddr.toNat + 64 * k) 5).post
          (.data x.hostAddr.toNat (readLines m x.devAddr.toNat x.count.toNat (k :: rest))), m) := by
  refine (if_neg (Nat.not_lt.2 h)).trans ((if_neg (by simp [up])).trans ?_)
  rw [bar]; rfl

end Read
end Branches

theorem Dev.Keeps.noteRow {A E : Nat → Prop} {a d : Dev} (h : a.Keeps A E d) (x : Nat) : a.Keeps A E (d.noteRow x) :=
  h.ite (h.trans ⟨rfl, rfl, rfl, fun _ _ => rfl, rfl, fun _ _ => rfl, fun _ _ => rfl, fun _ _ => rfl⟩)

theorem Dev.noteRows_keeps (d : Dev) (x : LoadDesc) : d.Keeps loadReg noEng (d.noteRows x) :=
  (Dev.Keeps.refl d).each _ _ fun _ _ _ hd => hd.noteRow _

theorem Dev.Keeps.transferErr {A E : Nat → Prop} {a d : Dev} (h : a.Keeps A E d) (x access : Nat) :
    a.Keeps A E (d.transferErr x access) := h.noticeOf _ (by simp)

theorem Dev.transferErr_noted (d : Dev) (x access : Nat) : d.Noted 0x300C 7 7 access x (d.transferErr x access) :=
  d.noted_noticeOf (e := ⟨0x300C, 7, 7, access, x, 0, false⟩) _ (by simp)

theorem Dev.Keeps.loaded_post {E : Nat → Prop} {d e : Dev} {x : LoadDesc} (h : (d.takeLoad x).Keeps loadReg E e) (w : Posted)
    (status : Nat) : d.Loaded status x [w] ((e.post w).finishLoad x (d.get (HDMA.RING_DEV_PTR 4)) status) :=
  Dev.loaded_finishLoad status (by rw [Dev.post_posted, h.posted, d.takeLoad_posted])
    ((e.wrote_post w).still.elapsed.trans (h.elapsed.trans (d.wrote_takeLoad x).still.elapsed))
    fun a ha => ((e.wrote_post w).regs a (by have := ha.2.2; simpa [HDMA.LINK_STATUS_L0] using this)).trans (h.reg a ha)

/-! ### Transfers (R312, R328, R329, R378) -/

/-- The error of a transfer stands in the capture when the descriptor is done. -/
theorem Dev.Noted.finished {d e f : Dev} {x : LoadDesc} {access a : Nat} (status : Nat) (he : e.flt = d.flt) (hc : e.count = d.count)
    (hf : f.flt = (e.transferErr a access).flt) :
    d.Noted 0x300C 7 7 access a (f.finishLoad x (d.get (HDMA.RING_DEV_PTR 4)) status) :=
  (e.transferErr_noted a access).congr (Dev.fec_of_flt he 3) hc (Dev.fec_of_flt ((f.finishLoad_flt x _ status).trans hf) 3)

/-- A barred line: the report, the posts, and the capture of the FC1, with the reactions done. -/
theorem Dev.barred_finish {d e : Dev} {x : LoadDesc} {access a : Nat} {before : List Posted} (hc : d.Calm)
    (flt : e.flt = ((d.takeLoad x).barLine access a).flt) (posted : e.host.posted = d.host.posted ++ before)
    (size : e.get (HDMA.RING_SIZE 4) = d.get (HDMA.RING_SIZE 4)) :
    let t := (e.finishLoad x (d.get (HDMA.RING_DEV_PTR 4)) 4).settle
    t.host.posted = d.host.posted ++ before ++ [.status (d.get (HDMA.RING_DEV_PTR 4) % max 1 (d.get (HDMA.RING_SIZE 4))) 4] ∧
      ((d.fec 1).valid = false → d.on FLT.REACT_OOS_FC0 = false → t.fec 1 = ⟨0x1009, 7, 7, a, d.now, 0, access, true⟩) := by
  have flt' := (e.finishLoad_flt x (d.get (HDMA.RING_DEV_PTR 4)) 4).trans flt
  have waits := (d.takeLoad x).barLine_alarms access a (d.takeLoad_calm x hc)
  rw [← flt'] at waits
  obtain ⟨fec, posts⟩ := Dev.settle_line access a waits
  refine ⟨?_, fun free react => ?_⟩
  · rw [posts, Dev.finishLoad_posted, posted, size]
  · rw [fec, Dev.fec_of_flt flt', Dev.barLine_fec access a ((congrArg Fec.valid (d.takeLoad_fec x 1)).trans free)
      ((d.takeLoad_react x).trans react), d.takeLoad_now]

section Transfers
variable {s : State} {x : LoadDesc} (hc : s.dev.Calm)
include hc

theorem dramWrite_spec (bytes : List Byte) (ok : Bool) (hl : s.dev.Loads 2 x) :
    let d := s.dev
    let a := x.devAddr.toNat
    let Done (status : Nat) (m : Mem) (P : Dev → Prop) : Prop :=
      ∃ t, exec (.dramWrite x bytes ok) s = .next t ∧ d.Loaded status x [] t.dev ∧ t.mem = m ∧ P t.dev
    (¬ d.fitsDram x → Done 3 s.mem fun _ => True) ∧
    (d.fitsDram x → d.dramUp = false ∨ ok = false → Done 4 s.mem (d.Noted 0x300C 7 7 6 a)) ∧
    (d.fitsDram x → d.dramUp = true → ok = true →
      (d.barredLine x = none → Done 1 (s.mem.writeDram a (padTo (64 * x.count.toNat) bytes)) fun _ => True) ∧
      (∀ i, d.barredLine x = some i → ∃ t, exec (.dramWrite x bytes ok) s = .next t ∧ t.mem = s.mem ∧
        t.dev.host.posted = d.host.posted ++ [.status (d.get (HDMA.RING_DEV_PTR 4) % max 1 (d.get (HDMA.RING_SIZE 4))) 4] ∧
        ((d.fec 1).valid = false → d.on FLT.REACT_OOS_FC0 = false →
          t.dev.fec 1 = ⟨0x1009, 7, 7, a + 64 * i, d.now, 0, 6, true⟩))) := by
  intro d a Done
  have fits : (d.takeLoad x).fitsDram x = d.fitsDram x := by unfold Dev.fitsDram; rw [d.takeLoad_usable]
  have carries := dramWrite_carries x bytes ok
  refine ⟨fun h => ?_, fun h bad => ?_, fun h up good => ⟨fun bar => ?_, fun i bar => ?_⟩⟩
  · obtain ⟨t, run, loaded, mem, -⟩ := carries.loaded hl hc (loadDramWrite_range s.mem bytes (fits ▸ h)) (.refl (E := noEng) _)
    exact ⟨t, run, loaded, mem, trivial⟩
  · obtain ⟨t, run, loaded, mem, dev⟩ := carries.loaded hl hc
      (loadDramWrite_failed s.mem bytes (fits ▸ h) (bad.imp_left ((d.takeLoad_dramUp x).trans ·)))
      ((Dev.Keeps.refl (E := noEng) _).transferErr _ _)
    exact ⟨t, run, loaded, mem, dev ▸ Dev.Noted.finished 4 (d.takeLoad_flt x) (d.wrote_takeLoad x).still.count rfl⟩
  · have f := loadDramWrite_passed s.mem bytes (fits ▸ h) ((d.takeLoad_dramUp x).trans up) good
    rw [d.takeLoad_barredLine, bar] at f
    obtain ⟨t, run, loaded, mem, -⟩ := carries.loaded hl hc f (Dev.noteRows_keeps _ x)
    exact ⟨t, run, loaded, mem, trivial⟩
  · have f := loadDramWrite_passed s.mem bytes (fits ▸ h) ((d.takeLoad_dramUp x).trans up) good
    rw [d.takeLoad_barredLine, bar] at f
    have report := d.barred_finish (before := []) hc (x := x) rfl
      (((d.takeLoad x).barLine_posted 6 (a + 64 * i)).trans ((d.takeLoad_posted x).trans (List.append_nil _).symm))
      (((d.takeLoad x).same_barLine 6 (a + 64 * i)).get _ |>.trans (d.takeLoad_get x (by decide)))
    rw [List.append_nil] at report
    have run := exec_dramWrite x bytes ok s
    rw [loadDescriptor_legal hl, f] at run
    exact ⟨_, run, rfl, report⟩

theorem dramRead_spec (bad : List Nat) (hl : s.dev.Loads 3 x) :
    let d := s.dev
    let a := x.devAddr.toNat
    let n := x.count.toNat
    let Done (status : Nat) (before : List Byte) (P : Dev → Prop) : Prop := ∃ t, exec (.dramRead x bad) s = .next t ∧
      t.mem = s.mem ∧ d.Loaded status x [.data x.hostAddr.toNat before] t.dev ∧ P t.dev
    (¬ d.fitsDram x → ∃ t, exec (.dramRead x bad) s = .next t ∧ t.mem = s.mem ∧ d.Loaded 3 x [] t.dev) ∧
    (d.fitsDram x → d.dramUp = false → Done 4 (List.replicate (64 * n) 0) (d.Noted 0x300C 7 7 5 a)) ∧
    (d.fitsDram x → d.dramUp = true →
      (d.barredLine x = none →
        (bad.filter (· < n) = [] → Done 1 (readLines s.mem a n []) fun d' => d'.get DRC.UE_COUNT = d.get DRC.UE_COUNT) ∧
        (∀ k rest, bad.filter (· < n) = k :: rest → Done 4 (readLines s.mem a n (k :: rest)) fun d' =>
          d'.get DRC.UE_COUNT = min (2 ^ 32 - 1) (d.get DRC.UE_COUNT + 1 + rest.length) ∧
          d'.get DRC.LAST_UE = (a + 64 * (k :: rest).getLastD 0) % 2 ^ 64 ∧ d.Noted 0x300C 7 7 5 (a + 64 * k) d')) ∧
      (∀ i, d.barredLine x = some i → ∃ t, exec (.dramRead x bad) s = .next t ∧ t.mem = s.mem ∧
        t.dev.host.posted = d.host.posted ++
          [.data x.hostAddr.toNat (readLines s.mem a n (List.range' i (n - i))),
           .status (d.get (HDMA.RING_DEV_PTR 4) % max 1 (d.get (HDMA.RING_SIZE 4))) 4] ∧
        ((d.fec 1).valid = false → d.on FLT.REACT_OOS_FC0 = false →
          t.dev.fec 1 = ⟨0x1009, 7, 7, a + 64 * i, d.now, 0, 5, true⟩))) := by
  intro d a n Done
  have fits : (d.takeLoad x).fitsDram x = d.fitsDram x := by unfold Dev.fitsDram; rw [d.takeLoad_usable]
  have carries := dramRead_carries x bad
  have calm := d.takeLoad_calm x hc
  have sent {status : Nat} {e : Dev} {bs : List Byte}
      (hf : loadDramRead x bad (d.takeLoad x) s.mem = (status, e.post (.data x.hostAddr.toNat bs), s.mem))
      (k : (d.takeLoad x).Keeps loadReg noEng e) :
      ∃ t, exec (.dramRead x bad) s = .next t ∧ t.mem = s.mem ∧ d.Loaded status x [.data x.hostAddr.toNat bs] t.dev ∧
        t.dev = (e.post (.data x.hostAddr.toNat bs)).finishLoad x (d.get (HDMA.RING_DEV_PTR 4)) status := by
    have run := carries.done hl (by rw [hf]; exact (congrArg FltSt.alarms (e.post_flt _)).trans (k.alarms.trans calm))
    rw [hf] at run
    exact ⟨_, run, rfl, k.loaded_post _ _, rfl⟩
  have shown {status : Nat} {e : Dev} {bs : List Byte} {f : Fld} (h : 0x70218 ≤ f.addr) :
      ((e.post (.data x.hostAddr.toNat bs)).finishLoad x (d.get (HDMA.RING_DEV_PTR 4)) status).get f = e.get f :=
    (Dev.finishLoad_get _ x _ status h).trans
      ((e.wrote_post _).get (by simp [HDMA.LINK_STATUS_L0]; omega) (by simp [HDMA.LINK_STATUS_L0]; omega))
  refine ⟨fun h => ?_, fun h down => ?_, fun h up => ⟨fun bar => ⟨fun none_ => ?_, fun k rest some_ => ?_⟩, fun i bar => ?_⟩⟩
  · obtain ⟨t, run, loaded, mem, -⟩ := carries.loaded hl hc (loadDramRead_range s.mem (fits ▸ h)) (.refl (E := noEng) _)
    exact ⟨t, run, mem, loaded⟩
  · obtain ⟨t, run, mem, loaded, dev⟩ := sent (loadDramRead_failed s.mem (fits ▸ h) ((d.takeLoad_dramUp x).trans down))
      ((Dev.Keeps.refl _).transferErr _ _)
    exact ⟨t, run, mem, loaded, dev ▸ Dev.Noted.finished 4 (d.takeLoad_flt x) (d.wrote_takeLoad x).still.count (Dev.post_flt _ _)⟩
  · have f := loadDramRead_passed s.mem (bad := bad) (fits ▸ h) ((d.takeLoad_dramUp x).trans up) ((d.takeLoad_barredLine x x).trans bar)
    rw [none_] at f
    obtain ⟨t, run, mem, loaded, dev⟩ := sent f (.refl _)
    exact ⟨t, run, mem, loaded, by rw [dev]; exact (shown (by decide)).trans (d.takeLoad_get x (by decide))⟩
  · have f := loadDramRead_passed s.mem (bad := bad) (fits ▸ h) ((d.takeLoad_dramUp x).trans up) ((d.takeLoad_barredLine x x).trans bar)
    rw [some_] at f
    obtain ⟨t, run, mem, loaded, dev⟩ := sent f ((Dev.dramUes_keeps a (k :: rest) _).transferErr _ _)
    have same := ((d.takeLoad x).dramUes a (k :: rest)).same_noticeOf ⟨0x300C, 7, 7, 5, a + 64 * k, 0, false⟩ (leBytes 8 (a + 64 * k))
    refine ⟨t, run, mem, loaded, ?_, ?_, ?_⟩
    · rw [dev, shown (by decide)]
      refine (same.get _).trans ?_
      rw [Dev.dramUes_count, d.takeLoad_get x (by decide), List.length_cons]; omega
    · rw [dev, shown (by decide)]
      exact (same.get _).trans (Dev.dramUes_last a k rest _)
    · rw [dev]
      exact Dev.Noted.finished 4 ((Dev.dramUes_flt _ _ _).trans (d.takeLoad_flt x))
        ((Dev.dramUes_keeps _ _ _).count.trans (d.wrote_takeLoad x).still.count) (Dev.post_flt _ _)
  · have f := loadDramRead_barred s.mem (bad := bad) (fits ▸ h) ((d.takeLoad_dramUp x).trans up) ((d.takeLoad_barredLine x x).trans bar)
    have report := d.barred_finish hc (x := x) (access := 5) (a := a + 64 * i)
      (before := [.data x.hostAddr.toNat (readLines s.mem a n (List.range' i (n - i)))])
      (e := ((d.takeLoad x).barLine 5 (a + 64 * i)).post (.data x.hostAddr.toNat (readLines s.mem a n (List.range' i (n - i)))))
      (Dev.post_flt _ _) (by rw [Dev.post_posted, Dev.barLine_posted, d.takeLoad_posted])
      ((Dev.get_of_dword (by decide) ((Dev.wrote_post _ _).regs _ (by decide))).trans
        ((((d.takeLoad x).same_barLine 5 (a + 64 * i)).get _).trans (d.takeLoad_get x (by decide))))
    rw [List.append_assoc] at report
    have run := exec_dramRead x bad s
    rw [loadDescriptor_legal hl, f] at run
    exact ⟨_, run, rfl, report⟩

end Transfers

/-! ### The obligation -/

theorem loadPlace_lt (x : LoadDesc) {k : Nat} (h : k < x.count.toNat) : x.devAddr.toNat + 64 * k < 2 ^ 64 := by
  have := x.devAddr.isLt
  have := x.count.isLt
  omega

/-- Settles O57: a rule for each type of descriptor, over what every descriptor of ring 4 does first and last. -/
theorem loadsAreCarriedOut : Obligations.LoadsAreCarriedOut := by
  intro s x d n a count index inv calm
  have wf : s.mem.wf = true := inv
  refine ⟨fun words bytes ok bad i hi => ?_, fun words hl => ?_, fun bytes hl => ?_, fun bytes ok hl => ?_, fun bad hl => ?_⟩
  · have any {i : Instr} {typ : Nat} {f : Dev → Mem → Nat × Dev × Mem} (carries : Carries i typ x f) :
        let opens := d.hdmaRuns && d.ringLive 4 && 0 < d.ringCount 4 && d.mayTake 6 4 1 && loadType x == typ
        (opens = false → exec i s = .next s) ∧
        (opens = true → d.loadCond x ≠ 0 → ∃ t, exec i s = .next t ∧ t.mem = s.mem ∧
          t.dev.on (HDMA.RING_STATUS_DESC_ERR 4) = true ∧ t.dev.get (HDMA.RING_DEV_PTR 4) = index ∧
          t.dev.host.posted = d.host.posted ∧ d.Wrote [(HDMA.RING_STATUS_DESC_ERR 4).addr, HDMA.LINK_STATUS_L0.addr] t.dev ∧
          d.Noted 0x300E 7 0xFF 0 0 t.dev) :=
      ⟨carries.closed calm, carries.illegal calm⟩
    simp only [List.mem_cons, List.not_mem_nil, or_false] at hi
    rcases hi with rfl | rfl | rfl | rfl
    · exact any (program_carries x words)
    · exact any (pinned_carries x bytes)
    · exact any (dramWrite_carries x bytes ok)
    · exact any (dramRead_carries x bad)
  · obtain ⟨refused, taken⟩ := program_spec words calm hl
    refine ⟨refused, fun h => ?_⟩
    obtain ⟨t, run, loaded, loading, state, ident, mem⟩ := taken h
    obtain ⟨-, stored, others, dram, check, nvm⟩ := Mem.writeWords_spec wf n a words count
    exact ⟨t, run, loaded, loading, state, ident, by rwa [mem], by rwa [mem], by rwa [mem], by rwa [mem], by rwa [mem]⟩
  · obtain ⟨busy, full, stored⟩ := pinned_spec bytes calm hl
    refine ⟨busy, full, fun idle room => ?_⟩
    obtain ⟨t, run, loaded, mem⟩ := stored idle room
    have len := padTo_length (count * d.stride n) bytes
    have read := Mem.writeSram_bytes wf (d.pinnedFirst x) (padTo (count * d.stride n) bytes)
    rw [len] at read
    refine ⟨t, run, loaded, by rw [mem]; exact read, fun b hb => ?_, by rw [mem]; rfl, by rw [mem]; rfl, by rw [mem]; rfl⟩
    rw [mem]
    exact Mem.writeSram_frame _ _ _ wf (by rw [len]; exact hb)
  · obtain ⟨outside, failed, passed⟩ := dramWrite_spec calm bytes ok hl
    refine ⟨fun h => ?_, fun h bad => ?_, fun h up good => ⟨fun bar => ?_, (passed h up good).2⟩⟩
    · obtain ⟨t, run, loaded, mem, -⟩ := outside (Nat.not_le.2 h)
      exact ⟨t, run, loaded, mem⟩
    · exact failed h bad
    · obtain ⟨t, run, loaded, mem, -⟩ := (passed h up good).1 bar
      have len := padTo_length (64 * count) bytes
      have read := Mem.writeDram_bytes wf a (padTo (64 * count) bytes)
      rw [len] at read
      refine ⟨t, run, loaded, by rw [mem]; exact read, fun b hb => ?_, by rw [mem]; rfl, by rw [mem]; rfl, by rw [mem]; rfl⟩
      rw [mem]
      exact Mem.writeDram_frame _ _ _ wf (by rw [len]; exact hb)
  · obtain ⟨outside, failed, passed⟩ := dramRead_spec calm bad hl
    refine ⟨fun h => outside (Nat.not_le.2 h), failed, fun h up => ⟨fun bar => ⟨fun good => ?_, fun k rest hk => ?_⟩, fun i bar => ?_⟩⟩
    · have none_ : bad.filter (· < count) = [] := List.filter_eq_nil_iff.2 fun k hk => by simpa using good k hk
      have done := ((passed h up).1 bar).1 none_
      rwa [readLines_good] at done
    · obtain ⟨t, run, mem, loaded, count_, last, noted⟩ := ((passed h up).1 bar).2 k rest hk
      rw [← hk, readLines_filter] at loaded
      refine ⟨t, run, mem, loaded, count_, last.trans (Nat.mod_eq_of_lt (loadPlace_lt x ?_)), noted⟩
      have mem_ : (k :: rest).getLastD 0 ∈ bad.filter (· < count) := by
        rw [hk, List.getLastD_cons]; exact List.getLastD_mem_cons
      simpa using (List.mem_filter.1 mem_).2
    · have done := (passed h up).2 i bar
      rwa [readLines_barred _ _ (Dev.barredLine_lt bar).le] at done

end Sys2Proof.Machine
end


/-! ## The sequencer: what a pause and an abort leave (O19, O21) -/
section
namespace Sys2Proof.Machine

/-! ### Time passes -/

theorem Dev.until_eng (d : Dev) (t n : Nat) : (d.until t).eng n = d.eng n := by unfold Dev.eng; rw [d.until_engs]

theorem Dev.until_tset (d : Dev) (t n : Nat) : (d.until t).tset n = d.tset n := by unfold Dev.tset; rw [d.until_tsets]

theorem Dev.until_engState (d : Dev) (t n : Nat) : (d.until t).engState n = d.engState n := d.until_get t _

theorem Dev.until_calm {d : Dev} (h : d.Calm) (t : Nat) : (d.until t).Calm := by
  unfold Dev.until
  split_ifs
  · exact h
  · exact h

/-! ### The resume record (R95) -/

/-- The dwords of an engine that show its state and the cause of its resume record. -/
def stopReg (n a : Nat) : Prop := a = 0x100010 + 0x10000 * n ∨ a = 0x100080 + 0x10000 * n

/-- A resume record of a cause is valid. -/
def Dev.ShowsRes (n cause : Nat) (d : Dev) : Prop :=
  d.get (SEQ.RES_INFO_CAUSE n) = cause ∧ d.on (SEQ.STATUS_RES_VALID n) = true

theorem Dev.captureRes_keeps (d : Dev) (n cause : Nat) (ended : Bool) (at_ : Nat) :
    ∃ e : Dev, (e.put (SEQ.RES_INFO_CAUSE n) cause).Keeps (· = 0x100080 + 0x10000 * n) (fun _ => True) (d.captureRes n cause ended at_) := by
  have high {f : Fld} (h : 0x100080 + 0x10000 * n < f.addr) :
      ∀ x, x = 0x100080 + 0x10000 * n → x ≠ f.addr ∧ (x ≠ f.addr + 4 ∨ f.w ≠ 64) := fun x hx => by omega
  have stack {a d : Dev} (hd : a.Keeps (· = 0x100080 + 0x10000 * n) (fun _ => True) d) (l : List Nat) :
      a.Keeps (· = 0x100080 + 0x10000 * n) (fun _ => True) (d.each (List.range 8) fun k => Dev.put (SEQ.RES_STACK n k) (l.getD k 0)) :=
    hd.each _ _ fun k _ _ hd => hd.put _ (high (by simp [SEQ.RES_STACK]; omega))
  refine ⟨_, Dev.Keeps.put (Dev.Keeps.setReg (Dev.Keeps.put (Dev.Keeps.put (Dev.Keeps.put (stack (Dev.Keeps.put (Dev.Keeps.put
    (Dev.Keeps.put (Dev.Keeps.put (Dev.Keeps.put (.refl _) _ ?_) _ ?_) _ ?_) _ ?_) _ ?_) _) _ ?_) _ ?_) _ ?_) _ ?_) _ ?_⟩
  · exact high (by simp [SEQ.RES_PLAYED])
  · exact high (by simp [SEQ.RES_CNT_CLO])
  · exact high (by simp [SEQ.RES_CNT_CHI])
  · exact high (by simp [SEQ.RES_CNT_CLO]; omega)
  · exact high (by simp [SEQ.RES_CNT_CHI]; omega)
  · exact high (by simp [SEQ.RES_MASK])
  · exact high (by simp [SEQ.RES_VEC])
  · exact high (by simp [SEQ.RES_STAMP])
  · simp [SEQ.RES_EFFECTS_FIRST]
  · exact fun x hx => ⟨by simp [SEQ.STATUS_RES_VALID]; omega, .inr (by simp [SEQ.STATUS_RES_VALID])⟩

theorem Dev.captureRes_shows (d : Dev) (n : Nat) {cause : Nat} (hc : cause < 16) (ended : Bool) (at_ : Nat) :
    (d.captureRes n cause ended at_).ShowsRes n cause := by
  obtain ⟨e, keeps⟩ := d.captureRes_keeps n cause ended at_
  refine ⟨?_, Dev.on_put_bit _ _ true (by simp [SEQ.STATUS_RES_VALID]) rfl⟩
  rw [keeps.get (by simp [SEQ.RES_INFO_CAUSE]) (.inr (by simp [SEQ.RES_INFO_CAUSE])),
    Dev.get_put_self _ _ _ (by simp [SEQ.RES_INFO_CAUSE])]
  exact Nat.mod_eq_of_lt hc

theorem Dev.captureRes_eng (d : Dev) (n cause : Nat) (ended : Bool) (at_ m : Nat) :
    (d.captureRes n cause ended at_).eng m = d.eng m :=
  (Dev.Keeps.captureRes (E := fun _ => True) (.refl d) cause ended at_).eng m trivial

theorem Dev.captureRes_elapsed (d : Dev) (n cause : Nat) (ended : Bool) (at_ : Nat) :
    (d.captureRes n cause ended at_).elapsed = d.elapsed := (Dev.Keeps.captureRes (E := noEng) (.refl d) cause ended at_).elapsed

theorem Dev.ShowsRes.engGo {d : Dev} {n cause st : Nat} (h : d.ShowsRes n cause) (hl : st ≠ seqLoading) :
    (d.engGo n st).ShowsRes n cause := by
  unfold Dev.ShowsRes Dev.on at *
  simp only [SEQ.RES_INFO_CAUSE, SEQ.STATUS_RES_VALID] at *
  rwa [Dev.engGo_get_word hl (by omega) (by omega), Dev.engGo_get_status hl (by omega) (by omega)]

/-- Another field of STATUS is written. -/
theorem Dev.ShowsRes.put {d : Dev} {n cause l w : Nat} (h : d.ShowsRes n cause) (v : Nat) (hw : l + w ≤ 32)
    (hl : l + w ≤ 6 ∨ 7 ≤ l) : (d.put ⟨0x100010 + 0x10000 * n, l, w⟩ v).ShowsRes n cause := by
  unfold Dev.ShowsRes Dev.on at *
  simp only [SEQ.RES_INFO_CAUSE, SEQ.STATUS_RES_VALID] at *
  rwa [Dev.get_put_word _ _ (by omega) (by omega) (by omega), Dev.get_put_bits _ _ hw (by omega) (by omega)]

theorem Dev.ShowsRes.keeps {A E : Nat → Prop} {d d' : Dev} {n cause : Nat} (h : d.ShowsRes n cause) (k : d.Keeps A E d')
    (hA : ∀ a, stopReg n a → A a) : d'.ShowsRes n cause := by
  unfold Dev.ShowsRes Dev.on at *
  rwa [k.get (hA _ (.inr rfl)) (.inr (by simp [SEQ.RES_INFO_CAUSE])), k.get (hA _ (.inl rfl)) (.inr (by simp [SEQ.STATUS_RES_VALID]))]

theorem Dev.ShowsRes.same {d d' : Dev} {n cause : Nat} (h : d.ShowsRes n cause) (k : d.Same d') : d'.ShowsRes n cause := by
  unfold Dev.ShowsRes at *
  rwa [k.get, k.on]

theorem Dev.Same.eng {a b : Dev} (h : a.Same b) (n : Nat) : b.eng n = a.eng n := by unfold Dev.eng; rw [h.still.engs]

/-! ### A pause lands (R92, R93) -/

theorem Dev.landDecision_elapsed (d : Dev) (n : Nat) : (d.landDecision n).elapsed = d.elapsed := by
  unfold Dev.landDecision; rw [Dev.put_elapsed]; rfl

theorem Dev.same_holdRecord (d : Dev) (n pc : Nat) (h : Option HoldSt) : d.Same (d.holdRecord n pc h) := by
  unfold Dev.holdRecord
  split
  · exact .refl d
  · exact d.same_emit _ _ _

/-- The decision of the word in play takes effect, and the resume record with the HOLD_END record of a hold that ends. -/
def Dev.pauseRecords (n at_ : Nat) (d : Dev) : Dev :=
  let d := if (d.eng n).stopped then d else d.landDecision n
  let d := d.captureRes n 8 true at_
  let e := d.eng n
  d.holdRecord n e.nextPc (if e.hold.isSome then e.hold else e.holdDue)

/-- The engine shows PAUSED. -/
def Dev.pauseShow (n : Nat) (d : Dev) : Dev :=
  ((d.engGo n seqPaused).put (SEQ.STATUS_PAUSE_PENDING n) 0).modEng n fun e =>
    { e with idleNext := some (e.idleNext.getD e.earliest), under := none, hold := none, holdDue := none, stopped := true }

theorem Dev.pauseHere_same (d : Dev) (n at_ : Nat) : ((d.pauseRecords n at_).pauseShow n).Same (d.pauseHere n at_) := Dev.same_emit _ _ _ _

theorem Dev.pauseRecords_shows (d : Dev) (n at_ : Nat) :
    (d.pauseRecords n at_).ShowsRes n 8 ∧ (d.pauseRecords n at_).elapsed = d.elapsed := by
  have land : (if (d.eng n).stopped then d else d.landDecision n).elapsed = d.elapsed := by
    split_ifs
    · rfl
    · exact d.landDecision_elapsed n
  constructor
  · exact (Dev.captureRes_shows _ n (by decide) true at_).same (Dev.same_holdRecord _ _ _ _)
  · exact (Dev.same_holdRecord _ _ _ _).still.elapsed.trans ((Dev.captureRes_elapsed _ _ _ _ _).trans land)

theorem Dev.pauseShow_spec {d : Dev} {n : Nat} (h : d.ShowsRes n 8) :
    (d.pauseShow n).ShowsRes n 8 ∧ (d.pauseShow n).engState n = seqPaused ∧
      (d.pauseShow n).on (SEQ.STATUS_PAUSE_PENDING n) = false ∧ ((d.pauseShow n).eng n).hold = none ∧
      (d.pauseShow n).elapsed = d.elapsed := by
  have hl : seqPaused ≠ seqLoading := by decide
  refine ⟨((h.engGo hl).put 0 (by omega) (.inr (by omega))).keeps (Dev.Keeps.modEng (E := noEng) (.refl _) _ id) fun _ => id, ?_, ?_, ?_, ?_⟩
  · refine Eq.trans (Dev.get_put_bits _ _ (by omega) (by omega) (by omega)) (Dev.engGo_state hl (by decide))
  · exact Dev.on_put_clear _ _ (by omega)
  · exact congrArg EngSt.hold (Dev.eng_modEng_self _ _ _)
  · exact (Dev.put_elapsed _ _ _).trans (Dev.engGo_byEngine hl).elapsed

/-- A pause that lands: PAUSED, the resume record of cause 8, and no hold. -/
theorem Dev.pauseHere_spec (d : Dev) (n at_ : Nat) :
    (d.pauseHere n at_).engState n = seqPaused ∧ (d.pauseHere n at_).ShowsRes n 8 ∧
      (d.pauseHere n at_).on (SEQ.STATUS_PAUSE_PENDING n) = false ∧ ((d.pauseHere n at_).eng n).hold = none ∧
      (d.pauseHere n at_).elapsed = d.elapsed := by
  obtain ⟨shows_, time⟩ := d.pauseRecords_shows n at_
  obtain ⟨shows', state, pending, hold, time'⟩ := Dev.pauseShow_spec shows_
  have same := d.pauseHere_same n at_
  exact ⟨(same.get _).trans state, shows'.same same, (same.on _).trans pending, by rw [same.eng]; exact hold,
    same.still.elapsed.trans (time'.trans time)⟩

/-! ### An abort lands (R94, R95) -/

theorem stopReg.inner {n : Nat} (hn : n < 4) {a : Nat} (h : stopReg n a) : inner a := by
  unfold stopReg at h; exact .inr (by omega)

theorem Dev.streamFlush_keeps (d : Dev) (n : Nat) (k : Bool) : d.Keeps (stopReg n) noEng (d.streamFlush n k) := by
  have ring {a : Dev} (h : d.Keeps (stopReg n) noEng a) (j : Nat) : d.Keeps (stopReg n) noEng (a.advanceRing n j) := by
    refine h.ite ((h.put (f := HDMA.RING_DEV_PTR n) _ fun x hx => ?_).trans
      ⟨rfl, rfl, rfl, fun _ _ => rfl, rfl, fun _ _ => rfl, fun _ _ => rfl, fun _ _ => rfl⟩)
    simp only [stopReg, HDMA.RING_DEV_PTR] at *; omega
  have emptied := ((ring (.refl d) ((d.eng n).stream.bufs.filter fun b => !b.past).length).modEng (n := n)
    (fun e => { e with stream := { StreamSt.reset with posStale := k }, eosIn := false, eosDone := false }) id).put
    (f := SEQ.STREAM_STATUS_DESC_ERR n) 0 fun x hx => by simp only [stopReg, SEQ.STREAM_STATUS_DESC_ERR] at *; omega
  exact (emptied.ite (emptied.put (f := SEQ.STREAM_POS n) 0 fun x hx => by
    simp only [stopReg, SEQ.STREAM_POS] at *; omega)).emit _ _ _

theorem Dev.advanceRing_engs (d : Dev) (r k : Nat) : (d.advanceRing r k).engs = d.engs := (d.wrote_advanceRing r k).still.engs

/-- A flush empties the engine's stream and keeps the rest of it. -/
theorem Dev.streamFlush_eng (d : Dev) (n : Nat) (k : Bool) : (d.streamFlush n k).eng n =
    { d.eng n with stream := { StreamSt.reset with posStale := k }, eosIn := false, eosDone := false } := by
  unfold Dev.streamFlush
  dsimp only
  rw [(Dev.same_emit _ _ _ _).eng]
  have ring : (d.advanceRing n ((d.eng n).stream.bufs.filter fun b => !b.past).length).eng n = d.eng n := by
    unfold Dev.eng; rw [d.advanceRing_engs]
  have shown {a : Dev} (f : Fld) (v : Nat) : (a.put f v).eng n = a.eng n := by unfold Dev.eng; rw [Dev.put_engs]
  split_ifs
  · rw [shown, Dev.eng_modEng_self, ring]
  · rw [shown, shown, Dev.eng_modEng_self, ring]

/-- What an abort does first: the decision of a word that ended, and the resume record. -/
def Dev.abortRecord (n cause : Nat) (ended : Bool) (d : Dev) : Dev :=
  let d := if ended && !(d.eng n).stopped then d.landDecision n else d
  d.captureRes n cause ended d.now

/-- The engine's scheduled edges and compares are dropped. -/
def Dev.dropEdges (n : Nat) (d : Dev) : Dev :=
  d.each allPins fun p d =>
    let s := d.pin p
    if s.edges.any (fun e => e.eng == n) || s.cmps.any (fun c => c.eng == n) then
      d.modPin p fun s => { s with edges := s.edges.filter fun e => e.eng != n, cmps := s.cmps.filter fun c => c.eng != n }
    else d

/-- The engine's state after an abort. -/
def EngSt.abort (e : EngSt) : EngSt :=
  { e with issued := [], play := none, after := .idle, under := none, hold := none, holdDue := none, stopped := false
           abortReq := none, aborted := true, thermal := false, idleNext := none }

/-- The engine is emptied. -/
def Dev.abortDrop (n : Nat) (d : Dev) : Dev := ((d.dropEdges n).modEng n EngSt.abort).modTset n fun t => { t with view := t.active }

/-- The engine shows IDLE, and how its run ended. -/
def Dev.endShow (n last : Nat) (d : Dev) : Dev :=
  ((d.engGo n seqIdle).put (SEQ.STATUS_LAST_END n) last).put (SEQ.STATUS_PAUSE_PENDING n) 0

/-- The ABORT record, and what other units do about it. -/
def Dev.abortReport (n : Nat) (d : Dev) : Dev :=
  (((d.emit (0x10 + n) 0x29 (d.resPayload n)).streamFlush n true).fcapEnd n).smcEngineAbort n

/-- An engine that an abort can stop. -/
def Dev.runs (d : Dev) (n : Nat) : Prop := d.engState n = seqRunning ∨ d.engState n = seqHolding ∨ d.engState n = seqPaused

section Abort
variable {d : Dev} {n : Nat}

theorem Dev.engAbort_eq (h : d.runs n) (cause : Nat) (ended : Bool) :
    d.engAbort n cause ended = (((d.abortRecord n cause ended).abortDrop n).endShow n 2).abortReport n := by
  have h' : (decide (d.engState n = seqRunning) || decide (d.engState n = seqHolding) || decide (d.engState n = seqPaused)) = true := by
    simpa [Dev.runs, or_assoc] using h
  exact if_pos h'

theorem Dev.dropEdges_keeps (d : Dev) (n : Nat) : d.Keeps (fun _ => True) (fun _ => True) (d.dropEdges n) :=
  (Dev.Keeps.refl d).each _ _ fun _ _ _ hd => (hd.modPin _ _).ite hd

theorem Dev.abortDrop_keeps (d : Dev) (n : Nat) : d.Keeps (fun _ => True) noEng (d.abortDrop n) :=
  (((d.dropEdges_keeps n).mono (fun _ => id) fun _ _ => trivial).modEng _ id).modTset _ id

theorem Dev.abortDrop_eng (d : Dev) (n : Nat) : (d.abortDrop n).eng n = (d.eng n).abort := by
  have dropped : (d.dropEdges n).eng n = d.eng n := (d.dropEdges_keeps n).eng n trivial
  have viewed (a : Dev) (f : TsetSt → TsetSt) : (a.modTset n f).eng n = a.eng n := rfl
  unfold Dev.abortDrop
  rw [viewed, Dev.eng_modEng_self, dropped]

theorem Dev.endShow_eng (d : Dev) (n last m : Nat) : (d.endShow n last).eng m = d.eng m := by
  unfold Dev.endShow Dev.eng
  rw [Dev.put_engs, Dev.put_engs, Dev.engGo_engs (by decide)]

theorem Dev.endShow_spec (d : Dev) (n : Nat) {last : Nat} (hl : last < 4) :
    (d.endShow n last).engState n = seqIdle ∧ (d.endShow n last).get (SEQ.STATUS_LAST_END n) = last := by
  unfold Dev.endShow Dev.engState
  constructor
  · exact (Dev.get_put_bits _ _ (by omega) (by omega) (by omega)).trans
      ((Dev.get_put_bits _ _ (by omega) (by omega) (by omega)).trans (Dev.engGo_state (by decide) (by decide)))
  · exact (Dev.get_put_bits _ _ (by omega) (by omega) (by omega)).trans
      ((Dev.get_put_self _ _ _ (by simp [SEQ.STATUS_LAST_END])).trans (Nat.mod_eq_of_lt hl))

theorem Dev.fcapEnd_keeps (d : Dev) (n : Nat) : d.Keeps (stopReg n) (fun _ => True) (d.fcapEnd n) :=
  ((Dev.Keeps.refl d).modFc n _).put _ fun x hx => by simp only [stopReg, FCAP.ENG_STATUS_DRAINING] at *; omega

theorem Dev.smcEngineAbort_keeps (d : Dev) (n : Nat) : d.Keeps inner (fun _ => True) (d.smcEngineAbort n) :=
  Dev.Keeps.smcEngineAbort (fun _ => id) (.refl d) n

theorem Dev.abortReport_keeps (d : Dev) {n : Nat} (hn : n < 4) : d.Keeps (stopReg n) noEng (d.abortReport n) :=
  (((Dev.Keeps.emit (.refl d) _ _ _).trans (Dev.streamFlush_keeps _ n true)).trans
    ((Dev.fcapEnd_keeps _ n).mono (fun _ => id) fun _ => False.elim)).trans
    ((Dev.smcEngineAbort_keeps _ n).mono (fun _ h => h.inner hn) fun _ => False.elim)

theorem Dev.abortReport_eng (d : Dev) (n : Nat) : (d.abortReport n).eng n =
    { d.eng n with stream := { StreamSt.reset with posStale := true }, eosIn := false, eosDone := false } := by
  have ended (a : Dev) : (a.fcapEnd n).eng n = a.eng n := by unfold Dev.fcapEnd Dev.eng; rw [Dev.put_engs]; rfl
  unfold Dev.abortReport
  rw [(Dev.smcEngineAbort_keeps _ n).eng n trivial, ended, Dev.streamFlush_eng, (Dev.same_emit _ _ _ _).eng]

/-- An abort that lands (R94, R95): IDLE, LAST_END 2, the resume record of its cause, and an empty engine. -/
theorem Dev.engAbort_spec (h : d.runs n) (hn : n < 4) {cause : Nat} (hc : cause < 16) (ended : Bool) :
    let d' := d.engAbort n cause ended
    d'.engState n = seqIdle ∧ d'.get (SEQ.STATUS_LAST_END n) = 2 ∧ d'.ShowsRes n cause ∧ (d'.eng n).issued = [] ∧
      (d'.eng n).play = none ∧ (d'.eng n).aborted = true ∧ d'.elapsed = d.elapsed ∧ d'.flt.alarms = d.flt.alarms ∧
      ∀ m, m ≠ n → d'.eng m = d.eng m := by
  intro d'
  have keeps : d.Keeps noReg (· ≠ n) d' := Dev.Keeps.engAbort (fun h => h rfl) (.refl d) cause ended
  have e : d' = _ := Dev.engAbort_eq h cause ended
  set c := (d.abortRecord n cause ended).abortDrop n with hcd
  have report := (c.endShow n 2).abortReport_keeps hn
  obtain ⟨idle, last⟩ := c.endShow_spec n (last := 2) (by decide)
  have shown : c.ShowsRes n cause := (Dev.captureRes_shows _ n hc ended _).keeps (Dev.abortDrop_keeps _ n) fun _ _ => trivial
  have shown' : (c.endShow n 2).ShowsRes n cause :=
    ((shown.engGo (by decide)).put 2 (by omega) (.inl (by omega))).put 0 (by omega) (.inr (by omega))
  have eng : d'.eng n = { ((d.abortRecord n cause ended).eng n).abort with
      stream := { StreamSt.reset with posStale := true }, eosIn := false, eosDone := false } := by
    rw [e, Dev.abortReport_eng, Dev.endShow_eng, Dev.abortDrop_eng]
  refine ⟨?_, ?_, ?_, by rw [eng]; rfl, by rw [eng]; rfl, by rw [eng]; rfl, keeps.elapsed, keeps.alarms, keeps.eng⟩
  · rw [e]; exact (report.get (.inl rfl) (.inr (by simp [SEQ.STATUS_STATE]))).trans idle
  · rw [e]; exact (report.get (.inl rfl) (.inr (by simp [SEQ.STATUS_LAST_END]))).trans last
  · rw [e]; exact shown'.keeps report fun _ => id

end Abort

end Sys2Proof.Machine
end


/-! ## Pause, resume and abort of an engine (O19) -/
section
namespace Sys2Proof.Machine

theorem Dev.runs_congr {a b : Dev} {n : Nat} (h : b.engState n = a.engState n) : b.runs n = a.runs n := by unfold Dev.runs; rw [h]

theorem Dev.Same.engState {a b : Dev} (h : a.Same b) (n : Nat) : b.engState n = a.engState n := h.get _

theorem State.onDev_hostWrite {s : State} {a : Nat} {f : Dev → Dev} (h : s.dev.hostOpen a = true) :
    s.onDev (Dev.hostWrite a f) = .next { s with dev := f (s.dev.gdBreak (blockOfAddr a)) } := by
  unfold State.onDev; rw [Dev.hostWrite_open f h]

section Commands
variable (n : Eng) (s : State)

theorem exec_pause (h : s.dev.hostOpen (SEQ.CTRL_PAUSE n.val).addr = true) : exec (.pause n) s =
    .next { s with dev := (s.dev.gdBreak (blockOfAddr (SEQ.CTRL_PAUSE n.val).addr)).engPause n.val false } :=
  State.onDev_hostWrite h

theorem exec_resume (h : s.dev.hostOpen (SEQ.CTRL_RESUME n.val).addr = true) : exec (.resume n) s =
    .next { s with dev := (s.dev.gdBreak (blockOfAddr (SEQ.CTRL_RESUME n.val).addr)).engResume n.val } :=
  State.onDev_hostWrite h

theorem exec_abort (h : s.dev.hostOpen (SEQ.CTRL_ABORT n.val).addr = true) : exec (.abort n) s =
    .next { s with dev := (s.dev.gdBreak (blockOfAddr (SEQ.CTRL_ABORT n.val).addr)).requestAbort n.val 1 } :=
  State.onDev_hostWrite h

theorem exec_abortAll (h : s.dev.hostOpen GLB.ABORT_ALL.addr = true) : exec .abortAll s =
    .next { s with dev := (s.dev.gdBreak (blockOfAddr GLB.ABORT_ALL.addr)).abortAll } :=
  State.onDev_hostWrite h

theorem exec_pauseLand : exec (.pauseLand n) s = .next { s with dev := s.dev.pauseLand s.mem n.val } := rfl

theorem exec_abortLand : exec (.abortLand n) s = .next { s with dev := (s.dev.abortLand n.val).settle } := rfl

end Commands

/-! ### PAUSE (R90, R127) -/

section Pause
variable {d : Dev} {n : Nat}

theorem Dev.engPause_running (h : d.engState n = seqRunning) :
    (d.engPause n false).on (SEQ.STATUS_PAUSE_PENDING n) = true ∧ (d.engPause n false).engState n = seqRunning ∧
      d.ByEngine n [(SEQ.STATUS_STATE n).addr] (d.engPause n false) := by
  have e : d.engPause n false = if d.on (SEQ.STATUS_PAUSE_PENDING n) then d.modEng n fun e => { e with thermal := false }
      else (d.put (SEQ.STATUS_PAUSE_PENDING n) 1).modEng n fun e => { e with thermal := false } := by
    unfold Dev.engPause; rw [h]; rfl
  rw [e]
  split_ifs with pending
  · exact ⟨pending, h, d.byEngine_modEng _ _ _⟩
  · refine ⟨Dev.on_put_bit d _ true (by simp [SEQ.STATUS_PAUSE_PENDING]) rfl, ?_, ?_⟩
    · exact (Dev.get_put_bits d _ (by omega) (by omega) (by omega)).trans h
    · exact ((d.wrote_put_dword (SEQ.STATUS_PAUSE_PENDING n) 1 (by simp [SEQ.STATUS_PAUSE_PENDING])).byEngine n).trans
        (Dev.byEngine_modEng _ _ _ _)

theorem Dev.engPause_holding (h : d.engState n = seqHolding) :
    d.engPause n false =
      (d.modEng n fun e => { e with thermal := false }).pauseHere n (((d.eng n).hold.map (·.since)).getD d.now) := by
  unfold Dev.engPause; rw [h]; rfl

theorem Dev.engPause_paused (h : d.engState n = seqPaused) : d.engPause n false = d.modEng n fun e => { e with thermal := false } := by
  unfold Dev.engPause; rw [h]; rfl

theorem Dev.engPause_ignored (h : d.engState n ∉ [seqRunning, seqHolding, seqPaused]) :
    d.engPause n false = d.ignored (SEQ.CTRL_PAUSE n).addr := by
  simp only [List.mem_cons, List.not_mem_nil, or_false, not_or] at h
  obtain ⟨running, holding, paused⟩ := h
  unfold Dev.engPause
  split
  · contradiction
  · contradiction
  · contradiction
  · rfl

theorem Dev.pauseLand_lands {m : Mem} {w : Todo} (ha : (d.eng n).after = .issue w) (run : d.engState n = seqRunning)
    (pending : d.on (SEQ.STATUS_PAUSE_PENDING n) = true) (issued : (d.eng n).issued = []) (req : (d.eng n).abortReq = none)
    (out : d.insideAtomic m n w = false) :
    let e := d.until (d.gridElapsed ((d.eng n).under.getD (d.eng n).earliest))
    d.pauseLand m n = e.pauseHere n e.now := by
  unfold Dev.pauseLand
  rw [ha]
  exact if_neg (by simp [run, pending, issued, req, out])

end Pause

/-! ### RESUME (R90, R93) -/

section Resume
variable {d : Dev} {n : Nat}

theorem Dev.engResume_thermal (h : d.on GOV.STATE_THERM_HOLD = true) : d.engResume n = d.ignored (SEQ.CTRL_RESUME n).addr := if_pos h

theorem Dev.engResume_pending (h : d.on GOV.STATE_THERM_HOLD = false) (pending : d.on (SEQ.STATUS_PAUSE_PENDING n) = true) :
    d.engResume n = d.put (SEQ.STATUS_PAUSE_PENDING n) 0 := (if_neg (by simp [h])).trans (if_pos pending)

theorem Dev.engResume_paused (h : d.on GOV.STATE_THERM_HOLD = false) (pending : d.on (SEQ.STATUS_PAUSE_PENDING n) = false)
    (paused : d.engState n = seqPaused) : d.engResume n = d.resumeNow n :=
  (if_neg (by simp [h])).trans ((if_neg (by simp [pending])).trans (if_pos paused))

theorem Dev.engResume_ignored (h : d.on GOV.STATE_THERM_HOLD = true ∨
    (d.on (SEQ.STATUS_PAUSE_PENDING n) = false ∧ d.engState n ≠ seqPaused)) : d.engResume n = d.ignored (SEQ.CTRL_RESUME n).addr := by
  by_cases hot : d.on GOV.STATE_THERM_HOLD = true
  · exact Dev.engResume_thermal hot
  · obtain ⟨pending, paused⟩ := h.resolve_left hot
    exact (if_neg hot).trans ((if_neg (by simp [pending])).trans (if_neg paused))

theorem Dev.cancelPause_off (d : Dev) (n : Nat) : (d.put (SEQ.STATUS_PAUSE_PENDING n) 0).on (SEQ.STATUS_PAUSE_PENDING n) = false :=
  d.on_put_clear _ (by omega)

theorem Dev.wrote_cancelPause (d : Dev) (n : Nat) : d.Wrote [(SEQ.STATUS_STATE n).addr] (d.put (SEQ.STATUS_PAUSE_PENDING n) 0) :=
  d.wrote_put_dword (SEQ.STATUS_PAUSE_PENDING n) 0 (by simp [SEQ.STATUS_PAUSE_PENDING])

/-- The engine goes on 256 TCLK ahead where it was. -/
theorem Dev.resumeNow_spec (d : Dev) (n : Nat) :
    (d.resumeNow n).engState n = seqRunning ∧ ((d.resumeNow n).eng n).earliest = (d.now + 256) * unit24 ∧
      ((d.resumeNow n).eng n).after = (d.eng n).after ∧ d.ByEngine n [(SEQ.STATUS_STATE n).addr] (d.resumeNow n) := by
  set e := d.modEng n fun e => { e with thermal := false, earliest := (d.now + 256) * unit24, idleNext := none } with he
  have hl : seqRunning ≠ seqLoading := by decide
  have same : (e.engGo n seqRunning).Same (d.resumeNow n) := Dev.same_emit _ _ _ _
  have eng : (d.resumeNow n).eng n = _ := (same.eng n).trans ((Dev.engGo_eng hl n).trans (d.eng_modEng_self n _))
  refine ⟨(same.engState n).trans (Dev.engGo_state hl (by decide)), by rw [eng], by rw [eng], ?_⟩
  exact ((d.byEngine_modEng n _ _).trans (Dev.engGo_byEngine hl)).trans ((same.wrote _).byEngine n)

end Resume

/-! ### ABORT and ABORT_ALL (R90, R94) -/

section Abort
variable {d : Dev} {n : Nat}

theorem Dev.requestAbort_runs (h : d.runs n) (c : Nat) :
    d.requestAbort n c = d.modEng n fun e => { e with abortReq := some (e.abortReq.getD c) } :=
  if_pos (by simpa [Dev.runs, or_assoc] using h)

theorem Dev.requestAbort_stands (h : ¬ d.runs n) (c : Nat) : d.requestAbort n c = d :=
  if_neg (by simpa [Dev.runs, or_assoc] using h)

theorem Dev.requestAbort_regs (d : Dev) (n c : Nat) : (d.requestAbort n c).regs = d.regs := by
  unfold Dev.requestAbort; dsimp only; split_ifs <;> rfl

theorem Dev.requestAbort_eng_ne (d : Dev) (c : Nat) {m : Nat} (h : m ≠ n) : (d.requestAbort n c).eng m = d.eng m := by
  by_cases r : d.runs n
  · rw [Dev.requestAbort_runs r, Dev.eng_modEng_ne _ _ h]
  · rw [Dev.requestAbort_stands r]

/-- What a request does to an engine: the first cause stays (R90). -/
theorem Dev.requestAbort_eng (d : Dev) (n c : Nat) : (d.runs n → ((d.requestAbort n c).eng n).abortReq = some ((d.eng n).abortReq.getD c)) ∧
    (¬ d.runs n → (d.requestAbort n c).eng n = d.eng n) :=
  ⟨fun h => by rw [Dev.requestAbort_runs h, Dev.eng_modEng_self], fun h => by rw [Dev.requestAbort_stands h]⟩

/-- Requests to several engines are the requests to each of them. -/
theorem Dev.requestAborts_eng (c : Nat) (l : List Nat) (d : Dev) (n : Nat) :
    let d' := d.each l fun m => Dev.requestAbort m c
    d'.regs = d.regs ∧ (n ∉ l → d'.eng n = d.eng n) ∧ (l.Nodup → n ∈ l → d'.eng n = (d.requestAbort n c).eng n) := by
  induction l generalizing d with
  | nil => exact ⟨rfl, fun _ => rfl, fun _ h => absurd h List.not_mem_nil⟩
  | cons m l ih =>
    obtain ⟨regs, out, inside⟩ := ih (d.requestAbort m c)
    refine ⟨regs.trans (d.requestAbort_regs m c), fun h => ?_, fun nodup h => ?_⟩
    · rw [List.mem_cons, not_or] at h
      exact (out h.2).trans (d.requestAbort_eng_ne c h.1)
    · obtain ⟨fresh, nodup⟩ := List.nodup_cons.1 nodup
      rcases List.mem_cons.1 h with rfl | h
      · exact out fresh
      · have ne : n ≠ m := fun e => fresh (e ▸ h)
        have state : (d.requestAbort m c).runs n = d.runs n := Dev.runs_congr (Dev.get_congr (d.requestAbort_regs m c) _)
        have eng := d.requestAbort_eng_ne (n := m) c ne
        refine (inside nodup h).trans ?_
        by_cases r : d.runs n
        · rw [Dev.requestAbort_runs r, Dev.requestAbort_runs (state ▸ r), Dev.eng_modEng_self, Dev.eng_modEng_self, eng]
        · rw [Dev.requestAbort_stands r, Dev.requestAbort_stands (state ▸ r), eng]

theorem Dev.abortAll_eng (d : Dev) {n : Nat} (hn : n < 4) :
    d.abortAll.regs = d.regs ∧ d.abortAll.eng n = (d.requestAbort n 2).eng n := by
  obtain ⟨regs, -, eng⟩ := Dev.requestAborts_eng 2 (List.range 4) d n
  exact ⟨regs, eng List.nodup_range (List.mem_range.2 hn)⟩

/-- Where an abort lands: at the grid point missed where the stream had run dry (R94, R123). -/
theorem Dev.abortLand_eq {c : Nat} (h : (d.eng n).abortReq = some c) :
    ∃ ended, d.abortLand n =
      (d.until (if c = 3 ∨ c = 4 then ((d.eng n).under.map d.gridElapsed).getD 0 else 0)).engAbort n c ended := by
  unfold Dev.abortLand
  rw [h]
  cases hu : (d.eng n).under with
  | none => exact ⟨false, by simp [Dev.until_past]⟩
  | some t =>
    by_cases hc : c = 3 ∨ c = 4
    · exact ⟨true, by simp [hc]⟩
    · exact ⟨false, by simp [hc, Dev.until_past]⟩

end Abort

/-! ### The obligation -/

/-- Settles O19: each command by its cases, over the rules for a pause and for an abort that land. -/
theorem pauseAndAbort : Obligations.PauseAndAbort := by
  refine ⟨fun s n => ⟨fun hopen => ?_, fun issued req run pending w after out => ?_, fun hopen cool => ?_, fun hopen h => ?_⟩,
    fun s n => ?_⟩
  · have same := s.dev.gdBroken_same (SEQ.CTRL_PAUSE n.val).addr
    have state := same.engState n.val
    have run := exec_pause n s hopen
    refine ⟨fun h => ?_, fun h => ?_, fun h => ?_, fun h => ?_⟩
    · obtain ⟨pending, running, by_⟩ := Dev.engPause_running (state.trans h)
      exact ⟨_, run, rfl, pending, running, ((same.wrote _).byEngine _).trans by_⟩
    · rw [Dev.engPause_holding (state.trans h)] at run
      obtain ⟨paused, shown, pending, hold, time⟩ := Dev.pauseHere_spec ((s.dev.gdBreak (blockOfAddr (SEQ.CTRL_PAUSE n.val).addr)).modEng n.val
        fun e => { e with thermal := false }) n.val _
      exact ⟨_, run, rfl, paused, shown.1, shown.2, pending, hold, time.trans same.still.elapsed⟩
    · rw [Dev.engPause_paused (state.trans h)] at run
      exact ⟨_, run, rfl, ((same.wrote _).byEngine _).trans (Dev.byEngine_modEng _ _ _ _)⟩
    · rw [Dev.engPause_ignored (by rwa [state])] at run
      exact ⟨_, run, rfl, same.trans (Dev.same_ignored _ _)⟩
  · have land := exec_pauseLand n s
    rw [Dev.pauseLand_lands after run pending issued req out] at land
    obtain ⟨paused, shown, pending, -, time⟩ :=
      (s.dev.until (s.dev.gridElapsed ((s.dev.eng n.val).under.getD (s.dev.eng n.val).earliest))).pauseHere_spec n.val _
    exact ⟨_, land, rfl, paused, pending, shown.1, shown.2, time.trans (Dev.until_elapsed _ _)⟩
  · have same := s.dev.gdBroken_same (SEQ.CTRL_RESUME n.val).addr
    have run := exec_resume n s hopen
    refine ⟨fun pending => ?_, fun pending paused => ?_⟩
    · rw [Dev.engResume_pending ((same.on _).trans cool) ((same.on _).trans pending)] at run
      exact ⟨_, run, rfl, Dev.cancelPause_off _ _, (same.wrote _).trans (Dev.wrote_cancelPause _ _)⟩
    · rw [Dev.engResume_paused ((same.on _).trans cool) ((same.on _).trans pending) ((same.engState _).trans paused)] at run
      obtain ⟨running, earliest, after, by_⟩ := (s.dev.gdBreak (blockOfAddr (SEQ.CTRL_RESUME n.val).addr)).resumeNow_spec n.val
      rw [same.now] at earliest
      exact ⟨_, run, rfl, running, earliest, after.trans (congrArg EngSt.after (same.eng _)), ((same.wrote _).byEngine _).trans by_⟩
  · have same := s.dev.gdBroken_same (SEQ.CTRL_RESUME n.val).addr
    have run := exec_resume n s hopen
    rw [Dev.engResume_ignored (by rwa [same.on, same.on, same.engState])] at run
    exact ⟨_, run, rfl, same.trans (Dev.same_ignored _ _)⟩
  · refine ⟨fun hopen => ?_, fun hopen => ?_, fun c req hc calm runs => ?_⟩
    · have same := s.dev.gdBroken_same (SEQ.CTRL_ABORT n.val).addr
      have runs_ := Dev.runs_congr (same.engState n.val)
      refine ⟨_, exec_abort n s hopen, rfl, fun h => ⟨?_, ?_⟩, fun h => ?_⟩
      · rw [← same.eng]; exact (Dev.requestAbort_eng _ n.val 1).1 (runs_ ▸ h)
      · show s.dev.ByEngine n.val [] (Dev.requestAbort n.val 1 _)
        rw [Dev.requestAbort_runs (runs_ ▸ h)]
        exact ((same.wrote _).byEngine _).trans (Dev.byEngine_modEng _ _ _ _)
      · show s.dev.Same (Dev.requestAbort n.val 1 _)
        rw [Dev.requestAbort_stands (runs_ ▸ h)]; exact same
    · have same := s.dev.gdBroken_same GLB.ABORT_ALL.addr
      have runs_ := Dev.runs_congr (same.engState n.val)
      obtain ⟨regs, eng⟩ := (s.dev.gdBreak (blockOfAddr GLB.ABORT_ALL.addr)).abortAll_eng n.isLt
      refine ⟨_, exec_abortAll s hopen, rfl, regs.trans same.regs, fun h => ?_, fun h => ?_⟩
      · rw [← same.eng]; exact (congrArg EngSt.abortReq eng).trans ((Dev.requestAbort_eng _ n.val 2).1 (runs_ ▸ h))
      · exact eng.trans (((Dev.requestAbort_eng _ n.val 2).2 (runs_ ▸ h)).trans (same.eng _))
    · intro at_
      obtain ⟨ended, land⟩ := Dev.abortLand_eq req
      have still : (s.dev.until at_).runs n.val := Dev.runs_congr (s.dev.until_engState at_ n.val) ▸ runs
      obtain ⟨idle, last, shown, issued, play, aborted, time, alarms, others⟩ := Dev.engAbort_spec still n.isLt hc ended
      have run := exec_abortLand n s
      rw [land, Dev.settle_calm (show Dev.Calm _ from alarms.trans (Dev.until_calm calm at_))] at run
      exact ⟨_, run, rfl, time.trans (Dev.until_elapsed _ _), idle, last, shown.1, shown.2, issued, play, aborted,
        fun m hm => (others m hm).trans (Dev.until_eng _ _ _)⟩

end Sys2Proof.Machine
end


/-! ## What a word's CAP_OP, DAC_OP and TIA_OP leave to the sequencer (O21) -/
section
namespace Sys2Proof.Machine

theorem aqReg_outer {u o : Nat} (hu : u < 8) (ho : o < 0x100) : outer (0xb0000 + o + 0x2000 * u) := .inl (by omega)

section Units
variable {A E : Nat → Prop} (hA : ∀ x, A x → inner x) {a d : Dev} (h : a.Keeps A E d)
include hA h

omit hA in
theorem Dev.Keeps.ignored (x : Nat) : a.Keeps A E (d.ignored x) := h.noticeOf _ (by simp)

omit hA in
theorem Dev.Keeps.notice (det b : Nat) (x : List Byte) (hd : det / 4096 = 3) : a.Keeps A E (d.notice det b x) :=
  h.noticeOf x (e := plainDetection det b) hd

/-! ### Acquisition units (R244) -/

omit hA in
theorem Dev.Keeps.setAcq (x : AqFlow) : a.Keeps A E { d with acq := x } :=
  h.trans ⟨rfl, rfl, rfl, fun _ _ => rfl, rfl, fun _ _ => rfl, fun _ _ => rfl, fun _ _ => rfl⟩

omit hA in
theorem Dev.Keeps.aqDrain : a.Keeps A E d.aqDrain := by
  refine Dev.Keeps.setAcq ?_ _
  exact h.each (d.acq.lines.take (d.cclk - d.acq.at_)) (fun u d => d.give poolAT u 1) fun u _ _ hd => hd.give _ _ _

omit hA in
theorem Dev.Keeps.aqFlush (u : Nat) : a.Keeps A E (d.aqFlush u) := h.ite ((h.aqDrain.modAq u _).setAcq _)

omit hA in
theorem Dev.Keeps.aqCloseSeg (u : Nat) (t : Bool) : a.Keeps A E (d.aqCloseSeg u t) := by
  unfold Dev.aqCloseSeg
  split
  · exact h
  · exact (h.aqFlush u).modAq u _

omit hA in
theorem Dev.Keeps.aqDeliver (u s : Nat) (t : Int) (k : Nat) : a.Keeps A E (d.aqDeliver u s t k) := .ite (h.modAq u _) h

omit hA in
theorem Dev.Keeps.aqTrigger (u s : Nat) (t : Int) (k : Nat) : a.Keeps A E (d.aqTrigger u s t k) := (h.modAq u _).aqDeliver u s t k

variable {u : Nat} (hu : u < 8)
include hu

theorem Dev.Keeps.aqGo (st : Nat) : a.Keeps A E (d.aqGo u st) := by
  have shown := (h.putOuter hA (f := AQ.STATUS_STATE u) st (aqReg_outer hu (o := 0x84) (by decide))).stateSignal d
  exact (shown.emit _ _ _).ite shown

theorem Dev.Keeps.aqBeginDead (k : Nat) : a.Keeps A E (d.aqBeginDead u k) := (h.modAq u _).aqGo hA hu _

theorem Dev.Keeps.aqArmNow : a.Keeps A E (d.aqArmNow u) := by
  have shows_ {e : Dev} (he : a.Keeps A E e) {l w : Nat} (v : Nat) : a.Keeps A E (e.put ⟨0xb0084 + 0x2000 * u, l, w⟩ v) :=
    he.putOuter hA v (aqReg_outer hu (o := 0x84) (by decide))
  have refused (r : Nat) : a.Keeps A E ((d.put (AQ.STATUS_ARM_RESULT u) r).ignored (AQ.CTRL_ARM u).addr) := (shows_ h r).ignored _
  unfold Dev.aqArmNow
  dsimp only
  refine .ite (h.ignored _) (.ite h (.ite (refused 2) (.ite (refused 3) (.ite (refused 4) ?_))))
  exact Dev.Keeps.aqBeginDead hA (((shows_ (shows_ (shows_ (shows_ h 1) 0) 0) 0).putOuter hA (f := AQ.ARM_NUM u) _
    (aqReg_outer hu (o := 0x90) (by decide))).modAq u _) hu _

theorem Dev.Keeps.aqArm : a.Keeps A E (d.aqArm u) := by
  have armed {c : AqCmds} : a.Keeps A E ((d.aqArmNow u).modAq u fun a => { a with cmds := c }) := (h.aqArmNow hA hu).modAq u _
  unfold Dev.aqArm Dev.aqArmFirst
  exact .ite (armed.each _ _ fun x _ _ hd => hd.aqDeliver u _ _ _) armed

theorem Dev.Keeps.aqDisarmNow : a.Keeps A E (d.aqDisarmNow u) :=
  h.ite (Dev.Keeps.aqGo hA ((((h.aqCloseSeg u true).aqFlush u).putOuter hA (f := AQ.OUTSIDE u) _
    (aqReg_outer hu (o := 0x8c) (by decide))).modAq u _) hu _)

theorem Dev.Keeps.aqDisarm : a.Keeps A E (d.aqDisarm u) := by
  unfold Dev.aqDisarm
  dsimp only
  split
  · exact (h.emit _ _ _).ite h
  · exact (h.aqDisarmNow hA hu).aqArm hA hu
  · exact h.aqDisarmNow hA hu

end Units

section Ops
variable {A E : Nat → Prop} (hA : ∀ x, A x → inner x) {a d : Dev} (h : a.Keeps A E d)
include hA h

theorem Dev.Keeps.capOp (n op stamp : Nat) : a.Keeps A E (d.capOp n op stamp) := by
  have bound {s u : Nat} (hu : u ∈ unitsOf s) : u < 8 := List.mem_range.1 (List.mem_of_mem_filter hu)
  have trig (l : List Nat) : a.Keeps A E (d.each l fun u => Dev.aqTrigger u 1 (stamp : Int) 4096) :=
    h.each _ _ fun u _ _ hd => hd.aqTrigger u _ _ _
  have arm (s : Nat) : a.Keeps A E (d.each (unitsOf s) Dev.aqArm) := h.each _ _ fun u hu _ hd => hd.aqArm hA (bound hu)
  have disarm (s : Nat) : a.Keeps A E (d.each (unitsOf s) Dev.aqDisarm) := h.each _ _ fun u hu _ hd => hd.aqDisarm hA (bound hu)
  unfold Dev.capOp
  dsimp only
  split
  · exact h
  · exact arm _
  · exact trig _
  · exact disarm _
  · exact arm _
  · exact trig _
  · exact disarm _
  · exact h
  · exact trig _

/-! ### Load strobes (R165, R211) -/

omit hA in
theorem Dev.Keeps.setLs (x : LsSt) : a.Keeps A E { d with ls := x } :=
  h.trans ⟨rfl, rfl, rfl, fun _ _ => rfl, rfl, fun _ _ => rfl, fun _ _ => rfl, fun _ _ => rfl⟩

theorem Dev.Keeps.latchPages (src : Nat → Nat → Nat) (b : Nat) (ps ls : List Nat) : a.Keeps A E (d.latchPages src b ps ls) := by
  have levels {l : List (Nat × Nat)} (g : Nat × Nat → Nat) : a.Keeps A E (d.each l fun x => Dev.put (PINB.ACT_LVL b x.1 x.2) (g x)) :=
    h.each _ _ fun x _ _ hd => hd.putOuter hA _ (.inr (by simp [PINB.ACT_LVL]; omega))
  unfold Dev.latchPages
  dsimp only
  split
  · exact levels _
  · exact ((levels _).putOuter hA (f := PINB.LEVEL_CLAMP b) _ (.inr (by simp [PINB.LEVEL_CLAMP]; omega))).notice _ _ _ (by decide)

theorem Dev.Keeps.strobe (g : Nat) (regs : Tab W32) : a.Keeps A E (d.strobe g regs) := by
  have noted : a.Keeps A E d.lsNow := h.ite (h.setLs _)
  unfold Dev.strobe Dev.strobeSmcs Dev.strobePins
  refine Dev.Keeps.each (Dev.Keeps.each (noted.setLs _) _ _ fun b _ _ hd => ?_) _ _ fun p _ _ hd => (hd.modSm p _).ite hd
  exact hd.ite (hd.latchPages hA _ _ _ _)

/-! ### Measurements (R197, R198) -/

theorem Dev.Keeps.tiaArm {k : Nat} (hk : k < 64) : a.Keeps A E (d.tiaArm k) := by
  have low {x : Nat} (h1 : 0x80000 ≤ x) (h2 : x + 4 < 0x100000) : outer x := .inl ⟨h1, h2⟩
  have cleared := (h.tiaBit hA (f := TIA.DONE) k false (low (by decide) (by decide))).tiaBit hA (f := TIA.TMO) k false
    (low (by decide) (by decide))
  unfold Dev.tiaArm
  dsimp only
  refine h.ite (.ite ((h.putOuter hA (f := TIA.ARM_IGNORED) _ (low (by decide) (by decide))).ignored _) ?_)
  split
  · exact (cleared.modMeas k _).tiaProduce hA hk _
  · have begun {m : TiaM} := (cleared.modMeas k fun _ => m).stateSignal ((d.tiaBit TIA.DONE k false).tiaBit TIA.TMO k false)
    have active {m : TiaM} := (begun (m := m)).tiaBit hA (f := TIA.ACTIVE) k true (low (by decide) (by decide))
    have armed {m : TiaM} {v : Nat} := ((active (m := m)).putOuter hA (f := TIA.M_STATE_STATE k) v (tiaState_outer hk)).putOuter hA
      (f := TIA.M_STATE_DONE_REPS k) 0 (tiaState_outer hk)
    exact (armed.modPin _ _).ite armed

theorem Dev.Keeps.tiaStop {k : Nat} (hk : k < 64) : a.Keeps A E (d.tiaStop k) :=
  h.ite (((h.modMeas k _).tiaEnd hA hk _).ite (h.tiaEnd hA hk _))

theorem Dev.Keeps.tiaByName (n k : Nat) (arm : Bool) : a.Keeps A E (d.tiaByName n k arm) := by
  unfold Dev.tiaByName
  dsimp only
  split_ifs with far
  · exact h.notice _ _ _ (by decide)
  · exact h.tiaArm hA (by omega)
  · exact h.tiaStop hA (by omega)

theorem Dev.Keeps.tiaOp (n op : Nat) : a.Keeps A E (d.tiaOp n op) := by
  unfold Dev.tiaOp
  split
  · exact h
  · exact h.each _ _ fun k _ _ hd => hd.tiaByName hA n k true
  · exact h.each _ _ fun k _ _ hd => hd.tiaByName hA n k false
  · exact (h.tiaByName hA n _ true).ite ((h.tiaByName hA n _ false).ite h)

end Ops

end Sys2Proof.Machine
end


/-! ## A vector starts (O21) -/
section
namespace Sys2Proof.Machine

/-! ### What shows of a vector -/

/-- The dwords of an engine that a vector start shows or counts in. -/
def vecReg (n a : Nat) : Prop :=
  a = 0x100010 + 0x10000 * n ∨ a = 0x100040 + 0x10000 * n ∨ a = 0x100044 + 0x10000 * n ∨ a = 0x100048 + 0x10000 * n ∨
    a = 0x100118 + 0x10000 * n ∨ a = 0x10011c + 0x10000 * n ∨ a = 0x100128 + 0x10000 * n ∨ a = 0x100003c + 0x100000 * n

theorem vecReg.inner {n : Nat} (hn : n < 4) {a : Nat} (h : vecReg n a) : inner a := by unfold vecReg at h; exact .inr (by omega)

/-- What shows of the vector that an engine plays, with time and the detections that wait. -/
structure VecView where
  vec : Nat
  pc : Nat
  pos : Nat
  err : Nat
  clamp : Nat
  seg : Nat
  play : Option Play
  issued : List Play
  mask : Nat
  active : TsetCopy
  elapsed : Nat
  alarms : List Detection

/-- The view of engine `n`. -/
def Dev.vecView (n : Nat) (d : Dev) : VecView where
  vec := d.get (SEQ.VEC_NUM n)
  pc := d.get (SEQ.STATUS_PC n)
  pos := d.get (SEQ.STREAM_POS n)
  err := d.get (SEQ.SYMBOL_ERR n)
  clamp := d.get (TSET.EDGE_CLAMP n)
  seg := d.get (SEQ.SEG_NUM n)
  play := (d.eng n).play
  issued := (d.eng n).issued
  mask := (d.eng n).mask
  active := (d.tset n).active
  elapsed := d.elapsed
  alarms := d.flt.alarms

/-- The registers of the view, where another frame says what engines do. -/
theorem Dev.vecView_of {n : Nat} {d d' : Dev} (hr : ∀ a, vecReg n a → d'.reg a = d.reg a) (play : (d'.eng n).play = (d.eng n).play)
    (issued : (d'.eng n).issued = (d.eng n).issued) (mask : (d'.eng n).mask = (d.eng n).mask)
    (active : (d'.tset n).active = (d.tset n).active) (elapsed : d'.elapsed = d.elapsed) (alarms : d'.flt.alarms = d.flt.alarms) :
    d'.vecView n = d.vecView n := by
  have get {f : Fld} (h0 : vecReg n f.addr) (h4 : vecReg n (f.addr + 4) ∨ f.w ≠ 64) : d'.get f = d.get f := by
    rcases h4 with h4 | hw
    · exact Dev.get_of_regs (hr _ h0) (hr _ h4)
    · exact Dev.get_of_dword hw (hr _ h0)
  unfold Dev.vecView
  rw [get (f := SEQ.VEC_NUM n) (by simp [vecReg, SEQ.VEC_NUM]) (.inl (by simp [vecReg, SEQ.VEC_NUM]; omega)),
    get (f := SEQ.STATUS_PC n) (by simp [vecReg, SEQ.STATUS_PC]) (.inr (by simp [SEQ.STATUS_PC])),
    get (f := SEQ.STREAM_POS n) (by simp [vecReg, SEQ.STREAM_POS]) (.inl (by simp [vecReg, SEQ.STREAM_POS]; omega)),
    get (f := SEQ.SYMBOL_ERR n) (by simp [vecReg, SEQ.SYMBOL_ERR]) (.inr (by simp [SEQ.SYMBOL_ERR])),
    get (f := TSET.EDGE_CLAMP n) (by simp [vecReg, TSET.EDGE_CLAMP]) (.inr (by simp [TSET.EDGE_CLAMP])),
    get (f := SEQ.SEG_NUM n) (by simp [vecReg, SEQ.SEG_NUM]) (.inr (by simp [SEQ.SEG_NUM])),
    play, issued, mask, active, elapsed, alarms]

/-- An operation of another unit leaves the view. -/
theorem Dev.Keeps.vecView {A E : Nat → Prop} {d d' : Dev} {n : Nat} (h : d.Keeps A E d') (hA : ∀ a, vecReg n a → A a) (hE : E n) :
    d'.vecView n = d.vecView n := by
  have eng := h.eng n hE
  exact Dev.vecView_of (fun a ha => h.reg a (hA a ha)) (by rw [eng]) (by rw [eng]) (by rw [eng]) (by rw [h.tset n hE]) h.elapsed h.alarms

theorem Dev.vecView_until (d : Dev) (t n : Nat) : (d.until t).vecView n = { d.vecView n with elapsed := max d.elapsed t } := by
  have alarms : (d.until t).flt.alarms = d.flt.alarms := by
    unfold Dev.until
    split_ifs
    · rfl
    · rfl
  simp only [Dev.vecView, Dev.until_get, Dev.until_eng, Dev.until_tset, Dev.until_elapsed, alarms]

theorem Dev.vecView_modEng (d : Dev) (n : Nat) (f : EngSt → EngSt) : (d.modEng n f).vecView n =
    { d.vecView n with play := (f (d.eng n)).play, issued := (f (d.eng n)).issued, mask := (f (d.eng n)).mask } := by
  unfold Dev.vecView
  rw [Dev.eng_modEng_self]
  rfl

/-- Another field of STATUS, below PC, is written. -/
theorem Dev.vecView_putStatus (d : Dev) {n l w : Nat} (hn : n < 4) (v : Nat) (h : l + w ≤ 16) :
    (d.put ⟨0x100010 + 0x10000 * n, l, w⟩ v).vecView n = d.vecView n := by
  unfold Dev.vecView
  simp (disch := omega) only [SEQ.VEC_NUM, SEQ.STATUS_PC, SEQ.STREAM_POS, SEQ.SYMBOL_ERR, TSET.EDGE_CLAMP, SEQ.SEG_NUM,
    Dev.get_put_word, Dev.get_put_bits, Dev.get_wide_put, Dev.put_elapsed, Dev.put_flt, Dev.eng, Dev.tset, Dev.put_engs, Dev.put_tsets]

theorem Dev.vecView_putPc (d : Dev) {n : Nat} (hn : n < 4) (v : Nat) :
    (d.put (SEQ.STATUS_PC n) v).vecView n = { d.vecView n with pc := v % 2 ^ 14 } := by
  unfold Dev.vecView
  simp (disch := omega) only [SEQ.VEC_NUM, SEQ.STATUS_PC, SEQ.STREAM_POS, SEQ.SYMBOL_ERR, TSET.EDGE_CLAMP, SEQ.SEG_NUM,
    Dev.get_put_word, Dev.get_put_field, Dev.get_wide_put, Dev.put_elapsed, Dev.put_flt, Dev.eng, Dev.tset, Dev.put_engs, Dev.put_tsets]

theorem Dev.vecView_putSeg (d : Dev) {n : Nat} (hn : n < 4) (v : Nat) :
    (d.put (SEQ.SEG_NUM n) v).vecView n = { d.vecView n with seg := v % 2 ^ 32 } := by
  unfold Dev.vecView
  simp (disch := omega) only [SEQ.VEC_NUM, SEQ.STATUS_PC, SEQ.STREAM_POS, SEQ.SYMBOL_ERR, TSET.EDGE_CLAMP, SEQ.SEG_NUM,
    Dev.get_put_word, Dev.get_put_field, Dev.get_wide_put, Dev.put_elapsed, Dev.put_flt, Dev.eng, Dev.tset, Dev.put_engs, Dev.put_tsets]

theorem Dev.get_put_wides (d : Dev) {a b l l' : Nat} (v : Nat) (h : b ≠ a) (h4 : b ≠ a + 4) (h4' : b + 4 ≠ a) :
    (d.put ⟨a, l, 64⟩ v).get ⟨b, l', 64⟩ = d.get ⟨b, l', 64⟩ := d.get_put_apart v (.inl ⟨h, .inl h4, .inl h4'⟩)

theorem Dev.vecView_putVec (d : Dev) {n : Nat} (hn : n < 4) (v : Nat) :
    (d.put (SEQ.VEC_NUM n) v).vecView n = { d.vecView n with vec := v % 2 ^ 64 } := by
  unfold Dev.vecView
  rw [Dev.get_put_pair _ _ _ rfl]
  simp (disch := omega) only [SEQ.VEC_NUM, SEQ.STATUS_PC, SEQ.STREAM_POS, SEQ.SYMBOL_ERR, TSET.EDGE_CLAMP, SEQ.SEG_NUM,
    Dev.get_put_wide, Dev.get_put_wides, Dev.put_elapsed, Dev.put_flt, Dev.eng, Dev.tset, Dev.put_engs, Dev.put_tsets]

theorem Dev.vecView_putPos (d : Dev) {n : Nat} (hn : n < 4) (v : Nat) :
    (d.put (SEQ.STREAM_POS n) v).vecView n = { d.vecView n with pos := v % 2 ^ 64 } := by
  unfold Dev.vecView
  rw [Dev.get_put_pair _ (SEQ.STREAM_POS n) _ rfl]
  simp (disch := omega) only [SEQ.VEC_NUM, SEQ.STATUS_PC, SEQ.STREAM_POS, SEQ.SYMBOL_ERR, TSET.EDGE_CLAMP, SEQ.SEG_NUM,
    Dev.get_put_wide, Dev.get_put_wides, Dev.put_elapsed, Dev.put_flt, Dev.eng, Dev.tset, Dev.put_engs, Dev.put_tsets]

theorem Dev.vecView_emit (d : Dev) (n c t : Nat) (x : List Byte) : (d.emit c t x).vecView n = d.vecView n :=
  (Dev.Keeps.emit (A := vecReg n) (E := fun _ => True) (.refl d) c t x).vecView (fun _ => id) trivial

theorem Dev.vecView_ite {p : Prop} [Decidable p] {x y : Dev} {n : Nat} {v : VecView} (hx : x.vecView n = v) (hy : y.vecView n = v) :
    (if p then x else y).vecView n = v := by
  split_ifs
  · exact hx
  · exact hy

/-! ### First-play effects (R76, R77) -/

/-- TS_COMMIT of a word acts (R137). -/
def Dev.commitSets (n : Nat) (p : Play) (d : Dev) : Dev :=
  match p.commit with
  | some c => (d.modTset n fun t => { t with active := c }).bump (TSET.COMMIT_COUNT n)
  | none => d

/-- Pulses that the word asks of trigger lines (R73, R81). -/
def Dev.wordTriggers (n : Nat) (p : Play) (d : Dev) : Dev :=
  let d := if p.word.segStart && d.on (SEQ.SEG_TRIG_EN n) then d.trigFromEngine n p.addr (d.get (SEQ.SEG_TRIG_LINE n)) else d
  if 8 ≤ p.word.trig then d.trigFromEngine n p.addr (p.word.trig - 8) else d

/-- Its segment, mask and MARK record. -/
def Dev.wordShows (n : Nat) (p : Play) (d : Dev) : Dev :=
  let d := if p.word.segStart then d.segmentStart n p else d
  let d := d.modEng n fun e => { e with mask := p.progMask }
  if p.word.stamp = 0 then d else d.emit (0x10 + n) 0x22 (leBytes 1 p.word.stamp ++ leBytes 8 p.vec ++ leBytes 2 p.addr)

/-- What it asks of acquisition, load strobes and measurements (R73). -/
def Dev.wordOps (n : Nat) (p : Play) (d : Dev) : Dev :=
  let d := d.capOp n p.word.capOp (16 * stepOf p.start)
  let d := if p.word.dacOp = 0 then d else d.strobe (dacGroups p.word.dacOp) (p.shadow.getD d.regs)
  d.tiaOp n p.word.tiaOp

theorem Dev.firstEffects_eq (n : Nat) (p : Play) (d : Dev) :
    d.firstEffects n p = (((d.commitSets n p).wordShows n p).wordTriggers n p).wordOps n p := rfl

section Effects
variable {n : Nat} (p : Play) (d : Dev)

theorem Dev.vecView_commitSets :
    (d.commitSets n p).vecView n = { d.vecView n with active := p.commit.getD (d.vecView n).active } := by
  unfold Dev.commitSets
  split
  · next c hc =>
    have count : ((d.modTset n fun t => { t with active := c }).bump (TSET.COMMIT_COUNT n)).vecView n =
        (d.modTset n fun t => { t with active := c }).vecView n :=
      Dev.Keeps.vecView (A := vecReg n) (E := fun _ => True) ((Dev.Keeps.refl _).bumpBy 1 fun a ha => by
        simp only [vecReg, TSET.COMMIT_COUNT] at *; omega) (fun _ => id) trivial
    rw [count, hc]
    unfold Dev.vecView
    rw [Dev.tset_modTset_self]
    rfl
  · next hc => rw [hc]; rfl

/-- Bits of SEGF lie apart from the view. -/
theorem Dev.Keeps.putSegf {n : Nat} {E : Nat → Prop} {a d : Dev} (h : a.Keeps (vecReg n) E d) (k : Nat) (b : Bool) :
    a.Keeps (vecReg n) E (d.putSiteBit FCAP.SEGF k b) :=
  h.put _ fun x hx => by simp only [vecReg, FCAP.SEGF] at *; omega

theorem Dev.vecView_segmentStart (hn : n < 4) : (d.segmentStart n p).vecView n = { d.vecView n with seg := p.seg % 2 ^ 32 } := by
  have sites {a : Dev} (l : List Nat) : a.Keeps (vecReg n) (fun _ => True) (a.each l fun k => Dev.putSiteBit FCAP.SEGF k false) :=
    (Dev.Keeps.refl a).each _ _ fun k _ _ hd => hd.putSegf k false
  have ahead {a : Dev} (l : List (Nat × Nat)) :
      a.Keeps (vecReg n) (fun _ => True) (a.each l fun x => Dev.putSiteBit FCAP.SEGF x.2 true) :=
    (Dev.Keeps.refl a).each _ _ fun x _ _ hd => hd.putSegf x.2 true
  unfold Dev.segmentStart
  dsimp only
  rw [Dev.vecView_modEng]
  refine Eq.trans (b := Dev.vecView n (Dev.each _ _ _)) rfl ?_
  rw [(ahead _).vecView (fun _ => id) trivial, (sites _).vecView (fun _ => id) trivial, Dev.vecView_modEng]
  refine Eq.trans (b := Dev.vecView n (Dev.emit _ _ _ _)) rfl ?_
  rw [Dev.vecView_emit, Dev.vecView_putSeg _ hn, Dev.vecView_ite (d.vecView_emit n _ _ _) rfl]

theorem Dev.vecView_setMask (m : Nat) : (d.modEng n fun e => { e with mask := m }).vecView n = { d.vecView n with mask := m } :=
  d.vecView_modEng n _

theorem Dev.vecView_wordShows (hn : n < 4) : (d.wordShows n p).vecView n =
    { d.vecView n with seg := if p.word.segStart then p.seg % 2 ^ 32 else (d.vecView n).seg, mask := p.progMask } := by
  have segment : (if p.word.segStart then d.segmentStart n p else d).vecView n =
      { d.vecView n with seg := if p.word.segStart then p.seg % 2 ^ 32 else (d.vecView n).seg } := by
    split_ifs
    · exact d.vecView_segmentStart p hn
    · rfl
  have masked := Dev.vecView_setMask (n := n) (if p.word.segStart then d.segmentStart n p else d) p.progMask
  rw [segment] at masked
  exact Dev.vecView_ite masked ((Dev.vecView_emit _ _ _ _ _).trans masked)

theorem Dev.Keeps.modLine {A E : Nat → Prop} {a d : Dev} (h : a.Keeps A E d) (l : Nat) (f : LineSt → LineSt) : a.Keeps A E (d.modLine l f) :=
  h.trans ⟨rfl, rfl, rfl, fun _ _ => rfl, rfl, fun _ _ => rfl, fun _ _ => rfl, fun _ _ => rfl⟩

theorem Dev.vecView_trigFromEngine (hn : n < 4) (pc line : Nat) : (d.trigFromEngine n pc line).vecView n = d.vecView n := by
  have pulse : d.Keeps (vecReg n) (fun _ => True) (d.trigPulse line) := .ite (.refl d) ((Dev.Keeps.refl d).modLine _ _)
  have denied (e : Dev) : e.Keeps (vecReg n) (fun _ => True) (e.trigDenied line n pc) :=
    Dev.Keeps.noticeOf (.refl e) _ (by split_ifs <;> simp [plainDetection])
  exact Dev.vecView_ite (pulse.vecView (fun _ => id) trivial)
    (((denied _).vecView (fun _ => id) trivial).trans (d.vecView_putStatus hn 1 (by decide)))

theorem Dev.vecView_wordTriggers (hn : n < 4) : (d.wordTriggers n p).vecView n = d.vecView n := by
  have segment := Dev.vecView_ite (p := (p.word.segStart && d.on (SEQ.SEG_TRIG_EN n)) = true)
    (d.vecView_trigFromEngine hn p.addr (d.get (SEQ.SEG_TRIG_LINE n))) rfl
  exact Dev.vecView_ite ((Dev.vecView_trigFromEngine _ hn _ _).trans segment) segment

theorem Dev.vecView_wordOps (hn : n < 4) : (d.wordOps n p).vecView n = d.vecView n := by
  have cap : d.Keeps inner (fun _ => True) (d.capOp n p.word.capOp (16 * stepOf p.start)) := Dev.Keeps.capOp (fun _ => id) (.refl d) _ _ _
  exact ((cap.ite (cap.strobe (fun _ => id) _ _)).tiaOp (fun _ => id) n _).vecView (fun _ h => h.inner hn) trivial

theorem Dev.vecView_firstEffects (hn : n < 4) : (d.firstEffects n p).vecView n =
    { d.vecView n with
      seg := if p.word.segStart then p.seg % 2 ^ 32 else (d.vecView n).seg
      mask := p.progMask
      active := p.commit.getD (d.vecView n).active } := by
  rw [Dev.firstEffects_eq, Dev.vecView_wordOps _ _ hn, Dev.vecView_wordTriggers _ _ hn, Dev.vecView_wordShows _ _ hn,
    Dev.vecView_commitSets]

end Effects

/-! ### What the vector's scheduling found (R103, R144) -/

theorem Dev.vecView_firstEvent (d : Dev) (n k v x : Nat) : (d.firstEvent n k v x).vecView n = d.vecView n := by
  have noticed (e : Dev) (bs : List Byte) : (e.notice 0x3005 (0x10 + n) bs).vecView n = e.vecView n :=
    (Dev.Keeps.notice (A := vecReg n) (E := fun _ => True) (.refl e) _ _ bs (by decide)).vecView (fun _ => id) trivial
  exact Dev.vecView_ite rfl ((noticed _ _).trans (Dev.vecView_modEng _ _ _))

theorem Dev.vecView_bumpErr (d : Dev) {n : Nat} (hn : n < 4) :
    (d.bump (SEQ.SYMBOL_ERR n)).vecView n = { d.vecView n with err := min (2 ^ 32 - 1) ((d.vecView n).err + 1) } := by
  have count : (d.bump (SEQ.SYMBOL_ERR n)).get (SEQ.SYMBOL_ERR n) = _ := d.get_bumpBy_self (SEQ.SYMBOL_ERR n) 1 (by simp [SEQ.SYMBOL_ERR])
  unfold Dev.vecView
  rw [count]
  unfold Dev.bump Dev.bumpBy
  simp (disch := omega) only [SEQ.VEC_NUM, SEQ.STATUS_PC, SEQ.STREAM_POS, SEQ.SYMBOL_ERR, TSET.EDGE_CLAMP, SEQ.SEG_NUM,
    Dev.get_put_word, Dev.get_wide_put, Dev.put_elapsed, Dev.put_flt, Dev.eng, Dev.tset, Dev.put_engs, Dev.put_tsets]

theorem Dev.vecView_bumpClamp (d : Dev) {n : Nat} (hn : n < 4) :
    (d.bump (TSET.EDGE_CLAMP n)).vecView n = { d.vecView n with clamp := min (2 ^ 32 - 1) ((d.vecView n).clamp + 1) } := by
  have count : (d.bump (TSET.EDGE_CLAMP n)).get (TSET.EDGE_CLAMP n) = _ := d.get_bumpBy_self (TSET.EDGE_CLAMP n) 1 (by simp [TSET.EDGE_CLAMP])
  unfold Dev.vecView
  rw [count]
  unfold Dev.bump Dev.bumpBy
  simp (disch := omega) only [SEQ.VEC_NUM, SEQ.STATUS_PC, SEQ.STREAM_POS, SEQ.SYMBOL_ERR, TSET.EDGE_CLAMP, SEQ.SEG_NUM,
    Dev.get_put_word, Dev.get_wide_put, Dev.put_elapsed, Dev.put_flt, Dev.eng, Dev.tset, Dev.put_engs, Dev.put_tsets]

theorem saturate_add (m a k : Nat) : min m (min m (a + 1) + k) = min m (a + (k + 1)) := by omega

section Counts
variable {n : Nat} (hn : n < 4)
include hn

theorem Dev.vecView_symErrs (vec : Nat) (l : List Nat) (d : Dev) :
    (d.each l fun pos d => (d.bump (SEQ.SYMBOL_ERR n)).firstEvent n 0 vec pos).vecView n =
      { d.vecView n with err := min (2 ^ 32 - 1) ((d.vecView n).err + l.length) } := by
  induction l generalizing d with
  | nil =>
    have bound : d.get (SEQ.SYMBOL_ERR n) < 2 ^ 32 := d.get_lt_of_dword (by simp [SEQ.SYMBOL_ERR])
    have stays : min (2 ^ 32 - 1) ((d.vecView n).err + 0) = (d.vecView n).err := Nat.min_eq_right (Nat.le_sub_one_of_lt bound)
    rw [List.length_nil, stays]; rfl
  | cons x l ih =>
    refine (ih _).trans ?_
    rw [Dev.vecView_firstEvent, Dev.vecView_bumpErr d hn, List.length_cons]
    exact congrArg (fun k => { d.vecView n with err := k }) (saturate_add _ _ _)

theorem Dev.vecView_clamps (vec : Nat) (l : List Nat) (d : Dev) :
    (d.each l fun c d => (d.bump (TSET.EDGE_CLAMP n)).firstEvent n 5 vec c).vecView n =
      { d.vecView n with clamp := min (2 ^ 32 - 1) ((d.vecView n).clamp + l.length) } := by
  induction l generalizing d with
  | nil =>
    have bound : d.get (TSET.EDGE_CLAMP n) < 2 ^ 32 := d.get_lt_of_dword (by simp [TSET.EDGE_CLAMP])
    have stays : min (2 ^ 32 - 1) ((d.vecView n).clamp + 0) = (d.vecView n).clamp := Nat.min_eq_right (Nat.le_sub_one_of_lt bound)
    rw [List.length_nil, stays]; rfl
  | cons x l ih =>
    refine (ih _).trans ?_
    rw [Dev.vecView_firstEvent, Dev.vecView_bumpClamp d hn, List.length_cons]
    exact congrArg (fun k => { d.vecView n with clamp := k }) (saturate_add _ _ _)

omit hn in
theorem Dev.vecView_ranges (vec : Nat) (l : List (Nat × Nat)) (d : Dev) :
    (d.each l fun x d => (d.bumpBy (TSET.EDGE_RANGE n) x.2).firstEvent n 3 vec x.1).vecView n = d.vecView n := by
  refine Dev.each_keeps (P := fun e => e.vecView n = d.vecView n) _ _ _ rfl fun x _ e he => ?_
  have counted : (e.bumpBy (TSET.EDGE_RANGE n) x.2).vecView n = e.vecView n :=
    ((Dev.Keeps.refl (A := vecReg n) (E := fun _ => True) e).bumpBy x.2 fun a ha => by
      simp only [vecReg, TSET.EDGE_RANGE] at *; omega).vecView (fun _ => id) trivial
  rw [Dev.vecView_firstEvent, counted, he]

theorem Dev.vecView_playCounts (p : Play) (d : Dev) : (d.playCounts n p).vecView n =
    { d.vecView n with
      err := min (2 ^ 32 - 1) ((d.vecView n).err + p.symErr.length)
      clamp := min (2 ^ 32 - 1) ((d.vecView n).clamp + p.clamped.length) } := by
  refine (Dev.vecView_clamps hn p.vec p.clamped _).trans ?_
  have ranges := Dev.vecView_ranges (n := n) p.vec p.ranged
    (d.each p.symErr fun pos d => (d.bump (SEQ.SYMBOL_ERR n)).firstEvent n 0 p.vec pos)
  rw [Dev.vecView_symErrs hn] at ranges
  exact congrArg (fun v : VecView => { v with clamp := min (2 ^ 32 - 1) (v.clamp + p.clamped.length) }) ranges

end Counts

/-! ### The start -/

/-- The engine's play is a vector that starts. -/
def EngSt.enter (p : Play) (rest : List Play) (e : EngSt) : EngSt :=
  { e with issued := rest, play := some p, arch := p.arch.getD e.arch, lastTs := p.word.tsel, holdDue := none
           stopped := false }

/-- The registers show it. -/
def Dev.showPlay (n : Nat) (p : Play) (d : Dev) : Dev :=
  let d := (d.put (SEQ.VEC_NUM n) p.vec).put (SEQ.STATUS_PC n) p.addr
  let d := d.put (SEQ.STATUS_DEPTH n) (d.eng n).arch.stack.length
  if p.stream then d.put (SEQ.STREAM_POS n) (d.get (SEQ.STREAM_POS n) + 1) else d

/-- The vector shows as the one in play. -/
def Dev.showVector (n : Nat) (p : Play) (rest : List Play) (d : Dev) : Dev := (d.modEng n (EngSt.enter p rest)).showPlay n p

/-- The dwords of the registers that show it. -/
abbrev playDwords (n : Nat) : List Nat :=
  [(SEQ.VEC_NUM n).addr, (SEQ.VEC_NUM n).addr + 4, (SEQ.STATUS_PC n).addr, (SEQ.STREAM_POS n).addr, (SEQ.STREAM_POS n).addr + 4]

theorem Dev.wrote_showPlay (n : Nat) (p : Play) (d : Dev) : d.Wrote (playDwords n) (d.showPlay n p) := by
  have status {l w : Nat} (a : Dev) (v : Nat) (hw : w ≠ 64) : a.Wrote (playDwords n) (a.put ⟨0x100010 + 0x10000 * n, l, w⟩ v) :=
    a.wrote_put_mem v (by simp [SEQ.STATUS_PC]) hw
  have vec : d.Wrote (playDwords n) (d.put (SEQ.VEC_NUM n) p.vec) := (d.wrote_put _ _).mono (by simp)
  have shown := (vec.trans (status (l := 16) (w := 14) _ p.addr (by decide))).trans
    (status (l := 9) (w := 4) _ (((d.put (SEQ.VEC_NUM n) p.vec).put (SEQ.STATUS_PC n) p.addr).eng n).arch.stack.length (by decide))
  unfold Dev.showPlay
  dsimp only
  split_ifs
  · exact shown.trans ((Dev.wrote_put _ (SEQ.STREAM_POS n) _).mono (by simp))
  · exact shown

section Start
variable {d : Dev} {n : Nat} {p : Play} {rest : List Play}

theorem Dev.vectorStart_eq (issued : (d.eng n).issued = p :: rest) (run : d.engState n = seqRunning) :
    let e := d.until (d.gridElapsed p.start)
    d.vectorStart n = ((if p.first then (e.showVector n p rest).firstEffects n p else e.showVector n p rest).holdRecord n p.addr
      (e.eng n).holdDue).playCounts n p := by
  unfold Dev.vectorStart
  rw [issued]
  exact if_neg (not_not.2 run)

theorem Dev.vecView_showVector (hn : n < 4) : (d.showVector n p rest).vecView n =
    { d.vecView n with
      vec := p.vec % 2 ^ 64
      pc := p.addr % 2 ^ 14
      pos := if p.stream then ((d.vecView n).pos + 1) % 2 ^ 64 else (d.vecView n).pos
      play := some p
      issued := rest } := by
  set e := d.modEng n (EngSt.enter p rest) with he
  have base : e.vecView n = { d.vecView n with play := some p, issued := rest } := d.vecView_modEng n _
  set f := ((e.put (SEQ.VEC_NUM n) p.vec).put (SEQ.STATUS_PC n) p.addr).put (SEQ.STATUS_DEPTH n)
    (((e.put (SEQ.VEC_NUM n) p.vec).put (SEQ.STATUS_PC n) p.addr).eng n).arch.stack.length with hf
  have shown : f.vecView n = { d.vecView n with vec := p.vec % 2 ^ 64, pc := p.addr % 2 ^ 14, play := some p, issued := rest } := by
    rw [hf, SEQ.STATUS_DEPTH, Dev.vecView_putStatus _ hn _ (by decide), Dev.vecView_putPc _ hn, Dev.vecView_putVec _ hn, base]
  show Dev.vecView n (if p.stream then f.put (SEQ.STREAM_POS n) (f.get (SEQ.STREAM_POS n) + 1) else f) = _
  have pos : f.get (SEQ.STREAM_POS n) = d.get (SEQ.STREAM_POS n) := congrArg VecView.pos shown
  by_cases hs : p.stream = true
  · rw [if_pos hs, if_pos hs, Dev.vecView_putPos _ hn, shown, pos]; rfl
  · rw [if_neg hs, if_neg hs, shown]

/-- A vector's start (R76, R77, R103, R115, R144). -/
theorem Dev.vecView_vectorStart (hn : n < 4) (issued : (d.eng n).issued = p :: rest) (run : d.engState n = seqRunning) :
    (d.vectorStart n).vecView n =
      { vec := p.vec % 2 ^ 64
        pc := p.addr % 2 ^ 14
        pos := if p.stream then (d.get (SEQ.STREAM_POS n) + 1) % 2 ^ 64 else d.get (SEQ.STREAM_POS n)
        err := min (2 ^ 32 - 1) (d.get (SEQ.SYMBOL_ERR n) + p.symErr.length)
        clamp := min (2 ^ 32 - 1) (d.get (TSET.EDGE_CLAMP n) + p.clamped.length)
        seg := if p.first = true ∧ p.word.segStart = true then p.seg % 2 ^ 32 else d.get (SEQ.SEG_NUM n)
        play := some p
        issued := rest
        mask := if p.first then p.progMask else (d.eng n).mask
        active := if p.first then p.commit.getD (d.tset n).active else (d.tset n).active
        elapsed := max d.elapsed (d.gridElapsed p.start)
        alarms := d.flt.alarms } := by
  have record (e : Dev) (pc : Nat) (h : Option HoldSt) : (e.holdRecord n pc h).vecView n = e.vecView n := by
    unfold Dev.holdRecord
    split
    · rfl
    · exact e.vecView_emit n _ _ _
  rw [Dev.vectorStart_eq issued run, Dev.vecView_playCounts hn, record]
  by_cases first : p.first = true
  · rw [if_pos first, Dev.vecView_firstEffects _ _ hn, Dev.vecView_showVector hn, Dev.vecView_until]
    simp only [first, true_and, if_true]; rfl
  · rw [if_neg first, Dev.vecView_showVector hn, Dev.vecView_until]
    have seg : ¬ (p.first = true ∧ p.word.segStart = true) := fun h => first h.1
    rw [if_neg first, if_neg first, if_neg seg]; rfl

/-- A vector that is no first play, with nothing to count, leaves all but its engine's own registers and state. -/
theorem Dev.vectorStart_later (issued : (d.eng n).issued = p :: rest) (run : d.engState n = seqRunning) (later : p.first = false)
    (errs : p.symErr = []) (ranged : p.ranged = []) (clamped : p.clamped = []) :
    (d.until (d.gridElapsed p.start)).ByEngine n (playDwords n) (d.vectorStart n) := by
  have counts (f : Dev) : f.playCounts n p = f := by unfold Dev.playCounts; rw [errs, ranged, clamped]; rfl
  rw [Dev.vectorStart_eq issued run, counts, later, if_neg Bool.false_ne_true]
  exact ((Dev.byEngine_modEng _ n _ _).trans ((Dev.wrote_showPlay n p _).byEngine n)).trans
    (((Dev.same_holdRecord _ _ _ _).wrote _).byEngine n)

end Start


end Sys2Proof.Machine
end


/-! ## Programs end, holds begin and end, and the obligation (O21) -/
section
namespace Sys2Proof.Machine

section Events
variable (n : Eng) (s : State)

theorem exec_vectorStart : exec (.vectorStart n) s = .next { s with dev := (s.dev.vectorStart n.val).settle } := rfl

theorem exec_programEnd : exec (.programEnd n) s = .next { s with dev := s.dev.programEnd n.val } := rfl

theorem exec_holdBegin : exec (.holdBegin n) s = .next { s with dev := s.dev.holdBegin s.mem n.val } := rfl

theorem exec_holdEnd : exec (.holdEnd n) s = .next { s with dev := (s.dev.holdEnd n.val).settle } := rfl

theorem exec_holdLimitExpiry : exec (.holdLimitExpiry n) s = .next { s with dev := (s.dev.holdLimit n.val).settle } := rfl

end Events

theorem Dev.modEng_get (d : Dev) (n : Nat) (f : EngSt → EngSt) (g : Fld) : (d.modEng n f).get g = d.get g := rfl

/-! ### The program ends (R89, R122) -/

/-- The engine's state after its program. -/
def EngSt.halt (e : EngSt) : EngSt := { e with play := none, after := .idle, abortReq := none, holdDue := none }

/-- The program has ended: its last decision takes effect and the engine shows IDLE. -/
def Dev.haltShow (n last : Nat) (d : Dev) : Dev := ((d.landDecision n).modEng n EngSt.halt).endShow n last

section End
variable {d : Dev} {n : Nat}

theorem Dev.programEnd_eq {b : Bool} (ha : (d.eng n).after = .halt b) (run : d.engState n = seqRunning)
    (issued : (d.eng n).issued = []) :
    let e := d.until (d.gridElapsed (d.eng n).earliest)
    ∃ bs, d.programEnd n =
      (((e.haltShow n (if b then 3 else 1)).emit (0x10 + n) 0x21 bs).fcapEnd n).applyEndState n (e.eng n).earliest := by
  unfold Dev.programEnd
  rw [ha]
  exact ⟨_, if_neg (by simp [run, issued])⟩

theorem Dev.applyEndState_keeps (d : Dev) (n x : Nat) : d.Keeps (fun _ => True) noEng (d.applyEndState n x) := by
  have refl : d.Keeps (fun _ => True) noEng d := .refl d
  unfold Dev.applyEndState
  split_ifs
  · exact refl
  · split
    · exact (refl.each _ _ fun _ _ _ hd => hd.modPin _ _).modEng _ id
    · exact refl.modEng _ id
    · exact refl.modEng _ id

theorem Dev.haltShow_elapsed (d : Dev) (n last : Nat) : (d.haltShow n last).elapsed = d.elapsed := by
  unfold Dev.haltShow Dev.endShow
  rw [Dev.put_elapsed, Dev.put_elapsed, (Dev.engGo_byEngine (by decide)).elapsed]
  exact d.landDecision_elapsed n

/-- HALT (R89): IDLE with LAST_END, and the end-of-run drain begins. -/
theorem Dev.programEnd_spec {b : Bool} (ha : (d.eng n).after = .halt b) (run : d.engState n = seqRunning)
    (issued : (d.eng n).issued = []) :
    (d.programEnd n).engState n = seqIdle ∧ (d.programEnd n).get (SEQ.STATUS_LAST_END n) = (if b then 3 else 1) ∧
      (d.programEnd n).on (FCAP.ENG_STATUS_DRAINING n) = true ∧
      (d.programEnd n).elapsed = max d.elapsed (d.gridElapsed (d.eng n).earliest) := by
  obtain ⟨bs, e⟩ := Dev.programEnd_eq ha run issued
  have last : (if b then 3 else 1) < 4 := by split_ifs <;> decide
  set c := (d.until (d.gridElapsed (d.eng n).earliest)).haltShow n (if b then 3 else 1) with hc
  set f := (c.emit (0x10 + n) 0x21 bs).fcapEnd n with hf
  have shown : c.engState n = seqIdle ∧ c.get (SEQ.STATUS_LAST_END n) = _ := Dev.endShow_spec _ n last
  have drains : c.Keeps (stopReg n) noEng f :=
    (Dev.Keeps.emit (.refl c) _ _ _).trans ((Dev.fcapEnd_keeps _ n).mono (fun _ => id) fun _ => False.elim)
  have ends := f.applyEndState_keeps n ((d.until (d.gridElapsed (d.eng n).earliest)).eng n).earliest
  have all : c.Keeps (stopReg n) noEng (d.programEnd n) := by rw [e]; exact drains.trans (ends.mono (fun _ _ => trivial) fun _ => id)
  refine ⟨?_, ?_, ?_, ?_⟩
  · exact (all.get (.inl rfl) (.inr (by simp [SEQ.STATUS_STATE]))).trans shown.1
  · exact (all.get (.inl rfl) (.inr (by simp [SEQ.STATUS_LAST_END]))).trans shown.2
  · have draining : f.on (FCAP.ENG_STATUS_DRAINING n) = true := Dev.on_put_bit _ _ true (by simp [FCAP.ENG_STATUS_DRAINING]) rfl
    rw [e]
    unfold Dev.on at *
    rwa [ends.get trivial (.inl trivial)]
  · exact all.elapsed.trans ((Dev.haltShow_elapsed _ _ _).trans (Dev.until_elapsed _ _))

end End

/-! ### Holds (R124, R126, R127) -/

section Hold
variable {d : Dev} {n : Nat}

/-- The engine shows HOLDING, and the hold counts. -/
def Dev.holdShow (n : Nat) (d : Dev) : Dev := ((d.engGo n seqHolding).landDecision n).bump (SEQ.HOLD_COUNT n)

/-- The engine's state in a hold at a missed start. -/
def EngSt.startHold (h : HoldSt) (start : Nat) (e : EngSt) : EngSt :=
  { e with under := none, idleNext := some start, stopped := true, hold := some h }

theorem Dev.holdBegin_eq {m : Mem} {x : Nat} {w : Todo} (hu : (d.eng n).under = some x) (ha : (d.eng n).after = .issue w)
    (run : d.engState n = seqRunning) (req : (d.eng n).abortReq = none) (issued : (d.eng n).issued = [])
    (src : (m.word n w.addr).vsrc = 0) (pending : d.on (SEQ.STATUS_PAUSE_PENDING n) = false) :
    ∃ h c f p t fl bs, d.holdBegin m n =
      (((d.until (d.gridElapsed x)).holdShow n).modEng n (EngSt.startHold h x)).emitAt c f p t fl bs := by
  unfold Dev.holdBegin
  rw [hu, ha]
  exact ⟨_, _, _, _, _, _, _, if_neg (by simp [run, req, issued, src, pending])⟩

theorem Dev.holdShow_spec (d : Dev) (n : Nat) :
    (d.holdShow n).engState n = seqHolding ∧
      (d.holdShow n).get (SEQ.HOLD_COUNT n) = min (2 ^ 32 - 1) (d.get (SEQ.HOLD_COUNT n) + 1) ∧
      d.ByEngine n [(SEQ.STATUS_STATE n).addr, (SEQ.HOLD_COUNT n).addr] (d.holdShow n) := by
  have hl : seqHolding ≠ seqLoading := by decide
  set e := d.engGo n seqHolding with he
  have landed : d.ByEngine n [(SEQ.STATUS_STATE n).addr, (SEQ.HOLD_COUNT n).addr] (e.landDecision n) :=
    (((Dev.engGo_byEngine hl).mono (by simp)).trans (e.byEngine_modEng n _ _)).trans
      ((Dev.wrote_put_mem (a := 0x100010 + 0x10000 * n) (l := 9) (w := 4) _ _ (by simp [SEQ.STATUS_STATE]) (by decide)).byEngine n)
  have state : (e.landDecision n).engState n = seqHolding :=
    (Dev.get_put_bits _ _ (by omega) (by omega) (by omega)).trans (Dev.engGo_state hl (by decide))
  have count : (e.landDecision n).get (SEQ.HOLD_COUNT n) = d.get (SEQ.HOLD_COUNT n) :=
    (Dev.get_put_word _ _ (by omega) (by omega) (by omega)).trans (Dev.engGo_get_word hl (by omega) (by omega))
  refine ⟨?_, ?_, landed.trans (Dev.Wrote.byEngine ?_ n)⟩
  · exact (Dev.get_put_word _ _ (by omega) (by omega) (by omega)).trans state
  · exact ((e.landDecision n).get_bumpBy_self (SEQ.HOLD_COUNT n) 1 (by simp [SEQ.HOLD_COUNT])).trans (by rw [count]; rfl)
  · exact Dev.wrote_put_mem (a := 0x100124 + 0x10000 * n) (l := 0) (w := 32) _ _ (by simp [SEQ.HOLD_COUNT]) (by decide)

/-- HOLD_BEGIN (R124). -/
theorem Dev.holdBegin_spec {m : Mem} {x : Nat} {w : Todo} (hu : (d.eng n).under = some x) (ha : (d.eng n).after = .issue w)
    (run : d.engState n = seqRunning) (req : (d.eng n).abortReq = none) (issued : (d.eng n).issued = [])
    (src : (m.word n w.addr).vsrc = 0) (pending : d.on (SEQ.STATUS_PAUSE_PENDING n) = false) :
    let d' := d.holdBegin m n
    d'.engState n = seqHolding ∧ d'.get (SEQ.HOLD_COUNT n) = min (2 ^ 32 - 1) (d.get (SEQ.HOLD_COUNT n) + 1) ∧
      d'.elapsed = max d.elapsed (d.gridElapsed x) ∧ (d'.eng n).idleNext = some x ∧
      (d.until (d.gridElapsed x)).ByEngine n [(SEQ.STATUS_STATE n).addr, (SEQ.HOLD_COUNT n).addr] d' := by
  obtain ⟨h, c, f, p, t, fl, bs, e⟩ := Dev.holdBegin_eq hu ha run req issued src pending
  set a := d.until (d.gridElapsed x) with ha'
  obtain ⟨state, count, shown⟩ := a.holdShow_spec n
  have same := ((a.holdShow n).modEng n (EngSt.startHold h x)).same_emitAt c f p t fl bs
  have by_ := (shown.trans (Dev.byEngine_modEng _ n (EngSt.startHold h x) _)).trans ((same.wrote _).byEngine n)
  rw [e]
  refine ⟨?_, ?_, ?_, ?_, by_⟩
  · exact (same.engState n).trans ((Dev.modEng_get _ _ _ _).trans state)
  · rw [same.get, Dev.modEng_get, count, Dev.until_get]
  · exact by_.elapsed.trans (Dev.until_elapsed _ _)
  · rw [same.eng, Dev.eng_modEng_self]; rfl

/-- The engine's state after a hold. -/
def EngSt.endHold (earliest : Nat) (e : EngSt) : EngSt :=
  { e with earliest := earliest, idleNext := none, holdDue := e.hold, hold := none }

theorem Dev.holdEnd_eq {w : Todo} (ha : (d.eng n).after = .issue w) (holds : d.engState n = seqHolding)
    (recovered : d.streamRecovered n = true) (req : (d.eng n).abortReq = none) (left : d.holdExpired n = false) :
    d.holdEnd n = (d.modEng n (EngSt.endHold ((d.now + 128) * unit24))).engGo n seqRunning := by
  unfold Dev.holdEnd
  rw [ha]
  exact if_neg (by simp [holds, recovered, req, left])

theorem Dev.endHold_spec (d : Dev) (n x : Nat) :
    let d' := (d.modEng n (EngSt.endHold x)).engGo n seqRunning
    d'.engState n = seqRunning ∧ (d'.eng n).hold = none ∧ (d'.eng n).earliest = x ∧
      d.ByEngine n [(SEQ.STATUS_STATE n).addr] d' ∧ d'.flt.alarms = d.flt.alarms := by
  intro d'
  have hl : seqRunning ≠ seqLoading := by decide
  have eng : d'.eng n = EngSt.endHold x (d.eng n) := (Dev.engGo_eng hl n).trans (Dev.eng_modEng_self _ _ _)
  have keeps : d.Keeps noReg noEng d' := ((Dev.Keeps.refl d).modEng _ id).engGo (fun _ => False.elim) n seqRunning fun _ => False.elim
  exact ⟨Dev.engGo_state hl (by decide), by rw [eng]; rfl, by rw [eng]; rfl,
    (d.byEngine_modEng n _ _).trans (Dev.engGo_byEngine hl), keeps.alarms⟩

theorem Dev.holdLimit_eq {h : HoldSt} (hh : (d.eng n).hold = some h) (holds : d.engState n = seqHolding) :
    d.holdLimit n = (d.until (h.sinceElapsed + usTclk * d.get (SEQ.HOLD_LIMIT n))).engAbort n 4 true := by
  unfold Dev.holdLimit
  rw [hh]
  exact if_pos holds

end Hold

/-! ### The obligation -/

/-- Settles O21: a vector start by the view of its engine, the rest by the rules of each event. -/
theorem vectorsStartAndEnd : Obligations.VectorsStartAndEnd := by
  refine ⟨fun s n p rest issued run calm => ?_, fun s n calm => ⟨fun b after run issued => ?_,
    fun x w under after run req issued src pending => ?_, fun w after holds recovered req left => ?_, fun h hold holds => ?_⟩⟩
  · have view := Dev.vecView_vectorStart n.isLt issued run
    have quiet : (s.dev.vectorStart n.val).Calm := (congrArg VecView.alarms view).trans calm
    have start := exec_vectorStart n s
    rw [Dev.settle_calm quiet] at start
    refine ⟨_, start, rfl, (congrArg VecView.elapsed view).trans (Dev.until_elapsed _ _).symm, congrArg VecView.vec view,
      congrArg VecView.pc view, congrArg VecView.play view, congrArg VecView.issued view, (congrArg VecView.pos view).trans ?_,
      congrArg VecView.err view, congrArg VecView.clamp view, Dev.vectorStart_later issued run, fun first => ⟨?_, ?_, ?_⟩⟩
    · have bound := s.dev.get_lt_pair (f := SEQ.STREAM_POS n.val) rfl
      show (if p.stream then _ else _) = _
      split_ifs
      · rfl
      · exact (Nat.mod_eq_of_lt bound).symm
    · exact (congrArg VecView.mask view).trans (if_pos first)
    · refine (congrArg VecView.seg view).trans ?_
      simp only [first, true_and]
    · exact (congrArg VecView.active view).trans (if_pos first)
  · obtain ⟨idle, last, draining, time⟩ := Dev.programEnd_spec after run issued
    exact ⟨_, exec_programEnd n s, rfl, idle, last, draining, time⟩
  · obtain ⟨holding, count, time, next, by_⟩ := Dev.holdBegin_spec under after run req issued src pending
    exact ⟨_, exec_holdBegin n s, rfl, holding, count, time, next, by_⟩
  · obtain ⟨running, hold, earliest, by_, alarms⟩ := s.dev.endHold_spec n.val ((s.dev.now + 128) * unit24)
    have go := exec_holdEnd n s
    rw [Dev.holdEnd_eq after holds recovered req left, Dev.settle_calm (show Dev.Calm _ from alarms.trans calm)] at go
    exact ⟨_, go, rfl, running, hold, earliest, by_⟩
  · have still : (s.dev.until (h.sinceElapsed + usTclk * s.dev.get (SEQ.HOLD_LIMIT n.val))).runs n.val :=
      .inr (.inl ((s.dev.until_engState _ _).trans holds))
    obtain ⟨idle, last, shown, -, -, -, time, alarms, -⟩ := Dev.engAbort_spec still n.isLt (cause := 4) (by decide) true
    have stop := exec_holdLimitExpiry n s
    rw [Dev.holdLimit_eq hold holds, Dev.settle_calm (show Dev.Calm _ from alarms.trans (Dev.until_calm calm _))] at stop
    exact ⟨_, stop, rfl, idle, last, shown.1, time.trans (Dev.until_elapsed _ _)⟩

end Sys2Proof.Machine
end
